-- ==== Sys2Proof/Word.lean ====
section
/-! DEFINITION. The plain word types of the Graiq 9 and the association list that holds sparse state. -/
namespace Sys2Proof

/-- A 64-bit word: an instruction word, a scalar register, an address (R2, R37, R112). -/
abbrev Word := BitVec 64
/-- A byte of memory. -/
abbrev Byte := BitVec 8
/-- One bit for each of the 96 lanes: OWN, MASK, a predicate register (R14, R112). -/
abbrev Mask := BitVec 96
/-- A vector register: 96 lanes of 32 bits (R112). -/
abbrev VReg := Vector (BitVec 32) 96

/-- Sparse data by key: at most one value for each key; a key that is not listed has no value. -/
abbrev AList (κ α : Type) := List (κ × α)

namespace AList

/-- The value listed for a key. -/
def find? {κ α : Type} [DecidableEq κ] : AList κ α → κ → Option α
  | [], _ => none
  | (k', v) :: t, k => if k' = k then some v else AList.find? t k

/-- The value listed for a key, or the value an unlisted key has. -/
def get {κ α : Type} [DecidableEq κ] (t : AList κ α) (k : κ) (d : α) : α :=
  (AList.find? t k).getD d

/-- Lists a value for a key, in the place of the one it had. -/
def put {κ α : Type} [DecidableEq κ] : AList κ α → κ → α → AList κ α
  | [], k, v => [(k, v)]
  | (k', v') :: t, k, v => if k' = k then (k, v) :: t else (k', v') :: AList.put t k v

/-- Changes the value listed for a key; an unlisted key stays unlisted. -/
def upd {κ α : Type} [DecidableEq κ] (t : AList κ α) (k : κ) (f : α → α) : AList κ α :=
  t.map fun p => if p.1 = k then (p.1, f p.2) else p

/-- Takes a key out. -/
def del {κ α : Type} [DecidableEq κ] (t : AList κ α) (k : κ) : AList κ α :=
  t.filter fun p => decide (p.1 ≠ k)

end AList
end Sys2Proof
end

