-- ==== Sys2Proof/Config.lean ====
section
/-! DEFINITION. Values the manual leaves open. Each is an opaque constant: nothing in Lean can evaluate it or prove a value
of it, so a statement about it holds for every choice. notes/assumptions/3 and 5 name them. -/
namespace Sys2Proof.Config
open Sys2Proof

/-- A byte of a tile or shared array that nothing has written, by allocation and offset (R182). -/
opaque tileByte : Nat → Nat → Byte
/-- A byte that an output copy reads beyond its tile, by index of the moment and offset: the spec states none (R213). -/
opaque beyondTile : Nat → Nat → Byte
/-- Core cycles that pass while a group is resident, by index of the reading: what PERF 4 and 5 return beyond what
the model counts (R129). -/
opaque perfCycles : Nat → Word
/-- Nanoseconds that pass between two readings of the device time base (R129). -/
opaque elapsed : Nat → Word
/-- Which of the two neighbours of the true value SIN, COS and TANH return (R83): a cut in units of 2^−32 of the gap, by
function, type and key. -/
opaque sfCut : Nat → Nat → Nat → Nat
/-- Bytes of swap reservation, retained-record store and graph store that firmware provides (R90, R95, R100). -/
opaque swapPool : Nat
opaque graphStore : Nat
opaque retainedStore : Nat
/-- Frames of device memory that firmware reserves to the device at bring-up (R319). -/
opaque reservedFrames : List Nat
/-- Page requests the host allows the device to have outstanding (R326). -/
opaque pageAllowance : Nat
/-- What a register reads as where no rule says it: 0 RFRONT of a partition with no chunk left (R376), 1 FZDEV (R384). -/
opaque unstatedReading : Nat → Word
/-- Silicon revision (R389). -/
opaque revid : Nat
/-- The scan-map digest (R389). -/
opaque smdig : Nat
/-- SHA-512 (R431). -/
opaque sha512 : List Byte → List Byte
/-- SHA-512 of the boot ROM and of the image that runs at State.reset (R433). -/
opaque bootRomDigest : List Byte
opaque runningDigest : List Byte
/-- The bytes that measurement 4 hashes, from the registers R433 lists. -/
opaque policyBytes : List Word → List Byte
/-- Whether an ECDSA P-521 signature verifies: key, digest, signature (R432). -/
opaque ecdsaOk : List Byte → List Byte → List Byte → Bool
/-- The vendor and owner key digests in the fuses (R432). -/
opaque keyDigests : List (List Byte)
/-- Whether a full trace ring has room again, by session and HEAD (R414 names no register of the reader's). -/
opaque traceRoom : Nat → Nat → Bool
/-- The areas of reserved HBM that firmware has declared image slots (R384). -/
opaque imageSlots : List Nat
/-- What device memory holds after a reset (R430 clears the L3 and the tables, not HBM): listed bytes, by index of the reset. -/
opaque memAfterReset : Nat → List (Nat × Byte)
/-- A cluster's core-cycle count at a stop, by index of the stop (R389). -/
opaque stopCycles : Nat → Word
/-- A byte of an image's section whose layout the spec does not give, by index of the stop, section and offset (R390). -/
opaque imageByte : Nat → Nat → Nat → Byte
/-- Bytes that a port's replay buffer holds before it spills into the ring (R380); the spec does not give its size. -/
opaque replayBuffer : Nat

/-- Where a 2 KiB chunk of a tile lies in its block's scratchpad, by block, handle and chunk, and where the block's scratchpad begins in its
CU's, both in units of 2 KiB: the dispatcher's choice (R95, R182, R224, R390). -/
opaque spadChunk : Nat → Nat → Nat → Nat
opaque spadFirst : Nat → Nat
/-- The first allocation unit of a group's vector registers in its partition's file, by logical group number (R95, R390). -/
opaque firstUnit : Nat → Nat
/-- Core cycles that an MMA waited for its operands, by index (R247). -/
opaque stampCycles : Nat → Word

/-- Which of the clusters with the most free register units the arbiter keeps for a task, by index of the choice (R97). -/
opaque emptiestPick : Nat → Nat
/-- The lines that a patrol scrub finds in error, and how (0 correctable, 1 not, else not and another line of its stripe neither), by index of
the scrub (R334). -/
opaque scrubFound : Nat → List (Nat × Nat)
/-- Where the swap reservation of a block lies in reserved HBM, by index of its placement (R95, R104). -/
opaque swapArea : Nat → Nat

/-- The copy engine, as an index into the surviving clusters, that the arbiter gives a gate input (R209). -/
opaque gateCluster : Nat → Nat
/-- The hash that picks among the candidate ports, by source and destination (R338). -/
opaque fabHash : Nat → Nat → Nat
/-- The pseudo-channel of a line within its stack (R331). -/
opaque hbmChan : Nat → Nat
/-- The hash behind the home L3 slice of a line, and behind its home L2 slice by how many slices there are (R293). -/
opaque l3Hash : Nat → Nat
opaque l2Hash : Nat → Nat → Nat
/-- The home L3 slice of a line: one of 64 (R293). -/
def l3Slice (line : Nat) : Nat := l3Hash line % 64
/-- The hashes that pick a line's set in an L1 and in an L2 slice (R294). -/
opaque l1Set : Nat → Nat
opaque l2Set : Nat → Nat
/-- Which way of a full set a cache gives up, by index of the choice (R294). -/
opaque cacheVictim : Nat → Nat
/-- The pseudo-channel of a stripe's parity line within its stack (R331). -/
opaque parityChan : Nat → Nat

end Sys2Proof.Config
end

