-- ==== Sys2Proof/Syntax.lean ====
section
/-! DEFINITION. The instruction set and the operations of the device: one constructor of `Instr` for each row of
spec/opcode_table.json. Operand kinds follow R50 to R53, formats R54 and R231. -/
namespace Sys2Proof

/-- TYPE codes 0x01 to 0x13 of R53. -/
inductive Ty where
  | i8 | i16 | i32 | i64 | n8 | n16 | n32 | n64 | b32 | b64 | f16 | bf16 | f32 | f64 | e4m3 | e5m2 | e2m1 | bf16x2 | f16x2
  deriving DecidableEq, Repr

/-- A source field under R50: vector register, scalar register, latch or signed constant. An instruction that uses the
field for something else (a predicate number, a tile handle, a type code; R54, R133, R155, R183) reads it with `Src.field`. -/
inductive Src where
  | v (n : BitVec 7)
  | s (n : BitVec 6)
  | l (n : BitVec 3)
  | k (c : BitVec 7)
  deriving DecidableEq, Repr

/-- The predicate of a per-lane instruction: P and PN (R52). -/
structure Pred where
  q : BitVec 4
  neg : Bool
  deriving DecidableEq, Repr

/-- Format F3 (R54). `tok` is T: none when T[59] is clear. -/
structure F3 where
  x : BitVec 4
  tok : Option (BitVec 3)
  ty : Ty
  md : BitVec 3
  p : Pred
  c : Src
  b : Src
  a : Src
  d : BitVec 7
  nw : Bool
  deriving DecidableEq, Repr

/-- Format FI (R54). -/
structure FI where
  sz : BitVec 2
  p : Pred
  imm : BitVec 32
  a : Src
  d : BitVec 7
  nw : Bool
  deriving DecidableEq, Repr

/-- Format FM (R54). -/
structure FM where
  f : BitVec 4
  tok : Option (BitVec 3)
  ord : BitVec 2
  scope : BitVec 3
  p : Pred
  ofs : BitVec 12
  b : Src
  a : Src
  d : BitVec 7
  nw : Bool
  deriving DecidableEq, Repr

/-- Format FA (R54). -/
structure FA where
  x : BitVec 4
  tok : Option (BitVec 3)
  ord : BitVec 2
  scope : BitVec 3
  ty : Ty
  c : Src
  b : Src
  a : Src
  d : BitVec 7
  nw : Bool
  deriving DecidableEq, Repr

/-- Format FB (R54). -/
structure FB where
  ofs : BitVec 32
  cond : BitVec 4
  deriving DecidableEq, Repr

/-- Format FS (R54). -/
structure FS where
  sub : BitVec 4
  o : Src
  imm : BitVec 24
  deriving DecidableEq, Repr

/-- Control-core format CA (R231). -/
structure CA where
  imm : BitVec 32
  x : BitVec 4
  i : Bool
  b : BitVec 5
  a : BitVec 5
  d : BitVec 5
  deriving DecidableEq, Repr

/-- Control-core format CB (R231). -/
structure CB where
  a : BitVec 5
  ofs : BitVec 32
  cond : BitVec 4
  deriving DecidableEq, Repr

/-- Control-core format CM (R231). `ty` is none for the code 0x00, which an instruction without TYPE carries. -/
structure CM where
  x : BitVec 4
  r : Bool
  ty : Option Ty
  mask : BitVec 8
  th : BitVec 5
  cb : BitVec 5
  ca : BitVec 5
  bs : BitVec 2
  ma : BitVec 3
  mc : BitVec 3
  deriving DecidableEq, Repr

/-- A gang: task slot and gang index (R14, R96). -/
structure GangId where
  slot : Nat
  kid : Nat
  deriving DecidableEq, Repr

/-- A block: its gang and block index (R14, R96). -/
structure BlockId where
  gang : GangId
  bid : Nat
  deriving DecidableEq, Repr

/-- Where one block of a gang is placed: its CU, and for each group in order of group index the partition of that CU and
the logical group number it is given (R96, R98: the architecture fixes neither). `base` is the block's swap reservation. -/
structure BlockPlace where
  cu : Nat
  base : Nat
  groups : List (Nat × Nat)
  deriving DecidableEq, Repr

/-- The choice of a gang placement (R97, R98): what the PLACE record logs. -/
structure Placement where
  gang : GangId
  cluster : Nat
  lclu : Nat
  blocks : List BlockPlace
  deriving DecidableEq, Repr

/-- One entry of an ATREQ or ATRSP packet (R341). -/
structure PkEntry where
  word : Nat
  lane : Nat
  b : Word
  c : Word
  status : Nat
  old : Word
  deriving DecidableEq, Repr

/-- A fabric packet: its header fields and descriptor (R339 to R341). -/
structure Packet where
  kind : Nat
  src : Nat
  dst : Nat
  tag : Nat
  addr : Nat
  wmask : BitVec 32
  ty : Option Ty
  x : BitVec 4
  ord : BitVec 2
  scope : BitVec 3
  part : Nat
  npart : Nat
  status : Nat
  holder : Nat
  words : List (BitVec 32)
  ents : List PkEntry
  flag : Word
  raw : List Byte
  deriving DecidableEq, Repr

/-- The registers REGISTER_WRITE reaches, by the names of the manual (R36). Registers with a row of their own in the
table (QCTL, SCCTL, PGCTL, FCFG, RCTL, RRTAIL, RBKA, ELRING, FZCTL, FZDEV, RTCTL, TLBIC) are written there. -/
inductive HubReg where
  | qwin | qcmp | qhead | clsw | dpol | scrqb | scrpb | scrqh | scrpt | l2pin | cqnt | rtbase | tlbia | fmesh | devrt | domrt
  | farb | ftime | fwin | rqmlo | rqmhi | rpart | rrbase | rbks | ckctl | elhead | tsctl | tstask | tsring | wpbase | wpctl | pwrctl
  /-- the first word of a PASID's context entry, which firmware fills (R316); RTCTL and TLBIC where OP is written 0 (R289, R322) -/
  | pasidEntry | rtctl | tlbic
  /-- read only -/
  | tlbis | rtstat | scstat | eltail | rrhead | fzstat | ckstat | tsstat | rfront
  /-- written by actions of their own -/
  | qctl | scctl | pgctl | elring | fcfg | rctl | rrtail | rbka | fzctl | fzdev
  deriving DecidableEq, Repr

/-- A candidate Poxis image as the update or the boot ROM sees it: the header fields of R431 and the bytes they cover. -/
structure PoxisImage where
  magic : Nat
  fmt : Nat
  svn : Nat
  version : Word
  bodyLen : Nat
  entry : Nat
  pubkey : List Byte
  sig : List Byte
  reservedZero : Bool
  signed : List Byte
  deriving DecidableEq, Repr

/-- How an HBM line read ends (R333). -/
inductive HbmCond where
  | clean | corrected | uncorrectable
  /-- uncorrectable, as is another line of its stripe -/
  | double
  deriving DecidableEq, Repr

/-- The host's answer to a page request group (R328). -/
inductive PrgCode where
  | success | invalid | failure
  deriving DecidableEq, Repr

/-- What makes the hardware lower the core clock (R422). -/
inductive PowerEvent where
  | railCurrent | temperature | averageCap | belowCap
  deriving DecidableEq, Repr

/-- The instructions of vector clauses (R57), of control-core clauses (R58), and the operations of the engines: one
constructor for each row of spec/opcode_table.json, in the table's order. -/
inductive Instr where
  -- integer, logical, address (R130 to R144)
  | add (f : F3) | sub (f : F3) | mul (f : F3) | mulhi (f : F3) | mad (f : F3) | min (f : F3) | max (f : F3) | adif (f : F3)
  | and (f : F3) | or (f : F3) | xor (f : F3) | not (f : F3) | shl (f : F3) | shr (f : F3) | rot (f : F3) | sel (f : F3)
  | cmp (f : F3) | clz (f : F3) | popc (f : F3) | brev (f : F3) | bfe (f : F3) | bfi (f : F3) | lane (f : F3) | mov (f : F3)
  | addi (f : FI) | andi (f : FI) | ori (f : FI) | xori (f : FI) | movi (f : FI) | muli (f : FI)
  | sadd (f : F3) | ssub (f : F3) | smul (f : F3) | smulhi (f : F3) | smin (f : F3) | smax (f : F3)
  | sand (f : F3) | sor (f : F3) | sxor (f : F3) | sshl (f : F3) | sshr (f : F3) | scmp (f : F3)
  | smov (f : F3) | sclz (f : F3) | spopc (f : F3)
  | saddi (f : FI) | sandi (f : FI) | sori (f : FI) | sxori (f : FI) | smovi (f : FI) | scmpi (f : FI)
  | qop (f : F3) | qtest (f : F3) | lea (f : F3) | slea (f : F3)
  -- floating point and conversion (R145 to R159)
  | fadd (f : F3) | fsub (f : F3) | fmul (f : F3) | fma (f : F3) | fmin (f : F3) | fmax (f : F3) | fsgn (f : F3)
  | fcmp (f : F3) | fclass (f : F3) | frnd (f : F3) | sfadd (f : F3) | sfmul (f : F3) | sfma (f : F3) | sfcmp (f : F3)
  | cvt (f : F3) | scvt (f : F3) | pack2 (f : F3) | unpack (f : F3) | scale (f : F3) | fdot2 (f : F3)
  -- special functions (R160, R161)
  | exp2 (f : F3) | log2 (f : F3) | rcp (f : F3) | rsq (f : F3) | sqrt (f : F3) | sin (f : F3) | cos (f : F3) | tanh (f : F3)
  | sfn (f : F3)
  -- cross-lane (R162 to R169)
  | shfl (f : F3) | shflup (f : F3) | shfldn (f : F3) | shflx (f : F3) | bcast (f : F3) | red (f : F3) | scan (f : F3)
  | ballot (f : F3) | vote (f : F3) | popl (f : F3) | first (f : F3) | rdlane (f : F3) | wrlane (f : F3)
  -- memory and tiles (R177 to R183, R279, R324, R330)
  | ldN8 (f : FM) | ldI8 (f : FM) | ldN16 (f : FM) | ldI16 (f : FM) | ldB32 (f : FM) | ldB64 (f : FM)
  | stN8 (f : FM) | stN16 (f : FM) | stB32 (f : FM) | stB64 (f : FM)
  | sldB32 (f : FM) | sldB64 (f : FM) | sstB32 (f : FM) | sstB64 (f : FM)
  | fence (f : FM) | pref (f : FM) | pgreq (f : FM)
  | talloc (f : F3) | tfree (f : F3) | tld (f : F3) | tldXp8 (f : F3) | tldXp16 (f : F3) | tst (f : F3)
  | seal (f : FM) | reuse (f : FM) | flush (f : FM) | reshint (f : FM)
  -- atomics (R304 to R310)
  | atom (f : FA) | satom (f : FA) | redM (f : FA)
  -- barriers and waits (R202 to R206), rendezvous (R250)
  | barv (f : FS) | bwait (f : FS) | barw (f : FS) | bgrp (f : FS) | gjoin (f : FS) | gleave (f : FS)
  | waita (f : FA) | waitat (f : FA) | rdv (f : FS)
  -- fabric (R347 to R356)
  | fst (f : FA) | fld (f : FA) | fatom (f : FA) | ffence (f : FA) | coll (f : FS) | fwaitc (f : FS)
  -- control flow (R172 to R175)
  | br (f : FB) | brany (f : FB) | brnone (f : FB) | call (f : FB) | calli (f : F3) | jmpi (f : F3) | ret (f : F3)
  | mark (f : FB) | forkm (f : FB) | join (f : F3) | exit (f : F3)
  -- matrix, group side (R249 to R253)
  | mfeed (f : F3) | mfeedt (f : F3) | mdrain (f : F3) | mdrainTl (f : F3) | fork (f : FS)
  -- system (R128, R129, R186, R188, R373, R110, R111)
  | csrr (f : FS) | csrw (f : FS) | sigchk (f : FI) | trap (f : FS) | trapAbort (f : FS) | brk (f : FS)
  | time (f : FS) | perf (f : FS) | nop (f : FS) | recmark (f : FS) | recmode (f : FS) | spawn (f : FS) | tdep (f : FS)
  -- control core (R233 to R248)
  | cadd (f : CA) | csub (f : CA) | cmul (f : CA) | cand (f : CA) | cor (f : CA) | cxor (f : CA) | cshl (f : CA) | cshr (f : CA)
  | cmovi (f : CA) | cmoviHi (f : CA) | ccmp (f : CA) | cld (f : CA) | cst (f : CA)
  | cbr (f : CB) | cloop (f : CB) | cjmp (f : CA) | cexit (f : CA) | crdv (f : CA)
  | mzero (f : CM) | mma (f : CM) | mscaleA (f : CM) | mscaleB (f : CM) | mldb (f : CM) | mldbM (f : CM)
  | mpub (f : CM) | mdone (f : CM) | mstamp (f : CM) | mwaitPub (f : CM) | mwaitA (f : CM)
  -- vector engine operations
  | clauseFetch (g e : Nat) | fragmentSelect (p : Nat) | ageingForce (g e : Nat) | clauseCommit (g : Nat) | tokenClear (g t : Nat)
  | lateFaultReport (r : Nat) | debugHalt (cap g e : Nat) | debugResume (cap g e : Nat) | groupRetire (g : Nat) | blockRetire (b : BlockId)
  -- dispatch operations (`slot` is the free task slot taken, R25; `g` the queue)
  | task (q slot : Nat) | graph (q slot : Nat) | gdef (q slot : Nat) | gdrop (q slot : Nat) | spawnParse (q slot : Nat)
  | gangPlace (p : Placement) | rangeRequest (die slot n : Nat) | reportWrite (q : Nat)
  | swapOut (b : BlockId) (gs : List Nat) | swapIn (b : BlockId) (gs : List (Nat × Nat))
  | syscallRequest (g : Nat) | syscallReply (n : Nat) | gangKill (g : GangId) (cause : Nat)
  | dieFailure (die : Nat) | hbmStackFailure (stack : Nat) (chan : Option Nat) | hostLinkFault | hostLinkRetrain | deviceFailure
  -- memory operations
  | loadRequest (r : Nat) | loadResponse (r : Nat) | storeRequest (r : Nat) | atomicRequest (r : Nat) | releaseWalk (r : Nat)
  | holdReservation (r : Nat) | reservationGrant (r : Nat) | l1Invalidation (cu line : Nat) | l1Fill (cu line : Nat) | l3Eviction (line : Nat)
  | hostRead (addr n : Nat) | hostWrite (pasid addr : Nat) (bs : List Byte) | hostOwnershipRequest (line : Nat) (excl : Bool)
  | biResponse (line : Nat) (bs : List Byte) | hbmRead (line : Nat) (c : HbmCond) | patrolScrub
  | pageWalk (cu pasid va : Nat) | pageRequestSend (pasid n : Nat) | pgparkTimeout (g e : Nat) | prgResponse (grp : Nat) (c : PrgCode)
  | tlbiRange (pasid va n : Nat) | tlbiPasid (pasid : Nat) | tlbiAll | tlbiDone
  | retypeBegin (n : Nat) (ct : BitVec 2) | retypeApply | retypeCancel
  -- copy operations
  | copyChunk (i : Nat) | copyFlagWrite (i : Nat) | ttuTranslate (i page : Nat)
  -- fabric operations (`port` 24 is loopback)
  | ldreq (port : Nat) (pk : Packet) | atreq (port : Nat) (pk : Packet) | streq (port : Nat) (pk : Packet)
  | ldrsp (port : Nat) (pk : Packet) | atrsp (port : Nat) (pk : Packet) | stack (port : Nat) (pk : Packet)
  | fencePacket (port : Nat) (pk : Packet) | fenack (port : Nat) (pk : Packet) | cdata (port : Nat) (pk : Packet) | cctl (port : Nat) (pk : Packet)
  | collectiveComplete (slot n : Nat) | logfrm (port : Nat) (pk : Packet) | ckpt (port : Nat) (pk : Packet)
  | idleFlit (port lack : Nat) (stop : BitVec 4) | resendRequest (port seq : Nat) | badFlit (port : Nat) | retryTimeout (port : Nat)
  | arbitrationDecision (port : Nat) | ftoTimeout (r : Nat)
  -- recorder operations
  | frameWrite (part src : Nat) (body : List Byte) | twinProgress (part n : Nat) | replayChunkStart (g e : Nat) | replayBreakpoint (part k : Nat)
  | replayEventTimeout (part : Nat)
  -- freeze, checkpoint
  | freeze (c src base : Nat) | restore (c base : Nat) | discard (c base : Nat) | fzctlSlotWrite (c base : Nat) | fzdevWrite (v : Word)
  | clockStop (c : Nat) | imageStaged (c : Nat) | imageStored (c : Nat) | l1Drain (c : Nat) | restoreClockStart (c : Nat)
  | take | load
  -- debug, platform
  | grant (pasid : Nat) | delegate (req e h : Nat) (rights : BitVec 7) | revoke (req e : Nat) | traceSample (sess p : Nat)
  | watchpointReport (i : Nat) | operatingPointChange (p : Nat) | powerLimit (e : PowerEvent) | reset
  | powerOn (fail : Option Nat) (img : PoxisImage) | firmwareUpdate (img : PoxisImage) | spdmMeasurementRequest (idx : Nat) (nonce : List Byte)
  -- register writes
  | qctlWrite (q : Nat) (v : Word) | scctlWrite (n : Nat) (v : Word) | pgctlWrite (v : Word) | fcfgWrite (v : Word) | rctlWrite (p : Nat) (v : Word)
  | rrtailWrite (p : Nat) (v : Word) | rbkaWrite (i : Nat) (v : Word) | elringWrite (v : Word) | registerWrite (r : HubReg) (i : Nat) (v : Word)
  -- completions
  | linkTraining (port m : Nat) | hostMemoryWaitaEvaluation (g e : Nat) | twinLoss (part : Nat) | pcieCompletion (r : Nat) (data : Word)
  | mmaCompletion (lclu : Nat) | mldbCompletion (lclu : Nat) | changeOfPointComplete
  deriving DecidableEq, Repr

end Sys2Proof
end

