-- ==== Sys2Proof/WellFormed.lean ====
section
/-! DEFINITION. Which operands each instruction accepts: R45, R46, R48 rule 1, R50 to R57, R128 to R144, R147 to R169,
R172 to R188, R202 to R205, R231 to R253, R279, R304 to R306, R324, R330, R347, R354, R372, R109. A word whose fields break
one of these raises ILLOP at decode; the rules that need the rest of the clause or the group stand in Machine/Clause.lean. -/
namespace Sys2Proof

/-- The 64-bit types: a vector operand of one is an even pair (R50, R130, R145). -/
def Ty.wide : Ty → Bool
  | .i64 | .n64 | .b64 | .f64 => true
  | _ => false

/-- The low bits of a source field that an instruction uses for something other than an operand: fields with bits 8:7 zero
read as a number (R133, R136, R155, R166, R183, R252, R253). -/
def Src.field : Src → Nat
  | .v n => n.toNat
  | .s n => 128 + n.toNat
  | .l n => 256 + n.toNat
  | .k c => 384 + c.toNat

/-- An unused source field: it must be zero (R50). -/
def Src.zero : Src := .v 0

/-- The issue classes of R57. `core` marks a control-core instruction (R58), `op` an operation of an engine, which has no
encoding. -/
inductive Cls where
  | s | l | o | c | cl | j | core | op
  deriving DecidableEq, Repr

/-- How the D field is read (R51): a destination of a class, or a data source, a hint level or a write intent. -/
inductive Dst where
  | v (wide : Bool)        -- vector destination; even for a 64-bit type
  | vn (wide : Bool) (n : Nat)  -- `n` vector registers (or pairs) from D (MDRAIN)
  | s                      -- scalar destination
  | s3                     -- sD to sD+2 (BALLOT)
  | q                      -- q0 to q14
  | t                      -- tile handle
  | ma                     -- ma0 to ma7
  | zero                   -- CC class or no destination
  | srcV (wide : Bool)     -- vector data source
  | srcS                   -- scalar data source
  | upTo (n : Nat)         -- a small number, at most n (PREF level, write intent)
  deriving DecidableEq, Repr

/-- How a 9-bit source field is read. -/
inductive Use where
  | none                   -- unused, zero
  | lane (wide : Bool)     -- per-lane operand of the width: any kind; a vector register is even for a 64-bit type
  | ctl                    -- control operand, 32 bits, any kind, any vector index (R130 rule 3)
  | uni                    -- scalar register, S64 latch or constant
  | xlane (wide : Bool)    -- vector register or V-kind latch of the width (R163, R164)
  | vreg (n : Nat)         -- `n` vector registers from this one (MFEED)
  | cst (lo hi : Nat)      -- a constant in a range
  | num (lim : Nat)        -- a number below `lim` in the low bits, the rest zero
  | sreg                   -- a scalar register as a source (FS of class C)
  | dstS                   -- a scalar destination in O (FS)
  deriving DecidableEq, Repr

/-- The kinds of a latch (R45). -/
inductive LKind where
  | v32 | v64 | s64 | q96
  deriving DecidableEq, Repr

/-- What the opcode map and the instruction's own rule say of its fields. -/
structure Shape where
  cls : Cls := .s
  types : List Ty := []
  mods : List Nat := [0]
  xs : List Nat := [0]
  dst : Dst := .zero
  a : Use := .none
  b : Use := .none
  c : Use := .none
  /-- per lane: P and PN select lanes (R52) -/
  per : Bool := false
  /-- a class C instruction that may carry a token -/
  tokOpt : Bool := false
  /-- ORD and SCOPE are accepted -/
  ordOk : Nat → Nat → Bool := fun o s => o == 0 && s == 0
  /-- residency flags may be named in F (R178) -/
  resid : Bool := false
  /-- OFS is used -/
  ofs : Bool := false
  /-- a rule of this instruction alone -/
  ok : Bool := true

namespace WF

def ints : List Ty := [.i32, .n32, .i64, .n64]
def bits : List Ty := [.b32, .b64]
def fl4 : List Ty := [.f64, .f32, .f16, .bf16]
def fps : List Ty := [.f64, .f32, .f16, .bf16, .bf16x2, .f16x2]
def sfts : List Ty := [.f32, .f16, .bf16]
/-- The element TYPEs of TALLOC (R182). -/
def elems : List Ty := [.i8, .n8, .e4m3, .e5m2, .i16, .n16, .f16, .bf16, .i32, .n32, .b32, .f32, .bf16x2, .f16x2,
  .i64, .n64, .b64, .f64]
/-- The TYPEs of CVT (R155). -/
def cvts : List Ty := [.i8, .i16, .i32, .i64, .n8, .n16, .n32, .n64, .f64, .f32, .f16, .bf16, .e4m3, .e5m2, .e2m1]
def cvtInts : List Ty := [.i8, .i16, .i32, .i64, .n8, .n16, .n32, .n64]
def narrow : List Ty := [.f16, .bf16, .e4m3, .e5m2, .e2m1]
/-- The TYPEs of MMA (R238). -/
def mmas : List Ty := [.bf16, .f16, .e4m3, .e5m2, .e2m1, .i8, .f32, .f64]
def sat : List Nat := [0, 1]
def rnd : List Nat := [0, 1, 2, 3]
def rndS : List Nat := [0, 1, 2, 3, 4]

/-- The TYPE that a code of R53 names. -/
def tyOfCode : Nat → Option Ty
  | 0x01 => some .i8 | 0x02 => some .i16 | 0x03 => some .i32 | 0x04 => some .i64 | 0x05 => some .n8 | 0x06 => some .n16
  | 0x07 => some .n32 | 0x08 => some .n64 | 0x09 => some .b32 | 0x0A => some .b64 | 0x0B => some .f16 | 0x0C => some .bf16
  | 0x0D => some .f32 | 0x0E => some .f64 | 0x0F => some .e4m3 | 0x10 => some .e5m2 | 0x11 => some .e2m1
  | 0x12 => some .bf16x2 | 0x13 => some .f16x2
  | _ => none

/-- The code of a TYPE (R53). -/
def codeOfTy : Ty → Nat
  | .i8 => 0x01 | .i16 => 0x02 | .i32 => 0x03 | .i64 => 0x04 | .n8 => 0x05 | .n16 => 0x06 | .n32 => 0x07 | .n64 => 0x08
  | .b32 => 0x09 | .b64 => 0x0A | .f16 => 0x0B | .bf16 => 0x0C | .f32 => 0x0D | .f64 => 0x0E | .e4m3 => 0x0F
  | .e5m2 => 0x10 | .e2m1 => 0x11 | .bf16x2 => 0x12 | .f16x2 => 0x13

/-- The source TYPE of CVT and SCVT, in C[4:0] (R53). -/
def srcTy (c : Src) : Option Ty := tyOfCode c.field

/-- Whether CVT takes this pair of types and this MOD and .nosat (R155). -/
def cvtOk (dt : Ty) (st : Option Ty) (md x : Nat) : Bool :=
  match st with
  | none => false
  | some st =>
    cvts.contains dt && cvts.contains st && dt != st
      && (if dt == .f64 || dt == .f32 then decide (md ≤ 3)
          else if narrow.contains dt then decide (md ≤ 4)
          else if cvtInts.contains st then decide (md ≤ 1) else decide (md ≤ 3))
      && (x == 0 || (x == 1 && (dt == .e4m3 || dt == .e5m2)))

/-- TYPE and MOD of RED and SCAN by operation (R164). -/
def redOk (op : Nat) (t : Ty) (md : Nat) : Bool :=
  if op == 0 then (ints.contains t && decide (md ≤ 1)) || (fl4.contains t && decide (md ≤ 3))
  else if op ≤ 2 then (ints ++ fl4).contains t && md == 0
  else if op ≤ 5 then bits.contains t && md == 0
  else false

/-- TYPE of an atomic by operation (R305). -/
def atomOk (x : Nat) (t : Ty) : Bool :=
  if x == 0 then [Ty.i32, .n32, .i64, .n64, .f32, .f64, .bf16x2, .f16x2].contains t
  else if x ≤ 2 then [Ty.i32, .n32, .i64, .n64, .f32, .f64].contains t
  else if x ≤ 7 then bits.contains t else false

/-- ORD and SCOPE of an atomic: ORD 0 with SCOPE 0 only; SCOPE 7 never (R306). -/
def ordAny (o s : Nat) : Bool := if o == 0 then s == 0 else decide (s ≠ 7)
/-- ORD and SCOPE of a load (R177). -/
def ordLd (o s : Nat) : Bool := if o == 0 then s == 0 else o == 1 && decide (s ≠ 7)
/-- ORD and SCOPE of a store (R177). -/
def ordSt (o s : Nat) : Bool := if o == 0 then s == 0 else o == 2 && decide (s ≠ 7)
/-- ORD and SCOPE of a fabric access whose ORDs are listed (R347). -/
def ordFab (os : List Nat) (o s : Nat) : Bool := os.contains o && (if o == 0 then s == 0 else s == 5 || s == 6)

/-- The control registers of R127. -/
def csrs : List Nat := [0, 1, 2, 3, 4, 8, 0x10, 0x11, 0x12, 0x18, 0x19, 0x1A, 0x20, 0x21, 0x22, 0x23, 0x28]
/-- Those CSRW may name (R127: Access is not RO). -/
def csrsW : List Nat := [8, 0x10, 0x11, 0x12, 0x19, 0x28]
/-- A barrier name in IMM24: nb0 to nb63, or nd0 to nd15 with bit 6 set (R202). -/
def barName (imm : Nat) : Bool := decide (imm < 128) && (imm < 64 || decide (imm % 64 ≤ 15))

end WF

open WF

/-- A load, by width and whether it is uniform (R177). -/
def shLd (wide uni : Bool) : Shape :=
  { cls := .l, dst := if uni then .s else .v wide, a := if uni then .uni else .lane true, b := if uni then .uni else .ctl,
    per := !uni, ordOk := ordLd, resid := true, ofs := true }
/-- A store (R177). -/
def shSt (wide uni : Bool) : Shape :=
  { cls := .o, dst := if uni then .srcS else .srcV wide, a := if uni then .uni else .lane true, b := if uni then .uni else .ctl,
    per := !uni, ordOk := ordSt, ofs := true }
/-- A per-lane operation of one, two or three operands of the type's width. -/
def sh1 (f : F3) (types : List Ty) (mods : List Nat) : Shape :=
  { types, mods, dst := .v f.ty.wide, a := .lane f.ty.wide, per := true }
def sh2 (f : F3) (types : List Ty) (mods : List Nat) : Shape := { sh1 f types mods with b := .lane f.ty.wide }
def sh3 (f : F3) (types : List Ty) (mods : List Nat) : Shape := { sh2 f types mods with c := .lane f.ty.wide }
/-- A scalar operation of one, two or three operands. -/
def shS1 (types : List Ty) (mods : List Nat) : Shape := { types, mods, dst := .s, a := .uni }
def shS2 (types : List Ty) (mods : List Nat) : Shape := { shS1 types mods with b := .uni }
def shS3 (types : List Ty) (mods : List Nat) : Shape := { shS2 types mods with c := .uni }
/-- A vector immediate (R140). -/
def shVI (f : FI) : Shape := { dst := .v (f.sz != 0), a := .lane (f.sz != 0), per := true }
/-- A scalar immediate (R143). -/
def shSI : Shape := { dst := .s, a := .uni }
/-- A special function (R160). -/
def shSf (f : F3) : Shape := { sh1 f sfts [0] with cls := .l }
/-- A class J instruction of format F3: M is 0x50 (R173). -/
def shJ : Shape := { cls := .j, types := [.b64] }
/-- Class J of format FB. -/
def shB (ok : Bool) : Shape := { cls := .j, ok }

/-- The shape of an instruction: its row of the opcode map (R57, R58) and the operand rules of its own description. TST's data source is a
vector register or a V-kind latch, of which R183 writes vS (DESIGN CHOICE, notes/assumptions/66). An
operation of an engine has no fields. -/
def Instr.shape : Instr → Shape
  | .add f => sh2 f ints sat | .sub f => sh2 f ints sat | .mul f => sh2 f ints sat | .mulhi f => sh2 f ints [0]
  | .mad f => sh3 f ints sat | .min f => sh2 f ints [0] | .max f => sh2 f ints [0] | .adif f => sh2 f ints [0]
  | .and f => sh2 f bits [0] | .or f => sh2 f bits [0] | .xor f => sh2 f bits [0] | .not f => sh1 f bits [0]
  | .shl f => { sh1 f bits [0] with b := .ctl } | .shr f => { sh1 f ints [0] with b := .ctl }
  | .rot f => { sh1 f bits [0] with b := .ctl }
  | .sel f => { sh2 f bits [0] with c := .num 16 }
  | .cmp f => { sh2 f ints [0] with dst := .q, xs := [0, 1, 2, 3, 4, 5] }
  | .clz f => sh1 f bits [0] | .popc f => sh1 f bits [0] | .brev f => sh1 f bits [0]
  | .bfe f => { sh1 f ints [0] with b := .ctl } | .bfi f => { sh2 f bits [0] with c := .ctl }
  | .lane _ => { types := [.b32], dst := .v false, per := true }
  | .mov f => sh1 f bits [0]
  | .addi f => shVI f | .andi f => shVI f | .ori f => shVI f | .xori f => shVI f
  | .movi f => { shVI f with a := .none } | .muli f => shVI f
  | .sadd _ => shS2 ints sat | .ssub _ => shS2 ints sat | .smul _ => shS2 ints sat | .smulhi _ => shS2 ints [0]
  | .smin _ => shS2 ints [0] | .smax _ => shS2 ints [0]
  | .sand _ => shS2 bits [0] | .sor _ => shS2 bits [0] | .sxor _ => shS2 bits [0] | .sshl _ => shS2 bits [0]
  | .sshr _ => shS2 ints [0]
  | .scmp _ => { shS2 bits [0] with dst := .zero }
  | .smov _ => shS1 bits [0] | .sclz _ => shS1 bits [0] | .spopc _ => shS1 bits [0]
  | .saddi _ => shSI | .sandi _ => shSI | .sori _ => shSI | .sxori _ => shSI
  | .smovi _ => { dst := .s } | .scmpi _ => { a := .uni }
  | .qop f => { types := [.b32], xs := [0, 1, 2, 3, 4, 5], dst := .q, a := .num 16,
                b := if f.x.toNat ≥ 4 then .none else .num 16, per := true }
  | .qtest f => { sh2 f bits [0] with dst := .q }
  | .lea _ => { types := [.i32, .n32], xs := [0, 1, 2, 3], dst := .v true, a := .lane true, b := .ctl, per := true }
  | .slea _ => { shS2 [.i32, .n32] [0] with xs := [0, 1, 2, 3] }
  | .fadd f => sh2 f fps rnd | .fsub f => sh2 f fps rnd | .fmul f => sh2 f fps rnd | .fma f => sh3 f fps rnd
  | .fmin f => sh2 f fps [0] | .fmax f => sh2 f fps [0]
  | .fsgn f => { sh1 f fps [0] with xs := [0, 1, 2], b := if f.x.toNat == 2 then .lane f.ty.wide else .none }
  | .fcmp f => { sh2 f fl4 [0] with dst := .q, xs := [0, 1, 2, 3, 4, 5, 6, 7] }
  | .fclass f => { sh1 f fl4 [0] with dst := .v false }
  | .frnd f => sh1 f fps rnd
  | .sfadd _ => shS2 fl4 rnd | .sfmul _ => shS2 fl4 rnd | .sfma _ => shS3 fl4 rnd
  | .sfcmp _ => { shS2 fl4 [0] with dst := .zero }
  | .cvt f => { types := cvts, mods := rndS, xs := [0, 1], dst := .v f.ty.wide,
                a := .lane (((srcTy f.c).map Ty.wide).getD false), c := .num 32, per := true,
                ok := cvtOk f.ty (srcTy f.c) f.md.toNat f.x.toNat }
  | .scvt f => { types := cvts, mods := rndS, xs := [0, 1], dst := .s, a := .uni, c := .num 32,
                 ok := cvtOk f.ty (srcTy f.c) f.md.toNat f.x.toNat }
  | .pack2 f => { types := [.bf16x2, .f16x2, .e4m3, .e5m2, .e2m1], mods := rndS, dst := .v false, a := .lane false,
                  b := .lane false, c := if f.ty == .bf16x2 || f.ty == .f16x2 then .none else .lane false, per := true }
  | .unpack _ => { types := [.f16, .bf16, .e4m3, .e5m2, .e2m1], dst := .v false, a := .lane false, b := .ctl, per := true }
  | .scale f => { sh1 f fps rnd with b := .ctl }
  | .fdot2 _ => { types := [.bf16x2, .f16x2], mods := rnd, dst := .v false, a := .lane false, b := .lane false,
                  c := .lane false, per := true }
  | .exp2 f => shSf f | .log2 f => shSf f | .rcp f => shSf f | .rsq f => shSf f | .sqrt f => shSf f
  | .sin f => shSf f | .cos f => shSf f | .tanh f => shSf f
  | .sfn _ => { shS1 sfts [0] with cls := .l, xs := [0, 1, 2, 3, 4, 5, 6, 7] }
  | .shfl f => { sh1 f bits [0] with cls := .l, a := .xlane f.ty.wide, b := .ctl, c := .lane f.ty.wide }
  | .shflup f => { sh1 f bits [0] with cls := .l, a := .xlane f.ty.wide, b := .uni, c := .lane f.ty.wide }
  | .shfldn f => { sh1 f bits [0] with cls := .l, a := .xlane f.ty.wide, b := .uni, c := .lane f.ty.wide }
  | .shflx f => { sh1 f bits [0] with cls := .l, a := .xlane f.ty.wide, b := .uni, c := .lane f.ty.wide }
  | .bcast f => { sh1 f bits [0] with cls := .l, a := .xlane f.ty.wide, b := .uni, c := .lane f.ty.wide }
  | .red f => { cls := .l, types := ints ++ fl4 ++ bits, mods := rnd, xs := [0, 1, 2, 3, 4, 5], dst := .s,
                a := .xlane f.ty.wide, per := true, ok := redOk f.x.toNat f.ty f.md.toNat }
  | .scan f => { cls := .l, types := ints ++ fl4 ++ bits, mods := rnd, xs := [0, 1, 2, 3, 4, 5, 8, 9, 10, 11, 12, 13],
                 dst := .v f.ty.wide, a := .xlane f.ty.wide, per := true, ok := redOk (f.x.toNat % 8) f.ty f.md.toNat }
  | .ballot _ => { types := [.b32], dst := .s3, a := .num 16, per := true }
  | .vote _ => { types := [.b32], xs := [0, 1, 2], a := .num 16, per := true }
  | .popl _ => { types := [.b32], dst := .s, a := .num 16, per := true }
  | .first _ => { types := [.b32], dst := .s, a := .num 16, per := true }
  | .rdlane f => { cls := .l, types := bits, dst := .s, a := .xlane f.ty.wide, b := .uni, c := .uni }
  | .wrlane f => { types := bits, dst := .v f.ty.wide, a := .uni, b := .uni, per := true }
  | .ldN8 _ => shLd false false | .ldI8 _ => shLd false false | .ldN16 _ => shLd false false | .ldI16 _ => shLd false false
  | .ldB32 _ => shLd false false | .ldB64 _ => shLd true false
  | .stN8 _ => shSt false false | .stN16 _ => shSt false false | .stB32 _ => shSt false false | .stB64 _ => shSt true false
  | .sldB32 _ => shLd false true | .sldB64 _ => shLd true true
  | .sstB32 _ => shSt false true | .sstB64 _ => shSt true true
  | .fence _ => { cls := .c, ordOk := fun o s => o != 0 && decide (s ≠ 7) }
  | .pref _ => { dst := .upTo 2, a := .lane true, b := .ctl, per := true, ofs := true }
  | .pgreq _ => { cls := .c, dst := .upTo 1, a := .lane true, b := .ctl, per := true, ofs := true }
  | .talloc _ => { types := elems, xs := [0, 1, 2], dst := .t, a := .uni, b := .uni }
  | .tfree _ => { types := [.b32], dst := .t }
  | .tld f => { cls := .l, types := elems, dst := .v f.ty.wide, a := .num 32, b := .uni, per := true }
  | .tldXp8 _ => { cls := .l, types := [.b32], xs := [1], dst := .v false, a := .num 32, b := .uni, per := true }
  | .tldXp16 _ => { cls := .l, types := [.b32], xs := [2], dst := .v false, a := .num 32, b := .uni, per := true }
  | .tst f => { cls := .o, types := elems, a := .num 32, b := .uni, c := .xlane f.ty.wide, per := true }
  | .seal _ => { cls := .c, a := .uni, b := .uni, ofs := true }
  | .reuse _ => { cls := .c, a := .uni, b := .uni, ofs := true }
  | .flush _ => { cls := .c, a := .uni, b := .uni, ofs := true }
  | .reshint _ => { dst := .upTo 1, a := .lane true, b := .ctl, per := true, ofs := true }
  | .atom f => { cls := .cl, types := elems, xs := [0, 1, 2, 3, 4, 5, 6, 7], dst := .v f.ty.wide, a := .lane true,
                 b := .lane f.ty.wide, c := if f.x.toNat == 7 then .lane f.ty.wide else .none, ordOk := ordAny,
                 ok := atomOk f.x.toNat f.ty }
  | .satom f => { cls := .cl, types := elems, xs := [0, 1, 2, 3, 4, 5, 6, 7], dst := .s, a := .uni, b := .uni,
                  c := if f.x.toNat == 7 then .uni else .none, ordOk := ordAny, ok := atomOk f.x.toNat f.ty }
  | .redM f => { cls := .c, types := elems, xs := [0, 1, 2, 3, 4, 5], a := .lane true, b := .lane f.ty.wide,
                 tokOpt := true, ordOk := ordAny, ok := atomOk f.x.toNat f.ty }
  | .barv f => { cls := .c, a := .dstS, xs := [0], ok := barName f.imm.toNat }
  | .bwait f => { cls := .c, a := .uni, xs := [1], ok := barName f.imm.toNat }
  | .barw f => { cls := .c, a := .dstS, xs := [2], ok := barName f.imm.toNat }
  | .bgrp f => { cls := .c, a := .uni, ok := barName f.imm.toNat }
  | .gjoin f => { cls := .c, ok := f.imm == 0 } | .gleave f => { cls := .c, ok := f.imm == 0 }
  | .waita _ => { cls := .c, types := bits, xs := [0, 1, 2, 3], a := .uni, b := .uni, ordOk := ordLd }
  | .waitat _ => { cls := .c, types := bits, xs := [0, 1, 2, 3], a := .num 32, b := .uni, c := .uni,
                   ordOk := fun o s => ordLd o s && decide (s ≤ 2) }
  | .rdv f => { cls := .c, a := .dstS, ok := decide (f.imm.toNat < 16) }
  | .fst f => { cls := .c, types := bits, dst := .srcV f.ty.wide, a := .lane true, b := .ctl, tokOpt := true,
                ordOk := ordFab [0, 2] }
  | .fld f => { cls := .cl, types := bits, dst := .v f.ty.wide, a := .lane true, b := .ctl, ordOk := ordFab [0, 1] }
  | .fatom f => { cls := .cl, types := elems, xs := [0, 1, 2, 3, 4, 5, 6, 7], dst := .v f.ty.wide, a := .lane true, b := .ctl,
                  c := .lane f.ty.wide, ordOk := ordFab [0, 1, 2, 3], ok := atomOk f.x.toNat f.ty }
  | .ffence _ => { cls := .c, types := bits, a := .uni, b := .uni, c := .uni, tokOpt := true, ordOk := ordFab [2] }
  | .coll f => { cls := .c, a := .sreg, ok := decide (f.imm.toNat < 16) }
  | .fwaitc f => { cls := .c, ok := decide (f.imm.toNat < 16) }
  | .br f => shB (f.cond != 15) | .brany _ => shB true | .brnone _ => shB true | .call f => shB (f.cond == 0)
  | .calli _ => { shJ with a := .lane true } | .jmpi _ => { shJ with a := .uni } | .ret _ => shJ
  | .mark f => { cls := .s, ok := f.cond == 0 } | .forkm _ => shB true | .join _ => shJ | .exit _ => shJ
  | .mfeed f => { cls := .c, types := [.b32], xs := [0, 1, 2, 3], dst := .ma, a := .vreg (f.c.field - 384), b := .uni,
                  c := .cst 1 11, per := true }
  | .mfeedt _ => { cls := .c, types := [.b32], dst := .ma, a := .num 32, b := .uni }
  | .mdrain f => { cls := .cl, types := bits, dst := .vn f.ty.wide (f.c.field - 384), a := .num 8, b := .uni,
                   c := .cst 1 (if f.ty.wide then 8 else 16), per := true }
  | .mdrainTl f => { cls := .cl, types := [.b32, .b64, .f16, .bf16], mods := if f.ty == .f16 || f.ty == .bf16 then rnd else [0],
                     xs := [1], a := .num 8, b := .uni, c := .num 32 }
  | .fork f => { cls := .c, a := .sreg, ok := decide (f.imm.toNat < 16) }
  | .csrr f => { a := .dstS, ok := csrs.contains f.imm.toNat }
  | .csrw f => { a := .uni, ok := csrsW.contains f.imm.toNat }
  | .sigchk f => { cls := .c, ok := f.sz == 0 }
  | .trap f => { cls := .c, ok := !f.imm.msb } | .trapAbort f => { cls := .c, ok := f.imm.msb } | .brk _ => { cls := .c }
  | .time f => { a := .dstS, ok := f.imm == 0 } | .perf f => { a := .dstS, ok := decide (f.imm.toNat < 8) } | .nop _ => {}
  | .recmark _ => { cls := .c, a := .uni } | .recmode f => { a := .dstS, ok := decide (f.imm.toNat < 2) }
  | .spawn f => { cls := .c, a := .sreg, ok := decide (f.imm.toNat < 128) } | .tdep f => { cls := .c, a := .sreg, ok := f.imm == 0 }
  | .cadd _ | .csub _ | .cmul _ | .cand _ | .cor _ | .cxor _ | .cshl _ | .cshr _ | .cmovi _ | .cmoviHi _ | .ccmp _ | .cld _
  | .cst _ | .cbr _ | .cloop _ | .cjmp _ | .cexit _ | .crdv _ | .mzero _ | .mma _ | .mscaleA _ | .mscaleB _ | .mldb _
  | .mldbM _ | .mpub _ | .mdone _ | .mstamp _ | .mwaitPub _ | .mwaitA _ => { cls := .core }
  | _ => { cls := .op }

/-- The fields of an instruction, by format; none for an operation of an engine. -/
inductive Fields where
  | f3 (f : F3) | fi (f : FI) | fm (f : FM) | fa (f : FA) | fb (f : FB) | fs (f : FS) | ca (f : CA) | cb (f : CB) | cm (f : CM)
  | none
  deriving DecidableEq, Repr

/-- The fields an instruction carries. -/
def Instr.fields : Instr → Fields
  | .add f | .sub f | .mul f | .mulhi f | .mad f | .min f | .max f | .adif f | .and f | .or f | .xor f | .not f | .shl f | .shr f
  | .rot f | .sel f | .cmp f | .clz f | .popc f | .brev f | .bfe f | .bfi f | .lane f | .mov f
  | .sadd f | .ssub f | .smul f | .smulhi f | .smin f | .smax f | .sand f | .sor f | .sxor f | .sshl f | .sshr f | .scmp f
  | .smov f | .sclz f | .spopc f | .qop f | .qtest f | .lea f | .slea f
  | .fadd f | .fsub f | .fmul f | .fma f | .fmin f | .fmax f | .fsgn f | .fcmp f | .fclass f | .frnd f | .sfadd f | .sfmul f
  | .sfma f | .sfcmp f | .cvt f | .scvt f | .pack2 f | .unpack f | .scale f | .fdot2 f
  | .exp2 f | .log2 f | .rcp f | .rsq f | .sqrt f | .sin f | .cos f | .tanh f | .sfn f
  | .shfl f | .shflup f | .shfldn f | .shflx f | .bcast f | .red f | .scan f | .ballot f | .vote f | .popl f | .first f
  | .rdlane f | .wrlane f | .talloc f | .tfree f | .tld f | .tldXp8 f | .tldXp16 f | .tst f
  | .calli f | .jmpi f | .ret f | .join f | .exit f | .mfeed f | .mfeedt f | .mdrain f | .mdrainTl f => .f3 f
  | .addi f | .andi f | .ori f | .xori f | .movi f | .muli f | .saddi f | .sandi f | .sori f | .sxori f | .smovi f | .scmpi f
  | .sigchk f => .fi f
  | .ldN8 f | .ldI8 f | .ldN16 f | .ldI16 f | .ldB32 f | .ldB64 f | .stN8 f | .stN16 f | .stB32 f | .stB64 f
  | .sldB32 f | .sldB64 f | .sstB32 f | .sstB64 f | .fence f | .pref f | .pgreq f | .seal f | .reuse f | .flush f
  | .reshint f => .fm f
  | .atom f | .satom f | .redM f | .waita f | .waitat f | .fst f | .fld f | .fatom f | .ffence f => .fa f
  | .br f | .brany f | .brnone f | .call f | .mark f | .forkm f => .fb f
  | .barv f | .bwait f | .barw f | .bgrp f | .gjoin f | .gleave f | .rdv f | .coll f | .fwaitc f | .fork f
  | .csrr f | .csrw f | .trap f | .trapAbort f | .brk f | .time f | .perf f | .nop f | .recmark f | .recmode f
  | .spawn f | .tdep f => .fs f
  | .cadd f | .csub f | .cmul f | .cand f | .cor f | .cxor f | .cshl f | .cshr f | .cmovi f | .cmoviHi f | .ccmp f | .cld f
  | .cst f | .cjmp f | .cexit f | .crdv f => .ca f
  | .cbr f | .cloop f => .cb f
  | .mzero f | .mma f | .mscaleA f | .mscaleB f | .mldb f | .mldbM f | .mpub f | .mdone f | .mstamp f | .mwaitPub f
  | .mwaitA f => .cm f
  | _ => .none

namespace WF

/-- A source field is legal for its use: its kind, and an even index for a 64-bit vector operand (R50). A latch's kind is
checked by the clause (R45). -/
def useOk (u : Use) (x : Src) : Bool :=
  match u, x with
  | .none, x => x == Src.zero
  | .lane w, .v n => !w || !n.getLsbD 0
  | .lane _, _ => true
  | .ctl, _ => true
  | .uni, .v _ => false
  | .uni, _ => true
  | .xlane w, .v n => !w || !n.getLsbD 0
  | .xlane _, .l _ => true
  | .xlane _, _ => false
  | .vreg _, .v _ => true
  | .vreg _, _ => false
  | .cst lo hi, .k c => !c.msb && decide (lo ≤ c.toNat) && decide (c.toNat ≤ hi)
  | .cst _ _, _ => false
  | .num lim, .v n => decide (n.toNat < lim)
  | .num _, _ => false
  | .sreg, .s _ => true
  | .sreg, _ => false
  | .dstS, .s _ => true
  | .dstS, _ => false

/-- D is legal for its class (R51, R166, R324, R330). -/
def dstOk (k : Dst) (d : BitVec 7) : Bool :=
  match k with
  | .v w => !w || !d.getLsbD 0
  | .vn w _ => !w || !d.getLsbD 0
  | .s => decide (d.toNat < 64)
  | .s3 => decide (d.toNat ≤ 57)
  | .q => decide (d.toNat < 15)
  | .t => decide (d.toNat < 32)
  | .ma => decide (d.toNat < 8)
  | .zero => d == 0
  | .srcV w => !w || !d.getLsbD 0
  | .srcS => decide (d.toNat < 64)
  | .upTo n => decide (d.toNat ≤ n)

/-- The latch kind of the one result an untokened instruction writes (R45, R170). -/
def resultKind (sh : Shape) : Option LKind :=
  match sh.cls with
  | .s =>
    match sh.dst with
    | .v w => some (if w then .v64 else .v32)
    | .s => some .s64
    | .q => some .q96
    | _ => if sh.a == .dstS then some .s64 else none
  | _ => none

/-- NW is legal only where there is one latched result and no token (R46). -/
def nwOk (sh : Shape) (nw : Bool) (tok : Bool) : Bool := !nw || (!tok && (resultKind sh).isSome)

/-- R48 rule 1, with R57's classes. -/
def tokOk (sh : Shape) (tok : Bool) : Bool :=
  match sh.cls with
  | .l | .cl => tok
  | .o => true
  | .c => sh.tokOpt || !tok
  | _ => !tok

/-- R52. -/
def predOk (sh : Shape) (p : Pred) : Bool :=
  if sh.per then !(p.q == 15 && p.neg) else p.q == 15 && !p.neg

def f3Ok (sh : Shape) (f : F3) : Bool :=
  sh.types.contains f.ty && sh.mods.contains f.md.toNat && sh.xs.contains f.x.toNat && dstOk sh.dst f.d
    && useOk sh.a f.a && useOk sh.b f.b && useOk sh.c f.c && predOk sh f.p && tokOk sh f.tok.isSome
    && nwOk sh f.nw f.tok.isSome && sh.ok

def fiOk (sh : Shape) (f : FI) : Bool :=
  dstOk sh.dst f.d && useOk sh.a f.a && predOk sh f.p && nwOk sh f.nw false && sh.ok

def fmOk (sh : Shape) (f : FM) : Bool :=
  dstOk sh.dst f.d && useOk sh.a f.a && useOk sh.b f.b && predOk sh f.p && tokOk sh f.tok.isSome
    && nwOk sh f.nw f.tok.isSome && sh.ordOk f.ord.toNat f.scope.toNat && (sh.resid || f.f == 15) && (sh.ofs || f.ofs == 0)
    && sh.ok

def faOk (sh : Shape) (f : FA) : Bool :=
  sh.types.contains f.ty && sh.xs.contains f.x.toNat && dstOk sh.dst f.d && useOk sh.a f.a && useOk sh.b f.b
    && useOk sh.c f.c && tokOk sh f.tok.isSome && nwOk sh f.nw f.tok.isSome && sh.ordOk f.ord.toNat f.scope.toNat && sh.ok

def fbOk (sh : Shape) (_f : FB) : Bool := sh.ok

def fsOk (sh : Shape) (f : FS) : Bool := sh.xs.contains f.sub.toNat && useOk sh.a f.o && sh.ok

/-- The second operand under I: a register with IMM32 zero, or the immediate with B zero (R231). -/
def caV (f : CA) : Bool := if f.i then f.b == 0 else f.imm == 0

/-- The fields of a control-core instruction: R233 to R237 and R241 to R248. -/
def coreOk : Instr → Bool
  | .cadd f | .csub f | .cmul f | .cand f | .cor f | .cxor f | .cshl f => f.x == 0 && caV f
  | .cshr f => decide (f.x.toNat ≤ 1) && caV f
  | .cmovi f => f.x == 0 && f.i && f.a == 0 && f.b == 0
  | .cmoviHi f => f.x == 1 && f.i && f.a == 0 && f.b == 0
  | .ccmp f => f.x == 0 && f.d == 0 && caV f
  | .cld f => decide (f.x.toNat ≤ 1) && f.i && f.b == 0
  | .cst f => decide (f.x.toNat ≤ 1) && f.i && f.d == 0
  | .cbr f => f.a == 0 && decide (f.cond.toNat ≤ 0xC)
  | .cloop f => f.cond == 0
  | .cjmp f | .cexit f => f.x == 0 && !f.i && f.b == 0 && f.d == 0 && f.imm == 0
  | .crdv f => f.i && f.b == 0 && f.d == 0 && decide (1 ≤ f.imm.toNat) && decide (f.imm.toNat ≤ 128)
  | .mzero f => (f.ty == some .f32 || f.ty == some .f64) && f.x == 0 && !f.r && f.mask == 0 && f.th == 0 && f.cb == 0
      && f.ca == 0 && f.bs == 0 && f.ma == 0
  | .mma f => (match f.ty with | some t => mmas.contains t | none => false) && f.x == 0 && f.mask == 0 && f.th == 0
      && f.cb == 0 && f.ca == 0
  | .mscaleA f => f.x == 0 && f.ty == none && !f.r && f.mask == 0 && f.ca == 0 && f.bs == 0 && f.mc == 0
  | .mscaleB f => f.x == 1 && f.ty == none && !f.r && f.mask == 0 && f.ca == 0 && f.ma == 0 && f.mc == 0
  | .mldb f => f.x == 0 && (match f.ty with | some t => mmas.contains t | none => false) && !f.r && f.mask == 0 && f.ca == 0
      && f.ma == 0 && f.mc == 0
  | .mldbM f => f.x == 1 && (match f.ty with | some t => mmas.contains t | none => false) && !f.r && f.mask == 0 && f.th == 0
      && f.ma == 0 && f.mc == 0
  | .mpub f => f.x == 0 && f.ty == none && !f.r && f.mask == 0 && f.th == 0 && f.cb == 0 && f.ca == 0 && f.bs == 0 && f.ma == 0
  | .mdone f => f.x == 0 && f.ty == none && !f.r && f.mask == 0 && f.th == 0 && f.bs == 0 && f.ma == 0 && f.mc == 0
  | .mstamp f => decide (f.x.toNat ≤ 2) && f.ty == none && !f.r && f.mask == 0 && f.th == 0 && f.cb == 0 && f.ca == 0
      && f.bs == 0 && f.ma == 0 && f.mc == 0
  | .mwaitPub f => f.x == 0 && f.ty == none && !f.r && f.th == 0 && f.cb == 0 && f.ca == 0 && f.bs == 0 && f.ma == 0 && f.mc == 0
  | .mwaitA f => f.x == 1 && f.ty == none && !f.r && f.th == 0 && f.cb == 0 && f.ca == 0 && f.bs == 0 && f.ma == 0 && f.mc == 0
  | _ => true

end WF

/-- The instruction is one a legal word carries: every field at a value its rules accept. An operation of an engine has
no fields and is always well formed. -/
def Instr.wellFormed (i : Instr) : Bool :=
  match i.fields with
  | .f3 f => WF.f3Ok i.shape f
  | .fi f => WF.fiOk i.shape f
  | .fm f => WF.fmOk i.shape f
  | .fa f => WF.faOk i.shape f
  | .fb f => WF.fbOk i.shape f
  | .fs f => WF.fsOk i.shape f
  | .ca _ | .cb _ | .cm _ => WF.coreOk i
  | .none => true

end Sys2Proof
end

