-- ==== Sys2Proof/Decode.lean ====
section
/-! DEFINITION. Words to instructions and back: the formats of R54 and R231, the opcode maps of R57 and R58, the clause header of
R37 and the entry word of R56. Decoding is total; a word that is not a legal instruction is rejected by name, and every such
rejection is ILLOP (R60). -/
namespace Sys2Proof
open WF

/-- Why a word is no legal instruction (R60). Each is ILLOP. -/
inductive Reject where
  /-- an unassigned major opcode, or 0xFF (R57, R58) -/
  | opcode
  /-- a nonzero reserved bit (R55), or a token name without its enable bit -/
  | reserved
  /-- a reserved TYPE code (R53) -/
  | type
  /-- a source field whose kind leaves must-be-zero bits set (R50) -/
  | source
  /-- a sub-opcode, TYPE, MOD, operand kind, register, predicate, token, NW, ORD or SCOPE the instruction does not accept -/
  | operand
  deriving DecidableEq, Repr

/-- R50. -/
def decSrc (b : BitVec 9) : Option Src :=
  match (b.extractLsb' 7 2).toNat with
  | 0 => some (.v (b.extractLsb' 0 7))
  | 1 => if b.extractLsb' 6 1 = 0 then some (.s (b.extractLsb' 0 6)) else none
  | 2 => if b.extractLsb' 3 4 = 0 then some (.l (b.extractLsb' 0 3)) else none
  | _ => some (.k (b.extractLsb' 0 7))

def encSrc : Src → BitVec 9
  | .v n => (0#2 ++ n : BitVec 9)
  | .s n => (1#2 ++ 0#1 ++ n : BitVec 9)
  | .l n => (2#2 ++ 0#4 ++ n : BitVec 9)
  | .k c => (3#2 ++ c : BitVec 9)

/-- T: bit 3 enables the token, bits 2:0 name it (R54). A name without the enable bit is rejected. -/
def decTok (t : BitVec 4) : Option (Option (BitVec 3)) :=
  if t.extractLsb' 3 1 = 1 then some (some (t.extractLsb' 0 3)) else if t = 0 then some none else none

def encTok : Option (BitVec 3) → BitVec 4
  | none => 0
  | some n => (1#1 ++ n : BitVec 4)

def encTy (t : Ty) : BitVec 5 := BitVec.ofNat 5 (codeOfTy t)
def decTy (t : BitVec 5) : Option Ty := tyOfCode t.toNat
def bit1 (b : Bool) : BitVec 1 := BitVec.ofBool b

/-- One bit of a word as a Bool. -/
def wbit (w : Word) (i : Nat) : Bool := w.getLsbD i

/-! ### Packing -/

def packF3 (op : BitVec 8) (f : F3) : Word :=
  (f.x ++ encTok f.tok ++ encTy f.ty ++ f.md ++ bit1 f.p.neg ++ f.p.q ++ encSrc f.c ++ encSrc f.b ++ encSrc f.a ++ bit1 f.nw
    ++ f.d ++ op : BitVec 64)
def packFI (op : BitVec 8) (f : FI) : Word :=
  (f.sz ++ bit1 f.p.neg ++ f.p.q ++ f.imm ++ encSrc f.a ++ bit1 f.nw ++ f.d ++ op : BitVec 64)
def packFM (op : BitVec 8) (f : FM) : Word :=
  (f.f ++ encTok f.tok ++ f.ord ++ f.scope ++ bit1 f.p.neg ++ f.p.q ++ f.ofs ++ encSrc f.b ++ encSrc f.a ++ bit1 f.nw ++ f.d
    ++ op : BitVec 64)
def packFA (op : BitVec 8) (f : FA) : Word :=
  (f.x ++ encTok f.tok ++ f.ord ++ f.scope ++ 0#3 ++ encTy f.ty ++ encSrc f.c ++ encSrc f.b ++ encSrc f.a ++ bit1 f.nw ++ f.d
    ++ op : BitVec 64)
def packFB (op : BitVec 8) (f : FB) : Word := (0#16 ++ f.ofs ++ 0#4 ++ f.cond ++ op : BitVec 64)
def packFS (op : BitVec 8) (f : FS) : Word := (f.sub ++ 0#19 ++ encSrc f.o ++ f.imm ++ op : BitVec 64)
def packCA (op : BitVec 8) (f : CA) : Word := (f.imm ++ f.x ++ bit1 f.i ++ 0#4 ++ f.b ++ f.a ++ f.d ++ op : BitVec 64)
def packCB (op : BitVec 8) (f : CB) : Word := (0#11 ++ f.a ++ f.ofs ++ 0#4 ++ f.cond ++ op : BitVec 64)
def encTyOpt : Option Ty → BitVec 5
  | none => 0
  | some t => encTy t
def packCM (op : BitVec 8) (f : CM) : Word :=
  (f.x ++ bit1 f.r ++ 0#6 ++ encTyOpt f.ty ++ 0#4 ++ f.mask ++ f.th ++ f.cb ++ f.ca ++ 0#3 ++ f.bs ++ 0#1 ++ f.ma ++ 0#1
    ++ f.mc ++ op : BitVec 64)

/-! ### Unpacking -/

/-- A value, or a rejection for its want. -/
def orReject {α : Type} (r : Reject) : Option α → Except Reject α
  | some a => .ok a
  | none => .error r

def unpackF3 (w : Word) : Except Reject F3 :=
  match decTok (w.extractLsb' 56 4), decTy (w.extractLsb' 51 5), decSrc (w.extractLsb' 34 9), decSrc (w.extractLsb' 25 9),
    decSrc (w.extractLsb' 16 9) with
  | none, _, _, _, _ => .error .reserved
  | _, none, _, _, _ => .error .type
  | some tok, some ty, some c, some b, some a =>
    .ok { x := w.extractLsb' 60 4, tok, ty, md := w.extractLsb' 48 3, p := ⟨w.extractLsb' 43 4, wbit w 47⟩, c, b, a,
          d := w.extractLsb' 8 7, nw := wbit w 15 }
  | _, _, _, _, _ => .error .source

def unpackFI (w : Word) : Except Reject FI :=
  match decSrc (w.extractLsb' 16 9) with
  | none => .error .source
  | some a => .ok { sz := w.extractLsb' 62 2, p := ⟨w.extractLsb' 57 4, wbit w 61⟩, imm := w.extractLsb' 25 32, a,
                    d := w.extractLsb' 8 7, nw := wbit w 15 }

def unpackFM (w : Word) : Except Reject FM :=
  match decTok (w.extractLsb' 56 4), decSrc (w.extractLsb' 25 9), decSrc (w.extractLsb' 16 9) with
  | none, _, _ => .error .reserved
  | some tok, some b, some a =>
    .ok { f := w.extractLsb' 60 4, tok, ord := w.extractLsb' 54 2, scope := w.extractLsb' 51 3,
          p := ⟨w.extractLsb' 46 4, wbit w 50⟩, ofs := w.extractLsb' 34 12, b, a, d := w.extractLsb' 8 7, nw := wbit w 15 }
  | _, _, _ => .error .source

def unpackFA (w : Word) : Except Reject FA :=
  if w.extractLsb' 48 3 ≠ 0 then .error .reserved else
  match decTok (w.extractLsb' 56 4), decTy (w.extractLsb' 43 5), decSrc (w.extractLsb' 34 9), decSrc (w.extractLsb' 25 9),
    decSrc (w.extractLsb' 16 9) with
  | none, _, _, _, _ => .error .reserved
  | _, none, _, _, _ => .error .type
  | some tok, some ty, some c, some b, some a =>
    .ok { x := w.extractLsb' 60 4, tok, ord := w.extractLsb' 54 2, scope := w.extractLsb' 51 3, ty, c, b, a,
          d := w.extractLsb' 8 7, nw := wbit w 15 }
  | _, _, _, _, _ => .error .source

def unpackFB (w : Word) : Except Reject FB :=
  if w.extractLsb' 48 16 ≠ 0 ∨ w.extractLsb' 12 4 ≠ 0 then .error .reserved
  else .ok { ofs := w.extractLsb' 16 32, cond := w.extractLsb' 8 4 }

def unpackFS (w : Word) : Except Reject FS :=
  if w.extractLsb' 41 19 ≠ 0 then .error .reserved else
  match decSrc (w.extractLsb' 32 9) with
  | none => .error .source
  | some o => .ok { sub := w.extractLsb' 60 4, o, imm := w.extractLsb' 8 24 }

def unpackCA (w : Word) : Except Reject CA :=
  if w.extractLsb' 23 4 ≠ 0 then .error .reserved
  else .ok { imm := w.extractLsb' 32 32, x := w.extractLsb' 28 4, i := wbit w 27, b := w.extractLsb' 18 5,
             a := w.extractLsb' 13 5, d := w.extractLsb' 8 5 }

def unpackCB (w : Word) : Except Reject CB :=
  if w.extractLsb' 53 11 ≠ 0 ∨ w.extractLsb' 12 4 ≠ 0 then .error .reserved
  else .ok { a := w.extractLsb' 48 5, ofs := w.extractLsb' 16 32, cond := w.extractLsb' 8 4 }

def decTyOpt (t : BitVec 5) : Option (Option Ty) := if t = 0 then some none else (decTy t).map some

def unpackCM (w : Word) : Except Reject CM :=
  if w.extractLsb' 53 6 ≠ 0 ∨ w.extractLsb' 44 4 ≠ 0 ∨ w.extractLsb' 18 3 ≠ 0 ∨ w.extractLsb' 15 1 ≠ 0 ∨ w.extractLsb' 11 1 ≠ 0
  then .error .reserved else
  match decTyOpt (w.extractLsb' 48 5) with
  | none => .error .type
  | some ty =>
    .ok { x := w.extractLsb' 60 4, r := wbit w 59, ty, mask := w.extractLsb' 36 8, th := w.extractLsb' 31 5,
          cb := w.extractLsb' 26 5, ca := w.extractLsb' 21 5, bs := w.extractLsb' 16 2, ma := w.extractLsb' 12 3,
          mc := w.extractLsb' 8 3 }

/-! ### The opcode maps -/

/-- The instruction, if its fields are legal. -/
def checked (i : Instr) : Except Reject Instr := if i.wellFormed then .ok i else .error .operand

/-- Builds an instruction from unpacked fields and checks it. -/
def build {α : Type} (r : Except Reject α) (mk : α → Instr) : Except Reject Instr :=
  match r with
  | .error e => .error e
  | .ok f => checked (mk f)

def ofF3 (w : Word) (mk : F3 → Instr) : Except Reject Instr := build (unpackF3 w) mk
def ofFI (w : Word) (mk : FI → Instr) : Except Reject Instr := build (unpackFI w) mk
def ofFM (w : Word) (mk : FM → Instr) : Except Reject Instr := build (unpackFM w) mk
def ofFA (w : Word) (mk : FA → Instr) : Except Reject Instr := build (unpackFA w) mk
def ofFB (w : Word) (mk : FB → Instr) : Except Reject Instr := build (unpackFB w) mk
def ofFS (w : Word) (mk : FS → Instr) : Except Reject Instr := build (unpackFS w) mk
def ofCA (w : Word) (mk : CA → Instr) : Except Reject Instr := build (unpackCA w) mk
def ofCB (w : Word) (mk : CB → Instr) : Except Reject Instr := build (unpackCB w) mk
def ofCM (w : Word) (mk : CM → Instr) : Except Reject Instr := build (unpackCM w) mk

/-- An instruction word of a vector clause (R57). -/
def decodeVec (w : Word) : Except Reject Instr :=
  match (w.extractLsb' 0 8).toNat with
  | 0x00 => ofF3 w .add | 0x01 => ofF3 w .sub | 0x02 => ofF3 w .mul | 0x03 => ofF3 w .mulhi | 0x04 => ofF3 w .mad
  | 0x05 => ofF3 w .min | 0x06 => ofF3 w .max | 0x07 => ofF3 w .adif | 0x08 => ofF3 w .and | 0x09 => ofF3 w .or
  | 0x0A => ofF3 w .xor | 0x0B => ofF3 w .not | 0x0C => ofF3 w .shl | 0x0D => ofF3 w .shr | 0x0E => ofF3 w .rot
  | 0x0F => ofF3 w .sel | 0x10 => ofF3 w .cmp | 0x11 => ofF3 w .clz | 0x12 => ofF3 w .popc | 0x13 => ofF3 w .brev
  | 0x14 => ofF3 w .bfe | 0x15 => ofF3 w .bfi | 0x16 => ofF3 w .lane | 0x17 => ofF3 w .mov | 0x18 => ofFI w .addi
  | 0x19 => ofFI w .andi | 0x1A => ofFI w .ori | 0x1B => ofFI w .xori | 0x1C => ofFI w .movi | 0x1D => ofFI w .muli
  | 0x20 => ofF3 w .sadd | 0x21 => ofF3 w .ssub | 0x22 => ofF3 w .smul | 0x23 => ofF3 w .smulhi | 0x24 => ofF3 w .smin
  | 0x25 => ofF3 w .smax | 0x26 => ofF3 w .sand | 0x27 => ofF3 w .sor | 0x28 => ofF3 w .sxor | 0x29 => ofF3 w .sshl
  | 0x2A => ofF3 w .sshr | 0x2B => ofF3 w .scmp | 0x2C => ofF3 w .smov | 0x2D => ofF3 w .sclz | 0x2E => ofF3 w .spopc
  | 0x30 => ofFI w .saddi | 0x31 => ofFI w .sandi | 0x32 => ofFI w .sori | 0x33 => ofFI w .sxori
  | 0x34 => ofFI w .smovi | 0x35 => ofFI w .scmpi | 0x36 => ofF3 w .qop | 0x37 => ofF3 w .qtest | 0x38 => ofF3 w .lea
  | 0x39 => ofF3 w .slea | 0x40 => ofF3 w .fadd | 0x41 => ofF3 w .fsub | 0x42 => ofF3 w .fmul | 0x43 => ofF3 w .fma
  | 0x44 => ofF3 w .fmin | 0x45 => ofF3 w .fmax | 0x46 => ofF3 w .fsgn | 0x47 => ofF3 w .fcmp | 0x48 => ofF3 w .fclass
  | 0x49 => ofF3 w .frnd | 0x4A => ofF3 w .sfadd | 0x4B => ofF3 w .sfmul | 0x4C => ofF3 w .sfma
  | 0x4D => ofF3 w .sfcmp | 0x50 => ofF3 w .cvt | 0x51 => ofF3 w .scvt | 0x52 => ofF3 w .pack2
  | 0x53 => ofF3 w .unpack | 0x54 => ofF3 w .scale | 0x55 => ofF3 w .fdot2 | 0x70 => ofF3 w .exp2
  | 0x71 => ofF3 w .log2 | 0x72 => ofF3 w .rcp | 0x73 => ofF3 w .rsq | 0x74 => ofF3 w .sqrt | 0x75 => ofF3 w .sin
  | 0x76 => ofF3 w .cos | 0x77 => ofF3 w .tanh | 0x78 => ofF3 w .sfn | 0x80 => ofF3 w .shfl | 0x81 => ofF3 w .shflup
  | 0x82 => ofF3 w .shfldn | 0x83 => ofF3 w .shflx | 0x84 => ofF3 w .bcast | 0x85 => ofF3 w .red
  | 0x86 => ofF3 w .scan | 0x87 => ofF3 w .ballot | 0x88 => ofF3 w .vote | 0x89 => ofF3 w .popl
  | 0x8A => ofF3 w .first | 0x8B => ofF3 w .rdlane | 0x8C => ofF3 w .wrlane | 0x90 => ofFM w .ldN8
  | 0x91 => ofFM w .ldI8 | 0x92 => ofFM w .ldN16 | 0x93 => ofFM w .ldI16 | 0x94 => ofFM w .ldB32
  | 0x95 => ofFM w .ldB64 | 0x96 => ofFM w .stN8 | 0x97 => ofFM w .stN16 | 0x98 => ofFM w .stB32
  | 0x99 => ofFM w .stB64 | 0x9A => ofFM w .sldB32 | 0x9B => ofFM w .sldB64 | 0x9C => ofFM w .sstB32
  | 0x9D => ofFM w .sstB64 | 0x9E => ofFM w .fence | 0x9F => ofFM w .pref | 0xA0 => ofFM w .pgreq
  | 0xA1 => ofF3 w .talloc | 0xA2 => ofF3 w .tfree
  | 0xA3 => ofF3 w (fun f => if f.x = 1 then .tldXp8 f else if f.x = 2 then .tldXp16 f else .tld f)
  | 0xA4 => ofF3 w .tst | 0xA5 => ofFM w .seal | 0xA6 => ofFM w .reuse | 0xA7 => ofFM w .flush
  | 0xA8 => ofFM w .reshint | 0xB0 => ofFA w .atom | 0xB1 => ofFA w .satom | 0xB2 => ofFA w .redM
  | 0xC0 => ofFS w (fun f => if f.sub = 1 then .bwait f else if f.sub = 2 then .barw f else .barv f)
  | 0xC1 => ofFS w .bgrp | 0xC2 => ofFS w .gjoin | 0xC3 => ofFS w .gleave | 0xC4 => ofFA w .waita
  | 0xC5 => ofFA w .waitat | 0xC6 => ofFS w .rdv | 0xC8 => ofFA w .fst | 0xC9 => ofFA w .fld | 0xCA => ofFA w .fatom
  | 0xCB => ofFA w .ffence | 0xCC => ofFS w .coll | 0xCD => ofFS w .fwaitc | 0xD0 => ofFB w .br
  | 0xD1 => ofFB w .brany | 0xD2 => ofFB w .brnone | 0xD3 => ofFB w .call | 0xD4 => ofF3 w .calli
  | 0xD5 => ofF3 w .jmpi | 0xD6 => ofF3 w .ret | 0xD7 => ofFB w .mark | 0xD8 => ofFB w .forkm | 0xD9 => ofF3 w .join
  | 0xDA => ofF3 w .exit | 0xE0 => ofF3 w .mfeed | 0xE1 => ofF3 w .mfeedt
  | 0xE2 => ofF3 w (fun f => if f.x = 1 then .mdrainTl f else .mdrain f) | 0xE3 => ofFS w .fork | 0xF0 => ofFS w .csrr
  | 0xF1 => ofFS w .csrw | 0xF2 => ofFI w .sigchk
  | 0xF3 => ofFS w (fun f => if f.imm.msb then .trapAbort f else .trap f) | 0xF4 => ofFS w .brk | 0xF5 => ofFS w .time
  | 0xF6 => ofFS w .perf | 0xF7 => ofFS w .nop | 0xF8 => ofFS w .recmark | 0xF9 => ofFS w .recmode
  | 0xFA => ofFS w .spawn | 0xFB => ofFS w .tdep
  | _ => .error .opcode

/-- An instruction word of a control-core clause (R58). -/
def decodeCore (w : Word) : Except Reject Instr :=
  match (w.extractLsb' 0 8).toNat with
  | 0x00 => ofCA w .cadd | 0x01 => ofCA w .csub | 0x02 => ofCA w .cmul | 0x03 => ofCA w .cand | 0x04 => ofCA w .cor
  | 0x05 => ofCA w .cxor | 0x06 => ofCA w .cshl | 0x07 => ofCA w .cshr
  | 0x08 => ofCA w (fun f => if f.x = 1 then .cmoviHi f else .cmovi f) | 0x09 => ofCA w .ccmp | 0x0A => ofCA w .cld
  | 0x0B => ofCA w .cst | 0x10 => ofCB w .cbr | 0x11 => ofCB w .cloop | 0x12 => ofCA w .cjmp | 0x13 => ofCA w .cexit
  | 0x14 => ofCA w .crdv | 0x20 => ofCM w .mzero | 0x21 => ofCM w .mma
  | 0x22 => ofCM w (fun f => if f.x = 1 then .mscaleB f else .mscaleA f)
  | 0x23 => ofCM w (fun f => if f.x = 1 then .mldbM f else .mldb f) | 0x24 => ofCM w .mpub | 0x25 => ofCM w .mdone
  | 0x26 => ofCM w .mstamp | 0x27 => ofCM w (fun f => if f.x = 1 then .mwaitA f else .mwaitPub f)
  | _ => .error .opcode

/-- The instruction read from a table word of `nbits` bits. The two clause kinds share opcode values (R57, R58), and a header's ENG
says which a word belongs to; a word alone is read as one of a vector clause, or, where it is none, as one of the control core. -/
def decodeTableWord (nbits w : Nat) : Option Instr :=
  if nbits ≤ 64 then
    match decodeVec (BitVec.ofNat 64 (w % 2 ^ nbits)), decodeCore (BitVec.ofNat 64 (w % 2 ^ nbits)) with
    | .ok i, _ => some i
    | .error _, .ok i => some i
    | .error _, .error _ => none
  else none

/-! ### The encoder -/

/-- The major opcode of an instruction (R57, R58); 0xFF, which is never assigned, for an operation of an engine. -/
def Instr.opcode : Instr → BitVec 8
  | .add _ => 0x00 | .sub _ => 0x01 | .mul _ => 0x02 | .mulhi _ => 0x03 | .mad _ => 0x04 | .min _ => 0x05
  | .max _ => 0x06 | .adif _ => 0x07 | .and _ => 0x08 | .or _ => 0x09 | .xor _ => 0x0A | .not _ => 0x0B
  | .shl _ => 0x0C | .shr _ => 0x0D | .rot _ => 0x0E | .sel _ => 0x0F | .cmp _ => 0x10 | .clz _ => 0x11
  | .popc _ => 0x12 | .brev _ => 0x13 | .bfe _ => 0x14 | .bfi _ => 0x15 | .lane _ => 0x16 | .mov _ => 0x17
  | .addi _ => 0x18 | .andi _ => 0x19 | .ori _ => 0x1A | .xori _ => 0x1B | .movi _ => 0x1C | .muli _ => 0x1D
  | .sadd _ => 0x20 | .ssub _ => 0x21 | .smul _ => 0x22 | .smulhi _ => 0x23 | .smin _ => 0x24 | .smax _ => 0x25
  | .sand _ => 0x26 | .sor _ => 0x27 | .sxor _ => 0x28 | .sshl _ => 0x29 | .sshr _ => 0x2A | .scmp _ => 0x2B
  | .smov _ => 0x2C | .sclz _ => 0x2D | .spopc _ => 0x2E | .saddi _ => 0x30 | .sandi _ => 0x31 | .sori _ => 0x32
  | .sxori _ => 0x33 | .smovi _ => 0x34 | .scmpi _ => 0x35 | .qop _ => 0x36 | .qtest _ => 0x37 | .lea _ => 0x38
  | .slea _ => 0x39 | .fadd _ => 0x40 | .fsub _ => 0x41 | .fmul _ => 0x42 | .fma _ => 0x43 | .fmin _ => 0x44
  | .fmax _ => 0x45 | .fsgn _ => 0x46 | .fcmp _ => 0x47 | .fclass _ => 0x48 | .frnd _ => 0x49 | .sfadd _ => 0x4A
  | .sfmul _ => 0x4B | .sfma _ => 0x4C | .sfcmp _ => 0x4D | .cvt _ => 0x50 | .scvt _ => 0x51 | .pack2 _ => 0x52
  | .unpack _ => 0x53 | .scale _ => 0x54 | .fdot2 _ => 0x55 | .exp2 _ => 0x70 | .log2 _ => 0x71 | .rcp _ => 0x72
  | .rsq _ => 0x73 | .sqrt _ => 0x74 | .sin _ => 0x75 | .cos _ => 0x76 | .tanh _ => 0x77 | .sfn _ => 0x78
  | .shfl _ => 0x80 | .shflup _ => 0x81 | .shfldn _ => 0x82 | .shflx _ => 0x83 | .bcast _ => 0x84 | .red _ => 0x85
  | .scan _ => 0x86 | .ballot _ => 0x87 | .vote _ => 0x88 | .popl _ => 0x89 | .first _ => 0x8A | .rdlane _ => 0x8B
  | .wrlane _ => 0x8C | .ldN8 _ => 0x90 | .ldI8 _ => 0x91 | .ldN16 _ => 0x92 | .ldI16 _ => 0x93 | .ldB32 _ => 0x94
  | .ldB64 _ => 0x95 | .stN8 _ => 0x96 | .stN16 _ => 0x97 | .stB32 _ => 0x98 | .stB64 _ => 0x99 | .sldB32 _ => 0x9A
  | .sldB64 _ => 0x9B | .sstB32 _ => 0x9C | .sstB64 _ => 0x9D | .fence _ => 0x9E | .pref _ => 0x9F | .pgreq _ => 0xA0
  | .talloc _ => 0xA1 | .tfree _ => 0xA2 | .tld _ => 0xA3 | .tldXp8 _ => 0xA3 | .tldXp16 _ => 0xA3 | .tst _ => 0xA4
  | .seal _ => 0xA5 | .reuse _ => 0xA6 | .flush _ => 0xA7 | .reshint _ => 0xA8 | .atom _ => 0xB0 | .satom _ => 0xB1
  | .redM _ => 0xB2 | .barv _ => 0xC0 | .bwait _ => 0xC0 | .barw _ => 0xC0 | .bgrp _ => 0xC1 | .gjoin _ => 0xC2
  | .gleave _ => 0xC3 | .waita _ => 0xC4 | .waitat _ => 0xC5 | .rdv _ => 0xC6 | .fst _ => 0xC8 | .fld _ => 0xC9
  | .fatom _ => 0xCA | .ffence _ => 0xCB | .coll _ => 0xCC | .fwaitc _ => 0xCD | .br _ => 0xD0 | .brany _ => 0xD1
  | .brnone _ => 0xD2 | .call _ => 0xD3 | .calli _ => 0xD4 | .jmpi _ => 0xD5 | .ret _ => 0xD6 | .mark _ => 0xD7
  | .forkm _ => 0xD8 | .join _ => 0xD9 | .exit _ => 0xDA | .mfeed _ => 0xE0 | .mfeedt _ => 0xE1 | .mdrain _ => 0xE2
  | .mdrainTl _ => 0xE2 | .fork _ => 0xE3 | .csrr _ => 0xF0 | .csrw _ => 0xF1 | .sigchk _ => 0xF2 | .trap _ => 0xF3
  | .trapAbort _ => 0xF3 | .brk _ => 0xF4 | .time _ => 0xF5 | .perf _ => 0xF6 | .nop _ => 0xF7 | .recmark _ => 0xF8
  | .recmode _ => 0xF9 | .spawn _ => 0xFA | .tdep _ => 0xFB | .cadd _ => 0x00 | .csub _ => 0x01 | .cmul _ => 0x02
  | .cand _ => 0x03 | .cor _ => 0x04 | .cxor _ => 0x05 | .cshl _ => 0x06 | .cshr _ => 0x07 | .cmovi _ => 0x08
  | .cmoviHi _ => 0x08 | .ccmp _ => 0x09 | .cld _ => 0x0A | .cst _ => 0x0B | .cbr _ => 0x10 | .cloop _ => 0x11
  | .cjmp _ => 0x12 | .cexit _ => 0x13 | .crdv _ => 0x14 | .mzero _ => 0x20 | .mma _ => 0x21 | .mscaleA _ => 0x22
  | .mscaleB _ => 0x22 | .mldb _ => 0x23 | .mldbM _ => 0x23 | .mpub _ => 0x24 | .mdone _ => 0x25 | .mstamp _ => 0x26
  | .mwaitPub _ => 0x27 | .mwaitA _ => 0x27
  | _ => 0xFF

/-- The word of an instruction, from the formats of R54 and R231; none for an operation of an engine. -/
def encode (i : Instr) : Option Word :=
  match i.fields with
  | .f3 f => some (packF3 i.opcode f)
  | .fi f => some (packFI i.opcode f)
  | .fm f => some (packFM i.opcode f)
  | .fa f => some (packFA i.opcode f)
  | .fb f => some (packFB i.opcode f)
  | .fs f => some (packFS i.opcode f)
  | .ca f => some (packCA i.opcode f)
  | .cb f => some (packCB i.opcode f)
  | .cm f => some (packCM i.opcode f)
  | .none => none

/-- Whether the instruction belongs to control-core clauses (R58). -/
def Instr.isCore (i : Instr) : Bool :=
  match i.fields with
  | .ca _ | .cb _ | .cm _ => true
  | _ => false

/-- The decoder of the clause kind an instruction belongs to. -/
def decodeFor (core : Bool) (w : Word) : Except Reject Instr := if core then decodeCore w else decodeVec w

/-! ### Header and entry words -/

/-- A clause header (R37). -/
structure Header where
  stay : Bool
  rgn : Bool
  wait : BitVec 8
  cnt : BitVec 4
  eng : BitVec 4
  deriving DecidableEq, Repr

/-- The header a word holds: none where R39 raises ILLOP for reserved bits or a reserved ENG. -/
def decodeHeader (w : Word) : Option Header :=
  if w.extractLsb' 18 46 ≠ 0 ∨ (w.extractLsb' 0 4).toNat ≥ 2 then none
  else some { stay := wbit w 17, rgn := wbit w 16, wait := w.extractLsb' 8 8, cnt := w.extractLsb' 4 4, eng := w.extractLsb' 0 4 }

def encodeHeader (h : Header) : Word :=
  (0#46 ++ bit1 h.stay ++ bit1 h.rgn ++ h.wait ++ h.cnt ++ h.eng : BitVec 64)

/-- VNEED and TNEED of an entry word: none where R56 raises ILLOP. -/
def decodeEntry (w : Word) : Option (Nat × Nat) :=
  let v := (w.extractLsb' 8 8).toNat
  let t := (w.extractLsb' 16 6).toNat
  if w.extractLsb' 0 8 ≠ 0xFF ∨ w.extractLsb' 22 42 ≠ 0 ∨ v < 16 ∨ v > 128 ∨ v % 8 ≠ 0 ∨ t > 32 then none else some (v, t)

end Sys2Proof
end

