-- ==== Sys2Proof/Machine/State.lean ====
section
/-! DEFINITION. The state of the machine as plain data, and the state after reset. Each structure holds what one chapter of the
spec gives its engine; INVENTORY.md lists every piece with its rule and reset value. -/
namespace Sys2Proof.Machine
open Sys2Proof

/-! ### Faults of a group (R189) -/

/-- The fault causes (R189). -/
inductive Cause where
  | illop | latch | align | prot | unmapped | typemis | typeop | race | holdcap | tilebusy | tilebound | splitov | budget
  | sigmis | uncorr | brk | trap | fabric | barrier | matrix | pgpark
  deriving DecidableEq, Repr

/-- What a fault records besides its cause: the faulting word (R189), its lanes, the holder and the data address (R191). -/
structure FaultInfo where
  cause : Cause
  /-- address of the faulting word, or of the header -/
  iaddr : Nat
  lanes : Mask
  holder : Nat := 0
  daddr : Nat := 0
  /-- for MATRIX, the sub-code (R256); for UNMAPPED and PROT what the access was: 0 a read, 1 a write, 2 + page a
  fetch; for FABRIC, 0x80 where the failure of a port is the cause (R34) -/
  sub : Nat := 0
  /-- slot of the faulting instruction in its clause, as the matrix fault record has it (R256) -/
  slot : Nat := 0
  deriving DecidableEq, Repr

/-! ### A group (R112) -/

/-- Condition codes of a fragment (R112); MZ is derived from MASK. -/
structure CC where
  z : Bool := false
  n : Bool := false
  c : Bool := false
  v : Bool := false
  e : Bool := false
  deriving DecidableEq, Repr

/-- STATE of a split-table entry (R116, R120). -/
inductive FragState where
  | fetching | waiting | ready | issuing | parked | joinWait | halted
  deriving DecidableEq, Repr

/-- Vector, scalar and predicate registers; a register that is not listed holds zero (R96, R113). s0 to s59 and q0 to q14
only: s60 to s63 and q15 are no storage of their own (R112). -/
structure Regs where
  v : AList Nat VReg := []
  s : AList Nat Word := []
  q : AList Nat Mask := []
  deriving DecidableEq, Repr

/-- A latch's contents (R45). -/
structure Latch where
  kind : LKind
  v : VReg
  hi : VReg
  s : Word
  q : Mask
  deriving DecidableEq, Repr

/-- One lane's access to memory or a device: where, how wide, and the values it carries. `lane` 96 stands for a uniform access. -/
structure Acc where
  lane : Nat
  va : Nat
  pa : Nat
  size : Nat
  /-- value stored, or operand b of an atomic -/
  b : Word := 0
  /-- compare value of CAS -/
  c : Word := 0
  /-- bytes already supplied by held stores of the clause (R40 rule 5): bit k for byte k -/
  fwd : Nat := 0
  /-- device number of a fabric access -/
  dev : Nat := 0
  /-- the type its leaf named, and the TGEN that its translation recorded (R266) -/
  ct : BitVec 2 := 0
  tgen : Nat := 0
  deriving DecidableEq, Repr

/-- A commit-class or transfer instruction whose effect is not complete: the instruction, the operands it read at its slot,
and where it stands. -/
structure POp where
  instr : Instr
  iaddr : Nat
  /-- the next header of its clause -/
  nextHdr : Nat
  hdr : Nat
  a : Word := 0
  b : Word := 0
  c : Word := 0
  accs : List Acc := []
  mask : Mask := 0
  phase : Nat := 0
  aux : Nat := 0
  seq : Nat := 0
  slot : Nat := 0
  deriving DecidableEq, Repr

/-- What a parked or waiting fragment waits for. -/
inductive Park where
  | none
  /-- non-resident pages: the clause fetches or executes again when every request is answered (R39, R323) -/
  | pages (ps : List (Nat × Nat × Bool))
  /-- the pages of a committed PGREQ (R325): page, and the lanes that named it -/
  | pgreq (ps : List (Nat × Nat × Bool)) (op : POp)
  /-- a committed instruction that parks, retried when its condition may hold -/
  | op (p : POp)
  /-- queued hold reservations of the clause (R192) -/
  | holdq
  /-- the retype of a frame (R192) -/
  | retype (frame : Nat)
  /-- the device-scope release of the group's holds that follows a first HOLDCAP (R192) -/
  | release
  /-- a fault swap-out that the host or a debugger is to release (R104) -/
  | service
  deriving DecidableEq, Repr

/-- A late fault whose report has arrived and that is still to be taken (R42, R190). -/
structure Late where
  seq : Nat
  slot : Nat
  info : FaultInfo
  deriving DecidableEq, Repr

/-- A fetched clause (R39): its header's address, and its header and instruction words. -/
structure Clause where
  addr : Nat
  hdr : Header
  words : List Word
  deriving DecidableEq, Repr

/-- The open chunk of a fragment in the recorder (R364 to R367, R373, R381): its number, the chunks and the least stamp its own
stamp must exceed, instructions committed, those of its last clause with that clause's header, chunks ended, and the boundary codes
that are due. -/
structure Chunk where
  id : Nat := 0
  deps : List Nat := []
  floor : Nat := 0
  count : Nat := 0
  last : Nat := 0
  lastHdr : Nat := 0
  /-- the header of the clause before that one -/
  prevHdr : Nat := 0
  /-- SIG at the header of the clause under way, or of the last clause -/
  sig0 : BitVec 32 := 0x811C9DC5
  ended : Nat := 0
  /-- the code with which the chunk before this one ended -/
  cause : Nat := 0
  /-- SC words that the clause under way, or the last clause, has accessed, and the chunks that have observed one of those accesses -/
  words : List Nat := []
  seenBy : List Nat := []
  /-- another fragment observed an access of this chunk -/
  observed : Bool := false
  /-- the clause under way has observed, and is a chunk by itself -/
  split : Bool := false
  /-- the code to end with once the SC accesses of the committed clause are performed -/
  endCode : Option Nat := none
  /-- replay: the CHUNK record that the log gives it (R376) -/
  replay : Option (List Byte) := none
  deriving DecidableEq, Repr

/-- A split-table entry (R116), with the fragment's own ageing counter, pending reports, and chunk. -/
structure Entry where
  valid : Bool := false
  own : Mask := 0
  mask : Mask := 0
  rj : Nat := 0
  pc : Nat := 0
  cc : CC := {}
  sib : Nat := 0
  depth : Nat := 0
  waitk : Nat := 0
  st : FragState := .fetching
  /-- the rejoin address a join entry took at its MARK (R175) -/
  rejoin : Nat := 0
  age : Nat := 0
  forced : Bool := false
  since : Nat := 0
  park : Park := .none
  clause : Option Clause := none
  /-- the call being made to this fragment's target, its entry word still to be checked (R174) -/
  call : Option POp := none
  /-- the fragment's previous clause ended in class J, or it has had none (R185) -/
  fresh : Bool := true
  late : List Late := []
  haltReq : Bool := false
  /-- the entry of the capability that halted it; 256 for a fault delivered to the holders (R124, R192, R411) -/
  haltOn : Option Nat := none
  /-- the cause of the fault it halted on; 0 for a halt by a debugger -/
  haltCode : Nat := 0
  /-- the operation a late fault interrupted (R192) -/
  resume : Option POp := none
  /-- HOLDCAPs of the fragment's clause so far (R192) -/
  holdcap : Nat := 0
  stayed : Bool := false
  chunk : Chunk := {}
  deriving DecidableEq, Repr

/-- FLT (R189) with FLTM0 to FLTM2. -/
structure Flt where
  v : Bool := false
  late : Bool := false
  iaddr : Nat := 0
  cause : Nat := 0
  m : Mask := 0
  deriving DecidableEq, Repr

/-- The control registers of a group that have storage of their own, with their writer tags (R125, R127). -/
structure Ctl where
  ftz : Bool := false
  srseed : Word := 0
  srctr : Word := 0
  seen : Bool := false
  region : Nat := 0
  sig : BitVec 32 := 0x811C9DC5
  spncnt : Word := 0
  flt : Flt := {}
  hintdrop : Bool := false
  tFmode : Nat := 0
  tSrseed : Nat := 0
  tSrctr : Nat := 0
  tSig : Nat := 0
  tSpncnt : Nat := 0
  tRegent : Nat := 0
  tFlt : Nat := 0
  deriving DecidableEq, Repr

/-- The register writes a tokened instruction makes when its token clears (R47): vector registers with the lanes written,
scalar registers, predicates with the lanes written. -/
structure Land where
  v : List (Nat × Mask × VReg) := []
  s : List (Nat × Word) := []
  q : List (Nat × Mask × Mask) := []
  deriving DecidableEq, Repr

/-- A token that is set, or a result still in flight (R47): who set it, the instruction with the lanes it executes, what it has
received so far, and the requests it waits for. -/
structure Pend where
  tok : Option Nat
  frag : Nat
  instr : Instr
  mask : Mask := 0
  /-- values received, by lane (96 for a uniform form), and lanes that met a non-resident page (R178) -/
  vals : List (Nat × Word) := []
  nres : Mask := 0
  /-- tile elements still to be read, once their chunks have landed: lane and element indices (R183); and elements of those lanes that held
  tile stores of the clause give (R40 rule 5) -/
  tiles : List (Nat × List Nat) := []
  held : List (Nat × Nat) := []
  /-- writes already computed at the slot -/
  land : Land := {}
  wait : List Nat := []
  committed : Bool := false
  /-- an MDRAIN that has not yet delivered (R253) -/
  mc : Bool := false
  /-- discarded by a SIGMIS restart: it writes nothing (R186) -/
  dead : Bool := false
  /-- clause number × 16 + slot of an MDRAIN, by which its late faults are ordered (R190), and the entry that takes them -/
  seq : Nat := 0
  dest : Nat := 16
  deriving DecidableEq, Repr

/-- A held store (R40 rule 5, R179): its slot, its ordering, its type of page and its lanes. -/
structure Held where
  slot : Nat
  tok : Option Nat
  ord : Nat
  scope : Nat
  accs : List Acc
  deriving DecidableEq, Repr

/-- A held tile store (R183): slot, handle, element size in bytes, and per lane the element and its value. -/
structure HeldT where
  slot : Nat
  tok : Option Nat
  tile : Nat
  esz : Nat
  els : List (Nat × Nat × Word)
  deriving DecidableEq, Repr

/-- The level of a tile (R182). -/
inductive TLevel where
  | cu | gang | l2
  deriving DecidableEq, Repr

/-- A held TALLOC or TFREE (R182) of a slot. -/
structure TileOp where
  free : Bool
  h : Nat
  rows : Nat := 0
  cols : Nat := 0
  esz : Nat := 0
  level : TLevel := .cu
  slot : Nat := 0
  deriving DecidableEq, Repr

/-- What the last slot of a clause leaves to commit. -/
inductive Tail where
  | none
  | commitOp (p : POp)
  | jump (p : POp)
  deriving DecidableEq, Repr

/-- The clause-local view of the clause that is issuing (R40 to R46, R112). -/
structure Ctx where
  entry : Nat
  addr : Nat
  hdr : Header
  words : List Word
  slot : Nat := 0
  /-- the activity mask in force (R40 rule 2) -/
  mask : Mask
  /-- am0 to am2 as stored so far (R114) -/
  am : Mask
  amDirty : Bool := false
  cc : CC
  /-- the slot of the last flag write -/
  ccSlot : Nat := 0
  view : Regs
  /-- the control registers and counters at clause start (R128, R129) -/
  ctl0 : Ctl := {}
  perf0 : List (Nat × Nat) := []
  sWritten : List Nat := []
  lat : AList Nat Latch := []
  stores : List Held := []
  tsts : List HeldT := []
  tops : List TileOp := []
  csrw : List (Nat × Nat × Word) := []
  /-- the MARKs of the clause: the rejoin address, the free entry each took, and the stored mask at its slot (R175) -/
  marks : List (Nat × Nat × Mask) := []
  rs : Nat := 0
  /-- outside values the slots took, with their VALUE kinds: logged when the clause commits (R361, R369) -/
  outs : List (Nat × Nat) := []
  faults : List (Nat × FaultInfo) := []
  /-- requests the commit waits for: loads and hold reservations -/
  wait : List Nat := []
  /-- opcodes of the slots issued, for SIG (R185) -/
  ops : List (BitVec 8) := []
  beats : Nat := 0
  skipped : Nat := 0
  obsSib : Bool := false
  tail : Tail := .none
  deriving DecidableEq, Repr

/-- Where a group stands: resident, swapped out (R104), in a frozen cluster (R384), all fragments gone (R17), retired. -/
inductive GStat where
  | resident | swapped | frozen | exited | retired
  deriving DecidableEq, Repr

/-- A gang's name. -/
abbrev GId := GangId

/-- A group of 96 lanes (R14, R112, R117). -/
structure Group where
  lgn : Nat
  block : BlockId
  gix : Nat
  part : Nat
  vregs : Nat
  status : GStat := .resident
  regs : Regs := {}
  stag : AList Nat Nat := []
  ents : List Entry
  ctl : Ctl := {}
  perf : List (Nat × Nat) := []
  pend : List Pend := []
  ctx : Option Ctx := none
  frec : List Byte := []
  exited : Mask := 0
  /-- clauses committed: the agent's program order (R261) -/
  seq : Nat := 0
  deriving DecidableEq, Repr

/-! ### Blocks, tiles and gangs (R14, R95, R182, R201) -/

/-- A handle's tile (R182, R219). A byte that is not listed and was never written reads as a free value of the allocation
(an opaque function of `alloc` and the offset); `owned` lists the 2 KiB chunks a stream copy still owns. -/
structure Tile where
  rows : Nat
  cols : Nat
  esz : Nat
  level : TLevel
  alloc : Nat
  bytes : AList Nat Byte := []
  owned : List Nat := []
  /-- outputs whose drain a TFREE waits for (R214) -/
  freeing : Bool := false
  deriving DecidableEq, Repr

/-- A `.gang` tile of a gang (R182, R201): its members at the first TALLOC, the BIDs whose share exists, those revoked or freed. -/
structure GTile where
  handle : Nat
  rows : Nat
  cols : Nat
  esz : Nat
  alloc : Nat
  members : List Nat
  present : List Nat
  gone : List Nat := []
  bytes : AList Nat Byte := []
  deriving DecidableEq, Repr

/-- Why a block is swapped out (R104). -/
inductive SwapCause where
  | none | fault (lgn e : Nat) (code : Nat) | pgpark | evicted
  deriving DecidableEq, Repr

/-- A block on its CU (R14, R95, R104). -/
structure Block where
  id : BlockId
  cu : Nat
  base : Nat
  spad : Nat
  ntiles : Nat
  tiles : AList Nat Tile := []
  inGang : Bool := true
  swapped : Bool := false
  why : SwapCause := .none
  retired : Bool := false
  /-- every group has exited and the outputs have been started (R209) -/
  drained : Bool := false
  deriving DecidableEq, Repr

/-- An nb cell (R195). -/
structure NbCell where
  gang : GId
  name : Nat
  gen : Nat := 0
  mask : BitVec 8
  pmask : BitVec 8 := 0
  pv : Bool := false
  /-- groups that have arrived at GEN -/
  arr : List Nat := []
  /-- blocks counted as arrived by GLEAVE (R201) -/
  left : List Nat := []
  deriving DecidableEq, Repr

/-- An nd cell (R195). -/
structure NdCell where
  slot : Nat
  name : Nat
  gen : Nat := 0
  count : Nat
  pcount : Nat := 0
  pv : Bool := false
  /-- groups that have arrived at GEN, and the gangs (KIDs) whose arrival that made (R195, R196) -/
  arr : List Nat := []
  gangs : List Nat := []
  deriving DecidableEq, Repr

/-- A placed gang (R14, R33, R96). -/
structure Gang where
  id : GId
  lclu : Nat
  cells : List NbCell := []
  tiles : List GTile := []
  retired : Bool := false
  /-- the cause of a kill that waits for the gang's committed accesses to be performed (R302, R407) -/
  killed : Option Nat := none
  deriving DecidableEq, Repr

/-! ### Tasks, queues and the dispatch engine (R85 to R111) -/

/-- The launch record fields a task keeps (R89). -/
structure LRec where
  ty : Nat
  idem : Bool
  graphid : Nat
  pasid : Nat
  kentry : Nat
  gangs : Nat
  blocks : Nat
  groups : Nat
  vregs : Nat
  tiles : Nat
  spad : Nat
  extdep : Nat
  nin : Nat
  nout : Nat
  taskseed : Word
  argptr : Word
  copytab : Nat
  pred : List Nat
  graphtab : Nat
  nodes : Nat
  stamp : Nat
  seq : Word
  deriving DecidableEq, Repr

/-- A shape record (R212). -/
structure ShapeRec where
  base : Nat
  rank : Nat
  ety : Option Ty
  xform : Nat
  padval : Nat
  ext : List Nat
  stride : List Nat
  padl0 : Nat
  padh0 : Nat
  padl1 : Nat
  padh1 : Nat
  gidx : Nat
  ok : Bool
  deriving DecidableEq, Repr

/-- A copy descriptor (R210) with its shape record. -/
structure CopyDesc where
  cls : Nat
  queue : Nat
  dkind : Nat
  fkind : Nat
  tile : Nat
  level : Nat
  dst : Nat
  kstride : Nat
  bstride : Nat
  flag : Nat
  fval : Word
  gcount : Nat
  shape : ShapeRec
  deriving DecidableEq, Repr

/-- A task's state (R93); a graph instance's own record uses `running`. -/
inductive TState where
  | waiting | gating | ready | running | done
  deriving DecidableEq, Repr

/-- Task slot entry (R24, R90 to R111). -/
structure Task where
  slot : Nat
  gen : Nat
  queue : Nat
  /-- acceptance order on the device -/
  order : Nat
  lr : LRec
  copies : List CopyDesc := []
  st : TState := .waiting
  ext : Nat := 0
  gatesLeft : Nat := 0
  /-- next unissued gang index, and indices returned by a failed die -/
  nextKid : Nat := 0
  returned : List Nat := []
  /-- granted ranges not yet placed: die, gang index -/
  granted : List (Nat × Nat) := []
  gangsRetired : Nat := 0
  retiredKids : List Nat := []
  relaunch : List (Nat × Nat) := []
  relaunchPending : List Nat := []
  relaunchTotal : Nat := 0
  failed : Option Nat := none
  failNode : Nat := 0xFFFFFFFF
  frec : List Byte := []
  tdepref : Bool := false
  reported : Bool := false
  keys : List (Nat × Nat × Nat × Nat) := []
  /-- for a node: the instance's task slot and node index; for an instance: its version -/
  parent : Option (Nat × Nat) := none
  version : Option Nat := none
  coll : List (Nat × Nat) := []
  age : Nat := 0
  spawned : Bool := false
  /-- bytes of the retained store that its record, descriptors and node table take (R90) -/
  retained : Nat := 0
  nd : List NdCell := []
  /-- devices its groups stored to since their last FFENCE or release FST there (R353) -/
  fdevs : List Nat := []
  /-- logical group numbers of gangs killed: gang, block, group index, number; kept for a relaunch, or until the report (R25, R108) -/
  keptIds : List (Nat × Nat × Nat × Nat) := []
  deriving DecidableEq, Repr

/-- A record of SPAWN that awaits parse (R110): the group that spawned it, its task's PASID, where the record stands, and its bytes. -/
structure SpawnRec where
  grp : Nat
  issuer : Nat
  pa : Nat
  bytes : List Byte
  /-- its queue was disabled when it came, or has been since (R85) -/
  dead : Bool := false
  deriving DecidableEq, Repr

/-- The parse under way of a queue (R87, R88, R90): of a spawned record, or of the watched slot at an address; the bytes, read once; under
replay, the handle that the log gives; the pages it waits for, and those the host has refused it. `old`: the queue was enabled anew
meanwhile, so that its count is not this slot's. `code`: it is refused, and its STAMP is still to be written. -/
structure Parse where
  spawn : Option SpawnRec := none
  at_ : Nat := 0
  bytes : List Byte
  logged : Option Nat := none
  waitPages : List Nat := []
  badPages : List Nat := []
  old : Bool := false
  code : Option Nat := none
  /-- the PASID that asked for the pages, whatever the queue's is since (R85) -/
  pasid : Nat := 0
  deriving DecidableEq, Repr

/-- A hardware queue (R85, R87, R97, R107). -/
structure Queue where
  pasid : Nat := 0
  slotlog : Nat := 4
  cmplog : Nat := 4
  weight : Nat := 1
  cls : Nat := 2
  irq : Bool := false
  en : Bool := false
  win : Nat := 0
  cmp : Nat := 0
  head : Nat := 0
  seqExp : Word := 0
  written : Nat := 0
  /-- passes round the completion ring made when the queue was enabled: PHASE counts from there (R107) -/
  pass0 : Nat := 0
  /-- records of SPAWN awaiting parse, oldest first -/
  spawned : List SpawnRec := []
  parse : Option Parse := none
  deriving DecidableEq, Repr

/-- A system-call ring set (R106). -/
structure ScSet where
  pasid : Nat := 0
  log : Nat := 4
  en : Bool := false
  rqb : Nat := 0
  rpb : Nat := 0
  rqh : Nat := 0
  rpt : Nat := 0
  rqt : Nat := 0
  rph : Nat := 0
  /-- requests awaiting a reply: sequence number, group, fragment -/
  waitingFor : List (Nat × Nat × Nat) := []
  deriving DecidableEq, Repr

/-- A version of a graph handle (R99, R100). -/
structure GVersion where
  num : Nat
  pasid : Nat
  nodes : List (LRec × List CopyDesc)
  deriving DecidableEq, Repr

/-- The dispatch engine (R85 to R106). Queues and ring sets not listed hold their reset values. -/
structure Disp where
  queues : AList Nat Queue := []
  sets : AList Nat ScSet := []
  scDiscard : Nat := 0
  clsw : List Nat := [8, 4, 2, 1]
  relim : Nat := 2
  deficit : List Nat := [0, 0, 0, 0]
  lastQ : List Nat := [127, 127, 127, 127]
  /-- placements made in the queue turn under way: class, queue, count -/
  turn : Option (Nat × Nat × Nat) := none
  /-- clusters kept for tasks whose age has reached 256 (R97): task slot, cluster -/
  reserved : List (Nat × Nat) := []
  gens : AList Nat Nat := []
  graphs : AList Nat Nat := []
  versions : List GVersion := []
  deadDies : List Nat := []
  /-- the leader die (R102) -/
  leader : Nat := 0
  orderNext : Nat := 0
  verNext : Nat := 0
  deriving DecidableEq, Repr

/-! ### The memory engine (R259 to R335) -/

/-- A word tag (R296). -/
structure WordTag where
  stamp : Nat := 7
  hold : Bool := false
  clm : Bool := false
  wst : Nat := 0
  valid : Bool := false
  dirty : Bool := false
  owner : Nat := 0
  deriving DecidableEq, Repr

/-- A directory entry (R297). HP is no storage of its own: a function of the tags and reservations (`hpOf`). -/
structure DirEnt where
  shv : BitVec 112 := 0
  host : Bool := false
  hostx : Bool := false
  noc : Bool := false
  pend : Bool := false
  deriving DecidableEq, Repr

/-- A line of an L1: VALID and DIRTY words, and the bytes of the dirty ones (a clean word equals its home). -/
structure L1Line where
  valid : BitVec 32
  dirty : BitVec 32
  data : AList Nat Byte
  deriving DecidableEq, Repr

/-- A frame-type table entry (R265). -/
structure Frame where
  ty : BitVec 2 := 0
  rt : Bool := false
  ob : Bool := false
  tgen : Nat := 0
  oslot : Nat := 0
  okid : Nat := 0
  obid : Nat := 0
  deriving DecidableEq, Repr

/-- What a request asks of the homes. -/
inductive RKind where
  | load | store | atomic | release | seal | reuse | flush | resv | hostAtomic
  deriving DecidableEq, Repr

/-- Who made a request: a group's fragment, or a control core. -/
inductive Orig where
  | grp (lgn e : Nat)
  | core (lclu : Nat)
  deriving DecidableEq, Repr

/-- A request in flight to one line's home (R261, R295, R303); a release, a seal, a reuse or a flush has no line of its own. -/
structure Req where
  id : Nat
  kind : RKind
  agent : Nat
  orig : Orig
  /-- the CU that sent it; 896 and above for none -/
  cu : Nat := 896
  /-- program order: clause number × 16 + slot -/
  seq : Nat
  ct : BitVec 2 := 0
  ord : Nat := 0
  scope : Nat := 0
  accs : List Acc := []
  ty : Ty := .b32
  x : Nat := 0
  /-- invalidations sent -/
  sent : Bool := false
  /-- performed; what is left is its answer or its late report -/
  performed : Bool := false
  /-- the low halves of a packed atomic are done (R308) -/
  half : Bool := false
  /-- values fixed at the home, by lane -/
  vals : List (Nat × Word) := []
  /-- lanes refused: cause, lane, virtual address, holder -/
  refused : List (Cause × Nat × Nat × Nat) := []
  iaddr : Nat := 0
  tok : Option Nat := none
  base : Nat := 0
  len : Nat := 0
  /-- the split index that its records carry, and the chunk of its clause (R363, R369, R381) -/
  split : Nat := 0
  chunk : Nat := 0
  deriving DecidableEq, Repr

/-- A hold reservation of a clause (R303): granted, or queued at the slice. -/
structure Resv where
  id : Nat
  lgn : Nat
  e : Nat
  slot : Nat
  iaddr : Nat
  mask : Mask
  agent : Nat
  line : Nat
  granted : Bool
  queued : Bool
  deriving DecidableEq, Repr

/-- An entry of a TLB (R321): a leaf of a PASID's tables. -/
structure TlbEnt where
  pasid : Nat
  va : Nat
  size : Nat
  pa : Nat
  ct : BitVec 2
  r : Bool
  w : Bool
  x : Bool
  /-- TGEN of each frame of the page that has been accessed through the entry (R266) -/
  tgens : AList Nat Nat := []
  deriving DecidableEq, Repr

/-- A PASID context entry (R316). -/
structure PasidEnt where
  root : Nat
  lv5 : Bool
  en : Bool
  deriving DecidableEq, Repr

/-- A page request (R326, R327): waiting for allowance, or sent in a group. -/
structure PReq where
  pasid : Nat
  page : Nat
  write : Bool
  exec : Bool
  grp : Option Nat := none
  /-- groups' fragments that asked by a hint (R330) -/
  hints : List Nat := []
  /-- groups whose swapped-out block the answer returns (R329) -/
  faulted : List (Nat × Nat) := []
  /-- the host has answered; some waiter's cluster is stopped and has yet to learn it (R386) -/
  answered : Bool := false
  deriving DecidableEq, Repr

/-- An invalidation sent to an L1 and not yet acknowledged (R299): the CU, the line, the words, and whether it is the whole line. -/
structure Inval where
  cu : Nat
  line : Nat
  words : BitVec 32
  whole : Bool
  deriving DecidableEq, Repr

/-- The retype registers and the command under way (R289). -/
structure Retype where
  base : Nat := 0
  /-- the first frame's address of the command under way -/
  cmdBase : Nat := 0
  newct : BitVec 2 := 0
  op : Nat := 0
  count : Nat := 0
  state : Nat := 0
  reason : Nat := 0
  done : Nat := 0
  /-- type and frames of the command under way: RTCTL may be written meanwhile -/
  cmdCt : BitVec 2 := 0
  cmdCount : Nat := 0
  /-- RT is set on the frames of the command under way -/
  rtSet : Bool := false
  /-- the first request that had not been admitted at step 1 of APPLY (R291) -/
  since : Nat := 0
  deriving DecidableEq, Repr

/-- The shootdown registers (R322). -/
structure Tlbi where
  va : Nat := 0
  /-- the first page of the command under way: TLBIA may be written meanwhile -/
  cmdVa : Nat := 0
  pasid : Nat := 0
  op : Nat := 0
  count : Nat := 0
  busy : Bool := false
  done : Nat := 0
  /-- requests in flight that used a dropped translation -/
  pendingReqs : List Nat := []
  deriving DecidableEq, Repr

/-- The memory engine below the bytes themselves. -/
structure Mem where
  tags : AList Nat WordTag := []
  dir : AList Nat DirEnt := []
  l1 : AList (Nat × Nat) L1Line := []
  /-- the lines of each L2 slice, by die × 512 + slice, the newest first (R293, R294) -/
  l2 : AList Nat (List Nat) := []
  l3 : List Nat := []
  frames : AList Nat Frame := []
  reqs : List Req := []
  resv : List Resv := []
  inval : List Inval := []
  /-- lines with a back-invalidation outstanding (R312) -/
  bi : List Nat := []
  /-- of those, the lines the host was granted again meanwhile (R313) -/
  biAgain : List Nat := []
  /-- lines whose sharers have been asked to drop words that an engine, the hub or another device is to write (R299) -/
  asked : List Nat := []
  tlb : AList Nat (List TlbEnt) := []
  ttlb : AList Nat (List TlbEnt) := []
  /-- walk caches: die, PASID, level, index prefix of the virtual address, next table -/
  wcache : List (Nat × Nat × Nat × Nat × Nat) := []
  pasids : AList Nat PasidEnt := []
  /-- frames reserved to the device (R319) -/
  reservedFrames : List Nat := []
  preqs : List PReq := []
  /-- the host's allowance in use, and page request groups sent: group, PASID -/
  prgs : List (Nat × Nat) := []
  prgNext : Nat := 0
  pgpto : Nat := 50
  rf : Bool := false
  prgmax : Nat := 16
  /-- source claims (R217, R288): claiming agent and word -/
  claims : List (Nat × Nat) := []
  poison : List Nat := []
  /-- metadata bit of a WO line that left the L3 sealed (R301) -/
  sealed : List Nat := []
  l2pin : Nat := 16
  retype : Retype := {}
  tlbi : Tlbi := {}
  failedStacks : List Nat := []
  failedChans : List (Nat × Nat) := []
  errCnt : AList (Nat × Nat × Nat) Nat := []
  /-- memory error records produced, oldest first (R335) -/
  errRecs : List (List Byte) := []
  scrubHours : Nat := 24
  /-- the answer to the host's last read: its address, the poison indication, the bytes (R311) -/
  hostRd : Option (Nat × Bool × List Byte) := none
  /-- requests performed of late: tag, time and returned values (R314) -/
  recent : List (Nat × Nat × List (Nat × Word)) := []
  deriving DecidableEq, Repr

/-! ### Copies (R209 to R226) -/

/-- A copy instance (R209, R219, R221). -/
structure Inst where
  slot : Nat
  copy : Nat
  desc : CopyDesc
  kid : Nat
  bid : Nat
  /-- physical cluster of the copy engine -/
  clu : Nat
  startNo : Nat
  nextChunk : Nat := 0
  /-- virtual pages translated ahead (R221), and of those that are larger than 4 KiB, how many 4 KiB pages they take -/
  walked : List Nat := []
  span : AList Nat Nat := []
  flagDone : Bool := false
  stopped : Bool := false
  /-- its gang or its task has been killed while a chunk was partly written: it ends at the chunk's boundary (R225) -/
  ending : Bool := false
  waitPage : Option (Nat × Bool) := none
  /-- memory words it has written (R216) -/
  wrote : List Nat := []
  /-- of the chunk in progress, the bytes, once read, and the lines written already, while others wait for room (R270) -/
  buf : Option (List Byte) := none
  part : List Nat := []
  /-- its words in the source claim, and the gather indices it has read (R217) -/
  claimed : List Nat := []
  idx : AList Nat Nat := []
  deriving DecidableEq, Repr

/-- A copy engine's arbitration (R222): the round's position and deficits, and the instance served last in each queue. -/
structure CopyArb where
  deficit : List Nat := [0, 0, 0, 0]
  pos : Nat := 0
  granted : Bool := false
  last : List Nat := [0, 0, 0, 0]
  deriving DecidableEq, Repr

/-! ### The matrix engine (R227 to R258) -/

/-- An A register of one array (R238). -/
structure MaReg where
  full : Bool := false
  words : AList Nat (BitVec 32) := []
  scales : AList Nat Byte := []
  deriving DecidableEq, Repr

/-- An accumulator of one array (R239): elements not listed are +0. -/
structure McReg where
  wide : Bool := false
  published : Bool := false
  els : AList Nat Word := []
  drained : List Nat := []
  deriving DecidableEq, Repr

/-- One array (R238): `latch` is the register held in the operand collector. -/
structure Array8 where
  ma : AList Nat MaReg := []
  mc : AList Nat McReg := []
  latch : Option Nat := none
  deriving DecidableEq, Repr

/-- A B slot (R240). -/
structure BSlot where
  loaded : Bool := false
  bytes : AList Nat Byte := []
  scales : AList Nat Byte := []
  deriving DecidableEq, Repr

/-- A rendezvous (R237): round, arrivals of the open round and later ones, and the values of rounds that groups still await. -/
structure Rdv where
  round : Nat := 0
  arrivals : List (Nat × Nat) := []
  results : List (Nat × Nat × Word) := []
  deriving DecidableEq, Repr

/-- An MMA or MLDB issued and not yet finished. -/
structure MxJob where
  mma : Bool
  mc : Nat
  ma : Nat
  bs : Nat
  /-- an MLDB from memory -/
  mem : Bool := false
  deriving DecidableEq, Repr

/-- The open stamp (R247). -/
structure Stamp where
  tin0 : Word := 0
  tin1 : Word := 0
  tout0 : Word := 0
  waitc : Nat := 0
  compc : Nat := 0
  nmma : Nat := 0
  stopped : Bool := false
  deriving DecidableEq, Repr

/-- The clause a control core runs (R232), with its held stores. -/
structure CoreClause where
  addr : Nat
  hdr : Header
  words : List Word
  slot : Nat := 0
  stores : List Acc := []
  /-- a CLD's request, or hold reservations, outstanding -/
  wait : List Nat := []
  deriving DecidableEq, Repr

/-- A cluster's matrix context (R227, R230). -/
structure Mx where
  owner : Option GId := none
  home : Nat := 0
  parts : List Nat := []
  /-- changes of the participating set that take effect at the next MMA boundary -/
  leaving : List Nat := []
  joining : List Nat := []
  /-- arrays of retired blocks, whose contents go at the boundary -/
  lost : List Nat := []
  /-- the fragment that forked the core (entry 16 once it has gone), and clause number × 16 + slot of its FORK -/
  forker : Nat × Nat := (0, 0)
  forkSeq : Nat := 0
  c : AList Nat Word := []
  fz : Bool := false
  fn : Bool := false
  fc : Bool := false
  fv : Bool := false
  pc : Nat := 0
  run : Bool := false
  stopped : Bool := false
  xr : Nat := 0
  exitVal : Option Word := none
  clause : Option CoreClause := none
  b : AList Nat BSlot := []
  arr : AList Nat Array8 := []
  rdv : AList Nat Rdv := []
  frec : List Byte := []
  stamp : Stamp := {}
  jobs : List MxJob := []
  seq : Nat := 0
  waitPage : Option (Nat × Bool) := none
  /-- the capability of a halting watchpoint the core has matched, and the groups that have met the core since (R417) -/
  watched : Option Nat := none
  met : List Nat := []
  deriving DecidableEq, Repr

/-! ### The fabric engine (R336 to R358) -/

/-- A fabric window (R345). -/
structure FWin where
  v : Bool := false
  w : Bool := false
  rd : Bool := false
  size : Nat := 0
  base : Nat := 0
  deriving DecidableEq, Repr

/-- A packet on its way through this device's ports: where it came in (24 loopback or the hub itself), its age at its output
port, and when it was promoted (R344). -/
structure QPkt where
  pk : Packet
  inp : Nat
  age : Nat := 0
  promo : Option Nat := none
  flits : Nat
  deriving DecidableEq, Repr

/-- A flit kept for retry: its LSEQ and the packet it belongs to (R343). -/
structure RFlit where
  seq : Nat
  pk : Packet
  deriving DecidableEq, Repr

/-- A Buesh port (R336, R342 to R344). -/
structure Port where
  up : Bool := false
  failed : Bool := false
  m : Nat := 0
  /-- next LSEQ to send, next LSEQ expected, last LACK received -/
  lseq : Nat := 0
  expect : Nat := 0
  lack : Nat := 4095
  retry : List RFlit := []
  resends : Nat := 0
  stopIn : BitVec 4 := 0
  stopOut : BitVec 4 := 0
  /-- flits in the receive buffer, by VC -/
  rbuf : List Nat := [0, 0, 0, 0]
  /-- packets for this device that stand in the receive buffer, in arrival order, and those that came before their turn in a replay (R380) -/
  rq : List Packet := []
  early : List Packet := []
  /-- the LSEQ that a request to resend is to name (R343) -/
  nak : Option Nat := none
  /-- packets waiting for this output port -/
  outq : List QPkt := []
  pass : Nat := 0
  sentTurn : Nat := 0
  rr : List Nat := [0, 0, 0, 0]
  promoNext : Nat := 0
  deriving DecidableEq, Repr

/-- A fabric request awaiting its response (R346, R352, R353). -/
structure FReq where
  id : Nat
  dst : Nat
  tag : Nat
  pk : List Packet
  port : Nat
  resent : Bool := false
  lgn : Nat
  e : Nat
  seq : Nat
  iaddr : Nat
  tok : Option Nat
  /-- 0 FST, 1 FLD, 2 FATOM, 3 FFENCE, 4 the release of R353 -/
  kind : Nat
  accs : List Acc
  line : Nat
  parts : List Nat := []
  /-- the chunk of its clause (R381) -/
  chunk : Nat := 0
  deriving DecidableEq, Repr

/-- A gathered FATOM at its target (R350): source, tag, the packets received, and the old values of the low halves once the first
sub-request of a packed element has been performed (R308). -/
structure Gather where
  src : Nat
  tag : Nat
  got : List Packet
  lo : Option (List (Nat × Word)) := none
  /-- the lanes that the low sub-request refused -/
  bad : List (Nat × Cause × Nat) := []
  deriving DecidableEq, Repr

/-- A collective in progress on this device (R354 to R356). -/
structure Coll where
  slot : Nat
  n : Nat
  srcb : Nat
  dstb : Nat
  count : Nat
  op : Nat
  ty : Ty
  redop : Nat
  devs : List Nat
  cid : Nat
  root : Nat
  pasid : Nat
  /-- data received: rank, element, value -/
  got : List (Nat × Nat × Word) := []
  /-- participants whose first packet agreed -/
  agreed : List Nat := []
  /-- where the elements of DSTB lie -/
  dpas : List Nat := []
  /-- the words claimed and held for it (R288) -/
  srcWords : List Nat := []
  dstWords : List Nat := []
  deriving DecidableEq, Repr

/-- The fabric engine. Ports, windows and table entries not listed hold their reset values. -/
structure Fab where
  mesh : Bool := false
  en : Bool := false
  devno : Nat := 0
  dir : BitVec 48 := 0
  devrt : AList Nat (BitVec 24) := []
  domrt : AList Nat (BitVec 24) := []
  age : Nat := 48
  vcw : List Nat := [4, 4, 1, 2]
  fto : Nat := 100
  wins : AList Nat FWin := []
  ports : AList Nat Port := []
  outstanding : List FReq := []
  /-- requests of the hub itself that wait for room at their destination (R346) -/
  unsent : List FReq := []
  tags : AList Nat Nat := []
  /-- outcomes kept for 2 × FTO: source, tag, when it was performed, the response -/
  done : List (Nat × Nat × Nat × Packet) := []
  gather : List Gather := []
  colls : List Coll := []
  deriving DecidableEq, Repr

/-! ### The Damask recorder (R359 to R383) -/

/-- The source of a frame (R370): cluster recorder, slice logger, port logger or hub, and its number. -/
structure Src4 where
  kind : Nat
  num : Nat
  deriving DecidableEq, Repr

/-- A record of 32 bytes as its source emitted it (R368, R369). `chunk`: the open chunk whose stamp bytes 0x10 to 0x17 await. -/
structure RecRow where
  src : Src4
  bytes : List Byte
  chunk : Option Nat := none
  deriving DecidableEq, Repr

/-- A fragment as the recorder names it (R363): agent and split index; other agents have index 0. -/
structure FragId where
  agent : Nat
  split : Nat
  deriving DecidableEq, Repr

/-- An access entry (R363): the fragment that made the last access of an SC word and the number of its chunk. -/
structure AccEnt where
  frag : FragId
  chunk : Nat
  deriving DecidableEq, Repr

/-- A recording partition (R359). -/
structure RPart where
  size : Nat := 32
  twin : Nat := 0
  pair : Bool := false
  full : Bool := false
  mode : Nat := 0
  qm : BitVec 128 := 0
  id : Word := 0
  base : Nat := 0
  head : Nat := 0
  tail : Nat := 0
  /-- records written and not yet framed, in order of emission -/
  unwritten : List RecRow := []
  /-- FSEQ by source -/
  fseq : AList (Nat × Nat) Nat := []
  /-- replay: the records of the log not yet consumed, and the PAIR bit of the ORIGIN record at which it started (R373 to R375) -/
  log : List (List Byte) := []
  origPair : Bool := false
  /-- twin: replayed chunks whose digests are still to be compared: chunk, SIG at its end, record (R382) -/
  checks : List (Nat × BitVec 32 × List Byte) := []
  /-- halted by a divergence or a digest mismatch (R377, R383) -/
  halted : Bool := false
  divergence : List (List Byte) := []
  /-- chunks the twin has compared (R382), chunks ended and not yet compared, and whether the pair is broken -/
  compared : Nat := 0
  ended : Nat := 0
  unpaired : Bool := false
  /-- twin: bytes of log frames that have arrived, by their offset in the stream -/
  inbox : List (Nat × List Byte) := []
  /-- primary: frames streamed to the twin; twin: frames taken from the stream -/
  streamed : Nat := 0
  /-- interrupts to firmware for want of free frames (R360) -/
  irqs : Nat := 0
  deriving DecidableEq, Repr

/-- A chunk breakpoint register (R378). -/
structure Rbk where
  v : Bool := false
  all : Bool := false
  any : Bool := false
  cap : Nat := 0
  split : Nat := 0
  agent : Nat := 0
  stamp : Word := 0
  deriving DecidableEq, Repr

/-- The recorder beyond the partitions. -/
structure Rec where
  parts : AList Nat RPart := []
  access : AList Nat AccEnt := []
  /-- last access entries of group-shared registers: group and register -/
  shared : AList (Nat × Nat) AccEnt := []
  /-- the chunks each agent has ended, those that a later one is known to exceed left out (R365) -/
  lastChunk : AList Nat (List Nat) := []
  /-- eviction stamps: by partition × 2048 + slice -/
  evict : AList Nat Nat := []
  /-- the writes of chunks that carry a digest: their place in commit order, and the bytes that the digest takes (R381) -/
  writes : AList Nat (List (Nat × List Byte)) := []
  syncSeq : AList (Nat × Nat) Nat := []
  rseq : AList Nat Nat := []
  rbk : AList Nat Rbk := []
  /-- the next chunk number, the stamps of chunks that have one, and ended chunks whose stamp waits for others: number,
  chunks waited for, least stamp -/
  chunkNext : Nat := 1
  stamps : AList Nat Nat := []
  ends : List (Nat × List Nat × Nat) := []
  deriving DecidableEq, Repr

/-! ### Freeze (R384 to R397) -/

/-- FZSTAT.STATE (R384). -/
inductive FzState where
  | idle | running | stopping | scanning | restoring
  deriving DecidableEq, Repr

/-- What can arrive for a cluster whose clock is stopped (R386): a load's data, another request's response or its refusal report, the
answer to a hold reservation, to a page request group, or to a system call, the data of an MLDB, a fabric response or the failure of
a fabric request, and what wakes a parked fragment. -/
inductive ParkEv where
  | load (r : Nat)
  | done (r : Nat)
  | late (r : Nat)
  /-- the slice's answer to a hold reservation: granted, or HOLDCAP -/
  | resv (r : Nat) (ok : Bool)
  | prg (grp : Nat) (c : PrgCode)
  | fabric (port : Nat) (pk : Packet)
  /-- the refusal that an evaluation met: the fragment that takes it -/
  | fault (g e : Nat) (l : Late)
  | mldb (l bs : Nat)
  /-- the end of a fabric request that has had no response (R346) -/
  | lost (r : Nat)
  /-- the reply to a system call: the group, its entry, and its values for s0 and s1 -/
  | reply (g e : Nat) (v0 v1 : Word)
  | wake (g e : Nat)
  deriving DecidableEq, Repr

/-- An item parked at a stopped cluster's router (R386), in arrival order, and the mesh VC of the request it answers (4: fabric;
5: a wake entry). -/
structure Parked where
  vc : Nat
  ev : ParkEv
  deriving DecidableEq, Repr

/-- A physical cluster's freeze registers and stop (R384 to R387). Clusters not listed are idle with registers at reset. -/
structure Clu where
  imgbase : Nat := 0
  src : Nat := 0
  op : Nat := 0
  state : FzState := .idle
  stg : Bool := false
  sto : Bool := false
  reason : Nat := 0
  /-- logical cluster number of the last image taken -/
  lcluField : Nat := 0
  /-- logical cluster number of the context present (R26) -/
  lclu : Option Nat := none
  /-- the clock is stopped; the L1s are drained; waiting for a declared slot -/
  stopped : Bool := false
  drained : Bool := false
  noSlot : Bool := false
  park : List Parked := []
  imgSrc : Nat := 0
  deriving DecidableEq, Repr

/-- A saved image (R387 to R394): what its header holds and whether it is staged and stored. The context itself stays where it is
in the state, under its logical numbers, marked frozen. -/
structure Image where
  base : Nat
  lclu : Nat
  rev : Nat
  /-- physical cluster it was taken from -/
  srcClu : Nat
  src : Nat
  time : Nat
  gangs : List GId := []
  /-- the groups of its GRP section, slot by slot -/
  groups : List (Nat × GId) := []
  kill : List GId := []
  /-- which free value its STOPC is -/
  stopIx : Nat := 0
  outreq : List Nat := [0, 0, 0, 0]
  /-- the requests that outreq counts: number and VC -/
  owed : List (Nat × Nat) := []
  parkn : List Nat := [0, 0, 0, 0]
  park : List Parked := []
  /-- entries of its PARK section: those that had arrived when it was staged -/
  parkCount : Nat := 0
  staged : Bool := false
  stored : Bool := false
  deriving DecidableEq, Repr

/-- The freeze engine. -/
structure Frz where
  clus : AList Nat Clu := []
  images : List Image := []
  /-- areas that firmware has declared image slots -/
  slots : List Nat := []
  /-- clusters being restored: target, and the image -/
  restoring : List (Nat × Image) := []
  deriving DecidableEq, Repr

/-! ### Checkpoints (R398 to R405) -/

/-- The checkpoint path's registers and marks. The pool targets it addresses lie on other devices or in CXL memory; what they
hold is `pools`: per target (kind, device, base) its bytes by offset. -/
structure Ckpt where
  cmd : Nat := 0
  go : Bool := false
  state : Nat := 0
  reason : Nat := 0
  nshard : Nat := 0
  /-- marked lines (R398); the summary bit of a frame is a function of them (`frameMarked`) -/
  marks : List Nat := []
  /-- a TAKE whose shards are on their way to other devices: the directory entries to be made valid (target's kind, device and base, index)
  and the lines written (R402, R403) -/
  pending : Option (List (Nat × Nat × Nat × Nat) × List Nat) := none
  pools : AList (Nat × Nat × Nat) (List (Nat × Byte)) := []
  deriving DecidableEq, Repr

/-! ### Debug (R409 to R417) -/

/-- A capability (R409). -/
structure Cap where
  v : Bool := false
  root : Bool := false
  rights : BitVec 7 := 0
  parent : Nat := 0
  holder : Nat := 0
  subject : Nat := 0
  deriving DecidableEq, Repr

/-- A trace session (R412). -/
structure Sess where
  cap : Nat := 0
  kinds : BitVec 8 := 0
  sper : Nat := 0
  en : Bool := false
  task : Nat := 0
  base : Nat := 0
  sizelog : Nat := 16
  head : Nat := 0
  lost : Nat := 0
  /-- records dropped since the last LOST record -/
  dropped : Nat := 0
  deriving DecidableEq, Repr

/-- A watchpoint (R415). -/
structure Watch where
  base : Nat := 0
  cap : Nat := 0
  sess : Nat := 0
  act : Bool := false
  atm : Bool := false
  wr : Bool := false
  rd : Bool := false
  lines : Nat := 0
  deriving DecidableEq, Repr

/-- A match whose report is not yet written (R416): the watchpoint, 1 read, 2 write, 3 atomic, source kind, agent, task handle,
line, words, EXTRA, the group's fragment, if a group made the access, and the block of a copy that serves one. -/
structure Match where
  wp : Nat
  what : Nat
  srcKind : Nat
  agent : Nat
  task : Nat
  line : Nat
  words : BitVec 32
  extra : Nat
  grp : Option (Nat × Nat)
  blk : Option BlockId := none
  deriving DecidableEq, Repr

/-- The debug unit. -/
structure Dbg where
  caps : AList Nat Cap := []
  sess : AList Nat Sess := []
  wps : AList Nat Watch := []
  pending : List Match := []
  deriving DecidableEq, Repr

/-! ### Reliability and the platform (R35, R408, R420 to R435) -/

/-- The platform's registers and what the outside world has seen of it. -/
structure Plat where
  elBase : Nat := 0
  elLog : Nat := 0
  elHead : Nat := 0
  elTail : Nat := 0
  elDropped : Nat := 0
  time : Word := 0
  cap : Nat := 4000
  ptop : Nat := 0
  pnow : Nat := 0
  /-- a change of operating point under way (R420) -/
  changing : Option Nat := none
  /-- MSI-X vectors raised, newest first (R428) -/
  msix : List Nat := []
  linkUp : Bool := true
  failed : Bool := false
  recovery : Bool := false
  /-- the security version and release of the running image, and the minimum in the rollback fuses (R431, R432) -/
  svn : Nat := 0
  version : Word := 0
  minSvn : Nat := 0
  /-- an accepted update that the next reset starts -/
  staged : Option PoxisImage := none
  /-- SHA-512 of the running header and body; none for the image that runs at State.reset -/
  imgDigest : Option (List Byte) := none
  bodyLen : Nat := 0
  /-- no new gang until the average falls below CAP (R422) -/
  capHold : Bool := false
  /-- measurements returned, newest first: index, nonce and value (R433) -/
  measured : List (Nat × List Byte × List Byte) := []
  deriving DecidableEq, Repr

/-! ### The whole machine -/

/-- Which issuing agent goes on when the agenda is empty: a group or the control core of a logical cluster. -/
inductive Runner where
  | grp (lgn : Nat)
  | core (lclu : Nat)
  deriving DecidableEq, Repr

/-- The next thing that happens: an operation of an engine with the choices the manual leaves open, or one slot of the clause
that an agent issues. -/
inductive Action where
  | event (i : Instr)
  | issue (r : Runner)
  deriving DecidableEq, Repr

/-- Sparse memory: addresses strictly rising, no entry equal to zero, which is what an unlisted address reads as. -/
abbrev Memory := List Host.Cell

/-- What can stop the machine for good. -/
inductive Fault where
  /-- the host reads, writes or asks to own an address that R315 gives no memory; raised by that operation; safe -/
  | noMemory (pa : Nat)
  deriving DecidableEq, Repr

/-- Why a step has no effect in this state. -/
inductive Refusal where
  /-- raised by the dispatcher for an instruction without a meaning, of which there is none; safe -/
  | notModelled (mnemonic : String)
  /-- an operation of an engine was scheduled in a state in which the manual does not let it happen; safe -/
  | notEnabled (mnemonic : String)
  /-- an instruction was executed while no clause of its kind is issuing; safe -/
  | notIssuing
  deriving DecidableEq, Repr

/-- The machine. The first four fields are the model's own (notes/assumptions 2 and 3); the rest is what the spec gives it. -/
structure State where
  /-- outside inputs and interleaving still to come -/
  agenda : List Action
  /-- the agent that goes on when the agenda is empty -/
  cur : Option Runner
  /-- free values drawn so far -/
  free : Nat
  /-- identifiers given so far: requests, allocations, readiness order -/
  ids : Nat
  /-- device memory as the homes hold it (R315) -/
  mem : Memory
  /-- host memory (R274, R315) -/
  hostMem : Memory
  /-- what the HBM stacks hold, and the parity lines (R331, R332) -/
  hbm : Memory
  parity : Memory
  groups : AList Nat Group
  blocks : AList BlockId Block
  gangs : AList GId Gang
  tasks : AList Nat Task
  disp : Disp
  m : Mem
  insts : List Inst
  copyArb : AList Nat CopyArb
  cqnt : List Nat
  /-- matrix contexts by logical cluster number -/
  mx : AList Nat Mx
  fab : Fab
  damask : Rec
  frz : Frz
  ck : Ckpt
  dbg : Dbg
  plat : Plat
  deriving DecidableEq, Repr

/-- The machine right after the bring-up of R430: every register at the reset value its chapter states, every frame RC and
every word free, no task, gang or group, and nothing for the outside world to do. -/
def State.reset : State where
  agenda := []
  cur := none
  free := 0
  ids := 0
  mem := []
  hostMem := []
  hbm := []
  parity := []
  groups := []
  blocks := []
  gangs := []
  tasks := []
  disp := {}
  m := { reservedFrames := Config.reservedFrames }
  insts := []
  copyArb := []
  cqnt := [16, 8, 4, 2]
  mx := []
  fab := {}
  damask := {}
  frz := { slots := Config.imageSlots }
  ck := {}
  dbg := {}
  plat := {}

end Sys2Proof.Machine
end

