-- ==== Sys2Proof/Machine/Ops.lean ====
section
/-! DEFINITION. Named operations over the state: bytes and memory, lanes and masks, the registers of the clause-local view,
and the accessors of groups, blocks, gangs and tasks. -/
namespace Sys2Proof.Machine
open Sys2Proof

/-- The outcome of a step of this machine. -/
abbrev Out := Host.Outcome State Fault Refusal

/-! ### Bytes -/

/-- Little-endian bytes of a number (R2). -/
def leBytes : Nat → Nat → List Byte
  | 0, _ => []
  | n + 1, x => BitVec.ofNat 8 x :: leBytes n (x / 256)

/-- The number that little-endian bytes hold (R2). -/
def leNat : List Byte → Nat
  | [] => 0
  | b :: t => b.toNat + 256 * leNat t

/-- Bits hi:lo of a number. -/
def bits (x hi lo : Nat) : Nat := x / 2 ^ lo % 2 ^ (hi + 1 - lo)

/-- Bit k of a number. -/
def bitAt (x k : Nat) : Bool := x.testBit k

/-- One in a bit position, or nothing. -/
def b2n (b : Bool) : Nat := if b then 1 else 0

/-- The first `n` bytes of a list, zeros beyond its end. -/
def takeZ : Nat → List Byte → List Byte
  | 0, _ => []
  | n + 1, [] => 0 :: takeZ n []
  | n + 1, b :: t => b :: takeZ n t

/-- A little-endian field of a record. -/
def fieldOf (bs : List Byte) (ofs n : Nat) : Nat := leNat ((bs.drop ofs).take n)

/-- All bytes zero. -/
def allZero (bs : List Byte) : Bool := bs.all (· == 0)

/-- Sets bits hi:lo of a word. -/
def setBits (x hi lo v : Nat) : Nat := x - bits x hi lo * 2 ^ lo + v % 2 ^ (hi + 1 - lo) * 2 ^ lo

/-- Puts a number in its place in an ascending list; sorts a list. -/
def insertNat (x : Nat) : List Nat → List Nat
  | [] => [x]
  | y :: t => if x ≤ y then x :: y :: t else y :: insertNat x t
def sortNat (l : List Nat) : List Nat := l.foldr insertNat []

/-! ### Sparse memory -/

namespace Memory

/-- The byte at an address; an unlisted byte reads zero (notes/assumptions/6). -/
def get : Memory → Nat → Byte
  | [], _ => 0
  | (a', b) :: t, a => if a' = a then b else Memory.get t a

/-- Writes one byte and keeps the canonical form. -/
def put : Memory → Nat → Byte → Memory
  | [], a, b => if b = 0 then [] else [(a, b)]
  | (a', b') :: t, a, b =>
    if a < a' then (if b = 0 then (a', b') :: t else (a, b) :: (a', b') :: t)
    else if a = a' then (if b = 0 then t else (a, b) :: t)
    else (a', b') :: Memory.put t a b

/-- The first address of a list lies above `lo`, every address above the one before, and no byte is zero. -/
def wfFrom : Option Nat → Memory → Bool
  | _, [] => true
  | lo, (a, b) :: t => (match lo with | none => true | some l => decide (l < a)) && b != 0 && wfFrom (some a) t

/-- The canonical form. -/
def wf (m : Memory) : Bool := wfFrom none m

/-- `n` bytes from an address. -/
def getN (m : Memory) (a n : Nat) : List Byte := (List.range n).map fun i => m.get (a + i)

/-- Writes bytes from an address on. -/
def putN : Memory → Nat → List Byte → Memory
  | m, _, [] => m
  | m, a, b :: t => Memory.putN (m.put a b) (a + 1) t

/-- The little-endian number of `n` bytes. -/
def getLE (m : Memory) (a n : Nat) : Nat := leNat (m.getN a n)

end Memory

/-! ### Lanes and masks -/

/-- A vector register from a function of the lane. -/
def vec (f : Nat → BitVec 32) : VReg := Vector.ofFn fun i => f i.val

/-- A lane of a vector register. -/
def lane (v : VReg) (i : Nat) : BitVec 32 := if h : i < 96 then v[i] else 0

/-- The zero vector register (R96, R113). -/
def vzero : VReg := Vector.replicate 96 0

/-- A mask from a function of the lane: bit k for lane k. -/
def maskFrom (f : Nat → Bool) : Nat → Nat
  | 0 => 0
  | n + 1 => maskFrom f n + (if f n then 2 ^ n else 0)
def maskOf (f : Nat → Bool) : Mask := BitVec.ofNat 96 (maskFrom f 96)

/-- All lanes. -/
def allLanes : Mask := BitVec.allOnes 96

/-- The lanes of a mask, ascending. -/
def lanesOf (m : Mask) : List Nat := (List.range 96).filter fun i => m.getLsbD i

/-- Number of lanes set. -/
def popLanes (m : Mask) : Nat := (lanesOf m).length

/-- The beats a mask issues (R15, R118). -/
def beatsOf (m : Mask) : Nat :=
  b2n (m.extractLsb' 0 32 != 0) + b2n (m.extractLsb' 32 32 != 0) + b2n (m.extractLsb' 64 32 != 0)

/-- Bits 32b + 31 to 32b of a mask (R114). -/
def maskWord (m : Mask) (b : Nat) : BitVec 32 := m.extractLsb' (32 * b) 32

/-- A mask with one of its three words replaced. -/
def setMaskWord (m : Mask) (b : Nat) (w : BitVec 32) : Mask :=
  maskOf fun i => if i / 32 = b then w.getLsbD (i % 32) else m.getLsbD i

/-! ### Registers of a view (R112) -/

namespace Regs

def getV (r : Regs) (n : Nat) : VReg := r.v.get n vzero
def getS (r : Regs) (n : Nat) : Word := r.s.get n 0
/-- q15 reads all ones (R112). -/
def getQ (r : Regs) (n : Nat) : Mask := if n = 15 then allLanes else r.q.get n 0
def setV (r : Regs) (n : Nat) (x : VReg) : Regs := { r with v := r.v.put n x }
def setS (r : Regs) (n : Nat) (x : Word) : Regs := { r with s := r.s.put n x }
def setQ (r : Regs) (n : Nat) (x : Mask) : Regs := { r with q := r.q.put n x }

/-- Writes the lanes of a mask; the others keep their value (R113). -/
def mergeV (r : Regs) (n : Nat) (m : Mask) (x : VReg) : Regs :=
  r.setV n (vec fun i => if m.getLsbD i then lane x i else lane (r.getV n) i)
def mergeQ (r : Regs) (n : Nat) (m x : Mask) : Regs := r.setQ n ((r.getQ n &&& ~~~m) ||| (x &&& m))

end Regs

/-- A scalar register as a clause reads it: s60 to s62 are the stored mask, s63 is zero (R112, R114). -/
def Ctx.getS (c : Ctx) (n : Nat) : Word :=
  if n = 63 then 0 else if n ≥ 60 then (maskWord c.am (n - 60)).setWidth 64 else c.view.getS n

/-- The latch of a slot (R45). -/
def Ctx.latch (c : Ctx) (n : Nat) : Option Latch := c.lat.find? n

/-! ### Groups, blocks, gangs, tasks -/

namespace State

def group? (s : State) (g : Nat) : Option Group := s.groups.find? g
def updGroup (s : State) (g : Nat) (f : Group → Group) : State := { s with groups := s.groups.upd g f }
def block? (s : State) (b : BlockId) : Option Block := s.blocks.find? b
def updBlock (s : State) (b : BlockId) (f : Block → Block) : State := { s with blocks := s.blocks.upd b f }
def gang? (s : State) (g : GId) : Option Gang := s.gangs.find? g
def updGang (s : State) (g : GId) (f : Gang → Gang) : State := { s with gangs := s.gangs.upd g f }
def task? (s : State) (t : Nat) : Option Task := s.tasks.find? t
def updTask (s : State) (t : Nat) (f : Task → Task) : State := { s with tasks := s.tasks.upd t f }
def queueD (s : State) (q : Nat) : Queue := s.disp.queues.get q {}
def setQueue (s : State) (q : Nat) (x : Queue) : State := { s with disp := { s.disp with queues := s.disp.queues.put q x } }
def mxD (s : State) (l : Nat) : Mx := s.mx.get l {}
def setMx (s : State) (l : Nat) (x : Mx) : State := { s with mx := s.mx.put l x }
def setCtx (s : State) (g : Nat) (c : Option Ctx) : State := s.updGroup g fun gr => { gr with ctx := c }

end State

/-- A new identifier. -/
def freshId (s : State) : Nat × State := (s.ids, { s with ids := s.ids + 1 })

/-- A new index of the free values. -/
def freshFree (s : State) : Nat × State := (s.free, { s with free := s.free + 1 })

/-- The task a group belongs to. -/
def taskOf (s : State) (gr : Group) : Option Task := s.task? gr.block.gang.slot

/-- The logical agent number of a group (R24): KIND 0, the logical group number. -/
def agentOfGroup (lgn : Nat) : Nat := lgn
/-- KIND 1: copy index and task slot (R24). -/
def agentOfCopy (slot copy : Nat) : Nat := 0x200000 + slot * 16 + copy
/-- KIND 2: the control core of a logical cluster (R24). -/
def agentOfCore (lclu : Nat) : Nat := 0x400000 + lclu
/-- KIND 3: the host, by PASID (R24). -/
def agentHost (pasid : Nat) : Nat := 0x600000 + pasid
/-- KIND 4, a remote device (R24). -/
def agentRemote (dev : Nat) : Nat := 0x800000 + dev
/-- KIND 5, a management core (R24). -/
def agentMgmt : Nat := 0xA00000
/-- The agent number of what is no agent of R24 (R416). The arbiter reads as a group would, inside no holder's scope but the device's (R90). -/
def agentNone : Nat := 0xFFFFFF
/-- KIND and INDEX of an agent number. -/
def agentKind (a : Nat) : Nat := a / 2 ^ 21
def agentIndex (a : Nat) : Nat := a % 2 ^ 21

/-- The entry of a fragment. -/
def Group.ent (gr : Group) (e : Nat) : Entry := gr.ents.getD e {}

/-- Changes one entry. -/
def Group.updEnt (gr : Group) (e : Nat) (f : Entry → Entry) : Group :=
  { gr with ents := gr.ents.modify e f }

/-- The valid entries' indices. -/
def Group.valids (gr : Group) : List Nat := (List.range 16).filter fun e => (gr.ent e).valid

/-- The fragments: valid entries that are not join entries (R175). -/
def Group.frags (gr : Group) : List Nat := gr.valids.filter fun e => (gr.ent e).st ≠ .joinWait

/-- The free entries, ascending (R174). -/
def Group.frees (gr : Group) : List Nat := (List.range 16).filter fun e => !(gr.ent e).valid

/-- The groups of a block, a gang, a task; the groups of a partition. -/
def groupsOfBlock (s : State) (b : BlockId) : List Nat := (s.groups.filter fun p => decide (p.2.block = b)).map (·.1)
def groupsOfGang (s : State) (g : GId) : List Nat := (s.groups.filter fun p => decide (p.2.block.gang = g)).map (·.1)
def groupsOfTask (s : State) (t : Nat) : List Nat := (s.groups.filter fun p => p.2.block.gang.slot == t).map (·.1)
def blocksOfGang (s : State) (g : GId) : List BlockId := (s.blocks.filter fun p => decide (p.1.gang = g)).map (·.1)
def gangsOfTask (s : State) (t : Nat) : List GId := (s.gangs.filter fun p => p.1.slot == t).map (·.1)

/-- The CU a group runs on, its cluster and its die (R10). -/
def cuOfPart (p : Nat) : Nat := p / 4
def cluOfCu (cu : Nat) : Nat := cu / 8
def dieOfClu (c : Nat) : Nat := c / 28
def Group.cu (gr : Group) : Nat := cuOfPart gr.part

/-- The physical cluster that holds a logical cluster's context (R26). -/
def physClu (s : State) (lclu : Nat) : Option Nat :=
  (List.find? (fun (p : Nat × Clu) => decide (p.2.lclu = some lclu)) s.frz.clus).map (·.1)

/-- A cluster's freeze registers. -/
def cluD (s : State) (c : Nat) : Clu := s.frz.clus.get c {}
def setClu (s : State) (c : Nat) (x : Clu) : State := { s with frz := { s.frz with clus := s.frz.clus.put c x } }

/-- The cluster's clock runs. -/
def clockRuns (s : State) (c : Nat) : Bool := !(cluD s c).stopped

/-- The context of a logical cluster is neither in a cluster whose clock is stopped nor in an image alone (R385, R396). -/
def ctxRuns (s : State) (l : Nat) : Bool := (physClu s l).all (clockRuns s) && !(s.frz.images.any fun im => im.lclu == l)

/-- Folds a state over a list. -/
def foldS {α : Type} (s : State) (l : List α) (f : State → α → State) : State := l.foldl f s

/-- A refusal by name. -/
def notEnabled (m : String) : Out := .refused (.notEnabled m)

/-- An operation that happens when its condition holds. -/
def when (m : String) (ok : Bool) (t : State) : Out := if ok then .next t else notEnabled m

end Sys2Proof.Machine
end

