-- ==== Sys2Proof/Machine/Fp.lean ====
section
/-! DEFINITION. Number formats and arithmetic (R64 to R84): exact values, one rounding, the overflow and NaN rules of each
format, and the special functions. -/
namespace Sys2Proof

/-- The element type of a packed type (R65). -/
def Ty.elem : Ty → Ty
  | .bf16x2 => .bf16
  | .f16x2 => .f16
  | t => t

/-- Bits of a value of the type. -/
def Ty.width : Ty → Nat
  | .i8 | .n8 | .e4m3 | .e5m2 => 8
  | .i16 | .n16 | .f16 | .bf16 => 16
  | .i64 | .n64 | .b64 | .f64 => 64
  | .e2m1 => 4
  | _ => 32

def Ty.signed : Ty → Bool
  | .i8 | .i16 | .i32 | .i64 => true
  | _ => false

/-- The integer types .i8 to .n64 (R53). -/
def Ty.isInt : Ty → Bool
  | .i8 | .i16 | .i32 | .i64 | .n8 | .n16 | .n32 | .n64 => true
  | _ => false

/-- The floating types, packed pairs included. -/
def Ty.isFloat : Ty → Bool
  | .f64 | .f32 | .f16 | .bf16 | .e4m3 | .e5m2 | .e2m1 | .bf16x2 | .f16x2 => true
  | _ => false

def Ty.packed : Ty → Bool
  | .bf16x2 | .f16x2 => true
  | _ => false

/-- A type's range. -/
def Ty.maxInt (t : Ty) : Int := if t.signed then 2 ^ (t.width - 1) - 1 else 2 ^ t.width - 1
def Ty.minInt (t : Ty) : Int := if t.signed then -2 ^ (t.width - 1) else 0

end Sys2Proof

namespace Sys2Proof.Machine
open Sys2Proof

/-- A floating value: NaN, an infinity, or (−1)^neg × m × 2^e exactly. -/
inductive FV where
  | nan
  | inf (neg : Bool)
  | fin (neg : Bool) (m : Nat) (e : Int)
  deriving DecidableEq, Repr

/-- A rounding: a direction of R72, or a stochastic draw (R75). -/
inductive Rnd where
  | rn | rz | ru | rd
  | rs (rb : Nat)
  deriving DecidableEq, Repr

/-- A format (R64): exponent bits, fraction bits, bias, largest finite magnitude as an encoding, and whether it has infinities. -/
structure Fmt where
  eb : Nat
  fb : Nat
  bias : Nat
  maxEnc : Nat
  hasInf : Bool
  nanEnc : Nat
  deriving DecidableEq, Repr

/-- The format of a floating element type; an integer type has none and reads as FP32. -/
def fmtOf : Ty → Fmt
  | .f64 => ⟨11, 52, 1023, 0x7FEFFFFFFFFFFFFF, true, 0x7FF8000000000000⟩
  | .f16 | .f16x2 => ⟨5, 10, 15, 0x7BFF, true, 0x7E00⟩
  | .bf16 | .bf16x2 => ⟨8, 7, 127, 0x7F7F, true, 0x7FC0⟩
  | .e5m2 => ⟨5, 2, 15, 0x7B, true, 0x7E⟩
  | .e4m3 => ⟨4, 3, 7, 0x7E, false, 0x7F⟩
  | .e2m1 => ⟨2, 1, 1, 0x7, false, 0x0⟩
  | _ => ⟨8, 23, 127, 0x7F7FFFFF, true, 0x7FC00000⟩

/-- Number of significant bits of a number. -/
def bitLen (n : Nat) : Nat := if n = 0 then 0 else n.log2 + 1

/-- The value an encoding stands for (R64). -/
def fpDecode (t : Ty) (x : Nat) : FV :=
  let f := fmtOf t
  let fr := x % 2 ^ f.fb
  let ex := x / 2 ^ f.fb % 2 ^ f.eb
  let neg := bitAt x (f.fb + f.eb)
  if f.hasInf && ex == 2 ^ f.eb - 1 then (if fr = 0 then .inf neg else .nan)
  else if (t == .e4m3) && ex == 15 && fr == 7 then .nan
  else if ex = 0 then .fin neg fr (1 - (f.bias : Int) - f.fb)
  else .fin neg (fr + 2 ^ f.fb) ((ex : Int) - f.bias - f.fb)

/-- Whether a discarded part rounds the magnitude up: floor, discarded part of 2^d, d. -/
def roundUp (r : Rnd) (neg : Bool) (fl rem d : Nat) : Bool :=
  match r with
  | .rn => decide (2 * rem > 2 ^ d) || (2 * rem == 2 ^ d && fl % 2 == 1)
  | .rz => false
  | .ru => !neg && rem != 0
  | .rd => neg && rem != 0
  | .rs rb => decide (rb < rem * 2 ^ 32 / 2 ^ d)

/-- Rounds m × 2^e to a multiple of 2^q. -/
def roundAt (r : Rnd) (neg : Bool) (m : Nat) (e q : Int) : Nat :=
  if q ≤ e then m * 2 ^ (e - q).toNat
  else
    let d := (q - e).toNat
    let fl := m / 2 ^ d
    if roundUp r neg fl (m % 2 ^ d) d then fl + 1 else fl

/-- The magnitude bits of m × 2^q, m at most 2^(fb + 1), with the exponent range unbounded above. -/
def packMag (f : Fmt) (m : Nat) (q : Int) : Nat :=
  if m < 2 ^ f.fb then m
  else (q + f.fb + f.bias).toNat * 2 ^ f.fb + (m - 2 ^ f.fb)

/-- The sign bit in place. -/
def signBit (f : Fmt) (neg : Bool) : Nat := if neg then 2 ^ (f.fb + f.eb) else 0

/-- Infinity's encoding in an IEEE format. -/
def infEnc (f : Fmt) : Nat := (2 ^ f.eb - 1) * 2 ^ f.fb

/-- What a finite value past the largest finite becomes (R73). -/
def overflowEnc (t : Ty) (nosat : Bool) (r : Rnd) (neg : Bool) : Nat :=
  let f := fmtOf t
  let big := signBit f neg + f.maxEnc
  let inf := signBit f neg + infEnc f
  let ieee := match r with
    | .rn | .rs _ => inf
    | .rz => big
    | .ru => if neg then big else inf
    | .rd => if neg then inf else big
  match t with
  | .e5m2 => if nosat then ieee else big
  | .e4m3 => if nosat then f.nanEnc else big
  | .e2m1 => big
  | _ => ieee

/-- Rounds a value into a format and encodes it, with R68 and R73. -/
def fpEncode (t : Ty) (nosat : Bool) (r : Rnd) (v : FV) : Nat :=
  let f := fmtOf t
  match v with
  | .nan => f.nanEnc
  | .inf neg =>
    match t with
    | .e4m3 => if nosat then f.nanEnc else signBit f neg + f.maxEnc
    | .e2m1 => signBit f neg + f.maxEnc
    | _ => signBit f neg + infEnc f
  | .fin neg m e =>
    if m = 0 then signBit f neg
    else
      let q := max (e + bitLen m - (f.fb + 1)) (1 - (f.bias : Int) - f.fb)
      let enc := packMag f (roundAt r neg m e q) q
      if enc > f.maxEnc then overflowEnc t nosat r neg else signBit f neg + enc

/-! ### Exact operations -/

/-- A signed integer times 2^e; a zero takes the sign given. -/
def ofInt (x : Int) (e : Int) (zneg : Bool) : FV := if x = 0 then .fin zneg 0 0 else .fin (decide (x < 0)) x.natAbs e

/-- The signed significand at exponent q, which is at most e. -/
def sigAt (neg : Bool) (m : Nat) (e q : Int) : Int :=
  let a : Int := (m * 2 ^ (e - q).toNat : Nat)
  if neg then -a else a

/-- The sign of an exact zero sum (R67). -/
def zeroSign (r : Rnd) (n1 n2 : Bool) : Bool := if n1 = n2 then n1 else decide (r = .rd)

/-- a + b exactly. A sum of two nonzero values that cancel is +0, or −0 under .rd. -/
def fvAdd (r : Rnd) (a b : FV) : FV :=
  match a, b with
  | .nan, _ => .nan
  | _, .nan => .nan
  | .inf x, .inf y => if x = y then .inf x else .nan
  | .inf x, _ => .inf x
  | _, .inf y => .inf y
  | .fin n1 m1 e1, .fin n2 m2 e2 =>
    let q := min e1 e2
    ofInt (sigAt n1 m1 e1 q + sigAt n2 m2 e2 q) q (zeroSign r n1 n2)

def fvNeg : FV → FV
  | .nan => .nan
  | .inf x => .inf !x
  | .fin n m e => .fin (!n) m e

/-- a × b exactly. -/
def fvMul (a b : FV) : FV :=
  match a, b with
  | .nan, _ => .nan
  | _, .nan => .nan
  | .inf x, .inf y => .inf (x != y)
  | .inf x, .fin n m _ => if m = 0 then .nan else .inf (x != n)
  | .fin n m _, .inf y => if m = 0 then .nan else .inf (n != y)
  | .fin n1 m1 e1, .fin n2 m2 e2 => .fin (n1 != n2) (m1 * m2) (e1 + e2)

/-- The exact sum of a list of values (R77, R81): an infinity meeting its opposite, or any NaN, gives a NaN. An exact zero has
the sign every term agrees in, else that of the direction. -/
def fvSum (r : Rnd) : List FV → FV
  | [] => .fin false 0 0
  | [a] => a
  | a :: t => fvAdd r a (fvSum r t)

/-- A signed integer as a value; zero is +0. -/
def fvOfInt (x : Int) : FV := ofInt x 0 false

/-- a × 2^k. -/
def fvScale (a : FV) (k : Int) : FV :=
  match a with
  | .fin n m e => .fin n m (e + k)
  | x => x

/-- Order of two numbers: none when a NaN takes part; −0 equals +0. -/
def fvCmp (a b : FV) : Option Ordering :=
  match a, b with
  | .nan, _ => none
  | _, .nan => none
  | .inf x, .inf y => some (if x = y then .eq else if x then .lt else .gt)
  | .inf x, _ => some (if x then .lt else .gt)
  | _, .inf y => some (if y then .gt else .lt)
  | .fin n1 m1 e1, .fin n2 m2 e2 =>
    let q := min e1 e2
    some (compare (sigAt n1 m1 e1 q) (sigAt n2 m2 e2 q))

/-- Rounds to an integer (R152, R74); the sign of a zero result is kept apart. -/
def fvRoundInt (r : Rnd) (neg : Bool) (m : Nat) (e : Int) : Nat := if e ≥ 0 then m * 2 ^ e.toNat else roundAt r neg m e 0

/-! ### Elements of a type -/

/-- A constant operand of a floating type (R50). -/
def constFp (t : Ty) (c : Int) : Nat := fpEncode t.elem false .rn (fvOfInt c)

/-- FTZ applies to a value of this type (R69). -/
def ftzType (t : Ty) : Bool := t == .f32 || t == .f16 || t == .f16x2

/-- A subnormal's bits become a zero of its sign (R69). -/
def flushBits (t : Ty) (ftz : Bool) (x : Nat) : Nat :=
  let f := fmtOf t
  if ftz && ftzType t && x / 2 ^ f.fb % 2 ^ f.eb == 0 then signBit f (bitAt x (f.fb + f.eb)) else x

/-- FADD, FSUB, FMUL and FMA on one element (R147). -/
def fpAdd (t : Ty) (r : Rnd) (ftz : Bool) (a b : Nat) : Nat :=
  flushBits t ftz (fpEncode t false r (fvAdd r (fpDecode t (flushBits t ftz a)) (fpDecode t (flushBits t ftz b))))
def fpSub (t : Ty) (r : Rnd) (ftz : Bool) (a b : Nat) : Nat :=
  flushBits t ftz (fpEncode t false r (fvAdd r (fpDecode t (flushBits t ftz a)) (fvNeg (fpDecode t (flushBits t ftz b)))))
def fpMul (t : Ty) (r : Rnd) (ftz : Bool) (a b : Nat) : Nat :=
  flushBits t ftz (fpEncode t false r (fvMul (fpDecode t (flushBits t ftz a)) (fpDecode t (flushBits t ftz b))))
def fpFma (t : Ty) (r : Rnd) (ftz : Bool) (a b c : Nat) : Nat :=
  flushBits t ftz (fpEncode t false r
    (fvAdd r (fvMul (fpDecode t (flushBits t ftz a)) (fpDecode t (flushBits t ftz b))) (fpDecode t (flushBits t ftz c))))

/-- FMIN and FMAX (R148): the number beside a NaN; −0 below +0. -/
def fpMinMax (isMax : Bool) (t : Ty) (ftz : Bool) (a0 b0 : Nat) : Nat :=
  let a := flushBits t ftz a0
  let b := flushBits t ftz b0
  match fpDecode t a, fpDecode t b with
  | .nan, .nan => (fmtOf t).nanEnc
  | .nan, _ => b
  | _, .nan => a
  | x, y =>
    match fvCmp x y with
    | some .lt => if isMax then b else a
    | some .gt => if isMax then a else b
    | _ =>
      let f := fmtOf t
      if bitAt a (f.fb + f.eb) == isMax then b else a

/-- A relation of FCMP (R150). -/
def fpRel (x : Nat) (t : Ty) (ftz : Bool) (a b : Nat) : Bool :=
  match fvCmp (fpDecode t (flushBits t ftz a)) (fpDecode t (flushBits t ftz b)), x with
  | none, 1 => true
  | none, 6 => true
  | none, _ => false
  | some o, 0 => o == .eq
  | some o, 1 => o != .eq
  | some o, 2 => o == .lt
  | some o, 3 => o != .gt
  | some o, 4 => o == .gt
  | some o, 5 => o != .lt
  | some _, 6 => false
  | some _, _ => true

/-- FCLASS's bit (R151). -/
def fpClass (t : Ty) (x : Nat) : Nat :=
  let f := fmtOf t
  let neg := bitAt x (f.fb + f.eb)
  let ex := x / 2 ^ f.fb % 2 ^ f.eb
  let fr := x % 2 ^ f.fb
  if ex = 2 ^ f.eb - 1 then
    (if fr = 0 then (if neg then 0 else 7) else if bitAt x (f.fb - 1) then 9 else 8)
  else if ex = 0 then (if fr = 0 then (if neg then 3 else 4) else if neg then 2 else 5)
  else if neg then 1 else 6

/-- FRND (R152). -/
def fpRnd (t : Ty) (r : Rnd) (ftz : Bool) (a : Nat) : Nat :=
  let x := flushBits t ftz a
  match fpDecode t x with
  | .nan => (fmtOf t).nanEnc
  | .inf n => signBit (fmtOf t) n + infEnc (fmtOf t)
  | .fin n m e => fpEncode t false .rn (.fin n (fvRoundInt r n m e) 0)

/-- SCALE (R158). -/
def fpScale (t : Ty) (r : Rnd) (a : Nat) (k : Int) : Nat := fpEncode t false r (fvScale (fpDecode t a) k)

/-! ### Conversion (R72 to R75, R155) -/

/-- Clamp to the type's range (R66). -/
def clampInt (t : Ty) (x : Int) : Int := if x > t.maxInt then t.maxInt else if x < t.minInt then t.minInt else x

/-- Ext(x, t) of R130. -/
def extInt (t : Ty) (x : Nat) : Int :=
  let y := x % 2 ^ t.width
  if t.signed && bitAt y (t.width - 1) then (y : Int) - 2 ^ t.width else y

/-- x mod 2^w as bits. -/
def wrapInt (w : Nat) (x : Int) : Nat := (x % (2 ^ w : Nat)).toNat

/-- Floating to integer (R74). -/
def fpToInt (t : Ty) (r : Rnd) : FV → Int
  | .nan => 0
  | .inf neg => if neg then t.minInt else t.maxInt
  | .fin neg m e =>
    let k : Int := fvRoundInt r neg m e
    clampInt t (if neg then -k else k)

/-- The rounding MOD selects; `rb` is the draw of .rs. -/
def rndOf (md : Nat) (rb : Nat) : Rnd :=
  match md with
  | 0 => .rn | 1 => .rz | 2 => .ru | 3 => .rd
  | _ => .rs rb

/-- CVT: the destination's bits from the source's (R155). -/
def cvtBits (dt st : Ty) (md rb : Nat) (nosat : Bool) (x : Nat) : Nat :=
  if dt.isFloat then
    fpEncode dt nosat (rndOf md rb) (if st.isFloat then fpDecode st x else fvOfInt (extInt st x))
  else if st.isFloat then wrapInt dt.width (fpToInt dt (rndOf md rb) (fpDecode st x))
  else wrapInt dt.width (if md = 1 then clampInt dt (extInt st x) else extInt st x)

/-- A value of a type as a lane or scalar register holds it (R145): sign-extended for .i types, else zero-extended. -/
def widen (t : Ty) (w : Nat) (x : Nat) : Nat := if t.signed then wrapInt w (extInt t x) else x % 2 ^ t.width

/-- The draw of R76 for an element: SRSEED, counter, position, whether the element is odd. -/
def srBits (seed ctr : Word) (pos : Nat) : Word :=
  let x := seed ^^^ (ctr * 0x9E3779B97F4A7C15) ^^^ (BitVec.ofNat 64 pos * 0xBF58476D1CE4E5B9)
  let x := (x ^^^ (x >>> 30)) * 0xBF58476D1CE4E5B9
  let x := (x ^^^ (x >>> 27)) * 0x94D049BB133111EB
  x ^^^ (x >>> 31)
def srDraw (seed ctr : Word) (pos e : Nat) : Nat :=
  let x := (srBits seed ctr (pos + 96 * (e / 2))).toNat
  if e % 2 = 0 then x % 2 ^ 32 else x / 2 ^ 32

/-! ### Special functions (R83, R84, R160) -/

/-- Floor of the square root, by binary digits from 2^b down. -/
def isqrtFrom : Nat → Nat → Nat → Nat
  | 0, r, n => if (r + 1) * (r + 1) ≤ n then r + 1 else r
  | b + 1, r, n => isqrtFrom b (if (r + 2 ^ (b + 1)) * (r + 2 ^ (b + 1)) ≤ n then r + 2 ^ (b + 1) else r) n
def isqrt (n : Nat) : Nat := isqrtFrom (bitLen n / 2 + 1) 0 n

/-- A magnitude between q and q + 1 in units of 2^e (equal to q when exact), as a value that rounds as the true one does. -/
def sticky (neg : Bool) (q : Nat) (exact : Bool) (e : Int) : FV := .fin neg (2 * q + b2n (!exact)) (e - 1)

def sfRcp : FV → FV
  | .nan => .nan
  | .inf n => .fin n 0 0
  | .fin n m e =>
    if m = 0 then .inf n
    else
      let k := bitLen m + 64
      sticky n (2 ^ k / m) (2 ^ k % m == 0) (-(k : Int) - e)

/-- m and e with e even. -/
def evenExp (m : Nat) (e : Int) : Nat × Int := if e % 2 = 0 then (m, e) else (2 * m, e - 1)

def sfSqrt : FV → FV
  | .nan => .nan
  | .inf n => if n then .nan else .inf false
  | .fin n m e =>
    if m = 0 then .fin n 0 0
    else if n then .nan
    else
      let p := evenExp m e
      let x := p.1 * 2 ^ 128
      let q := isqrt x
      sticky false q (q * q == x) (p.2 / 2 - 64)

def sfRsq : FV → FV
  | .nan => .nan
  | .inf n => if n then .nan else .fin false 0 0
  | .fin n m e =>
    if m = 0 then .inf n
    else if n then .nan
    else
      let p := evenExp m e
      let k := bitLen p.1 + 64
      let q := isqrt (2 ^ (2 * k) / p.1)
      sticky false q (q * q * p.1 == 2 ^ (2 * k)) (-(k : Int) - p.2 / 2)

/-- Working precision of the fixed-point functions, in bits. -/
def fxBits : Nat := 400
def fxOne : Nat := 2 ^ fxBits

/-- 2^f for the low `n` bits of a binary fraction f: `s` is 2^(2^−k) at the current bit. -/
def exp2Frac : Nat → Nat → Nat → Nat → Nat
  | 0, _, _, acc => acc
  | n + 1, f, s, acc =>
    let s' := isqrt (s * fxOne)
    exp2Frac n f s' (if bitAt f n then acc * s' / fxOne else acc)

def sfExp2 : FV → FV
  | .nan => .nan
  | .inf n => if n then .fin false 0 0 else .inf false
  | .fin n m e =>
    if m = 0 then .fin false 1 0
    else if e + bitLen m > 13 then .fin false 1 (if n then -10000 else 10000)
    else if e + bitLen m < -40 then (if n then .fin false (2 ^ 64 - 1) (-64) else .fin false (2 ^ 64 + 1) (-64))
    else
      let x : Int := if e ≥ 0 then sigAt n m e 0 * 2 ^ 100
        else sigAt n m (e + 100) 0
      -- x is the operand in units of 2^−100; bits below that do not occur at these magnitudes
      let w := x / 2 ^ 100
      let f := (x % 2 ^ 100).toNat
      if f = 0 then .fin false 1 w
      else sticky false (exp2Frac 100 f (2 * fxOne) fxOne) false (w - fxBits)

/-- `n` binary digits of log2 y for y in [1, 2), y in units of 2^−fxBits. -/
def log2Frac : Nat → Nat → Nat → Nat
  | 0, _, acc => acc
  | n + 1, y, acc =>
    let y2 := y * y / fxOne
    if y2 ≥ 2 * fxOne then log2Frac n (y2 / 2) (2 * acc + 1) else log2Frac n y2 (2 * acc)

def sfLog2 : FV → FV
  | .nan => .nan
  | .inf n => if n then .nan else .inf false
  | .fin n m e =>
    if m = 0 then .inf true
    else if n then .nan
    else
      let l := bitLen m
      let i : Int := e + l - 1
      if m = 2 ^ (l - 1) then fvOfInt i
      else
        let fr : Int := log2Frac 128 (m * 2 ^ (fxBits - (l - 1))) 0
        let v := i * 2 ^ 128 + fr
        if v ≥ 0 then sticky false v.toNat false (-128) else sticky true ((-v).toNat - 1) false (-128)

/-- Taylor terms x − x³/6 + … from the term `t` of index `k`, `n` terms more, with x² given; all in units of 2^−fxBits. -/
def taylor : Nat → Nat → Int → Int → Int → Int
  | 0, _, _, _, acc => acc
  | n + 1, k, x2, t, acc =>
    let t' := -(t * x2 / fxOne) / ((k + 1) * (k + 2) : Nat)
    taylor n (k + 2) x2 t' (acc + t')

def fxSin (x : Int) : Int := taylor 60 1 (x * x / fxOne) x x
def fxCos (x : Int) : Int := taylor 60 0 (x * x / fxOne) fxOne fxOne

/-- Floor of 2π × 2^fxBits. -/
def fxTwoPi : Nat := 0x6487ed5110b4611a62633145c06e0e68948127044533e63a0105df531d89cd9128a5043cc71a026ef7ca8cd9e69d218d98158

/-- |x| reduced modulo 2π, in units of 2^−fxBits. -/
def fxReduce (m : Nat) (e : Int) : Nat := (if e + fxBits ≥ 0 then m * 2 ^ (e + fxBits).toNat else m / 2 ^ (-(e + fxBits)).toNat) % fxTwoPi

/-- sin and cos of a reduced angle. -/
def fxSinCos (r : Nat) (isCos : Bool) : Int :=
  let q := fxTwoPi / 4
  let k := r / q
  let x : Int := (r % q : Nat)
  match (if isCos then k + 1 else k) % 4 with
  | 0 => fxSin x
  | 1 => fxCos x
  | 2 => -fxSin x
  | _ => -fxCos x

/-- e^−y for y in units of 2^−fxBits: halved ten times, summed, squared ten times. -/
def expTaylor : Nat → Nat → Int → Int → Int → Int
  | 0, _, _, _, acc => acc
  | n + 1, k, y, t, acc =>
    let t' := -(t * y / fxOne) / ((k + 1 : Nat) : Int)
    expTaylor n (k + 1) y t' (acc + t')
def squareN : Nat → Int → Int
  | 0, x => x
  | n + 1, x => squareN n (x * x / fxOne)
def fxExpNeg (y : Nat) : Int := squareN 10 (expTaylor 70 0 (y / 2 ^ 10 : Nat) fxOne fxOne)

/-- The neighbour of the true value that the part returns: `y` is the magnitude in units of 2^−fxBits. -/
def sfPick (fn : Nat) (t : Ty) (key : Nat) (neg : Bool) (y : Nat) : FV :=
  if y = 0 then .fin neg 0 0
  else
    let f := fmtOf t
    let q := max (-(fxBits : Int) + bitLen y - (f.fb + 1)) (1 - (f.bias : Int) - f.fb)
    let d := (q + fxBits).toNat
    let lo := y / 2 ^ d
    let fr := y % 2 ^ d * 2 ^ 32 / 2 ^ d
    if y % 2 ^ d = 0 then .fin neg lo q
    else if fr ≥ Config.sfCut fn (WF.codeOfTy t) (2 * (lo * 2 ^ 20 + (q + 200).toNat) + key * 2 ^ 400) % (2 ^ 32 + 1) then .fin neg (lo + 1) q
    else .fin neg lo q

/-- SIN (fn 5) and COS (fn 6) of R83: outside the interval on which the function is monotonic the choice may depend on the operand. -/
def sfTrig (isCos : Bool) (t : Ty) (x : Nat) : FV :=
  match fpDecode t x with
  | .nan => .nan
  | .inf _ => .nan
  | .fin n m e =>
    if m = 0 then (if isCos then .fin false 1 0 else .fin n 0 0)
    else
      let v := fxSinCos (fxReduce m e) isCos
      let inside := if isCos then decide (e + bitLen m < 3) && decide (fxReduce m e ≤ fxTwoPi / 2)
        else decide (e + bitLen m < 2) && decide (fxReduce m e ≤ fxTwoPi / 4)
      -- of the magnitude alone: COS is even and SIN is odd
      let key := if inside then 0 else 1 + x % 2 ^ (t.width - 1)
      let neg := if isCos then decide (v < 0) else (decide (v < 0) != n)
      sfPick (if isCos then 6 else 5) t key neg v.natAbs

/-- TANH (R83). -/
def sfTanh (t : Ty) (x : Nat) : FV :=
  match fpDecode t x with
  | .nan => .nan
  | .inf n => .fin n 1 0
  | .fin n m e =>
    if m = 0 then .fin n 0 0
    else if e + bitLen m > 6 then .fin n 1 0
    else
      let y2 := if e + 1 + fxBits ≥ 0 then m * 2 ^ (e + 1 + fxBits).toNat else m / 2 ^ (-(e + 1 + fxBits)).toNat
      let u := fxExpNeg y2
      -- below the operand, as tanh x is: the quotient's own error could lift a tiny result above it
      let top := if e + fxBits ≥ 0 then m * 2 ^ (e + fxBits).toNat - 1 else fxOne
      let y := min ((fxOne - u) * fxOne / (fxOne + u)).toNat top
      if (fxOne - y) * 2 ^ ((fmtOf t).fb + 2) ≤ fxOne then .fin n 1 0 else sfPick 7 t 0 n y

/-- The special functions in the order of opcodes 0x70 to 0x77, with R69's flushing. -/
def specialFn (fn : Nat) (t : Ty) (ftz : Bool) (x0 : Nat) : Nat :=
  let x := flushBits t ftz (x0 % 2 ^ t.width)
  let v := fpDecode t x
  let y := match fn with
    | 0 => sfExp2 v
    | 1 => sfLog2 v
    | 2 => sfRcp v
    | 3 => sfRsq v
    | 4 => sfSqrt v
    | 5 => sfTrig false t x
    | 6 => sfTrig true t x
    | _ => sfTanh t x
  flushBits t ftz (fpEncode t false .rn y)

end Sys2Proof.Machine
end

