-- ==== Sys2Proof/Machine/Flags.lean ====
section
/-! DEFINITION. Condition codes: the flags SCMP, SCMPI, SFCMP, VOTE and CCMP set and the conditions that test them (R54, R142,
R154, R167, R233). -/
namespace Sys2Proof.Machine
open Sys2Proof

/-- Z, N, C and V of a − b at width w; E is kept (R142). -/
def cmpFlags (w : Nat) (a b : Nat) (cc : CC) : CC :=
  let au := a % 2 ^ w
  let bu := b % 2 ^ w
  let r := (au + 2 ^ w - bu) % 2 ^ w
  let sg : Nat → Int := fun x => if bitAt x (w - 1) then (x : Int) - 2 ^ w else x
  let d := sg au - sg bu
  { cc with z := r == 0, n := bitAt r (w - 1), c := decide (au ≥ bu),
            v := decide (d < -2 ^ (w - 1)) || decide (d ≥ 2 ^ (w - 1)) }

/-- The flags of SFCMP (R154). -/
def fcmpFlags (o : Option Ordering) (cc : CC) : CC :=
  match o with
  | some .lt => { cc with z := false, n := true, c := false, v := false }
  | some .eq => { cc with z := true, n := false, c := true, v := false }
  | some .gt => { cc with z := false, n := false, c := true, v := false }
  | none => { cc with z := false, n := false, c := true, v := true }

/-- The conditions 0x0 to 0xE of R54; 0xF never decodes. -/
def condHolds (cond : Nat) (cc : CC) (mz : Bool) : Bool :=
  match cond with
  | 0 => true
  | 1 => cc.z
  | 2 => !cc.z
  | 3 => cc.c
  | 4 => !cc.c
  | 5 => cc.c && !cc.z
  | 6 => !cc.c || cc.z
  | 7 => cc.n != cc.v
  | 8 => cc.n == cc.v
  | 9 => !cc.z && cc.n == cc.v
  | 10 => cc.z || cc.n != cc.v
  | 11 => cc.v
  | 12 => !cc.v
  | 13 => cc.e
  | _ => mz

/-- CCR as CSRR reads it (R127). -/
def ccrWord (cc : CC) (mz : Bool) : Word :=
  BitVec.ofNat 64 (b2n cc.z + 2 * b2n cc.n + 4 * b2n cc.c + 8 * b2n cc.v + 16 * b2n cc.e + 32 * b2n mz)

/-- The flags CSRW writes into CCR; MZ is read-only (R127, R128). -/
def ccOfWord (w : Word) : CC :=
  { z := w.getLsbD 0, n := w.getLsbD 1, c := w.getLsbD 2, v := w.getLsbD 3, e := w.getLsbD 4 }

end Sys2Proof.Machine
end

