-- ==== Sys2Proof/Machine/Operands.lean ====
section
/-! DEFINITION. Operands and destinations of vector-clause instructions: R45, R46, R50 to R52, R130, R145, R162. -/
namespace Sys2Proof

/-! ### What an instruction reads and writes -/

/-- A register name: 0 vector, 1 scalar, 2 predicate. -/
abbrev RegName := Nat × Nat

/-- The registers a source field reads. -/
def useReads (u : Use) (x : Src) : List RegName :=
  match u, x with
  | .none, _ => []
  | .num _, .v n => match u with | .num 16 => [(2, n.toNat)] | _ => []
  | .num _, _ => []
  | .cst _ _, _ => []
  | .dstS, _ => []
  | .vreg n, .v r => (List.range n).map fun k => (0, r.toNat + k)
  | .lane true, .v n => [(0, n.toNat), (0, n.toNat + 1)]
  | .xlane true, .v n => [(0, n.toNat), (0, n.toNat + 1)]
  | _, .v n => [(0, n.toNat)]
  | _, .s n => [(1, n.toNat)]
  | _, _ => []

/-- The registers the D field names as a destination. -/
def dstRegs (k : Dst) (d : BitVec 7) : List RegName :=
  match k with
  | .v w => if w then [(0, d.toNat), (0, d.toNat + 1)] else [(0, d.toNat)]
  | .vn w n => (List.range (if w then 2 * n else n)).map fun k => (0, d.toNat + k)
  | .s => [(1, d.toNat)]
  | .s3 => [(1, d.toNat), (1, d.toNat + 1), (1, d.toNat + 2)]
  | .q => [(2, d.toNat)]
  | _ => []

/-- The registers the D field reads as a data source. -/
def dstReads (k : Dst) (d : BitVec 7) : List RegName :=
  match k with
  | .srcV w => if w then [(0, d.toNat), (0, d.toNat + 1)] else [(0, d.toNat)]
  | .srcS => [(1, d.toNat)]
  | _ => []

/-- The FS operand's destination. -/
def osDst (sh : Shape) (o : Src) : List RegName :=
  match sh.a, o with
  | .dstS, .s n => [(1, n.toNat)]
  | _, _ => []

/-- The destination registers of an instruction, and the residency predicate of a load (R48 rule 4, R178). A destination written
with NW does not count. CALL and CALLI write s58 (R174). -/
def Instr.dests (i : Instr) : List RegName :=
  let sh := i.shape
  match i, i.fields with
  | .calli _, _ => [(1, 58)]
  | .call _, _ => [(1, 58)]
  | _, .f3 f => if f.nw then [] else dstRegs sh.dst f.d
  | _, .fi f => if f.nw then [] else dstRegs sh.dst f.d
  | _, .fm f => (if f.nw then [] else dstRegs sh.dst f.d) ++ (if sh.resid && f.f != 15 then [(2, f.f.toNat)] else [])
  | _, .fa f => if f.nw then [] else dstRegs sh.dst f.d
  | _, .fs f => osDst sh f.o
  | _, _ => []

def predReads (sh : Shape) (p : Pred) : List RegName := if sh.per && p.q != 15 then [(2, p.q.toNat)] else []

/-- The old value that a result written to its latch alone keeps on the lanes that do not execute (R45). -/
def latchReads (k : Dst) (d : BitVec 7) : List RegName := match k with | .s | .s3 => [] | k => dstRegs k d

/-- The registers an instruction reads: sources, predicates, data registers, and the old value that its latch keeps. FORK and TRAP
read the scalar registers they pass on (R106, R249). -/
def Instr.reads (i : Instr) : List RegName :=
  let sh := i.shape
  match i, i.fields with
  | .ret _, _ => [(1, 58)]
  | .fork f, _ => useReads sh.a f.o ++ (List.range 8).map fun k => (1, k)
  | .trap f, _ => useReads sh.a f.o ++ (List.range 5).map fun k => (1, k)
  | .brany f, _ => [(2, f.cond.toNat)]
  | .brnone f, _ => [(2, f.cond.toNat)]
  | .forkm f, _ => [(2, f.cond.toNat)]
  | _, .f3 f => useReads sh.a f.a ++ useReads sh.b f.b ++ useReads sh.c f.c ++ predReads sh f.p ++ dstReads sh.dst f.d
      ++ (if f.nw then latchReads sh.dst f.d else [])
  | _, .fi f => useReads sh.a f.a ++ predReads sh f.p ++ (if f.nw then latchReads sh.dst f.d else [])
  | _, .fm f => useReads sh.a f.a ++ useReads sh.b f.b ++ predReads sh f.p ++ dstReads sh.dst f.d
  | _, .fa f => useReads sh.a f.a ++ useReads sh.b f.b ++ useReads sh.c f.c ++ dstReads sh.dst f.d
  | _, .fs f => useReads sh.a f.o
  | _, _ => []

/-- The token an instruction carries. -/
def Instr.tok (i : Instr) : Option Nat :=
  match i.fields with
  | .f3 f => f.tok.map (·.toNat)
  | .fm f => f.tok.map (·.toNat)
  | .fa f => f.tok.map (·.toNat)
  | _ => none

/-- The predicate field of an instruction; unpredicated where the format has none. -/
def Instr.pred (i : Instr) : Pred :=
  match i.fields with
  | .f3 f => f.p
  | .fi f => f.p
  | .fm f => f.p
  | _ => ⟨15, false⟩

/-- The kind of latch an instruction leaves (R45, R170). -/
def Instr.latchKind (i : Instr) : Option LKind := if i.tok.isSome then none else WF.resultKind i.shape

/-- The implicit reads of R125: 1 FMODE, 2 SRSEED and SRCTR. -/
def Instr.readsFmode : Instr → Bool
  | .fadd _ | .fsub _ | .fmul _ | .fma _ | .fmin _ | .fmax _ | .fcmp _ | .frnd _ | .sfadd _ | .sfmul _ | .sfma _ | .sfcmp _
  | .fdot2 _ | .exp2 _ | .log2 _ | .rcp _ | .rsq _ | .sqrt _ | .sin _ | .cos _ | .tanh _ | .sfn _ => true
  | .red f | .scan f => f.ty.isFloat
  | _ => false
def Instr.isRs : Instr → Bool
  | .cvt f | .scvt f | .pack2 f => f.md == 4
  | _ => false

end Sys2Proof

namespace Sys2Proof.Machine
open Sys2Proof

/-- A constant field as a signed integer (R50). -/
def kInt (c : BitVec 7) : Int := c.toInt

/-- The lanes a per-lane instruction executes (R52). -/
def Ctx.exec (c : Ctx) (p : Pred) : Mask :=
  let q := c.view.getQ p.q.toNat
  c.mask &&& (if p.neg then ~~~q else q)

/-- A uniform operand: scalar register, S64 latch or sign-extended constant. -/
def Ctx.uni (c : Ctx) (x : Src) : Word :=
  match x with
  | .s n => c.getS n.toNat
  | .l n => match c.latch n.toNat with | some l => l.s | none => 0
  | .k k => k.signExtend 64
  | .v _ => 0

/-- A 32-bit per-lane or control operand of a lane (R50, R130). -/
def Ctx.src32 (c : Ctx) (x : Src) (i : Nat) : BitVec 32 :=
  match x with
  | .v n => lane (c.view.getV n.toNat) i
  | .s n => (c.getS n.toNat).setWidth 32
  | .l n =>
    match c.latch n.toNat with
    | some l => if l.kind = .s64 then l.s.setWidth 32 else lane l.v i
    | none => 0
  | .k k => k.signExtend 32

/-- A 64-bit per-lane operand of a lane: an even pair, low word first (R50, R65). -/
def Ctx.src64 (c : Ctx) (x : Src) (i : Nat) : Word :=
  match x with
  | .v n => (lane (c.view.getV (n.toNat + 1)) i ++ lane (c.view.getV n.toNat) i : BitVec 64)
  | .s n => c.getS n.toNat
  | .l n =>
    match c.latch n.toNat with
    | some l => if l.kind = .s64 then l.s else (lane l.hi i ++ lane l.v i : BitVec 64)
    | none => 0
  | .k k => k.signExtend 64

/-- A constant of a type as its bits: a floating constant is converted, a packed one fills both elements (R50, R145). -/
def constBits (t : Ty) (k : BitVec 7) : Nat :=
  if t.packed then constFp t (kInt k) * (2 ^ 16 + 1)
  else if t.isFloat then constFp t (kInt k)
  else wrapInt t.width (kInt k)

/-- The bits of a lane's operand of a type (R130, R145). -/
def Ctx.srcT (c : Ctx) (t : Ty) (x : Src) (i : Nat) : Nat :=
  match x with
  | .k k => constBits t k
  | x => if t.wide then (c.src64 x i).toNat else (c.src32 x i).toNat % 2 ^ t.width

/-- The bits of a uniform operand of a type. -/
def Ctx.uniT (c : Ctx) (t : Ty) (x : Src) : Nat :=
  match x with
  | .k k => constBits t k
  | x => (c.uni x).toNat % 2 ^ t.width

/-- A new clause-local value of a vector register or pair on the lanes of a mask, and the latch that shows it. -/
def Ctx.putV (c : Ctx) (d : Nat) (nw : Bool) (m : Mask) (wide : Bool) (f : Nat → Nat) : Ctx × Latch :=
  let old := c.view.getV d
  let oldHi := c.view.getV (d + 1)
  let v := vec fun i => if m.getLsbD i then BitVec.ofNat 32 (f i) else lane old i
  let hi := if wide then vec fun i => if m.getLsbD i then BitVec.ofNat 32 (f i / 2 ^ 32) else lane oldHi i else vzero
  let view := if nw then c.view else if wide then (c.view.setV d v).setV (d + 1) hi else c.view.setV d v
  ({ c with view }, { kind := if wide then .v64 else .v32, v, hi, s := 0, q := 0 })

/-- A new clause-local value of a scalar register (R51, R112, R114): s63 discards it, s60 to s62 store bits 31:0 of it ANDed
with OWN. -/
def Ctx.putS (c : Ctx) (own : Mask) (d : Nat) (nw : Bool) (x : Word) : Ctx × Latch :=
  let l : Latch := { kind := .s64, v := vzero, hi := vzero, s := x, q := 0 }
  if nw || d == 63 then (c, l)
  else if d ≥ 60 then
    ({ c with am := setMaskWord c.am (d - 60) (x.setWidth 32 &&& maskWord own (d - 60)), amDirty := true }, l)
  else ({ c with view := c.view.setS d x, sWritten := d :: c.sWritten }, l)

/-- A new clause-local value of a predicate on the lanes of a mask (R115, R134). -/
def Ctx.putQ (c : Ctx) (d : Nat) (nw : Bool) (m : Mask) (x : Mask) : Ctx × Latch :=
  let q := (c.view.getQ d &&& ~~~m) ||| (x &&& m)
  ({ c with view := if nw then c.view else c.view.setQ d q }, { kind := .q96, v := vzero, hi := vzero, s := 0, q })

/-- New condition codes; the slot is kept, because the write of the higher slot stands at commit (R128). -/
def Ctx.putCC (c : Ctx) (cc : CC) : Ctx := { c with cc, ccSlot := c.slot + 1 }

/-- The slot ends: its latch, its opcode for SIG, its beats (R45, R129, R185). -/
def Ctx.finish (c : Ctx) (i : Instr) (l : Option Latch) : Ctx :=
  let n := c.slot % 8
  let per := i.shape.per
  { c with lat := (match l with | some x => c.lat.put n x | none => c.lat.del n), slot := c.slot + 1, ops := c.ops ++ [i.opcode],
           beats := c.beats + (if per then beatsOf c.mask else 0),
           skipped := c.skipped + (if per then 3 - beatsOf c.mask else 0) }

/-- A V-kind latch as a uniform operand is an operand kind that the instruction refuses: one with a scalar destination (R50), CSRW
(R128), the shuffles whose B must be uniform (R163), and what its own rule names: uniform stores (R177), barriers (R202), SEAL, REUSE
and FLUSH (R279), RECMARK (R372). Elsewhere it is a latch of the wrong kind (R45, R60). -/
def uniIllop (i : Instr) : Bool :=
  match i with
  | .csrw _ | .shflup _ | .shfldn _ | .shflx _ | .bcast _ | .sstB32 _ | .sstB64 _ | .bwait _ | .bgrp _ | .seal _ | .reuse _ | .flush _
  | .recmark _ => true
  | i => match i.shape.dst with | .s | .s3 => true | _ => false

/-- A latch that an instruction refuses as a cross-lane source by its kind: any but a V-kind latch of the type's width for the
shuffles (R163), any but a V-kind latch for RED (R164). Elsewhere it is a latch of the wrong kind (R45, R60). -/
def xlaneIllop (i : Instr) (k : LKind) : Bool :=
  match i with
  | .shfl _ | .shflup _ | .shfldn _ | .shflx _ | .bcast _ => true
  | .red _ => decide (k = .s64) || decide (k = .q96)
  | _ => false

/-- A latch read that does not fit its use (R45): `kinds` gives the kinds of the latches written so far. -/
def latchBad (i : Instr) (kinds : Nat → Option LKind) (u : Use) (x : Src) : Option Cause :=
  match x with
  | .l n =>
    match kinds n.toNat, u with
    | none, .none => none
    | none, _ => some .latch
    | some k, .lane w => if k = (if w then .v64 else .v32) ∨ k = .s64 then none else some .latch
    | some k, .ctl => if k = .v32 ∨ k = .s64 then none else some .latch
    | some k, .uni => if k = .s64 then none else if k ≠ .q96 ∧ uniIllop i = true then some .illop else some .latch
    | some k, .xlane w => if k = (if w then .v64 else .v32) then none else if xlaneIllop i k then some .illop else some .latch
    | some _, _ => none
  | _ => none

/-- Of two causes, the one that R190 records. -/
def Cause.rank : Cause → Nat
  | .illop => 1 | .latch => 2 | .budget => 3 | .align => 4 | .unmapped => 5 | .prot => 6 | .typemis => 7 | .fabric => 8
  | .splitov => 9 | .tilebound => 10 | .tilebusy => 11 | .matrix => 12 | .typeop => 13 | .holdcap => 14 | .race => 15
  | .uncorr => 16 | .barrier => 17 | .pgpark => 18 | .sigmis => 19 | .brk => 20 | .trap => 21
def Cause.first (a b : Option Cause) : Option Cause :=
  match a, b with
  | none, b => b
  | a, none => a
  | some x, some y => if x.rank ≤ y.rank then some x else some y

/-- The fault codes of R189. -/
def Cause.code : Cause → Nat
  | .illop => 0x01 | .latch => 0x02 | .align => 0x03 | .prot => 0x04 | .unmapped => 0x05 | .typemis => 0x06 | .typeop => 0x07
  | .race => 0x08 | .holdcap => 0x09 | .tilebusy => 0x0A | .tilebound => 0x0B | .splitov => 0x0C | .budget => 0x0D
  | .sigmis => 0x0E | .uncorr => 0x0F | .brk => 0x10 | .trap => 0x11 | .fabric => 0x12 | .barrier => 0x13 | .matrix => 0x14
  | .pgpark => 0x15

/-- The operand faults of a slot: a latch it may not read, a vector register at or above the budget (R45, R50, R60). -/
def operandFault (vregs : Nat) (kinds : Nat → Option LKind) (i : Instr) : Option Cause :=
  let sh := i.shape
  let lat := match i.fields with
    | .f3 f => Cause.first (latchBad i kinds sh.a f.a) (Cause.first (latchBad i kinds sh.b f.b) (latchBad i kinds sh.c f.c))
    | .fi f => latchBad i kinds sh.a f.a
    | .fm f => Cause.first (latchBad i kinds sh.a f.a) (latchBad i kinds sh.b f.b)
    | .fa f => Cause.first (latchBad i kinds sh.a f.a) (Cause.first (latchBad i kinds sh.b f.b) (latchBad i kinds sh.c f.c))
    | .fs f => latchBad i kinds sh.a f.o
    | _ => none
  let ovr := (i.reads ++ i.dests).any fun r => r.1 == 0 && decide (r.2 ≥ vregs)
  Cause.first lat (if ovr then some .budget else none)

/-- The latch kinds of a clause context. -/
def Ctx.kinds (c : Ctx) (n : Nat) : Option LKind := (c.latch n).map (·.kind)

/-- The writer tag of a control register, for those that carry one (R125). -/
def Ctl.tag (k : Ctl) (num : Nat) : Option Nat :=
  match num with
  | 0x10 => some k.tFmode | 0x11 => some k.tSrseed | 0x12 => some k.tSrctr | 0x18 => some k.tRegent | 0x19 => some k.tSig
  | 0x1A => some k.tSpncnt | 0x20 => some k.tFlt | 0x21 => some k.tFlt | 0x22 => some k.tFlt | 0x23 => some k.tFlt
  | _ => none

/-- The slot reads a group-shared register that a sibling wrote last (R125): tags change at commit, so a register that the clause
itself has written still counts. -/
def observesSibling (gr : Group) (c : Ctx) (i : Instr) : Bool :=
  let tagged := fun (t : Nat) => t != c.entry
  ((i.reads.filter fun r => r.1 == 1 && r.2 < 60).any fun r => tagged (gr.stag.get r.2 0))
  || (i.readsFmode && tagged gr.ctl.tFmode)
  || (i.isRs && (tagged gr.ctl.tSrseed || tagged gr.ctl.tSrctr))
  || (match i with
      | .csrr f => (match gr.ctl.tag f.imm.toNat with | some t => tagged t | none => false)
      | _ => false)

end Sys2Proof.Machine
end

