-- ==== Sys2Proof/Machine/Rec.lean ====
section
/-! DEFINITION. What the recorder, the trace sessions, the watchpoints and the error log write when something happens: R359 to R373,
R381, R408, R412 to R416. -/
namespace Sys2Proof.Machine
open Sys2Proof

/-! ### CRC-32C (R370, R381) -/

def crcBit : Nat → BitVec 32 → BitVec 32
  | 0, c => c
  | n + 1, c => crcBit n (if c.getLsbD 0 then (c >>> 1) ^^^ 0x82F63B78 else c >>> 1)
def crcByte (c : BitVec 32) (b : Byte) : BitVec 32 := crcBit 8 (c ^^^ b.setWidth 32)
def crcAcc (c : BitVec 32) (bs : List Byte) : BitVec 32 := bs.foldl crcByte c
/-- CRC-32C of bytes: reflected polynomial 0x1EDC_6F41, all ones at the start and complemented at the end. -/
def crc32c (bs : List Byte) : BitVec 32 := crcAcc 0xFFFFFFFF bs ^^^ 0xFFFFFFFF

/-! ### The device error log (R408, R435) -/

def raiseMsi (s : State) (v : Nat) : State := { s with plat := { s.plat with msix := v :: s.plat.msix } }

/-- The ring is full (R435). -/
def elFull (p : Plat) : Bool := (p.elTail + 2 ^ 32 - p.elHead) % 2 ^ 32 == 2 ^ (p.elLog + 7)

/-- Writes one entry of 32 bytes into the ring in host memory. -/
def elWrite (s : State) (e : List Byte) : State :=
  let p := s.plat
  raiseMsi { s with hostMem := s.hostMem.putN (p.elBase + 32 * (p.elTail % 2 ^ (p.elLog + 7))) e,
                    plat := { p with elTail := (p.elTail + 1) % 2 ^ 32 } } 144

/-- An entry of R408: kind, cause, agent, task handle, data address. -/
def elEntry (kind cause agent task addr : Nat) (time : Word) : List Byte :=
  leBytes 1 kind ++ leBytes 1 cause ++ leBytes 2 0 ++ leBytes 4 agent ++ leBytes 8 task ++ leBytes 8 addr ++ leBytes 8 time.toNat

/-- Puts an entry into the log: dropped while the ring is full or has no base; after drops a KIND 9 entry goes first (R408). -/
def elPut (s : State) (e : List Byte) : State :=
  let drop : State := { s with plat := { s.plat with elDropped := s.plat.elDropped + 1 } }
  if s.plat.elBase = 0 then drop
  else if elFull s.plat then drop
  else if s.plat.elDropped = 0 then elWrite s e
  else
    let s1 := elWrite { s with plat := { s.plat with elDropped := 0 } } (elEntry 9 0 0xFFFFFF 0 s.plat.elDropped s.plat.time)
    if elFull s1.plat then { s1 with plat := { s1.plat with elDropped := 1 } } else elWrite s1 e

/-- Logs an event of R408. -/
def errLog (s : State) (kind cause agent task addr : Nat) : State := elPut s (elEntry kind cause agent task addr s.plat.time)

/-- The task handle of a task (R91). -/
def Task.handle (t : Task) : Nat := t.gen * 2 ^ 17 + t.slot

/-! ### Recording partitions (R359) -/

/-- The partition of a queue: the slot whose mask names it and whose MODE is nonzero. -/
def partOfQueue (s : State) (q : Nat) : Option Nat :=
  (List.range 8).find? fun p => let r := s.damask.parts.get p {}; r.mode != 0 && r.qm.getLsbD q
def rpart (s : State) (p : Nat) : RPart := s.damask.parts.get p {}
def setRpart (s : State) (p : Nat) (r : RPart) : State := { s with damask := { s.damask with parts := s.damask.parts.put p r } }
/-- The partition of a task. -/
def partOfTask (s : State) (slot : Nat) : Option Nat := (s.task? slot).bind fun t => partOfQueue s t.queue
/-- The task is recorded live (MODE 1). -/
def recording (s : State) (slot : Nat) : Option Nat :=
  (partOfTask s slot).bind fun p => if (rpart s p).mode = 1 then some p else none
/-- The task is replayed (MODE 2 or 3). -/
def replaying (s : State) (slot : Nat) : Option Nat :=
  (partOfTask s slot).bind fun p => if (rpart s p).mode ≥ 2 then some p else none

/-- The logical cluster of a gang. -/
def lcluOf (s : State) (g : GId) : Nat := match s.gang? g with | some x => x.lclu | none => 0
/-- The source of a group's records: its cluster recorder. -/
def clusterSrc (s : State) (g : GId) : Src4 := ⟨1, lcluOf s g⟩
def hubSrc : Src4 := ⟨4, 0⟩
def sliceSrc (line : Nat) : Src4 := ⟨2, Config.l3Slice line⟩
def portSrc (p : Nat) : Src4 := ⟨3, p⟩

/-- The ring of a partition has no free frame (R360). -/
def ringFull (r : RPart) : Bool := (r.head + 4096) % (r.size * 2 ^ 30) == r.tail
/-- No logged event of the partition is admitted until a frame is free (R360). -/
def ringStalls (r : RPart) : Bool := r.mode == 1 && !r.full && ringFull r

/-- RFRONT: the least stamp of any logged chunk not yet committed; none when every one has (R376). -/
def frontierOf (s : State) (p : Nat) : Option Nat :=
  let left := ((rpart s p).log.filter fun b => fieldOf b 0 1 == 1).map fun b => fieldOf b 0x10 8
  let open_ := (s.groups.filter fun x => partOfTask s x.2.block.gang.slot == some p).flatMap fun x =>
    x.2.ents.filterMap fun y => if y.valid then y.chunk.replay.map fun b => fieldOf b 0x10 8 else none
  (left ++ open_).min?
/-- A record of a one-event chunk: ARRIVAL, ACCEPT, HOSTW, and the DELIVERY of a copy's fault (R365, R369). -/
def isEventRow (b : List Byte) : Bool :=
  [3, 9, 0xA].contains (fieldOf b 0 1) || (fieldOf b 0 1 == 4 && fieldOf b 1 1 == 1 && agentKind (fieldOf b 4 4) == 1)
/-- The least stamp of a one-event chunk that the log still holds. -/
def eventFront (s : State) (p : Nat) : Option Nat :=
  (((rpart s p).log.filter isEventRow).map fun b => fieldOf b 0x10 8).min?
/-- A stamp is not above a front. -/
def notAbove (st : Nat) (f : Option Nat) : Bool := match f with | some m => decide (st ≤ m) | none => true

/-- A record's 32 bytes: type, bytes 1 to 3, word 4, and the three doublewords. -/
def rowBytes (ty b1 b2 b3 w4 d8 d10 d18 : Nat) : List Byte :=
  leBytes 1 ty ++ leBytes 1 b1 ++ leBytes 1 b2 ++ leBytes 1 b3 ++ leBytes 4 w4 ++ leBytes 8 d8 ++ leBytes 8 d10 ++ leBytes 8 d18

/-- Emits a record of a partition. -/
def emit (s : State) (p : Nat) (src : Src4) (bytes : List Byte) (chunk : Option Nat) : State :=
  let r := rpart s p
  setRpart s p { r with unwritten := r.unwritten ++ [⟨src, bytes, chunk⟩] }

/-- A partition that records a task waits for a free frame: its fragments end no chunk, and its events are not admitted (R360). -/
def slotStalls (s : State) (slot : Nat) : Bool := (recording s slot).any fun p => ringStalls (rpart s p)

/-- The key of a slice's eviction stamp: E is kept for each partition, since an origin zeroes it for one (R365). -/
def evictKey (p slice : Nat) : Nat := p * 2048 + slice
/-- E of the slice of a word. -/
def evictOf (s : State) (p w : Nat) : Nat := s.damask.evict.get (evictKey p (Config.l3Slice (w / 32))) 0

/-- DATA records that carry a payload, 28 bytes each (R369). -/
def dataRows : Nat → List Byte → List (List Byte)
  | 0, _ => []
  | n + 1, bs => if bs = [] then [] else ((6 : Byte) :: 0 :: 0 :: 0 :: takeZ 28 bs) :: dataRows n (bs.drop 28)
def emitData (s : State) (p : Nat) (src : Src4) (bs : List Byte) : State :=
  foldS s (dataRows (bs.length / 28 + 1) bs) fun s r => emit s p src r none

/-! ### Stamps (R365) -/

/-- The stamps of a list of chunks, if every one has its stamp. -/
def maxStamp (tbl : AList Nat Nat) : List Nat → Option Nat
  | [] => some 0
  | c :: t => match tbl.find? c, maxStamp tbl t with
    | some a, some b => some (max a b)
    | _, _ => none

/-- Gives a stamp to every ended chunk whose chunks all have theirs. -/
def resolveStamps : Nat → Rec → Rec
  | 0, r => r
  | n + 1, r =>
    match List.find? (fun (e : Nat × List Nat × Nat) => (maxStamp r.stamps e.2.1).isSome) r.ends with
    | none => r
    | some e =>
      let m := (maxStamp r.stamps e.2.1).getD 0
      resolveStamps n { r with stamps := r.stamps.put e.1 (max m e.2.2 + 1), ends := r.ends.filter fun x => x.1 != e.1 }
def settleStamps (s : State) : State := { s with damask := resolveStamps s.damask.ends.length s.damask }

/-- A one-event chunk of an agent: its stamp exceeds the chunks given and the floor; answers its number. -/
def eventChunk (s : State) (deps : List Nat) (floor : Nat) : Nat × State :=
  let c := s.damask.chunkNext
  (c, settleStamps { s with damask := { s.damask with chunkNext := c + 1, ends := s.damask.ends ++ [(c, deps, floor)] } })

/-! ### Chunks of a fragment (R363 to R366) -/

/-- Starts the freeze of a running cluster, as the device itself does (R384). -/
def deviceFreeze (s : State) (c src : Nat) : State :=
  let x := cluD s c
  if x.state = .running then setClu s c { x with state := .stopping, imgSrc := src } else s

/-- The physical clusters that run tasks of a partition. -/
def partClusters (s : State) (p : Nat) : List Nat :=
  ((s.gangs.filter fun x => partOfTask s x.1.slot == some p).filterMap fun x => physClu s x.2.lclu).dedup

/-- A partition halts on a divergence or a digest mismatch: what firmware reports, and the freeze of every cluster (R377, R383). Kinds:
1 a chunk boundary, 2 a fault, 3 an event that does not come, 4 a frame, 5 the end of the log, 6 a digest, 7 the twin's report. -/
def haltPart (s : State) (p kind agent split stamp : Nat) (digests : List Byte) : State :=
  let r := rpart s p
  if r.halted then s
  else
    let s1 := setRpart s p { r with halted := true,
                                    divergence := r.divergence ++ [leBytes 4 kind ++ leBytes 4 agent ++ leBytes 4 split ++ leBytes 8 stamp ++ digests] }
    foldS s1 (partClusters s1 p) fun s c => deviceFreeze s c (if r.mode = 2 then 2 else 3)

/-- The digest of a chunk: its writes in commit order, SIG, STAMP (R381). -/
def digestOf (s : State) (chunk : Nat) (sig : BitVec 32) (stamp : Nat) : Nat :=
  (crc32c (((s.damask.writes.get chunk []).flatMap (·.2)) ++ leBytes 4 sig.toNat ++ leBytes 8 stamp)).toNat

/-- Writes of a chunk's clauses are still to be performed, here or at another device. -/
def chunkOwes (s : State) (chunk : Nat) : Bool :=
  (s.m.reqs.any fun r => r.chunk == chunk && !r.performed && (r.kind == .store || r.kind == .atomic || r.kind == .hostAtomic))
  || s.fab.outstanding.any fun r => r.chunk == chunk && (r.kind == 0 || r.kind == 2 || r.kind == 3)

/-- The clocks of an agent after a chunk: those known to be exceeded are left out (R365). -/
def noteEnded (d : Rec) (agent chunk : Nat) : Rec :=
  let l := chunk :: d.lastChunk.get agent []
  let known := l.filter fun c => (d.stamps.find? c).isSome
  let top := known.foldl (fun m c => max m ((d.stamps.find? c).getD 0)) 0
  { d with lastChunk := d.lastChunk.put agent (l.filter fun c => match d.stamps.find? c with | some x => x == top | none => true) }

/-- A replayed chunk ends: where its record says, or the partition halts; a digest is compared once its writes are performed (R377, R382). -/
def endReplayed (s : State) (p g e : Nat) (gr : Group) (ch : Chunk) (b : List Byte) : State :=
  let r := rpart s p
  let stamp := fieldOf b 0x10 8
  let checked := r.mode == 3 && bitAt (fieldOf b 3 1) 0
  if ch.count ≠ fieldOf b 8 4 ∨ ch.lastHdr ≠ fieldOf b 0x18 8 then haltPart s p 1 g e stamp []
  else
    let n := s.damask.chunkNext
    let s1 := setRpart { s with damask := { s.damask with chunkNext := n + 1 } } p
      { r with ended := r.ended + 1, checks := if checked then r.checks ++ [(ch.id, gr.ctl.sig, b)] else r.checks }
    s1.updGroup g fun gr => gr.updEnt e fun x => { x with chunk := { id := n, ended := ch.ended + 1, sig0 := gr.ctl.sig, cause := fieldOf b 1 1 } }

/-- The twin compares the digests that are due (R382); the first that differs halts the partition (R383). -/
def compareDigests (s : State) (p : Nat) : State :=
  let due := (rpart s p).checks.filter fun c => !chunkOwes s c.1
  foldS s due fun s c =>
    let r := rpart s p
    let st := fieldOf c.2.2 0x10 8
    let d := digestOf s c.1 c.2.1 st
    let s1 := setRpart { s with damask := { s.damask with writes := s.damask.writes.del c.1 } } p
      { r with compared := r.compared + 1, checks := r.checks.filter (· != c) }
    if d = fieldOf c.2.2 0x0C 4 then s1
    else haltPart s1 p 6 (fieldOf c.2.2 4 4) (fieldOf c.2.2 2 1) st (leBytes 4 d ++ leBytes 4 (fieldOf c.2.2 0x0C 4))

/-- Ends a fragment's open chunk with a cause: a CHUNK record, with the lowest code that applies (R364), and a new chunk that follows it.
A chunk without instructions writes no record and goes on. `sig`: SIG at the chunk's end; a digest is completed when the record is
written. -/
def endChunkAt (s : State) (g e code0 : Nat) (sig : BitVec 32) : State :=
  match s.group? g with
  | none => s
  | some gr =>
    let ch := (gr.ent e).chunk
    match partOfTask s gr.block.gang.slot with
    | none => s
    | some p =>
      let r := rpart s p
      let code := min code0 (min (if ch.observed then 2 else 99) (if ch.split then 3 else 99))
      let cleared := fun (c : Chunk) => { c with observed := false, split := false, endCode := none }
      if ch.count = 0 then s.updGroup g fun gr => gr.updEnt e fun x => { x with chunk := cleared x.chunk }
      else match ch.replay with
      | some b => endReplayed s p g e gr ch b
      | none =>
        let s1 := if r.mode ≠ 1 then s else emit s p (clusterSrc s gr.block.gang)
              (rowBytes 1 code e (b2n r.pair) (agentOfGroup g) (ch.count + (if r.pair then sig.toNat else 0) * 2 ^ 32) 0 ch.lastHdr) (some ch.id)
        let n := s1.damask.chunkNext
        let s2 : State := settleStamps { s1 with damask := { s1.damask with
          chunkNext := n + 1, ends := s1.damask.ends ++ [(ch.id, ch.deps, ch.floor)] } }
        let s3 := setRpart { s2 with damask := noteEnded s2.damask g ch.id } p { rpart s2 p with ended := (rpart s2 p).ended + 1 }
        s3.updGroup g fun gr => gr.updEnt e fun x => { x with chunk := { id := n, deps := [ch.id], ended := ch.ended + 1, sig0 := sig, cause := code } }

/-- The same, with SIG as the group has it. -/
def endChunk (s : State) (g e code : Nat) : State :=
  match s.group? g with
  | none => s
  | some gr => endChunkAt s g e code gr.ctl.sig

/-- A row of a fragment's clause that has moved to a chunk of its own: `c0` instructions came before it in the old chunk (R369). -/
def moveRow (g e c0 old new_ : Nat) (x : RecRow) : RecRow :=
  let b := x.bytes
  if x.chunk = some old && [4, 5, 0xB].contains (fieldOf b 0 1) && fieldOf b 2 1 == e && fieldOf b 4 4 == g && decide (c0 ≤ fieldOf b 8 4) then
    { x with chunk := some new_, bytes := b.take 8 ++ leBytes 4 (fieldOf b 8 4 - c0) ++ b.drop 12 }
  else x

/-- What the last clause of a fragment has done moves with it to its own chunk: its access entries, the chunks that observed it, its
requests, its records and its part of the digest. `seq`: its clause number, `c0` the instructions before it in the old chunk. -/
def moveClause (s : State) (p g e : Nat) (ch : Chunk) (c0 seq new_ : Nat) : State :=
  let old := ch.id
  let acc := ch.words.foldl (fun (t : AList Nat AccEnt) w =>
    match t.find? w with | some a => if a = AccEnt.mk ⟨g, e⟩ old then t.put w (AccEnt.mk ⟨g, e⟩ new_) else t | none => t) s.damask.access
  let dep := fun (l : List Nat) => if l.contains old then new_ :: l else l
  let ends := s.damask.ends.map fun x => if ch.seenBy.contains x.1 then (x.1, dep x.2.1, x.2.2) else x
  let mine := fun (x : Nat × List Byte) => x.1 / 2048 == seq
  let ws := s.damask.writes.get old []
  let wr := if ws = [] then s.damask.writes
    else (s.damask.writes.put old (ws.filter fun x => !mine x)).put new_ (ws.filter mine)
  let one := fun (y : Entry) => if ch.seenBy.contains y.chunk.id then { y with chunk := { y.chunk with deps := dep y.chunk.deps } } else y
  let r := rpart s p
  let s1 := setRpart { s with damask := { s.damask with access := acc, ends, writes := wr } } p
    { r with unwritten := r.unwritten.map (moveRow g e c0 old new_) }
  { s1 with
    groups := s1.groups.map fun x => (x.1, { x.2 with ents := x.2.ents.map one })
    m := { s1.m with reqs := s1.m.reqs.map fun q => if q.chunk = old ∧ q.seq / 16 = seq then { q with chunk := new_ } else q }
    fab := { s1.fab with outstanding := s1.fab.outstanding.map fun q => if q.chunk = old ∧ q.seq / 16 = seq then { q with chunk := new_ } else q } }

/-- The clause under way of a fragment, or its last one, observes: what was open ends at its header, and the clause is a chunk by itself
(R364). `n` instructions of the open chunk belong to the clause: 0 while it has not committed. -/
def splitChunk (s : State) (g e n : Nat) : State :=
  match s.group? g with
  | none => s
  | some gr =>
    let ch := (gr.ent e).chunk
    if ch.split then s
    else
      let c0 := ch.count - n
      let s0 := s.updGroup g fun gr => gr.updEnt e fun x =>
        { x with chunk := { ch with count := c0, lastHdr := if n = 0 then ch.lastHdr else ch.prevHdr, endCode := none } }
      let s1 := endChunkAt s0 g e 1 ch.sig0
      let new_ := match s1.group? g with | some gr1 => (gr1.ent e).chunk.id | none => ch.id
      let s2 := s1.updGroup g fun gr => gr.updEnt e fun x =>
        { x with chunk := { x.chunk with split := true, count := n, last := ch.last, lastHdr := ch.lastHdr, prevHdr := ch.prevHdr, sig0 := ch.sig0
                                         endCode := ch.endCode, words := ch.words, seenBy := ch.seenBy } }
      match partOfTask s gr.block.gang.slot with
      | some p => if new_ = ch.id then s2 else moveClause s2 p g e ch c0 (if n = 0 then gr.seq else gr.seq - 1) new_
      | none => s2

/-- A fragment has a clause under way, or one committed whose end is still to be settled. -/
def clauseOpen (gr : Group) (e : Nat) : Bool :=
  (gr.ctx.any fun c => c.entry == e) || (gr.ent e).chunk.endCode.isSome

/-- A fragment named in an access entry is observed: if the chunk is still its open one, it ends at the fragment's next clause boundary,
which is now where no clause is under way (R364). -/
def markObserved (s : State) (a : AccEnt) : State :=
  match s.group? a.frag.agent with
  | none => s
  | some gr =>
    if (gr.ent a.frag.split).chunk.id = a.chunk then
      let s1 := s.updGroup a.frag.agent fun gr => gr.updEnt a.frag.split fun x => { x with chunk := { x.chunk with observed := true } }
      if clauseOpen gr a.frag.split then s1 else endChunk s1 a.frag.agent a.frag.split 2
    else s

/-- The chunks that a chunk without a stamp must follow, as far as they are known. -/
def depsOf (s : State) (c : Nat) : List Nat :=
  (s.damask.ends.flatMap fun x => if x.1 = c then x.2.1 else [])
  ++ s.groups.flatMap fun x => x.2.ents.flatMap fun y => if y.chunk.id = c then y.chunk.deps else []

/-- A chunk follows another through `n` of them at most. -/
def follows (s : State) (t : Nat) : Nat → List Nat → Bool
  | 0, _ => false
  | n + 1, cs => cs.contains t || (cs != [] && follows s t n ((cs.flatMap (depsOf s)).dedup))

/-- The chunk that an access of a fragment would observe already follows the fragment's own, directly or through others: R366. -/
def observesCycle (s : State) (g e : Nat) (w : Nat) : Bool :=
  match s.damask.access.find? w, s.group? g with
  | some a, some gr =>
    (a.frag != FragId.mk g e) && follows s (gr.ent e).chunk.id (s.damask.ends.length + 16 * s.groups.length + 1) (depsOf s a.chunk)
  | _, _ => false

/-- An access of a group's fragment to a word of an SC page in a recorded task: what it observes, and the word's new entry (R363).
`n` as in `splitChunk`. Where the order would be a cycle and the clause can no longer be abandoned, the chunk that was observed gives no
stamp (notes/assumptions/51). -/
def scAccess (s : State) (g e n : Nat) (w : Nat) : State :=
  match s.group? g with
  | none => s
  | some gr =>
    match recording s gr.block.gang.slot with
    | none => s
    | some p =>
      let upd := fun (s : State) (f : Chunk → Chunk) => s.updGroup g fun gr => gr.updEnt e fun x => { x with chunk := f x.chunk }
      let s1 := match s.damask.access.find? w with
        | none => upd s fun c => { c with floor := max c.floor (evictOf s p w) }
        | some a =>
          if a.frag = (FragId.mk g e) then s
          else
            let cyc := observesCycle s g e w
            let s0 := splitChunk s g e n
            let id := match s0.group? g with | some gr => (gr.ent e).chunk.id | none => 0
            let seen := s0.updGroup a.frag.agent fun o => o.updEnt a.frag.split fun x =>
              if x.chunk.id = a.chunk ∧ x.chunk.words.contains w then { x with chunk := { x.chunk with seenBy := id :: x.chunk.seenBy } } else x
            let s' := markObserved seen a
            if cyc then s' else upd s' fun c => { c with deps := a.chunk :: c.deps }
      let s2 := upd s1 fun c => { c with words := if c.words.contains w then c.words else w :: c.words }
      match s2.group? g with
      | none => s2
      | some gr' => { s2 with damask := { s2.damask with access := s2.damask.access.put w (AccEnt.mk (FragId.mk g e) (gr'.ent e).chunk.id) } }

/-- Some partition records. -/
def anyRecorded (s : State) : Bool := s.damask.parts.any fun p => p.2.mode == 1

/-- The one-event chunk of an event from outside: its agent's clock, and what it observes (R363, R365). Answers its number. -/
def eventFor (s : State) (agent : Nat) (ws : List Nat) : Nat × State :=
  if !anyRecorded s then (0, s)
  else
    let prev := s.damask.lastChunk.get agent []
    let deps := (ws.filterMap fun w => s.damask.access.find? w).map (·.chunk)
    let s1 := foldS s (ws.filterMap fun w => s.damask.access.find? w) markObserved
    let bare := ws.filter fun w => (s.damask.access.find? w).isNone
    let e := (List.range 8).foldl (fun m p => bare.foldl (fun m w => max m (evictOf s p w)) m) 0
    let r := eventChunk s1 (prev ++ deps) e
    (r.1, { r.2 with damask := { noteEnded r.2.damask agent r.1 with
      access := ws.foldl (fun t w => AList.put t w (AccEnt.mk (FragId.mk agent 0) r.1)) r.2.damask.access } })

/-- An event from outside in a partition that waits for a free frame is not admitted (R360). -/
def eventStalls (s : State) : Bool := s.damask.parts.any fun p => ringStalls p.2

/-- The instructions a fragment's chunk holds so far, and its number. -/
def chunkOf (s : State) (g e : Nat) : Chunk := match s.group? g with | some gr => (gr.ent e).chunk | none => {}

/-- Shared registers that a fragment read or wrote take its open chunk in their access entries (R125, R363): s0 to s59 by number, the
control registers from 64 on. -/
def noteShared (s : State) (g e : Nat) (regs : List Nat) : State :=
  match s.group? g with
  | none => s
  | some gr =>
    match recording s gr.block.gang.slot with
    | none => s
    | some _ =>
      let a : AccEnt := ⟨FragId.mk g e, (gr.ent e).chunk.id⟩
      { s with damask := { s.damask with shared := regs.foldl (fun t r => AList.put t (g, r) a) s.damask.shared } }

/-- A record of a replayed log is a DELIVERY for a fragment at the place its open chunk has reached (R375). -/
def isDelivery (gr : Group) (g e : Nat) (b : List Byte) : Bool :=
  let ch := (gr.ent e).chunk
  fieldOf b 0 1 == 4 && fieldOf b 2 1 == e && fieldOf b 4 4 == g && fieldOf b 8 4 == ch.count
    && (match ch.replay with | some c => fieldOf b 0x10 8 == fieldOf c 0x10 8 | none => ch.count == 0)

/-- Under replay a late fault is taken where the log delivers one (R375); while the partition waits for a free frame none is (R360). -/
def lateMay (s : State) (gr : Group) (g e : Nat) : Bool :=
  match replaying s gr.block.gang.slot with
  | none => !slotStalls s gr.block.gang.slot
  | some p => (rpart s p).log.any fun b => isDelivery gr g e b

/-- A DELIVERY under replay: the logged one leaves the log; one that is not logged is a divergence (R377), but for a debugger's halt. -/
def replayDelivery (s : State) (p g e kind : Nat) (gr : Group) : State :=
  let r := rpart s p
  match r.log.findIdx? fun b => fieldOf b 1 1 == kind && isDelivery gr g e b with
  | some k => endChunk (setRpart s p { r with log := r.log.eraseIdx k }) g e 6
  | none => if kind = 7 then s else haltPart s p 2 g e (match (gr.ent e).chunk.replay with | some c => fieldOf c 0x10 8 | none => 0) []

/-- A DELIVERY record (R369) for a fragment, with the end of its chunk as TRAP (R364). -/
def delivery (s : State) (g e kind cause : Nat) : State :=
  match s.group? g with
  | none => s
  | some gr =>
    match recording s gr.block.gang.slot, replaying s gr.block.gang.slot with
    | some p, _ =>
      let ch := (gr.ent e).chunk
      -- the end of its chunk comes first: the record names that chunk
      emit (endChunk s g e 6) p (clusterSrc s gr.block.gang) (rowBytes 4 kind e cause (agentOfGroup g) ch.count 0 ch.lastHdr) (some ch.id)
    | none, some p => replayDelivery s p g e kind gr
    | none, none => s

/-- A VALUE record of a group's fragment (R369). -/
def valueRec (s : State) (g e kind : Nat) (v : Nat) (aux : Nat) (data : List Byte) : State :=
  match s.group? g with
  | none => s
  | some gr =>
    match recording s gr.block.gang.slot with
    | none => s
    | some p =>
      let ch := (gr.ent e).chunk
      let s1 := emit s p (clusterSrc s gr.block.gang)
        (rowBytes 5 kind e ((data.length + 27) / 28) (agentOfGroup g) (ch.count + aux * 2 ^ 32) 0 v) (some ch.id)
      emitData s1 p (clusterSrc s gr.block.gang) data

/-- The key under which a node counts its SYNC events of a kind. -/
def syncKey (src : Src4) (kind : Nat) : Nat × Nat := (src.kind * 65536 + src.num, kind)

/-- The SYNC record of a replayed log for the next event of a node (R369, R375). -/
def isSync (src : Src4) (n kind agent split : Nat) (b : List Byte) : Bool :=
  fieldOf b 0 1 == 8 && fieldOf b 1 1 == kind && fieldOf b 2 1 == split && fieldOf b 4 4 == agent && fieldOf b 0x10 8 == n
    && (src.kind != 2 || Config.l3Slice (fieldOf b 0x18 8 / 128) == src.num)

/-- An event of a node may come: under replay only when the log gives it next (R375), and not while the partition waits for a free
frame (R360). -/
def syncMay (s : State) (slot : Nat) (src : Src4) (kind agent split : Nat) : Bool :=
  match replaying s slot with
  | none => !slotStalls s slot
  | some p => (rpart s p).log.any (isSync src (s.damask.syncSeq.get (syncKey src kind) 0) kind agent split)

/-- A SYNC record (R369): node, kind, agent, split, object, address. Under replay the logged one leaves the log; where there is none, the
replay has diverged (R377). -/
def syncRec (s : State) (slot : Nat) (src : Src4) (kind agent split obj addr : Nat) : State :=
  let key := syncKey src kind
  let n := s.damask.syncSeq.get key 0
  let count := fun (s : State) => ({ s with damask := { s.damask with syncSeq := s.damask.syncSeq.put key (n + 1) } } : State)
  match recording s slot, replaying s slot with
  | some p, _ => count (emit s p src (rowBytes 8 kind split 0 agent obj n addr) none)
  | none, some p =>
    let r := rpart s p
    match r.log.findIdx? (isSync src n kind agent split) with
    | some k => count (setRpart s p { r with log := r.log.eraseIdx k })
    | none => haltPart s p 3 agent split ((frontierOf s p).getD 0) []
  | none, none => s

/-- The agent's count of slice-ordered requests goes up. -/
def countArb (s : State) (agent : Nat) : State :=
  { s with damask := { s.damask with rseq := s.damask.rseq.put agent (s.damask.rseq.get agent 0 + 1) } }

/-- A slice-ordered request is granted: with its ARB record when recorded; under replay only when it is the next that the log gives
its slice, which then leaves the log (R361, R369, R375). -/
def arbGrant (s : State) (slot kind agent split line : Nat) (wmask : BitVec 32) : Option State :=
  let n := s.damask.rseq.get agent 0 % 2 ^ 32
  match recording s slot, replaying s slot with
  | some p, _ => if ringStalls (rpart s p) then none else some (countArb (emit s p (sliceSrc line) (rowBytes 2 kind split 0 agent n (line * 128) wmask.toNat) none) agent)
  | none, some p =>
    let r := rpart s p
    match r.log.findIdx? fun b => fieldOf b 0 1 == 2 && Config.l3Slice (fieldOf b 0x10 8 / 128) == Config.l3Slice line with
    | none => none
    | some k =>
      let b := r.log.getD k []
      if fieldOf b 1 1 = kind ∧ fieldOf b 2 1 = split ∧ fieldOf b 4 4 = agent ∧ fieldOf b 8 4 = n ∧ fieldOf b 0x10 8 = line * 128 then
        some (countArb (setRpart s p { r with log := r.log.eraseIdx k }) agent)
      else none
  | none, none => some s

/-- A record of a replayed log is a VALUE of a kind for a fragment at the place its open chunk has reached (R369, R375). -/
def isValue (gr : Group) (g e kind : Nat) (b : List Byte) : Bool :=
  let ch := (gr.ent e).chunk
  fieldOf b 0 1 == 5 && fieldOf b 1 1 == kind && fieldOf b 2 1 == e && fieldOf b 4 4 == g && fieldOf b 8 4 == ch.count
    && (match ch.replay with | some c => fieldOf b 0x10 8 == fieldOf c 0x10 8 | none => true)

/-- The value such a record carries, AUX above its 64 bits. -/
def valueOf (b : List Byte) : Nat := fieldOf b 0x18 8 + fieldOf b 0x0C 4 * 2 ^ 64

/-- The next VALUE of a kind that the log of a replayed task holds for a fragment, and the log without it (R375). -/
def logValue (s : State) (g e kind : Nat) : Option (Nat × State) :=
  match s.group? g with
  | none => none
  | some gr =>
    (replaying s gr.block.gang.slot).bind fun p =>
      let r := rpart s p
      match r.log.findIdx? (isValue gr g e kind) with
      | none => none
      | some k => some (valueOf (r.log.getD k []), setRpart s p { r with log := r.log.eraseIdx k })

/-- An outside value that a slot takes (R13, R375): the live one, or the logged one under replay; noted for the commit. -/
def outside (s : State) (g : Nat) (gr : Group) (c : Ctx) (kind live : Nat) : Nat × Ctx :=
  match replaying s gr.block.gang.slot with
  | some p =>
    let n := (c.outs.filter fun x => x.1 == kind).length
    match ((rpart s p).log.filter (isValue gr g c.entry kind)).drop n with
    | b :: _ => (valueOf b, { c with outs := c.outs ++ [(kind, valueOf b)] })
    | [] => (live, c)
  | none => (live, { c with outs := c.outs ++ [(kind, live)] })

/-- The outside values of a committed clause are logged, or leave the log (R361); under replay a value that the log does not hold is a
divergence, but for the residency of a load that was fully resident (R377). -/
def commitOuts (s : State) (g e : Nat) (outs : List (Nat × Nat)) : State :=
  foldS s outs fun s x =>
    match logValue s g e x.1 with
    | some r => r.2
    | none =>
      match (s.group? g).bind fun gr => replaying s gr.block.gang.slot with
      | some p => if x.1 = 4 then s else haltPart s p 3 g e ((frontierOf s p).getD 0) []
      | none => valueRec s g e x.1 (x.2 % 2 ^ 64) (x.2 / 2 ^ 64) []

/-- Puts an entry in its place by a key, after those of the same key. -/
def insertKey {α : Type} (k : Nat) (a : α) : List (Nat × α) → List (Nat × α)
  | [] => [(k, a)]
  | x :: t => if k < x.1 then (k, a) :: x :: t else x :: insertKey k a t

/-- The CHUNK records of a task carry digests (R381). -/
def digests (s : State) (slot : Nat) : Bool := (partOfTask s slot).any fun p => let r := rpart s p; r.pair || r.mode == 3

/-- The digest of a chunk takes a write, in its place of the commit order: clause number × 16 + slot, then lane; virtual address, size,
bytes (R381). -/
def digestWrite (s : State) (agent chunk seq lane va size : Nat) (bs : List Byte) : State :=
  match s.group? agent with
  | none => s
  | some gr =>
    if !digests s gr.block.gang.slot then s
    else
      let l := insertKey (seq * 128 + lane) (leBytes 8 va ++ leBytes 1 size ++ bs) (s.damask.writes.get chunk [])
      { s with damask := { s.damask with writes := s.damask.writes.put chunk l } }

/-! ### Trace (R412 to R414) -/

def sessD (s : State) (i : Nat) : Sess := s.dbg.sess.get i {}
def setSess (s : State) (i : Nat) (x : Sess) : State := { s with dbg := { s.dbg with sess := s.dbg.sess.put i x } }
def capD (s : State) (i : Nat) : Cap := s.dbg.caps.get i {}

/-- The right of a capability: bit 0 HALT, 1 READ, 2 WRITE, 3 TRACE, 4 WATCH, 5 REPLAY, 6 DELEG (R409). -/
def Cap.has (c : Cap) (right : Nat) : Bool := c.v && c.rights.getLsbD right

/-- The PASID of a task. -/
def pasidOf (s : State) (slot : Nat) : Nat := match s.task? slot with | some t => t.lr.pasid | none => 0

/-- A task has a debug capability with a right (R409). -/
def hasRight (s : State) (slot right : Nat) : Bool :=
  (List.range 256).any fun i => (capD s i).has right && (capD s i).subject == pasidOf s slot

/-- Bytes that the recorder and trace units write into rings of their own: through the L3, whose lines become dirty (R332). -/
def ringWrite (s : State) (pa : Nat) (bs : List Byte) : State :=
  let ws := (List.range ((pa + bs.length + 3) / 4 - pa / 4)).map fun k => pa / 4 + k
  { s with
    mem := s.mem.putN pa bs
    m := { s.m with
      l3 := (ws.map (· / 32)).dedup.foldl (fun l x => if l.contains x then l else x :: l) s.m.l3
      tags := ws.foldl (fun t w => t.put w { t.get w {} with valid := true, dirty := true }) s.m.tags } }

/-- Stores one 48-byte record at the session's HEAD. -/
def traceStore (s : State) (i : Nat) (bytes : List Byte) : State :=
  let x := sessD s i
  let n := 2 ^ x.sizelog / 48
  setSess (ringWrite s (x.base + 48 * (x.head % n)) bytes) i { x with head := (x.head + 1) % 2 ^ 32 }

/-- The ring has room: it has not yet been filled once, or the reader has made room (R414). -/
def traceRoom (x : Sess) (i : Nat) : Bool := if x.head < 2 ^ x.sizelog / 48 then true else Config.traceRoom i x.head

/-- Writes a record into one session, or drops it (R414). -/
def tracePut (s : State) (i : Nat) (bytes : List Byte) : State :=
  let x := sessD s i
  if !traceRoom x i then setSess s i { x with lost := min (x.lost + 1) (2 ^ 32 - 1), dropped := x.dropped + 1 }
  else if x.dropped = 0 then traceStore s i bytes
  else
    let lostRec := leBytes 1 8 ++ leBytes 27 0 ++ leBytes 4 x.dropped ++ leBytes 8 s.plat.time.toNat ++ leBytes 8 0
    traceStore (traceStore (setSess s i { x with dropped := 0 }) i lostRec) i bytes

/-- A trace record (R413) goes to every enabled session that takes its kind and covers the task. -/
def trace (s : State) (slot kind code split agent pc : Nat) (mask : Mask) (extra : Nat) : State :=
  match s.task? slot with
  | none => s
  | some t =>
    let bytes := leBytes 1 kind ++ leBytes 1 code ++ leBytes 1 split ++ leBytes 1 0 ++ leBytes 4 agent ++ leBytes 8 pc
      ++ leBytes 12 mask.toNat ++ leBytes 4 extra ++ leBytes 8 s.plat.time.toNat ++ leBytes 8 t.handle
    foldS s (List.range 8) fun s i =>
      let x := sessD s i
      let c := capD s x.cap
      if x.en && x.kinds.getLsbD (kind - 1) && c.has 3 && c.subject == t.lr.pasid && (x.task == 0 || x.task == t.handle)
      then tracePut s i bytes else s

/-! ### Watchpoints (R415, R416) -/

def watchD (s : State) (i : Nat) : Watch := s.dbg.wps.get i {}

/-- A performed access in one line is compared with every armed watchpoint: `what` 1 read, 2 write, 3 atomic, SEAL or REUSE. -/
def watch (s : State) (what srcKind agent slot line : Nat) (words : BitVec 32) (extra : Nat) (grp : Option (Nat × Nat))
    (blk : Option BlockId := none) : State :=
  if words = 0 then s else
  foldS s (List.range 32) fun s i =>
    let w := watchD s i
    let on := (what == 1 && w.rd) || (what == 2 && w.wr) || (what == 3 && w.atm)
    if on && decide (w.base ≤ line * 128) && decide (line * 128 < w.base + 128 * w.lines) then
      { s with dbg := { s.dbg with pending := s.dbg.pending ++
        [{ wp := i, what, srcKind, agent, task := (match s.task? slot with | some t => t.handle | none => 0), line, words, extra, grp, blk }] } }
    else s

/-! ### Time (R129) -/

/-- A reading of the device time base: some nanoseconds have passed since the last one; it never decreases. -/
def readTime (s : State) : Word × State :=
  let f := freshFree s
  let t := s.plat.time + Config.elapsed f.1
  let now := if t.toNat < s.plat.time.toNat then s.plat.time else t
  (now, { f.2 with plat := { s.plat with time := now } })

end Sys2Proof.Machine
end

