-- ==== Sys2Proof/Machine/Mem.lean ====
section
/-! DEFINITION. The memory engine: scopes and holds, translation, the check and the effect of an access at its home, the L1s,
requests in flight and the order between them (R259 to R335). -/
namespace Sys2Proof.Machine
open Sys2Proof

/-! ### Addresses (R315) -/

/-- 704 GiB of device memory. -/
def devSize : Nat := 704 * 2 ^ 30
def isDev (pa : Nat) : Bool := decide (pa < devSize)
def isHostPa (pa : Nat) : Bool := decide (2 ^ 56 ≤ pa) && decide (pa < 2 ^ 57)

/-- `n` bytes at a physical address. -/
def physRead (s : State) (pa n : Nat) : List Byte :=
  if isDev pa then s.mem.getN pa n else if isHostPa pa then s.hostMem.getN (pa - 2 ^ 56) n else List.replicate n 0
def physWrite (s : State) (pa : Nat) (bs : List Byte) : State :=
  if isDev pa then { s with mem := s.mem.putN pa bs }
  else if isHostPa pa then { s with hostMem := s.hostMem.putN (pa - 2 ^ 56) bs } else s

/-! ### Word tags and directory (R296, R297) -/

def tagAt (s : State) (w : Nat) : WordTag := s.m.tags.get w {}
def setTag (s : State) (w : Nat) (t : WordTag) : State := { s with m := { s.m with tags := s.m.tags.put w t } }
def dirAt (s : State) (line : Nat) : DirEnt := s.m.dir.get line {}
def setDir (s : State) (line : Nat) (d : DirEnt) : State := { s with m := { s.m with dir := s.m.dir.put line d } }
def frameAt (s : State) (f : Nat) : Frame := s.m.frames.get f {}
def setFrame (s : State) (f : Nat) (x : Frame) : State := { s with m := { s.m with frames := s.m.frames.put f x } }

/-- The words that bytes pa to pa + n − 1 lie in. -/
def wordsOf (pa n : Nat) : List Nat := (List.range ((pa + n + 3) / 4 - pa / 4)).map fun k => pa / 4 + k

/-- The words that accesses name. -/
def wordsOfAccs (accs : List Acc) : List Nat := (accs.flatMap fun a => wordsOf a.pa a.size).dedup

/-- The lines of words. -/
def linesOfWords (ws : List Nat) : List Nat := (ws.map (· / 32)).dedup

/-- The word mask of an access within its line. -/
def wmaskOf (ws : List Nat) : BitVec 32 := ws.foldl (fun m w => m ||| (1#32 <<< (w % 32))) 0

/-- The write-once state of a word: a line that left the L3 sealed keeps that in its metadata bit (R301). -/
def wstOf (s : State) (w : Nat) : Nat := let t := (tagAt s w).wst; if t = 0 && s.m.sealed.contains (w / 32) then 2 else t

/-! ### Scopes (R260) -/

/-- b is inside the scope relative to a. -/
def inside (s : State) (scope a b : Nat) : Bool :=
  let dev := [0, 1, 2, 5].contains (agentKind b)
  match scope with
  | 4 => dev || a == b
  | 5 => dev || agentKind b == 4 || a == b
  | 6 => true
  | _ =>
    if a = b then true
    else if agentKind a = 0 then
      match s.group? a with
      | none => false
      | some ga =>
        if agentKind b = 0 then
          match s.group? b with
          | none => false
          | some gb => (scope == 1 && ga.block == gb.block) || (decide (2 ≤ scope) && ga.block.gang == gb.block.gang)
        else scope == 3 && agentKind b == 2 && agentIndex b == lcluOf s ga.block.gang
    else if agentKind a = 2 then
      match s.group? b with
      | some gb => scope == 3 && agentKind b == 0 && lcluOf s gb.block.gang == agentIndex a
      | none => false
    else false

/-- The word is held against an agent (R269). -/
def heldAgainst (s : State) (w b : Nat) : Bool :=
  let t := tagAt s w
  t.hold && t.owner != b && !(t.stamp != 7 && inside s t.stamp t.owner b)

/-- A release stamp widened by a release at a scope (R268). -/
def widenTag (scope : Nat) (t : WordTag) : WordTag :=
  if scope ≥ 4 then { t with hold := false }
  else if t.stamp = 7 || t.stamp < scope then { t with stamp := scope } else t

/-- A release by an agent at a scope (R268). -/
def release (s : State) (a scope : Nat) : State :=
  { s with m := { s.m with tags := s.m.tags.map fun p => if p.2.hold && p.2.owner == a then (p.1, widenTag scope p.2) else p } }

/-- Promotion of a holder's releases to a scope: the words that carry a stamp (R272). -/
def promote (s : State) (a scope : Nat) : State :=
  { s with m := { s.m with tags := s.m.tags.map fun p =>
      if p.2.hold && p.2.owner == a && p.2.stamp != 7 then (p.1, widenTag scope p.2) else p } }

/-- Clears the holds and source claims of agents (R302, R287). -/
def clearHolds (s : State) (is : Nat → Bool) : State :=
  let mine := (s.m.claims.filter fun c => is c.1).map (·.2)
  let others := (s.m.claims.filter fun c => !is c.1).map (·.2)
  { s with m := { s.m with
      tags := s.m.tags.map fun p =>
        let t := if p.2.hold && is p.2.owner then { p.2 with hold := false } else p.2
        (p.1, if mine.contains p.1 && !others.contains p.1 then { t with clm := false } else t)
      claims := s.m.claims.filter fun c => !is c.1 } }

/-- A word enters an agent's source claim; one entry of it leaves, and a word that nothing else claims is free of CLM (R217, R288). -/
def addClaim (s : State) (a w : Nat) : State :=
  setTag { s with m := { s.m with claims := (a, w) :: s.m.claims } } w { tagAt s w with clm := true }
def dropClaim (s : State) (a w : Nat) : State :=
  let left := s.m.claims.erase (a, w)
  let s1 : State := { s with m := { s.m with claims := left } }
  if left.any fun c => c.2 == w then s1 else setTag s1 w { tagAt s1 w with clm := false }

/-! ### Hold partition (R270, R303) -/

/-- The word needs its line kept. -/
def keeps (t : WordTag) : Bool := t.hold || t.wst == 1
/-- Lines with an entry. -/
def heldLines (s : State) : List Nat := ((s.m.tags.filter fun p => keeps p.2).map fun p => p.1 / 32).dedup
/-- (holder, line) pairs. -/
def holderPairs (s : State) : List (Nat × Nat) := ((s.m.tags.filter fun p => p.2.hold).map fun p => (p.2.owner, p.1 / 32)).dedup
/-- Reservations granted and not used count as entries: those of clauses under way, and those of committed stores still to be
performed. -/
def grantedResv (s : State) : List (Nat × Nat) :=
  let mine : List (Nat × Nat) := (s.m.resv.filter fun r => r.granted).map fun r => (r.agent, r.line)
  let owed : List Req := s.m.reqs.filter fun r => decide (r.kind = .store) && !r.performed && (r.ct == 0 || r.ct == 2) && agentKind r.agent == 0
  (mine ++ owed.flatMap fun (r : Req) => r.accs.map fun (a : Acc) => (r.agent, a.pa / 128)).dedup

/-- HP of a directory entry: the line occupies a hold-partition entry (R297). -/
def hpOf (s : State) (line : Nat) : Bool := (heldLines s).contains line || (grantedResv s).any (·.2 == line)

/-- The frame of the line is RC: its held words need a holder record beside the line's entry. -/
def rcLine (s : State) (line : Nat) : Bool := (frameAt s (line / 32)).ty == 0

/-- The home slice can give an agent an entry and, on an RC page, a record for a line: it has them, or has room. Few in all means room
everywhere, since no slice's share is smaller. -/
def holdRoom (s : State) (agent line : Nat) : Bool :=
  let lines := (heldLines s ++ (grantedResv s).map (·.2)).dedup
  let pairs := (holderPairs s ++ (grantedResv s).filter fun p => rcLine s p.2).dedup
  (lines.contains line || decide (lines.length < 16384)
    || decide ((lines.filter fun l => Config.l3Slice l == Config.l3Slice line).length < 16384))
  && (!rcLine s line || pairs.contains (agent, line) || decide (pairs.length < 32768)
    || decide ((pairs.filter fun p => Config.l3Slice p.2 == Config.l3Slice line).length < 32768))

/-! ### Translation (R315 to R323) -/

/-- What an access needs of a leaf (R319). -/
structure Need where
  r : Bool := false
  w : Bool := false
  x : Bool := false
  deriving DecidableEq, Repr

/-- What a walk ends at. -/
inductive Walk where
  | bad
  | reserved
  | nonres (r w x : Bool)
  | leaf (e : TlbEnt)
  deriving DecidableEq, Repr

/-- A frame reserved to the device (R319): firmware's, and the rings of partitions that are on (R359). -/
def reservedFrame (s : State) (pa : Nat) : Bool :=
  s.m.reservedFrames.contains (pa / 4096)
  || (List.range 8).any fun p => let r := rpart s p; r.mode != 0 && decide (r.base ≤ pa) && decide (pa < r.base + r.size * 2 ^ 30)

/-- What a leaf names, given its level's page size. -/
def leafOf (s : State) (pasid va size e : Nat) : Walk :=
  let r := bitAt e 1
  let w := bitAt e 2
  let x := bitAt e 3
  let pa := bits e 56 12 * 4096
  if !bitAt e 60 then .nonres r w x
  else if pa % size ≠ 0 then .bad
  else if !(isDev pa) && !(isHostPa pa) then .bad
  else if reservedFrame s (pa + va % size) then .reserved
  else
    let frame := (pa + va % size) / 4096
    .leaf { pasid, va := va / size * size, size, pa, ct := BitVec.ofNat 2 (bits e 62 61), r, w, x,
            tgens := [(frame, (frameAt s frame).tgen)] }

/-- One level of the walk: level n + 1 with its table; non-leaf entries met go into the walk cache. -/
def walkFrom (s : State) (pasid va : Nat) : Nat → Nat → List (Nat × Nat × Nat) → Walk × List (Nat × Nat × Nat)
  | 0, _, acc => (.bad, acc)
  | n + 1, tbl, acc =>
    let e := leNat (physRead s (tbl + 8 * bits va (12 + 9 * (n + 1) - 1) (12 + 9 * n)) 8)
    let resv := bitAt e 63 || bits e 59 57 != 0 || bitAt e 8 || bits e 6 5 != 0
    if !bitAt e 0 || resv then (.bad, acc)
    else if n = 0 then
      (if bitAt e 4 then .bad else leafOf s pasid va (if bitAt e 7 then 65536 else 4096) e, acc)
    else if bitAt e 7 then (.bad, acc)
    else if bitAt e 4 then
      (if n = 1 then leafOf s pasid va (2 ^ 21) e else if n = 2 then leafOf s pasid va (2 ^ 30) e else .bad, acc)
    else if bits e 62 60 != 0 || bits e 3 1 != 0 || !isDev (bits e 56 12 * 4096) then (.bad, acc)
    else walkFrom s pasid va n (bits e 56 12 * 4096) (acc ++ [(n, va / 2 ^ (12 + 9 * n), bits e 56 12 * 4096)])

/-- The walk of an address in a PASID's space, and the walk-cache entries it leaves (R316, R317). -/
def walk (s : State) (pasid va : Nat) : Walk × List (Nat × Nat × Nat) :=
  match s.m.pasids.find? pasid with
  | none => (.bad, [])
  | some p =>
    if !p.en then (.bad, [])
    else if va ≥ 2 ^ 57 then (.bad, [])
    else if p.lv5 then walkFrom s pasid va 5 p.root []
    else if va ≥ 2 ^ 48 then (.bad, [])
    else walkFrom s pasid va 4 p.root []

/-- A walk of a die that starts below the deepest cached table of the address (R321); with no valid context entry there is no walk (R316). -/
def walkCached (s : State) (die pasid va : Nat) : Walk × List (Nat × Nat × Nat) :=
  let valid := match s.m.pasids.find? pasid with | some p => p.en && (p.lv5 || decide (va < 2 ^ 48)) | none => false
  if !valid then (.bad, []) else
  let hit := fun (n : Nat) => List.find? (fun (c : Nat × Nat × Nat × Nat × Nat) =>
    c.1 == die && c.2.1 == pasid && c.2.2.1 == n && c.2.2.2.1 == va / 2 ^ (12 + 9 * n)) s.m.wcache
  match hit 1, hit 2, hit 3, hit 4 with
  | some c, _, _, _ => walkFrom s pasid va 1 c.2.2.2.2 []
  | _, some c, _, _ => walkFrom s pasid va 2 c.2.2.2.2 []
  | _, _, some c, _ => walkFrom s pasid va 3 c.2.2.2.2 []
  | _, _, _, some c => walkFrom s pasid va 4 c.2.2.2.2 []
  | _, _, _, _ => walk s pasid va

/-- The first `n` of a list after a new entry: a cache that drops its oldest. -/
def keepNew {α : Type} (n : Nat) (x : α) (l : List α) : List α := (x :: l).take n

def tlbHit (l : List TlbEnt) (pasid va : Nat) : Option TlbEnt :=
  l.find? fun e => e.pasid == pasid && e.va == va / e.size * e.size

/-- What a translation gives. -/
inductive XR where
  | ok (pa : Nat) (ct : BitVec 2)
  | fault (c : Cause)
  | nonres
  | retype (frame : Nat)
  deriving DecidableEq, Repr

/-- The permission a leaf lacks (R319). -/
def lacks (n : Need) (r w x : Bool) : Bool := (n.r && !r) || (n.w && !w) || (n.x && !x)

/-- The TGEN that an entry records for a frame of its page; a frame not accessed through it yet has the one it has now (R266). -/
def TlbEnt.tgenOf (s : State) (e : TlbEnt) (frame : Nat) : Nat := e.tgens.get frame (frameAt s frame).tgen
/-- The entry with the frame's TGEN recorded. -/
def TlbEnt.noted (s : State) (e : TlbEnt) (frame : Nat) : TlbEnt := { e with tgens := e.tgens.put frame (e.tgenOf s frame) }

/-- The frame's retype has stopped admission (R291 step 1): accesses to it wait. -/
def frozenByRetype (s : State) (pa : Nat) : Bool := (frameAt s (pa / 4096)).rt && s.m.retype.state == 2

/-- The check of the frame against the reserved ones and the frame-type table (R23, R266, R290, R292, R319). While a retype is applied the
access goes on to its home, which judges it when that is over (R291). -/
def ctCheck (s : State) (e : TlbEnt) (pa : Nat) : XR :=
  if isHostPa pa then (if e.ct = 1 then .ok pa e.ct else .fault .typemis)
  else if reservedFrame s pa then .fault .prot
  else
    let f := frameAt s (pa / 4096)
    if e.tgenOf s (pa / 4096) ≠ f.tgen then .retype (pa / 4096)
    else if e.ct = f.ty || frozenByRetype s pa then .ok pa e.ct
    else if f.rt then .retype (pa / 4096) else .fault .typemis

/-- Puts a walk's non-leaf entries into the walk cache of a die: 4,096 entries for each die. -/
def cacheWalk (s : State) (die pasid : Nat) (l : List (Nat × Nat × Nat)) : State :=
  let others := s.m.wcache.filter fun c => c.1 != die
  let mine := s.m.wcache.filter fun c => c.1 == die
  { s with m := { s.m with wcache := l.foldl (fun t c => keepNew 4096 (die, pasid, c.1, c.2.1, c.2.2) t) mine ++ others } }

/-- The TLB of a CU, or of a cluster's tensor translation unit (R221, R321). -/
def tlbOf (s : State) (ttu : Bool) (u : Nat) : List TlbEnt := if ttu then s.m.ttlb.get u [] else s.m.tlb.get u []
def setTlb (s : State) (ttu : Bool) (u : Nat) (l : List TlbEnt) : State :=
  if ttu then { s with m := { s.m with ttlb := s.m.ttlb.put u l } } else { s with m := { s.m with tlb := s.m.tlb.put u l } }

/-- Translates an access (R315 to R323): the TLB's leaf, or a walk's, then permissions, then the page type. A stale entry is
dropped, so that the access that restarts walks again. -/
def translateIn (s : State) (ttu : Bool) (u pasid va : Nat) (need : Need) : State × XR :=
  if va ≥ 2 ^ 57 then (s, .fault .unmapped)
  else
    let l := tlbOf s ttu u
    match tlbHit l pasid va with
    | some e =>
      if lacks need e.r e.w e.x then (s, .fault .prot)
      else
        let pa := e.pa + va % e.size
        match ctCheck s e pa with
        | .retype f => (setTlb s ttu u (l.filter fun x => x != e), .retype f)
        | r => (if e.tgens.find? (pa / 4096) = none then setTlb s ttu u (l.map fun x => if x = e then e.noted s (pa / 4096) else x) else s, r)
    | none =>
      let die := dieOfClu (if ttu then u else cluOfCu u)
      let w := walkCached s die pasid va
      let s1 := cacheWalk s die pasid w.2
      match w.1 with
      | .bad => (s1, .fault .unmapped)
      | .reserved => (s1, .fault .prot)
      | .nonres r w x => (s1, if lacks need r w x then .fault .prot else .nonres)
      | .leaf e =>
        let s2 := setTlb s1 ttu u (keepNew (if ttu then 1024 else 512) e l)
        if lacks need e.r e.w e.x then (s2, .fault .prot) else (s2, ctCheck s2 e (e.pa + va % e.size))

/-- The translation of a CU's access. -/
def translate (s : State) (cu pasid va : Nat) (need : Need) : State × XR := translateIn s false cu pasid va need

/-- Drops translations in scope of a shootdown (R322): every cache, every entry the predicate names. -/
def dropTlb (s : State) (is : TlbEnt → Bool) (wc : Nat → Nat → Nat → Bool) : State :=
  { s with m := { s.m with
      tlb := s.m.tlb.map fun p => (p.1, p.2.filter fun e => !is e)
      ttlb := s.m.ttlb.map fun p => (p.1, p.2.filter fun e => !is e)
      wcache := s.m.wcache.filter fun c => !wc c.2.1 c.2.2.1 c.2.2.2.1 } }

/-! ### Page requests (R326 to R329) -/

/-- A page has a request with at least the access asked. -/
def preqCovers (s : State) (pasid page : Nat) (w : Bool) : Bool :=
  s.m.preqs.any fun p => !p.answered && p.pasid == pasid && p.page == page && (p.write || !w)

/-- Makes a request: merged if one is outstanding, or a further one with write access (R326). -/
def requestPage (s : State) (pasid page : Nat) (w x : Bool) : State :=
  if preqCovers s pasid page w then s
  else { s with m := { s.m with preqs := s.m.preqs ++ [{ pasid, page, write := w, exec := x }] } }

/-- UNMAPPED and PROT that a copy's or a core's access takes are sent to the host as page requests too (R329); while RF is set none is
made (R328). -/
def faultAsk (s : State) (pasid code va : Nat) (w x : Bool) : State :=
  if (code == 0x04 || code == 0x05) && !s.m.rf then requestPage s pasid (va / 4096) w x else s

/-- Requests sent and not answered. -/
def preqsSent (s : State) : Nat := (s.m.preqs.filter fun p => p.grp.isSome && !p.answered).length

/-! ### L1 and L2 (R293, R294, R298) -/

def l1At (s : State) (cu line : Nat) : Option L1Line := s.m.l1.find? (cu, line)
def setL1 (s : State) (cu line : Nat) (l : L1Line) : State := { s with m := { s.m with l1 := s.m.l1.put (cu, line) l } }

/-- A line's slice among those of some dies: die × 512 + slice. -/
def l2Among (ds : List Nat) (line : Nat) : Nat :=
  let k := Config.l2Hash (512 * ds.length) line % max 1 (512 * ds.length)
  ds.getD (k / 512) 0 * 512 + k % 512

/-- A line's slice as dies fail one after another: it moves only when its own die goes (R314). `live`: the dies before. -/
def l2Moved (line : Nat) : List Nat → List Nat → Nat → Nat
  | [], _, h => h
  | d :: t, live, h =>
    let left := live.filter (· != d)
    l2Moved line t left (if h / 512 = d then l2Among left line else h)

/-- The home L2 slice of a line, among those of the surviving dies: die × 512 + slice (R293, R314). The dies that failed are listed newest first. -/
def l2Home (s : State) (line : Nat) : Nat := l2Moved line s.disp.deadDies.reverse (List.range 4) (l2Among (List.range 4) line)

/-- The lines of a full set of a cache that a new line joins; none while one of the `ways` it has is free (R294). -/
def fullSet (hash : Nat → Nat) (ways : Nat) (line : Nat) (l : List Nat) : List Nat :=
  if l.length < ways then []
  else
    let set := l.filter fun x => hash x % 128 == hash line % 128
    if set.length < ways then [] else set

/-- The ways of a set of an L2 slice that cache lines: 16, less the lines of the pool for tiles, which is carved evenly (R434). -/
def l2Ways (s : State) (set : Nat) : Nat := 16 - (16 * s.m.l2pin / 128 + b2n (decide (set < 16 * s.m.l2pin % 128)))

/-- The line is in its home L2 slice; a full set gives up a line, which the L3 holds too. -/
def l2Touch (s : State) (line : Nat) : State :=
  let h := l2Home s line
  let l := s.m.l2.get h []
  let here := l.contains line
  let set := fullSet Config.l2Set (l2Ways s (Config.l2Set line % 128)) line l
  let gone := set[Config.cacheVictim s.ids % set.length]?
  { s with
    ids := if here || set.isEmpty then s.ids else s.ids + 1
    m := { s.m with l2 := if here then s.m.l2 else s.m.l2.put h (line :: l.filter fun x => gone != some x) } }

/-- A way for a line in a CU's L1: a full set gives up one of its clean lines, silently (R294, R299). -/
def l1Room (s : State) (cu line : Nat) : State :=
  let mine := (s.m.l1.filter fun p => p.1.1 == cu).map (·.1.2)
  if mine.contains line then s
  else match (fullSet Config.l1Set 16 line mine).filter fun x => (l1At s cu x).all fun l => l.dirty == 0 with
  | [] => s
  | v :: vs =>
    let f := freshId s
    let gone := (v :: vs).getD (Config.cacheVictim f.1 % (vs.length + 1)) v
    { f.2 with m := { f.2.m with l1 := f.2.m.l1.del (cu, gone) } }

/-- The CU's L1 has a way for the line. -/
def l1HasRoom (s : State) (cu line : Nat) : Bool :=
  let mine := (s.m.l1.filter fun p => p.1.1 == cu).map (·.1.2)
  mine.contains line || fullSet Config.l1Set 16 line mine == []

/-- The words of a line that a CU's L1 may hold under the page type of its frame (R298): for IP, the owning block's CU. -/
def l1May (s : State) (cu line : Nat) : BitVec 32 :=
  let f := frameAt s (line / 32)
  match f.ty.toNat with
  | 0 => BitVec.ofNat 32 (maskFrom (fun k => let t := tagAt s (line * 32 + k); !t.hold && !t.clm) 32)
  | 1 => 0
  | 2 => BitVec.ofNat 32 (maskFrom (fun k => wstOf s (line * 32 + k) == 2) 32)
  | _ =>
    match s.block? ⟨⟨f.oslot, f.okid⟩, f.obid⟩ with
    | some b => if f.ob && b.cu == cu then BitVec.allOnes 32 else 0
    | none => 0

/-- The directory lets the line be cached in an L1: not under NOC, not while something is outstanding for it, and not while the host may
have modified it (R297, R299, R312). -/
def fillMay (s : State) (line : Nat) : Bool := let d := dirAt s line; !d.noc && !d.pend && !d.hostx

/-- Fills a CU's L1 with a line that the L3 holds; dirty words stay as they are. -/
def fillL1 (s : State) (cu line : Nat) : State :=
  let may := l1May s cu line
  if may = 0 || !fillMay s line || !s.m.l3.contains line then s
  else
    let s0 := l1Room s cu line
    if !l1HasRoom s0 cu line then s else
    let old := (l1At s0 cu line).getD ⟨0, 0, []⟩
    let s1 := setL1 s0 cu line { old with valid := old.valid ||| may }
    let d := dirAt s1 line
    l2Touch (setDir s1 line { d with shv := d.shv ||| (1#112 <<< cluOfCu cu) }) line

/-- Every word of an access is valid in the CU's L1. -/
def l1Hit (s : State) (cu pa n : Nat) : Bool :=
  match l1At s cu (pa / 128) with
  | some l => (wordsOf pa n).all fun w => l.valid.getLsbD (w % 32)
  | none => false

/-- A byte as a CU sees it: its own dirty copy first. -/
def byteAt (s : State) (cu pa : Nat) : Byte :=
  match (l1At s cu (pa / 128)).bind fun l => l.data.find? (pa % 128) with
  | some b => b
  | none => if isDev pa then s.mem.get pa else s.hostMem.get (pa - 2 ^ 56)
def readCu (s : State) (cu pa n : Nat) : List Byte := (List.range n).map fun k => byteAt s cu (pa + k)

/-- Drops words of a CU's line. -/
def dropWords (s : State) (cu line : Nat) (words : BitVec 32) : State :=
  match l1At s cu line with
  | none => s
  | some l =>
    let v := l.valid &&& ~~~words
    if v = 0 && l.dirty = 0 then { s with m := { s.m with l1 := s.m.l1.del (cu, line) } } else setL1 s cu line { l with valid := v }

/-- Writes a CU's dirty words of a line back to the home; the words stay valid (R282). -/
def writeBackLine (s : State) (cu line : Nat) : State :=
  match l1At s cu line with
  | none => s
  | some l =>
    let s1 : State := l.data.foldl (fun s p => { s with mem := s.mem.put (line * 128 + p.1) p.2 }) s
    let dirtyWords := (List.range 32).filter fun k => l.dirty.getLsbD k
    let s2 := foldS s1 dirtyWords fun s k => let t := tagAt s (line * 32 + k); setTag s (line * 32 + k) { t with dirty := true, valid := true }
    let s3 : State := if dirtyWords = [] then s2
      else { s2 with ck := { s2.ck with marks := if s2.ck.marks.contains line then s2.ck.marks else line :: s2.ck.marks } }
    setL1 s3 cu line { l with dirty := 0, data := [] }

/-- The (CU, line) pairs an L1 holds, for CUs a predicate names. -/
def l1Lines (s : State) (is : Nat → Bool) : List (Nat × Nat) := (s.m.l1.filter fun p => is p.1.1).map (·.1)

/-- A way for a line that a CU's L1 is to hold dirty: of a full set without a clean line, one is written back first (R285, R294). -/
def l1Take (s : State) (cu line : Nat) : State :=
  let s1 := l1Room s cu line
  match fullSet Config.l1Set 16 line ((s1.m.l1.filter fun p => p.1.1 == cu).map (·.1.2)) with
  | v :: vs =>
    if l1HasRoom s1 cu line then s1
    else
      let f := freshId s1
      let gone := (v :: vs).getD (Config.cacheVictim f.1 % (vs.length + 1)) v
      let s2 := writeBackLine f.2 cu gone
      { s2 with m := { s2.m with l1 := s2.m.l1.del (cu, gone) } }
  | [] => s1

/-- Every L1 of the CUs writes back its dirty lines. -/
def writeBackAll (s : State) (is : Nat → Bool) : State := foldS s (l1Lines s is) fun s p => writeBackLine s p.1 p.2
/-- Every L1 of the CUs is emptied. -/
def invalidateAll (s : State) (is : Nat → Bool) : State :=
  { s with m := { s.m with l1 := s.m.l1.filter fun p => !is p.1.1 } }

/-! ### HBM (R331 to R335) -/

/-- A memory error record (R335): kept, and forwarded to the host. -/
def memRecord (s : State) (pa kind stack chan : Nat) : State :=
  let key := (kind, stack, chan)
  let n := min (s.m.errCnt.get key 0 + 1) (2 ^ 32 - 1)
  let r := leBytes 8 pa ++ leBytes 1 kind ++ leBytes 1 stack ++ leBytes 2 chan ++ leBytes 4 n ++ leBytes 8 s.plat.time.toNat ++ leBytes 8 0
  elPut { s with m := { s.m with errCnt := s.m.errCnt.put key n, errRecs := s.m.errRecs ++ [r] } } r

/-- The stack of a line, and that of its stripe's parity line. -/
def stackOf (line : Nat) : Nat := (line / 11 + 1 + line % 11) % 12
def parityStack (line : Nat) : Nat := line / 11 % 12

/-- The stack and pseudo-channel of a line are in service. -/
def healthy (s : State) (line : Nat) : Bool :=
  !s.m.failedStacks.contains (stackOf line) && !s.m.failedChans.contains (stackOf line, Config.hbmChan line % 192)

/-- The stack and pseudo-channel of the parity line of a line's stripe are in service. -/
def parityOk (s : State) (line : Nat) : Bool :=
  !s.m.failedStacks.contains (parityStack line) && !s.m.failedChans.contains (parityStack line, Config.parityChan (line / 11) % 192)

/-- A line write: the new data and the new parity, as one step. Lines on a failed part change only the parity; a stripe whose parity
lies on a failed part goes without. -/
def hbmWrite (s : State) (line : Nat) (bs : List Byte) : State :=
  let pa := line * 128
  let par := line / 11 * 128
  let old := s.hbm.getN pa 128
  let px := (List.range 128).map fun k => (s.parity.getN par 128).getD k 0 ^^^ old.getD k 0 ^^^ bs.getD k 0
  { s with hbm := s.hbm.putN pa bs, parity := if parityOk s line then s.parity.putN par px else s.parity }

/-- What the other eleven lines of a stripe give for a line. -/
def rebuild (s : State) (line : Nat) : List Byte :=
  let others := (List.range 11).map (fun j => line / 11 * 11 + j) |>.filter (· != line)
  (List.range 128).map fun k => others.foldl (fun x l => x ^^^ s.hbm.get (l * 128 + k)) (s.parity.get (line / 11 * 128 + k))

/-- Another line of the stripe cannot be read either: its part has failed, or it is poisoned. -/
def stripeBroken (s : State) (line : Nat) : Bool :=
  !parityOk s line || (List.range 11).any fun j => let l := line / 11 * 11 + j; l != line && (!healthy s l || s.m.poison.contains l)

/-- A line is marked poisoned. -/
def poisonLine (s : State) (line : Nat) : State :=
  { s with m := { s.m with poison := if s.m.poison.contains line then s.m.poison else line :: s.m.poison } }

/-- The read of a line from its stack (R333): as it stands, corrected, rebuilt, or poisoned; each event makes its record (R335). -/
def hbmFetch (s : State) (line : Nat) (c : HbmCond) : State :=
  let rec_ := fun (s : State) (kind : Nat) => memRecord s (line * 128) kind (stackOf line) (Config.hbmChan line % 192)
  let second : Bool := match c with | .double => true | _ => false
  let bad : Bool := !healthy s line || second || (match c with | .uncorrectable => true | _ => false)
  if bad then
    if second || stripeBroken s line then rec_ (poisonLine s line) 3
    else rec_ (if healthy s line then { s with hbm := s.hbm.putN (line * 128) (rebuild s line) } else s) 2
  else match c with
    | .corrected => rec_ s 1
    | _ => s

/-! ### Lines in the L3 (R293, R294, R296) -/

/-- The line's slice can take it: 13 MiB of lines that are not in the hold partition (R294). -/
def l3Room (s : State) (line : Nat) : Bool :=
  s.m.l3.contains line || decide (s.m.l3.length < 106496)
    || decide ((s.m.l3.filter fun l => Config.l3Slice l == Config.l3Slice line && !hpOf s l).length < 106496)

/-- A line enters the L3, with every word's data present. -/
def enterL3 (s : State) (line : Nat) : State :=
  foldS { s with m := { s.m with l3 := line :: s.m.l3 } } (List.range 32) fun s k =>
    setTag s (line * 32 + k) { tagAt s (line * 32 + k) with valid := true }

/-- A request finds its line in the L3, or has it read from HBM (R294, R333); reads that the stacks' codes correct or lose are steps of
their own (HBM_READ). -/
def bringIn (s : State) (line : Nat) : State :=
  if !isDev (line * 128) || s.m.l3.contains line then s else enterL3 (hbmFetch s line .clean) line

/-- A line as its home serves it: in its L3 slice and its L2 slice. -/
def atHome (s : State) (line : Nat) : State := if isDev (line * 128) then l2Touch (bringIn s line) line else s

/-- The lines of words at their homes. -/
def bringAll (s : State) (ws : List Nat) : State := foldS s (linesOfWords ws) atHome

/-- A line for a prefetch: one that needs no rebuilding. -/
def hintLine (s : State) (line : Nat) : State :=
  if s.m.l3.contains line then s
  else if isDev (line * 128) && healthy s line && l3Room s line then enterL3 s line else s

/-- A write that covers all of a poisoned line clears the mark (R333). -/
def unpoison (s : State) (ranges : List (Nat × Nat)) : State :=
  let whole := fun (l : Nat) => (List.range 128).all fun k => ranges.any fun r => decide (r.1 ≤ l * 128 + k) && decide (l * 128 + k < r.1 + r.2)
  { s with m := { s.m with poison := s.m.poison.filter fun l => !whole l } }

/-- An access that the hub or a management core has made is compared with the watchpoints (R415): `what` as in `watch`; source kind 3, or 1
from a port of the fabric, whose number is `extra` (R416). -/
def watchHub (s : State) (what srcKind agent extra : Nat) (ws : List Nat) : State :=
  if s.dbg.wps.all fun p => p.2.lines == 0 then s
  else foldS s (linesOfWords ws) fun s l => watch s what srcKind agent (2 ^ 17) l (wmaskOf (ws.filter fun w => w / 32 == l)) extra none

/-- Bytes that an engine of the hub writes into memory: through the L3, like any agent's (R332). -/
def engineStore (s : State) (pa : Nat) (bs : List Byte) : State :=
  let ws := wordsOf pa bs.length
  let s1 := foldS s (linesOfWords ws) bringIn
  let s2 := foldS { s1 with mem := s1.mem.putN pa bs } ws fun s w => setTag s w { tagAt s w with dirty := true, valid := true }
  unpoison { s2 with m := { s2.m with asked := s2.m.asked.filter fun l => !(linesOfWords ws).contains l } } [(pa, bs.length)]
/-- A write by an engine of the hub. -/
def engineWrite (s : State) (pa : Nat) (bs : List Byte) : State :=
  watchHub (engineStore s pa bs) 2 3 agentNone 0 (wordsOf pa bs.length)

/-! ### An access at its home -/

/-- The verdict of a home. -/
inductive Verdict where
  | ok
  | refuse (c : Cause) (holder : Nat)
  deriving DecidableEq, Repr

/-- The block a frame is bound to is the group's, or the frame is unbound (R284). -/
def ipOk (s : State) (agent frame : Nat) : Bool :=
  match s.group? agent with
  | none => false
  | some gr =>
    let f := frameAt s frame
    agentKind agent == 0 && (!f.ob || (f.oslot == gr.block.gang.slot && f.okid == gr.block.gang.kid && f.obid == gr.block.bid))

/-- Binds an unbound IP frame to a group's block, with the SYNC record of R284; `e`: the fragment. -/
def bindFrame (s : State) (agent e frame : Nat) : State :=
  let f := frameAt s frame
  if f.ty ≠ 3 || f.ob then s
  else match s.group? agent with
    | none => s
    | some gr =>
      syncRec (setFrame s frame { f with ob := true, oslot := gr.block.gang.slot, okid := gr.block.gang.kid, obid := gr.block.bid })
        gr.block.gang.slot (sliceSrc (frame * 32)) 7 agent e 0 (frame * 4096)

/-- The first word held against the agent. -/
def firstHeld (s : State) (agent : Nat) (ws : List Nat) : Option Nat := ws.find? fun w => heldAgainst s w agent

/-- Promotion applies to an acquire at scope y on a word (R272). -/
def promotes (s : State) (agent w y : Nat) : Bool :=
  let t := tagAt s w
  t.stamp != 7 && inside s y t.owner agent && inside s y agent t.owner

/-- The task slot of a group's requests; of another agent's, none. -/
def slotOfGroup (s : State) (agent : Nat) : Nat := match s.group? agent with | some g => g.block.gang.slot | none => 2 ^ 17

/-- A promotion comes at its place in the home's order under replay, and not while the recorder stalls (R360, R375): the first is asked. -/
def promoteMay (s : State) (agent e : Nat) (acq : Option Nat) (ws : List Nat) : Bool :=
  match acq with
  | none => true
  | some y => (ws.find? fun w => heldAgainst s w agent && promotes s agent w y).all fun w =>
      syncMay s (slotOfGroup s agent) (sliceSrc (w / 32)) 8 agent e

/-- Promotes what an acquire meets (R272), with its SYNC record; `e`: the fragment. -/
def promoteWords (s : State) (agent e : Nat) (acq : Option Nat) (ws : List Nat) : State :=
  match acq with
  | none => s
  | some y => foldS s ws fun s w =>
      if heldAgainst s w agent && promotes s agent w y then
        syncRec (promote s (tagAt s w).owner y) (slotOfGroup s agent) (sliceSrc (w / 32)) 8 agent e 0 (w * 4)
      else s

/-- The page type that judges an access at its home: the frame's (R23); host memory is ordered as SC (R266). -/
def homeType (s : State) (pa : Nat) : Nat := if isDev pa then (frameAt s (pa / 4096)).ty.toNat else 1

/-- Judges a read (R269, R278, R284, R333). `acq`: the scope of an acquire. The state already holds its promotions. -/
def judgeRead (s : State) (agent pa n : Nat) : Verdict :=
  let ws := wordsOf pa n
  if isDev pa && s.m.poison.contains (pa / 128) then .refuse .uncorr 0
  else if agentKind agent = 5 then .ok
  else match homeType s pa with
    | 0 => match firstHeld s agent ws with
      | some w => .refuse .race (tagAt s w).owner
      | none => .ok
    | 1 => .ok
    | 2 => if ws.all fun w => wstOf s w == 2 || (wstOf s w == 1 && (tagAt s w).owner == agent) then .ok else .refuse .typeop 0
    | _ => if ipOk s agent (pa / 4096) then .ok else .refuse .typeop 0

/-- The verdict on one byte that a copy or a control core reads (R216, R229): RC words not held against it, and sealed WO words;
none if it may, else a fault code and the holder. -/
def unitJudge (s : State) (agent pa : Nat) : Option (Nat × Nat) :=
  match homeType s pa with
  | 0 => match judgeRead s agent pa 1 with
    | .ok => none
    | .refuse .uncorr _ => some (0x0F, 0)
    | .refuse _ h => some (0x08, h)
  | 2 => if s.m.poison.contains (pa / 128) then some (0x0F, 0) else if wstOf s (pa / 4) == 2 then none else some (0x07, 0)
  | _ => some (0x07, 0)

/-- The agent that a store or atomic conflicts with: the holder of a word held against it, or who claims it as a source (R217). -/
def writeRace (s : State) (agent : Nat) (ws : List Nat) : Option Nat :=
  match firstHeld s agent ws with
  | some w => some (tagAt s w).owner
  | none => (s.m.claims.find? fun c => ws.contains c.2 && c.1 != agent).map (·.1)

/-- Judges a store (R269, R217, R278, R284). -/
def judgeWrite (s : State) (agent pa n : Nat) : Verdict :=
  let ws := wordsOf pa n
  if agentKind agent = 5 then .ok
  else match homeType s pa with
    | 0 => match writeRace s agent ws with
      | some h => .refuse .race h
      | none => .ok
    | 1 => .ok
    | 2 => if n ≥ 4 && ws.all fun w => wstOf s w == 0 then .ok else .refuse .typeop 0
    | _ => if ipOk s agent (pa / 4096) then .ok else .refuse .typeop 0

/-- Judges an atomic (R273, R306). -/
def judgeAtomic (s : State) (agent pa n : Nat) : Verdict :=
  if !isDev pa || agentKind agent == 5 then .ok
  else if homeType s pa ≥ 2 then .refuse .typeop 0
  else match (if homeType s pa = 0 then writeRace s agent (wordsOf pa n) else none) with
    | some h => .refuse .race h
    | none => if s.m.poison.contains (pa / 128) then .refuse .uncorr 0 else .ok

/-- The tag of a word after a write (R267, R277, R278, R296): `kind` 0 plain or release store, 1 atomic, 2 a write that sets no hold. A
management core leaves holds, and who holds, as they are, and the state and the writer of a WO word. -/
def tagAfter (ty : Nat) (agent kind ord scope : Nat) (t : WordTag) : WordTag :=
  let mgmt := agentKind agent == 5
  let t := { t with valid := true, dirty := true, owner := if mgmt && (t.hold || ty == 2) then t.owner else agent }
  match ty with
  | 0 =>
    if mgmt then t
    else if kind = 0 then
      { t with hold := !(ord == 2 && decide (scope ≥ 4)), stamp := if ord = 2 then scope else 7 }
    else { t with hold := false }
  | 2 => { t with wst := if kind = 0 && !mgmt then 1 else t.wst }
  | _ => t

/-- Writes bytes at their home: memory, word tags, checkpoint mark, the writer's own L1 copy (R267, R295, R298, R398). -/
def homeWrite (s : State) (agent cu pa : Nat) (bs : List Byte) (kind ord scope : Nat) : State :=
  if isDev pa then
    let line := pa / 128
    let ws := wordsOf pa bs.length
    let ty := homeType s pa
    let s1 : State := foldS { s with mem := s.mem.putN pa bs } ws fun s w => setTag s w (tagAfter ty agent kind ord scope (tagAt s w))
    let s2 : State := { s1 with ck := { s1.ck with marks := if s1.ck.marks.contains line then s1.ck.marks else line :: s1.ck.marks } }
    let s3 : State := { s2 with m := { s2.m with
      l3 := if s2.m.l3.contains line then s2.m.l3 else line :: s2.m.l3
      poison := if bs.length = 128 && pa % 128 = 0 then s2.m.poison.filter (· != line) else s2.m.poison
      asked := s2.m.asked.filter (· != line) } }
    dropWords s3 cu line (wmaskOf ws)
  else physWrite s pa bs

/-- L1s may hold words of the line that a write changes (R299): free RC words, or SC words, of a line with sharers. -/
def needsInval (s : State) (line : Nat) (ws : List Nat) : Bool :=
  (dirAt s line).shv != 0 &&
    (match homeType s (line * 128) with
     | 0 => ws.any fun w => !(tagAt s w).hold
     | 1 => true
     | _ => false)

/-- Every CU of the clusters that SHV names. -/
def sharers (s : State) (line : Nat) : List Nat :=
  (List.range 896).filter fun cu => (dirAt s line).shv.getLsbD (cluOfCu cu)

/-- The L1 can answer: its clock runs, or it has been drained (R300). -/
def l1Answers (s : State) (cu : Nat) : Bool := clockRuns s (cluOfCu cu) || (cluD s (cluOfCu cu)).drained

/-- Sends invalidations of words of a line to every sharer and sets PEND (R297, R299). -/
def sendInval (s : State) (line : Nat) (words : BitVec 32) (whole : Bool) : State :=
  let d := dirAt s line
  let s1 := setDir s line { d with pend := true }
  { s1 with m := { s1.m with inval := s1.m.inval ++ (sharers s line).map fun cu => ⟨cu, line, words, whole⟩ } }

/-- Sends a back-invalidation to the host (R312). -/
def sendBi (s : State) (line : Nat) : State :=
  if s.m.bi.contains line then s
  else
    let d := dirAt s line
    let s1 := setDir s line { d with pend := true }
    { s1 with m := { s1.m with bi := s1.m.bi ++ [line] } }

/-- A CU's L1 still has a valid copy of one of the words. -/
def l1Copy (s : State) (ws : List Nat) : Bool :=
  s.m.l1.any fun p => ws.any fun w => w / 32 == p.1.2 && p.2.valid.getLsbD (w % 32)

/-- What a write of a line needs first: the L1s' copies go, and the host's. -/
def clearLine (s : State) (l : Nat) (words : BitVec 32) (whole : Bool) : State :=
  let d := dirAt s l
  let s1 := if d.shv != 0 then sendInval s l words whole else s
  if d.host || d.hostx then sendBi s1 l else s1

/-- L1 copies of words go at once; every L1 concerned can answer. -/
def dropEverywhere (s : State) (ws : List Nat) : State :=
  foldS s (((s.m.l1.filter fun p => ws.any fun w => w / 32 == p.1.2).map (·.1))) fun s p => dropWords s p.1 p.2 (wmaskOf (ws.filter fun w => w / 32 == p.2))
def copiesAnswer (s : State) (ws : List Nat) : Bool :=
  s.m.l1.all fun p => !(ws.any fun w => w / 32 == p.1.2) || l1Answers s p.1.1

/-- Nothing is outstanding for a line: no invalidation, no back-invalidation. -/
def lineQuiet (s : State) (line : Nat) : Bool := !(s.m.inval.any fun i => i.line == line) && !s.m.bi.contains line

/-- PEND follows what is outstanding. -/
def settlePend (s : State) (line : Nat) : State :=
  let d := dirAt s line
  setDir s line { d with pend := !lineQuiet s line }

/-! ### Atomic operations (R80, R305) -/

/-- One step on an element: operation, TYPE, old value, b, c. -/
def atomStep (x : Nat) (t : Ty) (old b c : Nat) : Nat :=
  let w := t.width
  match x with
  | 0 =>
    if t.packed then
      fpAdd t.elem .rn false (old % 2 ^ 16) (b % 2 ^ 16) + 2 ^ 16 * fpAdd t.elem .rn false (old / 2 ^ 16) (b / 2 ^ 16 % 2 ^ 16)
    else if t.isFloat then fpAdd t .rn false old b
    else (old + b) % 2 ^ w
  | 1 => if t.isFloat then fpMinMax false t false old b else if extInt t old ≤ extInt t b then old else b
  | 2 => if t.isFloat then fpMinMax true t false old b else if extInt t old ≥ extInt t b then old else b
  | 3 => Nat.land old b
  | 4 => Nat.lor old b
  | 5 => Nat.xor old b
  | 6 => b
  | _ => if old = c then b else old

/-- The half of a packed element that a sub-request changes (R308). -/
def halfStep (high : Bool) (t : Ty) (old b : Nat) : Nat :=
  let sum := fun (x y : Nat) => fpAdd t.elem .rn false x y
  if high then old % 2 ^ 16 + 2 ^ 16 * sum (old / 2 ^ 16) (b / 2 ^ 16 % 2 ^ 16)
  else old / 2 ^ 16 * 2 ^ 16 + sum (old % 2 ^ 16) (b % 2 ^ 16)

/-! ### Requests in flight and their order (R261, R262, R286) -/

def findReq (s : State) (id : Nat) : Option Req := s.m.reqs.find? fun r => r.id == id
def setReq (s : State) (q : Req) : State := { s with m := { s.m with reqs := s.m.reqs.map fun r => if r.id = q.id then q else r } }
def dropReq (s : State) (id : Nat) : State := { s with m := { s.m with reqs := s.m.reqs.filter fun r => r.id != id } }
/-- A new request, with the split index and the chunk of the fragment that makes it (R369, R381). -/
def addReq (s : State) (q : Req) : State :=
  let q1 := match q.orig with
    | .grp g e => { q with split := e % 16, chunk := (chunkOf s g (e % 16)).id }
    | .core _ => q
  { s with m := { s.m with reqs := s.m.reqs ++ [q1] } }

/-- The words and lines a request names. -/
def Req.words (r : Req) : List Nat := wordsOfAccs r.accs
def Req.lines (r : Req) : List Nat := (r.accs.map fun a => a.pa / 128).dedup

def Req.isLoad (r : Req) : Bool := r.kind == .load
def Req.isAtomic (r : Req) : Bool := r.kind == .atomic || r.kind == .hostAtomic
/-- A release, a fence or the release part of SEAL and REUSE. -/
def Req.isFence (r : Req) : Bool := r.kind == .release || r.kind == .seal || r.kind == .reuse
def Req.isRelease (r : Req) : Bool := (r.kind == .store && r.ord == 2) || (r.isFence && (r.ord == 2 || r.ord == 3))
def Req.isAcquire (r : Req) : Bool := (r.kind == .load && r.ord == 1) || (r.isAtomic && (r.ord == 1 || r.ord == 3))

/-- a, before b in one agent's program order, must be performed first. -/
def mustPrecede (a b : Req) : Bool :=
  (a.words.any fun w => b.words.contains w)
  || b.isRelease
  || (a.isAcquire && (a.seq / 16 != b.seq / 16 || b.kind == .store || b.isFence))
  || (a.isFence && (a.ord == 3 || (a.ord == 1) || (a.ord == 2 && !b.isLoad)))
  || (b.isFence && b.ord == 1 && (a.isLoad || a.isAtomic || a.seq / 16 == b.seq / 16))
  || (a.ct == b.ct && (a.ct == 1 || a.ct == 3))
  || (a.kind == .store && b.kind == .store && a.seq / 16 == b.seq / 16)

/-- a stands before b in program order. -/
def reqBefore (a b : Req) : Bool := decide (a.seq < b.seq) || (a.seq == b.seq && decide (a.id < b.id))

/-- Both go to one L1, in commit order: an IP store comes before what follows it there (R285). -/
def l1Order (a b : Req) : Bool := a.ct == 3 && b.ct == 3 && a.kind == .store

/-- Nothing of the agent that must come first is outstanding, and nothing from the same CU to the same words was sent before (R295), nor an
IP store to the same L1 (R285); a packed atomic between its sub-requests lets others by (R308). -/
def reqReady (s : State) (b : Req) : Bool :=
  s.m.reqs.all fun a =>
    a.performed || a.id == b.id
    || !((a.agent == b.agent && reqBefore a b && mustPrecede a b)
         || (a.cu == b.cu && decide (a.cu < 896) && decide (a.id < b.id) && !a.half
             && (l1Order a b || a.words.any fun w => b.words.contains w)))

/-- Some access of the agent has yet to be performed. -/
def agentBusy (s : State) (agent : Nat) : Bool := s.m.reqs.any fun r => r.agent == agent && !r.performed

/-- A request that came after step 1 of APPLY waits; those admitted before are performed under the old type (R291). -/
def reqFrozen (s : State) (q : Req) : Bool :=
  decide (s.m.retype.since ≤ q.id) && q.accs.any fun a => isDev a.pa && frozenByRetype s a.pa

/-! ### Turns at the homes (R291, R295, R299, R312) -/

/-- What stands before an access at its homes: nothing; something already asked for; copies of lines that must go first. -/
inductive Turn where
  | go
  | wait
  | clear (lines : List Nat)
  deriving DecidableEq, Repr

/-- No invalidation of the words is outstanding, and the host is not being asked for their lines. -/
def wordsQuiet (s : State) (ws : List Nat) : Bool :=
  !(s.m.inval.any fun i => ws.any fun w => w / 32 == i.line && (i.whole || i.words.getLsbD (w % 32)))
    && !(ws.any fun w => s.m.bi.contains (w / 32))

/-- Another request to one of the words has been taken by its home and is not performed yet: later ones wait (R295). A load goes by a
REUSE, whose line is served without caching (R281). -/
def wordsTaken (s : State) (id : Nat) (load : Bool) (ws : List Nat) : Bool :=
  s.m.reqs.any fun a => a.id != id && a.sent && !a.performed && !(load && a.kind == .reuse) && a.words.any fun w => ws.contains w

/-- Some of the words lie in a frame whose retype has stopped admission. -/
def wordsFrozen (s : State) (ws : List Nat) : Bool := ws.any fun w => frozenByRetype s (4 * w)

/-- The turn of a write of words; `id` is its request, `sent` that it has sent its invalidations. An IP line that leaves the L3 takes no
store until it has gone (R301). -/
def writeTurn (s : State) (id : Nat) (sent : Bool) (ws : List Nat) : Turn :=
  let ls := linesOfWords ws
  let leaving := fun (l : Nat) => homeType s (l * 128) == 3 && (dirAt s l).noc
  if !wordsQuiet s ws || wordsTaken s id false ws || ls.any fun l => !l3Room s l || leaving l then .wait
  else
    let must := fun (l : Nat) =>
      let mine := ws.filter fun w => w / 32 == l
      (homeType s (l * 128) != 3 && l1Copy s mine) || (dirAt s l).host || (dirAt s l).hostx || (!sent && needsInval s l mine)
    match ls.filter must with
    | [] => .go
    | x => .clear x

/-- The copies of a write's words are asked to go. -/
def clearFor (s : State) (ws ls : List Nat) : State := foldS s ls fun s l => clearLine s l (wmaskOf (ws.filter fun w => w / 32 == l)) false

/-- The turn of a read of words: a line that the host may have modified comes back first (R312). -/
def readTurn (s : State) (id : Nat) (ws : List Nat) : Turn :=
  let ls := linesOfWords ws
  if wordsTaken s id true ws || ls.any (fun l => !l3Room s l || ((dirAt s l).hostx && s.m.bi.contains l)) then .wait
  else match ls.filter fun l => (dirAt s l).hostx with
    | [] => .go
    | x => .clear x

/-- An agent that reserves nothing has room at a line for its store (R270, R303): it needs none on SC and IP pages, nor for a release to
the device on RC pages, which holds nothing (R267). -/
def storeRoom (s : State) (agent line ord scope : Nat) : Bool :=
  let ty := homeType s (line * 128)
  ty == 1 || ty == 3 || (ty == 0 && ord == 2 && decide (scope ≥ 4)) || holdRoom s agent line

/-- A write or a read of words that no request in flight stands for, by an engine, the hub or another device: its turn, where admission has
not stopped (R291). -/
def engineTurn (s : State) (ws : List Nat) : Turn :=
  if wordsFrozen s ws then .wait else writeTurn s s.ids ((linesOfWords ws).all fun l => s.m.asked.contains l) ws
def engineRead (s : State) (ws : List Nat) : Turn := if wordsFrozen s ws then .wait else readTurn s s.ids ws

/-- The copies that stand before such a write are asked to go: those of every line of it, so that its turn comes with the answers. -/
def askFor (s : State) (ws ls : List Nat) : State :=
  let s1 := clearFor s ws ls
  { s1 with m := { s1.m with asked := (linesOfWords ws ++ s1.m.asked).dedup } }

/-! ### The path from a CU to a home slice (R295) -/

/-- A request that its home could perform or start on now: it has reached the slice and waits for nothing there. -/
def canAct (s : State) (a : Req) : Bool :=
  let ws := wordsOfAccs (a.accs.filter fun x => isDev x.pa)
  let turn := if a.isLoad then readTurn s a.id ws else writeTurn s a.id a.sent ws
  !a.performed && !a.sent && reqReady s a && !reqFrozen s a && decide (turn ≠ .wait)

/-- A load that its CU's L1 serves takes no path. -/
def servedInL1 (s : State) (q : Req) : Bool := q.isLoad && q.accs != [] && q.accs.all fun a => isDev a.pa && l1Hit s q.cu a.pa a.size

/-- The slice takes a CU's requests in the order they were sent: none that it could take was sent before this one (R295). Under replay
atomics stand in the log's order. -/
def pathClear (s : State) (b : Req) : Bool :=
  b.cu ≥ 896 || servedInL1 s b || s.m.reqs.all fun a =>
    a.cu != b.cu || a.id ≥ b.id || a.performed || a.half || servedInL1 s a || a.kind == .resv
    || !(a.lines.any fun x => b.lines.any fun y => l2Home s x == l2Home s y)
    || (a.isAtomic && (replaying s (slotOfGroup s a.agent)).isSome)
    || !canAct s a

/-! ### A read that a committed instruction makes at once (R110, R205, R356) -/

/-- What it comes to. -/
inductive ReadNow where
  | wait (s : State)
  | refused (c : Cause) (holder pa : Nat)
  | got (s : State) (bs : List Byte)

/-- Frames of IP pages, among those of words, that are not bound yet. -/
def unbound (s : State) (ws : List Nat) : List Nat :=
  ((ws.map (· / 1024)).filter fun f => homeType s (f * 4096) == 3 && !(frameAt s f).ob).dedup

/-- Words of SC pages, in device memory. -/
def scWords (s : State) (ws : List Nat) : List Nat := ws.filter fun w => homeType s (4 * w) == 1

/-- `n` bytes as a group's plain load reads them now: at their homes, or in the L1 that holds them dirty (R178, R261, R269, R284, R285). -/
def readNow (s : State) (g e : Nat) (gr : Group) (pa n : Nat) : ReadNow :=
  let slot := gr.block.gang.slot
  let ws := if isDev pa then wordsOf pa n else []
  if wordsFrozen s ws || slotStalls s slot || !((unbound s ws).all fun f => syncMay s slot (sliceSrc (f * 32)) 7 g e) then .wait s
  else match readTurn s s.ids ws with
  | .wait => .wait s
  | .clear ls => .wait (foldS s ls sendBi)
  | .go =>
    let s1 := foldS (bringAll s ws) (unbound s ws) fun s f => bindFrame s g e f
    match ws.findSome? fun w => match judgeRead s1 g (4 * w) 4 with | .refuse c h => some (c, h, 4 * w) | .ok => none with
    | some (c, h, a) => .refused c h a
    | none =>
      let bs := readCu s1 gr.cu pa n
      .got (foldS s1 (scWords s1 ws) fun s w => scAccess s g e (chunkOf s g e).last w) bs

/-- Watchpoints see such a read. -/
def watchNow (s : State) (g e : Nat) (gr : Group) (pa n : Nat) : State :=
  let ws := if isDev pa then wordsOf pa n else []
  foldS s (linesOfWords ws) fun s l =>
    watch s 1 0 g gr.block.gang.slot l (wmaskOf (ws.filter fun w => w / 32 == l)) (cluOfCu gr.cu) (some (g, e))

end Sys2Proof.Machine
end

