-- ==== Sys2Proof/Machine/Tile.lean ====
section
/-! DEFINITION. Tiles: allocation and freeing, the place of an element, reading and writing elements (R182, R183, R201, R214,
R219, R434). -/
namespace Sys2Proof.Machine
open Sys2Proof

/-- Rounded up to a multiple of 2 KiB (R182). -/
def round2k (n : Nat) : Nat := (n + 2047) / 2048 * 2048

def tileBytes (rows cols esz : Nat) : Nat := round2k (rows * cols * esz)

/-- The bytes of a `.gang` tile's share that lie with one member (R182): chunk k lies with member k mod m. -/
def shareBytes (total : Nat) (members : List Nat) (bid : Nat) : Nat :=
  2048 * ((List.range (total / 2048)).filter fun k => members.getD (k % members.length) 8 == bid).length

def Gang.tile? (g : Gang) (h : Nat) : Option GTile := g.tiles.find? fun t => t.handle == h

/-- The scratchpad bytes of a block's tiles (R182). -/
def spadUsed (s : State) (b : Block) : Nat :=
  (b.tiles.map fun p => match p.2.level with
    | .cu => tileBytes p.2.rows p.2.cols p.2.esz
    | .l2 => 0
    | .gang => match (s.gang? b.id.gang).bind fun g => g.tile? p.1 with
      | some t => shareBytes (tileBytes t.rows t.cols t.esz) t.members b.id.bid
      | none => 0).sum

/-- Bytes of `.l2` tiles allocated on a die (R434). -/
def l2Used (s : State) (die : Nat) : Nat :=
  (s.blocks.map fun p => if dieOfClu (cluOfCu p.2.cu) = die then
      (p.2.tiles.map fun t => if t.2.level = .l2 then tileBytes t.2.rows t.2.cols t.2.esz else 0).sum else 0).sum

/-- The member blocks of a gang, ascending (R182, R201). -/
def membersOf (s : State) (g : GId) : List Nat :=
  (List.range 8).filter fun b => match s.block? ⟨g, b⟩ with | some x => x.inGang | none => false

/-- TALLOC for a block (R182): the fault it meets, or the state after it. -/
def tileAlloc (s : State) (b : BlockId) (o : TileOp) : Except Cause State :=
  match s.block? b, s.gang? b.gang with
  | some bl, some g =>
    if o.h ≥ bl.ntiles then .error .budget
    else match bl.tiles.find? o.h with
    | some t => if t.rows = o.rows ∧ t.cols = o.cols ∧ t.esz = o.esz ∧ t.level = o.level then .ok s else .error .tilebound
    | none =>
      if o.rows = 0 ∨ o.cols = 0 ∨ o.rows > 65535 ∨ o.cols > 65535 then .error .tilebound
      else
        let total := tileBytes o.rows o.cols o.esz
        let put := fun (s : State) (alloc : Nat) => s.updBlock b fun x =>
          { x with tiles := x.tiles.put o.h { rows := o.rows, cols := o.cols, esz := o.esz, level := o.level, alloc } }
        match o.level with
        | .cu =>
          if spadUsed s bl + total > bl.spad then .error .budget
          else let f := freshFree s; .ok (put f.2 f.1)
        | .l2 =>
          if l2Used s (dieOfClu (cluOfCu bl.cu)) + total > s.m.l2pin * 2 ^ 20 then .error .budget
          else let f := freshFree s; .ok (put f.2 f.1)
        | .gang =>
          match g.tile? o.h with
          | some t =>
            if t.rows ≠ o.rows ∨ t.cols ≠ o.cols ∨ t.esz ≠ o.esz then .error .tilebound
            else if spadUsed s bl + shareBytes total t.members b.bid > bl.spad then .error .budget
            else .ok ((put s t.alloc).updGang b.gang fun g => { g with tiles := g.tiles.map fun x =>
              if x.handle = o.h then { x with present := b.bid :: x.present, gone := x.gone.filter (· != b.bid) } else x })
          | none =>
            let ms := membersOf s b.gang
            if spadUsed s bl + shareBytes total ms b.bid > bl.spad then .error .budget
            else
              let f := freshFree s
              .ok ((put f.2 f.1).updGang b.gang fun g => { g with tiles := g.tiles ++
                [{ handle := o.h, rows := o.rows, cols := o.cols, esz := o.esz, alloc := f.1, members := ms, present := [b.bid] }] })
  | _, _ => .error .tilebound

/-- An output of the block's task still needs the handle (R214). -/
def outputNeeds (s : State) (bl : Block) (h : Nat) : Bool :=
  match s.task? bl.id.gang.slot with
  | some t =>
    (!bl.drained && t.copies.any fun d => d.cls == 2 && d.tile == h)
      || s.insts.any fun x => x.desc.cls == 2 && x.desc.tile == h && x.slot == bl.id.gang.slot && x.kid == bl.id.gang.kid && x.bid == bl.id.bid
  | none => false

/-- Takes a handle out of a block; a `.gang` tile goes when no member has a share. -/
def tileDrop (s : State) (b : BlockId) (h : Nat) : State :=
  let s1 := s.updBlock b fun x => { x with tiles := x.tiles.del h }
  s1.updGang b.gang fun g => { g with tiles := (g.tiles.map fun t =>
    if t.handle = h then { t with present := t.present.filter (· != b.bid), gone := b.bid :: t.gone } else t).filter fun t =>
      t.handle != h || t.present != [] }

/-- TFREE for a block (R182, R214). -/
def tileFree (s : State) (b : BlockId) (h : Nat) : Except Cause State :=
  match s.block? b with
  | none => .error .tilebound
  | some bl =>
    match bl.tiles.find? h with
    | none => .ok s
    | some t =>
      if t.owned ≠ [] then .error .tilebusy
      else if outputNeeds s bl h then .ok (s.updBlock b fun x => { x with tiles := x.tiles.upd h fun t => { t with freeing := true } })
      else .ok (tileDrop s b h)

def tileOp (s : State) (b : BlockId) (o : TileOp) : Except Cause State := if o.free then tileFree s b o.h else tileAlloc s b o
def tileOps (s : State) (b : BlockId) (os : List TileOp) : State :=
  foldS s os fun s o => match tileOp s b o with | .ok s' => s' | .error _ => s
/-- The cause that the first failing of several meets. -/
def tileOpsBad (s : State) (b : BlockId) (os : List TileOp) : Option Cause :=
  match os with
  | [] => none
  | o :: t => match tileOp s b o with | .ok s' => tileOpsBad s' b t | .error c => some c

/-- The place of an element: in the gang's tile or the block's, and its byte offset. -/
structure Spot where
  gang : Bool
  off : Nat
  alloc : Nat
  deriving DecidableEq, Repr

/-- Element `idx` of a block's handle, of size `esz`; none raises TILEBOUND (R182, R183). -/
def elemAt (s : State) (b : BlockId) (h idx esz : Nat) : Option Spot :=
  match s.block? b with
  | none => none
  | some bl =>
    (bl.tiles.find? h).bind fun t =>
      if t.esz ≠ esz ∨ idx ≥ t.rows * t.cols then none
      else match t.level with
      | .gang => ((s.gang? b.gang).bind fun g => g.tile? h).bind fun g =>
          let o := g.members.getD (idx * esz / 2048 % g.members.length) 8
          if g.present.contains o && !g.gone.contains o then some ⟨true, idx * esz, g.alloc⟩ else none
      | _ => some ⟨false, idx * esz, t.alloc⟩

/-- The chunk of an element has not landed, or lies with a block that is swapped out (R104, R183, R219). -/
def chunkAway (s : State) (b : BlockId) (h idx esz : Nat) : Bool :=
  match s.block? b with
  | none => false
  | some bl => match bl.tiles.find? h with
    | none => false
    | some t => t.owned.contains (idx * esz / 2048) ||
        (match t.level with
         | .gang => match (s.gang? b.gang).bind fun g => g.tile? h with
           | some g => match s.block? ⟨b.gang, g.members.getD (idx * esz / 2048 % g.members.length) 8⟩ with
             | some o => o.swapped
             | none => false
           | none => false
         | _ => false)

/-- A stream copy still owns the element's chunk. -/
def chunkOwned (s : State) (b : BlockId) (h idx esz : Nat) : Bool :=
  match (s.block? b).bind fun bl => bl.tiles.find? h with
  | some t => t.owned.contains (idx * esz / 2048)
  | none => false

/-- A byte of a tile. -/
def spotByte (s : State) (b : BlockId) (h : Nat) (sp : Spot) (k : Nat) : Byte :=
  let bytes : AList Nat Byte :=
    if sp.gang then match (s.gang? b.gang).bind fun g => g.tile? h with | some g => g.bytes | none => []
    else match (s.block? b).bind fun bl => bl.tiles.find? h with | some t => t.bytes | none => []
  bytes.get (sp.off + k) (Config.tileByte sp.alloc (sp.off + k))

/-- An element's value; beyond the tile, a free one. -/
def elemRead (s : State) (b : BlockId) (h idx esz : Nat) : Nat :=
  match elemAt s b h idx esz with
  | some sp => leNat ((List.range esz).map fun k => spotByte s b h sp k)
  | none => leNat ((List.range esz).map fun k => Config.beyondTile s.ids (idx * esz + k))

def putBytes : AList Nat Byte → Nat → List Byte → AList Nat Byte
  | m, _, [] => m
  | m, a, x :: t => putBytes (m.put a x) (a + 1) t

/-- Bytes written into a tile of a block, at a byte offset. -/
def tileWrite (s : State) (b : BlockId) (h : Nat) (sp : Spot) (bs : List Byte) : State :=
  if sp.gang then s.updGang b.gang fun g => { g with tiles := g.tiles.map fun t =>
    if t.handle = h then { t with bytes := putBytes t.bytes sp.off bs } else t }
  else s.updBlock b fun x => { x with tiles := x.tiles.upd h fun t => { t with bytes := putBytes t.bytes sp.off bs } }

/-! ### The scratchpad image of a block (R95, R104, R224) -/

/-- A block as a number, for the dispatcher's choices about it. -/
def blockKey (b : BlockId) : Nat := (b.gang.slot * 2 ^ 24 + b.gang.kid) * 8 + b.bid

/-- Where the swap reservation of a block begins: firmware's choice, in device memory (R95). -/
def swapBase (b : BlockId) : Nat := Config.swapArea (blockKey b) % 2 ^ 39 / 4096 * 4096

/-- The bytes that a group takes of its block's swap reservation (R95). -/
def groupShare (vregs : Nat) : Nat := vregs * 384 + 4096

/-- The scratchpad image in the swap reservation follows the groups' images. -/
def spadBase (s : State) (b : BlockId) : Nat :=
  swapBase b + (match s.task? b.gang.slot with | some t => t.lr.groups * groupShare t.lr.vregs | none => 0)

/-- The chunk of a block's scratchpad in which a chunk of its tile lies. -/
def spadPlace (bl : Block) (h k : Nat) : Nat := Config.spadChunk (blockKey bl.id) h k % max 1 (bl.spad / 2048)

/-- The chunks of tiles that lie in a block's scratchpad: handle and chunk. -/
def spadChunks (s : State) (bl : Block) : List (Nat × Nat) :=
  bl.tiles.flatMap fun p =>
    let ks := List.range (tileBytes p.2.rows p.2.cols p.2.esz / 2048)
    match p.2.level with
    | .cu => ks.map fun k => (p.1, k)
    | .l2 => []
    | .gang => match (s.gang? bl.id.gang).bind fun g => g.tile? p.1 with
      | some t => (ks.filter fun k => t.members.getD (k % t.members.length) 8 == bl.id.bid).map fun k => (p.1, k)
      | none => []

/-- Byte `r` of a chunk of a block's tile. -/
def chunkByte (s : State) (bl : Block) (h k r : Nat) : Byte :=
  match bl.tiles.find? h with
  | some t => match t.level, (s.gang? bl.id.gang).bind fun g => g.tile? h with
    | .gang, some g => spotByte s bl.id h ⟨true, k * 2048, g.alloc⟩ r
    | _, _ => spotByte s bl.id h ⟨false, k * 2048, t.alloc⟩ r
  | none => 0

/-- A byte of a block's scratchpad: a tile's, where one lies there. -/
def spadByte (s : State) (bl : Block) (free : Nat → Byte) (off : Nat) : Byte :=
  match (spadChunks s bl).find? fun c => spadPlace bl c.1 c.2 == off / 2048 with
  | some c => chunkByte s bl c.1 c.2 (off % 2048)
  | none => free off

/-! ### Where an image's sections lie (R390) -/

/-- LEN of section `id`, with `parked` parked and wake entries. -/
def sectionLen (parked : Nat) : Nat → Nat
  | 1 => 8388608
  | 2 => 6291456
  | 3 => 2097152
  | 4 => 311296
  | 5 => 819200
  | 6 => 131072
  | 7 => 40960
  | 8 => 32768
  | 9 => 4096
  | 10 => 65536
  | 11 => 65536
  | 12 => 65536
  | 13 => 144 * parked
  | _ => 0

/-- OFS of section `id`: the sections follow one another in ascending ID behind the first 4 KiB. -/
def sectionOfs : Nat → Nat
  | 0 => 4096
  | id + 1 => sectionOfs id + sectionLen 0 id

/-- Where a block's scratchpad begins in its CU's (R390 leaves it open). -/
def spadAt (bl : Block) : Nat := Config.spadFirst (blockKey bl.id) % 393 * 2048

/-- Bytes of a section of a stored image are replaced, and the CRC of its table entry. -/
def saveSection (s : State) (im : Image) (id ofs : Nat) (bs : List Byte) : State :=
  let s1 := engineWrite s (im.base + sectionOfs id + ofs) bs
  let ent := im.base + 256 + 32 * (id - 1)
  engineWrite s1 (ent + 24) (leBytes 4 (crc32c (s1.mem.getN (im.base + sectionOfs id) (sectionLen im.parkCount id))).toNat)

/-- What is written into a tile of a block whose scratchpad is away goes into what has been saved of it: its swap image (R224), or the SPAD
section of an image that is in its slot (R386). -/
def saveTile (s : State) (b : BlockId) (h off : Nat) (bs : List Byte) : State :=
  match s.block? b with
  | none => s
  | some bl =>
    let at_ := 2048 * spadPlace bl h (off / 2048) + off % 2048
    if bl.swapped then engineWrite s (spadBase s b + at_) bs
    else match s.frz.images.find? fun im => im.gangs.contains b.gang && im.stored with
      | some im => saveSection s im 2 (bl.cu % 8 * 786432 + spadAt bl + at_) bs
      | none => s

/-- An element written. -/
def elemWrite (s : State) (b : BlockId) (h idx esz v : Nat) : State :=
  match elemAt s b h idx esz with
  | some sp => tileWrite s b h sp (leBytes esz v)
  | none => s

/-- The chunks of a `.gang` tile that lie with a block (R201). -/
def gangChunksOwned (s : State) (b : BlockId) : Bool :=
  match s.gang? b.gang with
  | none => false
  | some g => g.tiles.any fun t => t.present.contains b.bid &&
      (match (s.block? b).bind fun bl => bl.tiles.find? t.handle with | some x => x.owned != [] | none => false)

/-- A block's `.gang` chunks are revoked (R201). -/
def revokeChunks (s : State) (b : BlockId) : State :=
  s.updGang b.gang fun g => { g with tiles := g.tiles.map fun t => if t.present.contains b.bid then { t with gone := b.bid :: t.gone } else t }

end Sys2Proof.Machine
end

