-- ==== Sys2Proof/Machine/Twill.lean ====
section
/-! DEFINITION. The Twill barrier network: barrier cells, arrival, completion of a generation, waits, membership of a gang
(R194 to R208). -/
namespace Sys2Proof.Machine
open Sys2Proof

/-- A late fault joins those its fragment is to take (R42). -/
def addLate (s : State) (g e : Nat) (l : Late) : State :=
  s.updGroup g fun gr => gr.updEnt e fun x => { x with late := x.late ++ [l] }

/-! ### nb cells -/

def Gang.cell? (g : Gang) (n : Nat) : Option NbCell := g.cells.find? fun c => c.name == n

/-- Changes a cell of a gang. -/
def updCell (s : State) (g : GId) (n : Nat) (f : NbCell → NbCell) : State :=
  s.updGang g fun x => { x with cells := x.cells.map fun c => if c.name = n then f c else c }

/-- Cells in use at a cluster node: those of the gangs of its context (R194). -/
def nbInUse (s : State) (lclu : Nat) : Nat := (s.gangs.map fun p => if p.2.lclu = lclu then p.2.cells.length else 0).sum

/-- The number of blocks the launch record gives a gang. -/
def blocksOf (s : State) (g : GId) : Nat := match s.task? g.slot with | some t => t.lr.blocks | none => 0

/-- Binds an nb name (R194): none while no cell is free. -/
def bindNb (s : State) (g : GId) (n : Nat) : Option State :=
  match s.gang? g with
  | none => none
  | some x =>
    match x.cell? n with
    | some _ => some s
    | none =>
      if nbInUse s x.lclu < 64 then
        some (s.updGang g fun x => { x with cells := x.cells ++ [{ gang := g, name := n, mask := BitVec.ofNat 8 (2 ^ blocksOf s g - 1) }] })
      else none

/-- The groups of a block that have not retired. -/
def liveGroups (s : State) (b : BlockId) : List Nat :=
  (s.groups.filter fun p => decide (p.2.block = b) && decide (p.2.status ≠ .retired)).map (·.1)

/-- A member block has arrived, or has retired whole, or has left (R196, R201). -/
def blockArrived (s : State) (c : NbCell) (bid : Nat) : Bool :=
  c.left.contains bid || (liveGroups s ⟨c.gang, bid⟩).all fun g => c.arr.contains g

/-- Every member of the open generation has arrived (R196). -/
def nbDone (s : State) (c : NbCell) : Bool := (List.range 8).all fun b => !c.mask.getLsbD b || blockArrived s c b

/-- The next generation of a cell (R196). -/
def NbCell.next (c : NbCell) : NbCell :=
  { c with gen := (c.gen + 1) % 65536, mask := if c.pv then c.pmask else c.mask, pv := false, arr := [], left := [] }

/-- Completes the open generation of a cell if an event at a member block satisfies its condition. -/
def nbSettle (s : State) (g : GId) (n : Nat) (bid : Nat) : State :=
  match (s.gang? g).bind fun x => x.cell? n with
  | some c => if c.mask.getLsbD bid && nbDone s c then updCell s g n NbCell.next else s
  | none => s

/-! ### nd cells -/

def Task.nd? (t : Task) (n : Nat) : Option NdCell := t.nd.find? fun c => c.name == n
def updNd (s : State) (t n : Nat) (f : NdCell → NdCell) : State :=
  s.updTask t fun x => { x with nd := x.nd.map fun c => if c.name = n then f c else c }

/-- Binds an nd name (R194). -/
def bindNd (s : State) (t n : Nat) : Option State :=
  match s.task? t with
  | none => none
  | some x =>
    match x.nd? n with
    | some _ => some s
    | none =>
      if (s.tasks.map fun p => p.2.nd.length).sum < 16 then
        some (s.updTask t fun x => { x with nd := x.nd ++ [{ slot := t, name := n, count := x.lr.gangs - 1 }] })
      else none

/-- The gangs of a task whose every group that has not retired has arrived at an nd cell; one whose last group retires unarrived has
arrived then (R196). The groups of a block that has left its gang are groups of the gang here too: R201 takes the block out of the nb
barriers only (DESIGN CHOICE, notes/assumptions/66). -/
def ndArrived (s : State) (c : NdCell) : List Nat :=
  ((gangsOfTask s c.slot).filter fun g =>
    let gs := (s.groups.filter fun p => decide (p.2.block.gang = g) && decide (p.2.status ≠ .retired)).map (·.1)
    gs.all fun x => c.arr.contains x).map (·.kid)

/-- The gangs arrived are noted: their arrival stays counted when they are killed and placed again (R196). -/
def NdCell.note (c : NdCell) (gs : List Nat) : NdCell := { c with gangs := (c.gangs ++ gs).dedup }

/-- Gangs arrived together with gangs retired number COUNT + 1 or more. -/
def ndDone (s : State) (c : NdCell) : Bool :=
  match s.task? c.slot with
  | some t => decide ((c.gangs ++ t.retiredKids).dedup.length ≥ c.count + 1)
  | none => false

def NdCell.next (c : NdCell) : NdCell :=
  { c with gen := (c.gen + 1) % 65536, count := if c.pv then c.pcount else c.count, pv := false, arr := [], gangs := [] }

def ndSettle (s : State) (t n : Nat) : State :=
  match (s.task? t).bind fun x => x.nd? n with
  | some c =>
    let c1 := c.note (ndArrived s c)
    updNd s t n fun _ => if ndDone s c1 then c1.next else c1
  | none => s

/-- A killed gang's groups have not arrived at its task's nd barriers when they run again; the gang's own arrival stays (R196, R198). -/
def forgetArrivals (s : State) (t : Nat) (gs : List Nat) : State :=
  s.updTask t fun x => { x with nd := x.nd.map fun c => { c with arr := c.arr.filter fun g => !gs.contains g } }

/-- Every cell that an event of a gang's block may complete (R196): its nb cells and its task's nd cells. -/
def barrierEvent (s : State) (b : BlockId) : State :=
  let nb := match s.gang? b.gang with | some g => g.cells.map (·.name) | none => []
  let s1 := foldS s nb fun s n => nbSettle s b.gang n b.bid
  let nd := match s1.task? b.gang.slot with | some t => t.nd.map (·.name) | none => []
  foldS s1 nd fun s n => ndSettle s b.gang.slot n

/-! ### Arrival and waiting -/

/-- What an arrival comes to (R194, R198, R200). -/
inductive Arrival where
  /-- no cell is free, or the group has already arrived at the open generation -/
  | wait
  /-- BARRIER: not a member, or out of the gang; the name is bound all the same (R203) -/
  | refuse (s : State)
  | arrived (gen : Nat) (s : State)

/-- The level and name of a barrier in IMM24 (R202). -/
def barNd (imm : Nat) : Bool := bitAt imm 6
def barNum (imm : Nat) : Nat := imm % 64
/-- The scope of a barrier's ordering (R194). -/
def barScope (imm : Nat) : Nat := if barNd imm then 4 else 2

/-- An arrival of a group (R196, R198, R200, R201). -/
def arriveAt (s : State) (lgn imm : Nat) : Arrival :=
  match s.group? lgn with
  | none => .refuse s
  | some gr =>
    let b := gr.block
    let gone := match s.block? b with | some x => !x.inGang | none => true
    let n := barNum imm
    if barNd imm then
      match bindNd s b.gang.slot n with
      | none => .wait
      | some s1 =>
        match (s1.task? b.gang.slot).bind fun t => t.nd? n with
        | none => .refuse s1
        | some c =>
          if c.arr.contains lgn then .wait
          else .arrived c.gen (ndSettle (updNd s1 b.gang.slot n fun c => { c with arr := lgn :: c.arr }) b.gang.slot n)
    else
      match bindNb s b.gang n with
      | none => .wait
      | some s1 =>
        match (s1.gang? b.gang).bind fun g => g.cell? n with
        | none => .refuse s1
        | some c =>
          if gone || !c.mask.getLsbD b.bid then .refuse s1
          else if c.arr.contains lgn then .wait
          else .arrived c.gen (nbSettle (updCell s1 b.gang n fun c => { c with arr := lgn :: c.arr }) b.gang n b.bid)

/-- The open generation of a barrier as a group names it, binding it first (R194); none while no cell is free. -/
def openGen (s : State) (lgn imm : Nat) : Option (Nat × State) :=
  match s.group? lgn with
  | none => none
  | some gr =>
    let n := barNum imm
    if barNd imm then (bindNd s gr.block.gang.slot n).bind fun s1 =>
      ((s1.task? gr.block.gang.slot).bind fun t => t.nd? n).map fun c => (c.gen, s1)
    else (bindNb s gr.block.gang n).bind fun s1 =>
      ((s1.gang? gr.block.gang).bind fun g => g.cell? n).map fun c => (c.gen, s1)

/-- A wait for generation g holds while GEN is not past it (R199). -/
def genWaits (gen g : Nat) : Bool := decide ((g + 65536 - gen) % 65536 < 0x8000)

/-- BGRP of a fragment (R200): none while no cell is free, an error for a refused mask, with the name bound (R203) and nothing logged. The
operand's 24 bits name only counts in range. -/
def setMembers (s : State) (lgn e imm m : Nat) : Option (Except State State) :=
  match s.group? lgn with
  | none => some (.error s)
  | some gr =>
    let n := barNum imm
    let slot := gr.block.gang.slot
    let src := if barNd imm then hubSrc else clusterSrc s gr.block.gang
    let log := fun (s : State) => syncRec s slot src 5 lgn e (imm % 128) 0
    let may := syncMay s slot src 5 lgn e
    if barNd imm then
      if !may then none else (bindNd s slot n).map fun s1 =>
        .ok (log (updNd s1 slot n fun c => { c with pcount := m % 2 ^ 24, pv := true }))
    else
      let k := BitVec.ofNat 8 (m % 256 % 2 ^ blocksOf s gr.block.gang)
      if k != 0 && !may then none else (bindNb s gr.block.gang n).map fun s1 =>
        if k = 0 then .error s1 else .ok (log (updCell s1 gr.block.gang n fun c => { c with pmask := k, pv := true }))

/-! ### What a debug capability reads of a cell (R195) -/

/-- The member blocks that have arrived at GEN, as bits. -/
def nbArrBits (s : State) (c : NbCell) : Nat :=
  maskFrom (fun b => c.mask.getLsbD b && blockArrived s c b) 8

/-- A bound nb cell: GEN 63:48, MASK 47:40, PMASK 39:32, PV 31, ARR 24:17, BOUND 0, the rest zero. -/
def nbWord (s : State) (c : NbCell) : BitVec 64 :=
  BitVec.ofNat 64 (c.gen * 2 ^ 48 + c.mask.toNat * 2 ^ 40 + c.pmask.toNat * 2 ^ 32 + b2n c.pv * 2 ^ 31 + nbArrBits s c * 2 ^ 17 + 1)

/-- A bound nd cell: BOUND 80, PV 79, PCOUNT 71:48, COUNT 47:24, GEN 15:0, the rest zero. -/
def ndWord (c : NdCell) : BitVec 128 :=
  BitVec.ofNat 128 (2 ^ 80 + b2n c.pv * 2 ^ 79 + c.pcount * 2 ^ 48 + c.count * 2 ^ 24 + c.gen)

/-! ### Membership (R201) -/

/-- The array of a block in its gang's matrix context leaves the participating set, or returns to it, at the next MMA boundary (R227):
of two changes the later stands. `lost`: its contents go then. -/
def leaveArray (s : State) (b : BlockId) (lost : Bool) : State :=
  match s.block? b, s.gang? b.gang with
  | some x, some g =>
    let m := s.mxD g.lclu
    let c := x.cu % 8
    if m.owner ≠ some b.gang then s
    else s.setMx g.lclu { m with leaving := c :: m.leaving, joining := m.joining.filter (· != c), lost := if lost then c :: m.lost else m.lost }
  | _, _ => s
def joinArray (s : State) (b : BlockId) : State :=
  match s.block? b, s.gang? b.gang with
  | some x, some g =>
    let m := s.mxD g.lclu
    let c := x.cu % 8
    if m.owner ≠ some b.gang then s else s.setMx g.lclu { m with joining := c :: m.joining, leaving := m.leaving.filter (· != c) }
  | _, _ => s

/-- A block holds chunks of its gang's tiles that are not revoked yet. -/
def holdsChunks (s : State) (b : BlockId) : Bool :=
  match s.gang? b.gang with
  | some g => g.tiles.any fun t => t.present.contains b.bid && !t.gone.contains b.bid
  | none => false

/-- A block leaves its gang, by a fragment's GLEAVE; a revocation is logged as its synchronisation. -/
def leaveGang (s : State) (b : BlockId) (lgn e : Nat) : State :=
  match s.block? b with
  | none => s
  | some x =>
    if !x.inGang then s
    else
      let bit : BitVec 8 := 1#8 <<< b.bid
      let go := fun (c : NbCell) =>
        if c.mask.getLsbD b.bid then
          { c with left := b.bid :: c.left, pmask := (if c.pv then c.pmask else c.mask) &&& ~~~bit, pv := true }
        else c
      let s1 := s.updGang b.gang fun g => { g with cells := g.cells.map go }
      let s2 := revokeChunks s1 b
      let s3 := leaveArray (s2.updBlock b fun x => { x with inGang := false }) b false
      barrierEvent (if holdsChunks s b then syncRec s3 b.gang.slot (clusterSrc s b.gang) 6 lgn e b.bid 0 else s3) b

/-- A block returns to its gang. -/
def joinGang (s : State) (b : BlockId) : State :=
  match s.block? b with
  | none => s
  | some x =>
    if x.inGang then s
    else
      let bit : BitVec 8 := 1#8 <<< b.bid
      let back := fun (c : NbCell) => { c with pmask := (if c.pv then c.pmask else c.mask) ||| bit, pv := true }
      joinArray ((s.updGang b.gang fun g => { g with cells := g.cells.map back }).updBlock b fun x => { x with inGang := true }) b

/-! ### Waiting on a word (R204 to R206) -/

/-- The comparison of WAITA and WAITAT. -/
def waitCmp (x w k : Nat) : Bool :=
  match x with
  | 0 => w == k
  | 1 => w != k
  | 2 => decide (w ≥ k)
  | _ => decide (w < k)

end Sys2Proof.Machine
end

