-- ==== Sys2Proof/Machine/CopyArrays.lean ====
section
/-! DEFINITION. The arrays that copies move: extents, elements and where they lie (R211 to R213); instances, their chunks, and the queues
of a copy engine (R209, R219, R222). -/
namespace Sys2Proof.Machine
open Sys2Proof

/-! ### Geometry (R211 to R213) -/

/-- The element size of a shape, in bytes. -/
def ShapeRec.esz (r : ShapeRec) : Nat := match r.ety with | some t => t.width / 8 | none => 1

/-- The extents after the transform (R213 steps 1 and 2). -/
def CopyDesc.innerDims (d : CopyDesc) : List Nat :=
  let e := d.shape.ext.take d.shape.rank
  match d.shape.xform with
  | 1 | 2 => e.getD 1 1 :: e.getD 0 1 :: e.drop 2
  | 3 => e.getD 0 1 :: d.gcount :: e.drop 2
  | _ => e

/-- The extents of the output array, padding included (R213 step 3). -/
def CopyDesc.dims (d : CopyDesc) : List Nat :=
  let r := d.shape
  match d.innerDims with
  | [] => []
  | [x] => [x + r.padl0 + r.padh0]
  | x :: y :: t => (x + r.padl0 + r.padh0) :: (y + r.padl1 + r.padh1) :: t

/-- cols and rows of a tile destination (R213 step 4), and the elements in all. -/
def CopyDesc.cols (d : CopyDesc) : Nat := d.dims.headD 1
def CopyDesc.rows (d : CopyDesc) : Nat := (d.dims.drop 1).foldl (· * ·) 1
def CopyDesc.count (d : CopyDesc) : Nat := d.rows * d.cols
/-- The destination's bytes. -/
def CopyDesc.bytes (d : CopyDesc) : Nat := d.count * d.shape.esz

/-- The coordinates of an element in row-major order, dimension 0 fastest. -/
def coords : List Nat → Nat → List Nat
  | [], _ => []
  | n :: t, i => i % max n 1 :: coords t (i / max n 1)

/-- The byte offset of source coordinates (R212): element size in dimension 0, byte strides above. -/
def ShapeRec.offset (r : ShapeRec) (cs : List Nat) : Nat :=
  cs.headD 0 * r.esz + (List.range (cs.length - 1)).foldl (fun n k => n + cs.getD (k + 1) 0 * r.stride.getD k 0) 0

/-- The bytes from the lowest to the highest that a shape spans. -/
def ShapeRec.extent (r : ShapeRec) : Nat := r.offset ((r.ext.take r.rank).map (· - 1)) + r.esz

/-- Where an element of the output array comes from. -/
inductive Source where
  | pad
  | mem (va : Nat)
  /-- an index word, and the offset of the element within a row of the table (R213 step 2) -/
  | via (index off : Nat)
  deriving DecidableEq, Repr

/-- The displacement of an instance (R211). -/
def Inst.disp (x : Inst) : Nat := x.kid * x.desc.kstride + x.bid * x.desc.bstride

/-- The source of output element `i` of an input. -/
def sourceOf (d : CopyDesc) (disp i : Nat) : Source :=
  let r := d.shape
  let cs := coords d.dims i
  let c0 := cs.headD 0
  let c1 := cs.getD 1 0
  let inner := d.innerDims
  let out0 := c0 < r.padl0 ∨ c0 ≥ r.padl0 + inner.headD 0
  let out1 := r.rank ≥ 2 ∧ (c1 < r.padl1 ∨ c1 ≥ r.padl1 + inner.getD 1 0)
  if out0 ∨ out1 then .pad
  else
    let a := c0 - r.padl0
    let b := c1 - r.padl1
    let rest := cs.drop 2
    match r.xform with
    | 1 | 2 => .mem ((r.base + disp + r.offset (b :: a :: rest)) % 2 ^ 64)
    | 3 => .via ((r.gidx + disp + 4 * b) % 2 ^ 64) (r.offset (a :: 0 :: rest))
    | _ => .mem ((r.base + disp + r.offset (if r.rank ≥ 2 then a :: b :: rest else [a])) % 2 ^ 64)

/-- The memory position of element `i` of an output, or of a gate input's dense array (R211, R213). -/
def destOf (d : CopyDesc) (disp i : Nat) : Nat :=
  if d.cls = 2 then (d.dst + disp + d.shape.offset (coords (d.shape.ext.take d.shape.rank) i)) % 2 ^ 64
  else (d.dst + i * d.shape.esz) % 2 ^ 64

/-- The bytes of a padding element (R212). -/
def padBytes (d : CopyDesc) : List Byte := leBytes d.shape.esz d.shape.padval

/-! ### Instances -/

/-- The logical agent of a copy (R24, R209). -/
def Inst.agent (s : State) (x : Inst) : Nat :=
  let nin := match s.task? x.slot with | some t => t.lr.nin | none => 0
  agentOfCopy x.slot (if x.desc.cls = 2 then 8 + (x.copy - nin) else x.copy)

def Inst.block (x : Inst) : BlockId := ⟨⟨x.slot, x.kid⟩, x.bid⟩
def Inst.pasid (s : State) (x : Inst) : Nat := pasidOf s x.slot

/-- Elements of a chunk. -/
def Inst.perChunk (x : Inst) : Nat := 2048 / x.desc.shape.esz
def Inst.chunks (x : Inst) : Nat := (x.desc.bytes + 2047) / 2048
def Inst.chunkBytes (x : Inst) : Nat := min 2048 (x.desc.bytes - x.nextChunk * 2048)
def Inst.chunkEls (x : Inst) : List Nat :=
  (List.range (x.chunkBytes / x.desc.shape.esz)).map fun k => x.nextChunk * x.perChunk + k
/-- Every chunk has been moved. -/
def Inst.moved (x : Inst) : Bool := x.nextChunk ≥ x.chunks

def findInst (s : State) (i : Nat) : Option Inst := s.insts.find? fun x => x.startNo == i
def setInst (s : State) (x : Inst) : State := { s with insts := s.insts.map fun y => if y.startNo = x.startNo then x else y }
def dropInst (s : State) (i : Nat) : State := { s with insts := s.insts.filter fun x => x.startNo != i }

/-! ### The queues of a copy engine (R222) -/

/-- The instances of a queue of a copy engine that are not over, by start. -/
def queueInsts (s : State) (clu q : Nat) : List Inst := s.insts.filter fun x => x.clu == clu && x.desc.queue == q && !x.stopped && !x.moved

def arbOf (s : State) (clu : Nat) : CopyArb := s.copyArb.get clu {}
def setArb (s : State) (clu : Nat) (a : CopyArb) : State := { s with copyArb := s.copyArb.put clu a }

/-- The visit of a queue is over: the next queue's begins. -/
def CopyArb.pass (a : CopyArb) : CopyArb := { a with pos := (a.pos + 1) % 4, granted := false }

/-- A queue without an active instance has no deficit, whatever ended its last one; a visit in which it emptied is over, so that an instance
that starts later waits for the next round (R222). -/
def emptyQueue (s : State) (clu q : Nat) : State :=
  if queueInsts s clu q = [] then
    let a := arbOf s clu
    let a1 := if a.granted && a.pos == q then a.pass else a
    setArb s clu { a1 with deficit := a.deficit.set q 0 }
  else s

end Sys2Proof.Machine
end

