-- ==== Sys2Proof/Machine/Disp.lean ====
section
/-! DEFINITION. The dispatch engine's shared operations: dependence, retirement, completion of a task, kill and relaunch of a gang
(R17, R31 to R33, R93, R94, R101, R209, R225, R228, R287, R407). -/
namespace Sys2Proof.Machine
open Sys2Proof

/-! ### Copies begin (R209) -/

/-- Clusters of surviving dies. -/
def liveClusters (s : State) : List Nat := (List.range 112).filter fun c => !s.disp.deadDies.contains (dieOfClu c)

def addInst (s : State) (t : Task) (k : Nat) (d : CopyDesc) (kid bid clu : Nat) : State :=
  let f := freshId (emptyQueue s clu d.queue)
  { f.2 with insts := f.2.insts ++ [{ slot := t.slot, copy := k, desc := d, kid, bid, clu, startNo := f.1 }] }

/-- Copies of a task with their indices in COPYTAB. -/
def Task.indexed (t : Task) : List (Nat × CopyDesc) := (List.range t.copies.length).zip t.copies

/-- The gate inputs of a task start (R93). -/
def startGates (s : State) (t : Task) : State :=
  foldS s (t.indexed.filter fun p => p.2.cls == 0) fun s p =>
    let cs := liveClusters s
    addInst s t p.1 p.2 0 0 (cs.getD (Config.gateCluster s.ids % max 1 cs.length) 0)

/-- The output copy's source is allocated with the output's element size (R214). -/
def outputOk (s : State) (b : BlockId) (d : CopyDesc) : Bool :=
  match (s.block? b).bind fun bl => bl.tiles.find? d.tile with
  | some t => match d.shape.ety with | some e => t.esz == e.width / 8 | none => false
  | none => false

/-- A task fails with a cause; the first stands (R33). -/
def failTask (s : State) (slot cause : Nat) : State :=
  s.updTask slot fun t => match t.failed with | some _ => t | none => { t with failed := some cause }

/-- Every group of the block has exited: its outputs start (R209, R214). -/
def startOutputs (s : State) (b : BlockId) : State :=
  match s.block? b, s.task? b.gang.slot with
  | some bl, some t =>
    if bl.drained then s
    else
      let s1 := s.updBlock b fun x => { x with drained := true }
      foldS s1 (t.indexed.filter fun p => p.2.cls == 2) fun s p =>
        if outputOk s b p.2 then addInst s t p.1 p.2 b.gang.kid b.bid (cluOfCu bl.cu)
        else failTask s t.slot 0x0B
  | _, _ => s

/-- Instances of a block's copies. -/
def instsOf (s : State) (b : BlockId) : List Inst :=
  s.insts.filter fun x => x.slot == b.gang.slot && x.kid == b.gang.kid && x.bid == b.bid && x.desc.cls != 0

/-! ### Tasks (R93, R94, R99 to R101) -/

/-- A task that holds its slot: accepted and not yet reported. -/
def Task.live (t : Task) : Bool := !t.reported

/-- What a predecessor handle says: satisfied, failed, or still to come (R91, R93). -/
inductive PredSt where
  | met | failed | open_
  deriving DecidableEq, Repr

def taskOutcome (t : Task) : PredSt :=
  if t.st ≠ .done then .open_ else if t.failed.isSome then .failed else .met

def predState (s : State) (t : Task) (h : Nat) : PredSt :=
  match t.parent with
  | some (inst, _) =>
    if h = 0xFFFFFFFF then .met
    else match List.find? (fun (p : Nat × Task) => decide (p.2.parent = some (inst, h)) && p.2.live) s.tasks with
      | some p => taskOutcome p.2
      | none => .met
  | none =>
    if h = 0 then .met
    else match s.task? (h % 2 ^ 17) with
      | some p => if p.handle = h % 2 ^ 48 then taskOutcome p else .met
      | none => .met

/-- The state a task takes when it completes: done, with what it held given back. -/
def Task.finish (t : Task) : Task := { t with st := .done, nd := [], granted := [], relaunchPending := [] }

/-- The instance of a graph is complete when every node is (R101). -/
def settleInstance (s : State) (slot : Nat) : State :=
  match s.task? slot with
  | none => s
  | some t =>
    let nodes := s.tasks.filter fun p => match p.2.parent with | some (i, _) => i == slot && p.2.live | none => false
    if t.st = .done || t.lr.ty ≠ 2 || !(nodes.all fun p => p.2.st == .done) then s
    else
      let idx := fun (x : Task) => match x.parent with | some (_, k) => k | none => 0
      let bad := (nodes.map (·.2)).filter fun x => x.failed.isSome
      let low := bad.foldl (fun m x => min m (idx x)) 0xFFFFFFFF
      let cause := (bad.find? fun x => idx x == low).bind (·.failed)
      let frec := match bad.find? fun x => idx x == low with | some x => x.frec | none => []
      -- its nodes keep their slots until its report is written (R25)
      s.updTask slot fun t => { t with st := .done, failed := cause, failNode := low, frec }

/-- One look at a task: it leaves WAITING or GATING if it may; it fails if a predecessor failed (R93). -/
def advanceTask (s : State) (slot : Nat) : State :=
  match s.task? slot with
  | none => s
  | some t =>
    if t.lr.ty ≠ 1 || !t.live then s
    else match t.st with
    | .waiting =>
      if t.lr.pred.any fun h => predState s t h == .failed then
        s.updTask slot fun t => { t.finish with failed := some 0x81 }
      else if t.ext = 0 && (t.lr.pred.all fun h => predState s t h == .met) then
        let gates := (t.copies.filter fun d => d.cls == 0).length
        let s1 := s.updTask slot fun t => { t with gatesLeft := gates, st := if gates = 0 then .ready else .gating }
        if gates = 0 then s1 else startGates s1 t
      else s
    | .gating => if t.gatesLeft = 0 then s.updTask slot fun t => { t with st := .ready } else s
    | _ => s

/-- Looks at every task, twice as often as there are tasks: nothing is left to move. -/
def settleTasksN : Nat → State → State
  | 0, s => s
  | n + 1, s =>
    let s1 := foldS s (s.tasks.map (·.1)) advanceTask
    settleTasksN n (foldS s1 (s1.tasks.map (·.1)) settleInstance)
def settleTasks (s : State) : State := settleTasksN (2 * s.tasks.length) s

/-- Agents of a task: its groups and its copies. -/
def agentOfTask (s : State) (slot : Nat) (a : Nat) : Bool :=
  (agentKind a == 0 && (groupsOfTask s slot).contains a) || (agentKind a == 1 && agentIndex a / 16 == slot)

/-- Every L1 that holds a line can answer a whole-line invalidation: one of a stopped cluster does when it has been drained (R300). -/
def l1sAnswer (s : State) : Bool := s.m.l1.all fun p => l1Answers s p.1.1

/-- Task completion (R287 steps 1 to 4), whole in the step that brings it about: L1s write back, holds and claims are cleared, IP frames
unbound, L1s invalidated, and lines with sharers called back from the host where it holds them (R299). -/
def completeTask (s : State) (slot : Nat) : State :=
  let back := (s.m.dir.filter fun p => p.2.shv != 0 && (p.2.host || p.2.hostx)).map (·.1)
  let s := foldS s back sendBi
  let s1 := clearHolds (writeBackAll s fun _ => true) (agentOfTask s slot)
  let s2 := invalidateAll { s1 with m := { s1.m with
    frames := s1.m.frames.map fun p => (p.1, if p.2.ob && p.2.oslot == slot then { p.2 with ob := false, oslot := 0, okid := 0, obid := 0 } else p.2)
    dir := s1.m.dir.map fun p => (p.1, { p.2 with shv := 0 }) } } fun _ => true
  settleTasks (s2.updTask slot Task.finish)

/-- A task that is over completes: every gang has retired, or it has failed and none of its gangs or copies remains (R17, R33). -/
def taskOver (s : State) (t : Task) : Bool :=
  t.lr.ty == 1 && t.live && t.st != .done &&
    (match t.failed with
     | none => t.gangsRetired == t.lr.gangs
     | some _ => gangsOfTask s t.slot == [] && !(s.insts.any fun x => x.slot == t.slot))
def settleTask (s : State) (slot : Nat) : State :=
  match s.task? slot with
  | some t => if taskOver s t && l1sAnswer s then completeTask s slot else s
  | none => s

/-- Completions that waited for an L1 (R300). -/
def settleOver (s : State) : State := foldS s (s.tasks.map (·.1)) settleTask

/-! ### Retirement (R17) -/

/-- The matrix context of a logical cluster is released: a device-scope release by the core (R228). -/
def releaseMx (s : State) (lclu : Nat) : State :=
  let a := agentOfCore lclu
  let s1 := clearHolds s (· == a)
  s1.setMx lclu {}

/-- A gang retires when all its blocks have, its core does not run, and every access the core committed is performed, so that the
release of its context leaves no hold behind (R17, R228, R287); not while its context is stopped or frozen (R385, R396). -/
def gangReady (s : State) (g : GId) : Bool :=
  match s.gang? g with
  | none => false
  | some x => x.killed.isNone && ctxRuns s x.lclu && (blocksOfGang s g).all (fun b => match s.block? b with | some y => y.retired | none => true)
      && !((s.mxD x.lclu).owner == some g && ((s.mxD x.lclu).run || agentBusy s (agentOfCore x.lclu)))

/-- A cluster whose context holds no gang any more is idle again (R26, R384); FZSTAT's LCLU keeps the number of its last image. -/
def freeCluster (s : State) (l : Nat) : State :=
  if s.gangs.any fun p => p.2.lclu == l then s
  else { s with frz := { s.frz with clus := s.frz.clus.map fun c =>
    (c.1, if c.2.lclu == some l && !c.2.stopped then { c.2 with lclu := none, state := .idle } else c.2) } }

/-- What a gang leaves behind goes: groups, blocks, cells, tiles, and the context of a cluster that was its alone. -/
def removeGang (s : State) (g : GId) : State :=
  let l := lcluOf s g
  let s1 : State := { s with
    groups := s.groups.filter fun p => !decide (p.2.block.gang = g)
    blocks := s.blocks.filter fun p => !decide (p.1.gang = g)
    gangs := s.gangs.del g }
  freeCluster s1 l

def ndEvents (s : State) (slot : Nat) : State :=
  match s.task? slot with
  | some t => foldS s (t.nd.map (·.name)) fun s n => ndSettle s slot n
  | none => s

def retireGang (s : State) (g : GId) : State :=
  if !gangReady s g then s
  else
    let l := lcluOf s g
    let s1 := if (s.mxD l).owner = some g then releaseMx s l else s
    let s2 := (removeGang s1 g).updTask g.slot fun t =>
      { t with gangsRetired := t.gangsRetired + 1, retiredKids := g.kid :: t.retiredKids }
    settleTask (ndEvents s2 g.slot) g.slot

/-- A block is over: its groups have retired, its inputs have landed, its outputs have drained (R17). -/
def blockReady (s : State) (b : BlockId) : Bool :=
  match s.block? b with
  | none => false
  | some x => !x.retired && x.drained && ctxRuns s (lcluOf s b.gang) && liveGroups s b == [] && instsOf s b == []

def retireBlock (s : State) (b : BlockId) : State :=
  if !blockReady s b then s
  else
    let s1 := s.updBlock b fun x => { x with retired := true, tiles := [] }
    retireGang (leaveArray s1 b true) b.gang

/-- Nothing of a group is still to come: no request, no result, no fabric response (R17, R175, R353). -/
def groupQuiet (s : State) (g : Nat) : Bool :=
  match s.group? g with
  | none => false
  | some gr => gr.pend == [] && !(s.m.reqs.any fun r => r.agent == g) && !(s.fab.outstanding.any fun r => r.lgn == g)

/-- A group retires: its last EXIT is a release at device scope (R17, R287); not while its cluster's clock is stopped (R385). -/
def retireGroup (s : State) (g : Nat) : State :=
  match s.group? g with
  | none => s
  | some gr =>
    if gr.status ≠ .exited || !groupQuiet s g || !ctxRuns s (lcluOf s gr.block.gang) then s
    else
      let s1 := (release s g 4).updGroup g fun x => { x with status := .retired }
      retireBlock (barrierEvent s1 gr.block) gr.block

/-- The last fragment of a group has gone (R175). -/
def groupExited (s : State) (g : Nat) : State :=
  match s.group? g with
  | none => s
  | some gr =>
    let s1 := s.updGroup g fun x => { x with status := .exited, ctx := none }
    let all := (groupsOfBlock s1 gr.block).all fun h => match s1.group? h with
      | some x => x.status == .exited || x.status == .retired
      | none => true
    let s2 := if all then startOutputs s1 gr.block else s1
    settleTask (retireGroup s2 g) gr.block.gang.slot

/-! ### Kill (R33, R225, R407) -/

/-- The kill is one after which R33 allows a relaunch: a part fault, uncorrectable data, a second SIGMIS. -/
def relaunchable (cause : Nat) : Bool := cause == 0x80 || cause == 0x0F || cause == 0x0E

/-- Relaunches that a gang has been given. -/
def Task.relaunches (t : Task) (kid : Nat) : Nat := t.relaunch.foldl (fun m p => if p.1 = kid then p.2 else m) 0

/-- R33 allows the gang to be launched again after a kill. -/
def mayRelaunch (s : State) (t : Task) (kid cause : Nat) : Bool :=
  t.lr.idem && t.failed.isNone && relaunchable cause && decide (t.relaunches kid < s.disp.relim)

/-- The task fails by a kill: from now on nothing of it is placed (R31, R33). The cause is 0x82 where the gang has been relaunched and the
limit forbids another relaunch; also where the limit has been set to 0 since, for which R86 names the cause of the kill and R33, whose
rule stands here, names 0x82 (DESIGN CHOICE, notes/assumptions/66). -/
def failKilled (s : State) (t : Task) (kid cause : Nat) : State :=
  let n := t.relaunches kid
  let c := if t.lr.idem && relaunchable cause && decide (n ≥ 1) && decide (n ≥ s.disp.relim) then 0x82 else cause
  (failTask s t.slot c).updTask t.slot fun t => { t with relaunchPending := [], granted := [] }

/-- The decision of R33: relaunch, or fail the task with its cause. The numbers of the gang's groups stay taken, for the relaunch or until
the report (R25). RELAUNCH counts a relaunch from this decision on, also one that is never placed because its task fails first: R107 does
not say which (DESIGN CHOICE, notes/assumptions/66). -/
def afterKill (s : State) (g : GId) (ids : List (Nat × Nat × Nat × Nat)) (cause : Nat) : State :=
  match s.task? g.slot with
  | none => s
  | some t =>
    let n := t.relaunches g.kid
    if mayRelaunch s t g.kid cause then
      let s1 := errLog s 3 0 0xFFFFFF t.handle 0
      s1.updTask g.slot fun t => { t with
        relaunch := (g.kid, n + 1) :: t.relaunch.filter (·.1 != g.kid)
        relaunchPending := t.relaunchPending ++ [g.kid]
        relaunchTotal := t.relaunchTotal + 1
        keptIds := t.keptIds ++ ids }
    else (failKilled s t g.kid cause).updTask g.slot fun t => { t with keptIds := t.keptIds ++ ids }

/-- The agents of a gang whose holds are its own: its groups, and the control core of its context. -/
def gangAgents (s : State) (g : GId) : List Nat :=
  let l := lcluOf s g
  groupsOfGang s g ++ (if (s.mxD l).owner = some g then [agentOfCore l] else [])

/-- A group stops where it stands: its fragments, and what it awaited, go. Its number is not free yet (R25). -/
def Group.stop (x : Group) : Group := { x with status := .retired, ctx := none, pend := [], ents := x.ents.map fun y => { chunk := y.chunk } }

/-- The group's number as it stands for its KIND 0 agent of block 0, group 0: the one that a kill's record names (R369). -/
def firstOf (s : State) (g : GId) : Nat :=
  ((groupsOfGang s g).find? fun h => match s.group? h with | some y => y.block.bid == 0 && y.gix == 0 | none => false).getD 0xFFFFFF

/-- The kill is delivered: every chunk that a fragment of the gang has open ends with it (R364), and the record of the gang is written with
the largest stamp that any of them has ended (R369). -/
def deliverKill (s : State) (g : GId) (cause : Nat) : State :=
  let gs := groupsOfGang s g
  let s1 := foldS s gs fun s h => foldS s (List.range 16) fun s e =>
    if (chunkOf s h e).count = 0 then s else endChunk s h e 6
  match recording s1 g.slot with
  | some p =>
    let e := eventChunk s1 (gs.flatMap fun h => s1.damask.lastChunk.get h []) 0
    emit e.2 p (clusterSrc s g) (rowBytes 4 8 0 cause (firstOf s g) 0 0 0) (some e.1)
  | none => s1

/-- Steps 3 and 4 of R407, once every access that the gang's agents committed is performed: a device-scope release waits for them, and no
hold is left to name a number that is free (R25, R302). The chunks end here, where the last of their accesses has been performed. -/
def finishKill (s : State) (g : GId) (cause : Nat) : State :=
  let s := deliverKill s g cause
  let ids := (groupsOfGang s g).filterMap fun h => (s.group? h).map fun y => (g.kid, y.block.bid, y.gix, h)
  let l := lcluOf s g
  let s1 := clearHolds s fun a => (gangAgents s g).contains a
  let s2 := if (s1.mxD l).owner = some g then releaseMx s1 l else s1
  settleTask (afterKill (removeGang s2 g) g ids cause) g.slot

/-- A kill that waits goes on when nothing of the gang's agents is left to perform, and its chunks may end (R360). -/
def settleKill (s : State) (g : GId) : State :=
  match (s.gang? g).bind (·.killed) with
  | none => s
  | some cause =>
    -- an instance that is stopping inside a chunk goes on to the chunk's end first (R225)
    if slotStalls s g.slot || (gangAgents s g).any (agentBusy s) || s.insts.any fun i => i.slot == g.slot && i.kid == g.kid && i.ending then s else finishKill s g cause

/-- Kills and retirements that waited for accesses to be performed. -/
def settleGangs (s : State) : State := foldS s (s.gangs.map (·.1)) fun s g => retireGang (settleKill s g) g

/-- An instance leaves: its source claim goes with it (R217, R407 step 3). -/
def leaveInst (s : State) (x : Inst) : State :=
  dropInst (foldS s x.claimed fun s w => dropClaim s (x.agent s) w) x.startNo

/-- Instances stop: one that has written part of a chunk at the chunk's end, while its engine runs, any other now (R225). Their claims go with
them, which R407 says of a kill, where R225 says that they go at the report (DESIGN CHOICE, notes/assumptions/60). -/
def stopInsts (s : State) (is : Inst → Bool) : State :=
  let now := fun (i : Inst) => i.part == [] || s.disp.deadDies.contains (dieOfClu i.clu)
  foldS { s with insts := s.insts.map fun i => if is i then { i with ending := true } else i } (s.insts.filter fun i => is i && now i) leaveInst

/-- Whose answers the fabric requests of a killed group are: no group's any more, but its task's, whose report waits for them (R358). -/
def killedKey (slot : Nat) : Nat := 2 ^ 24 + slot

/-- KILL in the header of an image that is stored in its slot already: a bit for each group slot of the gangs noted, their number at 0x98,
and the header's CRC (R389, R407). -/
def markKilled (s : State) (im : Image) : State :=
  if !im.stored then s
  else
    let bitOf := fun (k : Nat) => match im.groups[k]? with | some x => im.kill.contains x.2 | none => false
    let bs := (List.range 64).map fun j => BitVec.ofNat 8 (maskFrom (fun b => bitOf (8 * j + b)) 8)
    let h := s.mem.getN im.base 0xFC
    let h1 := h.take 0x98 ++ leBytes 4 im.kill.length ++ h.extract 0x9C 0xA0 ++ bs ++ h.drop 0xE0
    engineWrite s im.base (h1 ++ leBytes 4 (crc32c h1).toNat)

/-- A kill that meets a frozen context: its gang is noted in the image (R407). -/
def noteKill (s : State) (g : GId) : State :=
  let noted := fun (im : Image) => if im.gangs.contains g then { im with kill := g :: im.kill } else im
  let s1 : State := { s with frz := { s.frz with images := s.frz.images.map noted } }
  foldS s1 (s1.frz.images.filter fun im => im.gangs.contains g) markKilled

/-- Kills a gang (R407): steps 1 and 2, and at once or later the rest. A gang that is gone or being killed is killed already. Where R33 rules
a relaunch out, the task fails with the kill, and nothing more of it is placed (R31). -/
def killGang (s : State) (g : GId) (cause : Nat) : State :=
  match s.gang? g, s.task? g.slot with
  | some x, some t =>
    if x.killed.isSome then s else
    let gs := groupsOfGang s g
    let as := gangAgents s g
    let first := firstOf s g
    let s0 := match replaying s g.slot with
      | some p =>
        let r := rpart s p
        match r.log.findIdx? fun b => fieldOf b 0 1 == 4 && fieldOf b 1 1 == 8 && fieldOf b 4 4 == first with
        | some k => setRpart s p { r with log := r.log.eraseIdx k }
        | none => haltPart s p 2 first 0 0 []
      | none => s
    let sf := if mayRelaunch s0 t g.kid cause then s0 else failKilled s0 t g.kid cause
    let s1 := noteKill (stopInsts (errLog sf 2 cause first t.handle 0) fun i => i.slot == g.slot && i.kid == g.kid && i.desc.cls != 0) g
    let orphan := fun (r : FReq) => if gs.contains r.lgn then { r with lgn := killedKey g.slot, e := 16, tok := none } else r
    let s2 : State := { s1 with
      m := { s1.m with
        reqs := s1.m.reqs.filter fun r => !(as.contains r.agent && (r.kind == .load || r.kind == .resv || r.performed))
        resv := s1.m.resv.filter fun r => !as.contains r.agent }
      fab := { s1.fab with outstanding := s1.fab.outstanding.map orphan }
      cur := match s1.cur with
        | some (.grp h) => if gs.contains h then none else s1.cur
        | some (.core l) => if l = x.lclu ∧ as.contains (agentOfCore l) then none else s1.cur
        | none => none }
    -- its control core stops without a report (R255); it counts as retired at the nd barriers of its task from now on (R196)
    let s3 : State := { s2 with
      groups := s2.groups.map fun p => if gs.contains p.1 then (p.1, p.2.stop) else p
      gangs := s2.gangs.upd g fun y => { y with killed := some cause } }
    let m := s3.mxD x.lclu
    let s4 := if m.owner = some g then s3.setMx x.lclu { m with run := false, clause := none } else s3
    let s5 := (forgetArrivals s4 g.slot gs).updTask g.slot fun t => { t with retiredKids := g.kid :: t.retiredKids.filter (· != g.kid) }
    settleKill (ndEvents s5 g.slot) g
  | _, _ => s

/-- Kills every gang of a task and fails it once (R218). -/
def killTask (s : State) (slot cause : Nat) : State :=
  let s1 := failTask s slot cause
  let s2 := foldS s1 (gangsOfTask s1 slot) fun s g => killGang s g cause
  settleTask (stopInsts s2 fun i => i.slot == slot) slot

end Sys2Proof.Machine
end

