-- ==== Sys2Proof/Machine/Mx.lean ====
section
/-! DEFINITION. The matrix engine's shared operations: registers of an array, the multiply-accumulate, publication and draining,
rendezvous, and the stop of a control core (R227 to R256, R81). -/
namespace Sys2Proof.Machine
open Sys2Proof

/-! ### Array registers (R238, R239) -/

def Array8.maD (a : Array8) (n : Nat) : MaReg := a.ma.get n {}
def Array8.mcD (a : Array8) (n : Nat) : McReg := a.mc.get n {}
def Array8.setMa (a : Array8) (n : Nat) (r : MaReg) : Array8 := { a with ma := a.ma.put n r }
def Array8.setMc (a : Array8) (n : Nat) (r : McReg) : Array8 := { a with mc := a.mc.put n r }
def Mx.arrD (m : Mx) (c : Nat) : Array8 := m.arr.get c {}
def Mx.setArr (m : Mx) (c : Nat) (a : Array8) : Mx := { m with arr := m.arr.put c a }
def Mx.bD (m : Mx) (n : Nat) : BSlot := m.b.get n {}
def Mx.getC (m : Mx) (n : Nat) : Word := if n = 31 then 0 else m.c.get n 0
def Mx.setC (m : Mx) (n : Nat) (v : Word) : Mx := if n = 31 then m else { m with c := m.c.put n v }

/-- An element of a register of 64-byte rows: row m, element k, `w` bits (R65, R238). -/
def maEl (r : MaReg) (w m k : Nat) : Nat :=
  let bit := k * w
  if w = 64 then (r.words.get (16 * m + 2 * k) 0).toNat + 2 ^ 32 * (r.words.get (16 * m + 2 * k + 1) 0).toNat
  else (r.words.get (16 * m + bit / 32) 0).toNat / 2 ^ (bit % 32) % 2 ^ w

/-- Shape of an MMA by TYPE: K, columns (R238). -/
def mmaK (t : Ty) : Nat := 512 / t.width
def mmaN (t : Ty) : Nat := if t = .f64 then 64 else 128

/-- An element of a B image (R240). -/
def bEl (s : BSlot) (t : Ty) (k n : Nat) : Nat :=
  let i := k * mmaN t + n
  if t = .e2m1 then (s.bytes.get (i / 2) 0).toNat / 2 ^ (4 * (n % 2)) % 16
  else leNat ((List.range (t.width / 8)).map fun j => s.bytes.get (i * (t.width / 8) + j) 0)

/-- The accumulator's type. -/
def accTy (t : Ty) : Ty := if t = .f64 then .f64 else if t = .i8 then .i32 else .f32

/-- A product with its scales (R81, R242). -/
def mmaProd (t : Ty) (a : MaReg) (b : BSlot) (m n k : Nat) : FV :=
  let p := fvMul (fpDecode t (maEl a t.width m k)) (fpDecode t (bEl b t k n))
  if t = .e2m1 then
    let sa := (a.scales.get (4 * m + k / 32) 0x7F).toNat
    let sb := (b.scales.get (4 * n + k / 32) 0x7F).toNat
    if sa = 255 ∨ sb = 255 then .nan else fvScale p ((sa : Int) + sb - 254)
  else p

/-- One accumulator element after an MMA (R81, R242). -/
def mmaEl (t : Ty) (a : MaReg) (b : BSlot) (old m n : Nat) : Nat :=
  if t = .i8 then
    wrapInt 32 (extInt .i32 old + ((List.range (mmaK t)).map fun k => extInt .i8 (maEl a 8 m k) * extInt .i8 (bEl b t k n)).sum)
  else
    fpEncode (accTy t) false .rn (fvSum .rn (fpDecode (accTy t) old :: (List.range (mmaK t)).map fun k => mmaProd t a b m n k))

def mcEl (r : McReg) (i : Nat) : Nat := (r.els.get i 0).toNat

/-- An MMA on one array (R242): accumulator, the register used, and what becomes of it. -/
def mmaArray (t : Ty) (reuse : Bool) (mc ma : Nat) (b : BSlot) (a : Array8) : Array8 :=
  let src := a.maD ma
  let acc := a.mcD mc
  let n := mmaN t
  let els := (List.range (64 * n)).map fun i => (i, BitVec.ofNat 64 (mmaEl t src b (mcEl acc i) (i / n) (i % n)))
  let a1 := a.setMc mc { acc with els := els.filter fun p => p.2 != 0 }
  let empty := fun (a : Array8) (k : Nat) => a.setMa k { a.maD k with full := false }
  if reuse then { a1 with latch := some ma }
  else
    let a2 := match a1.latch with | some k => empty a1 k | none => a1
    empty { a2 with latch := none } ma

/-- An array is ready for an MMA (R242). -/
def arrayReady (a : Array8) (mc ma : Nat) : Bool := ((a.maD ma).full || a.latch == some ma) && !(a.mcD mc).published

/-- The participating set changes at an MMA boundary (R227): an array that leaves keeps what it holds, out of the gang's reach, and
returns with it; that of a retired block loses it. -/
def Mx.boundary (m : Mx) : Mx :=
  { m with
    parts := (m.parts.filter fun c => !m.leaving.contains c) ++ m.joining.dedup.filter fun c => !m.parts.contains c
    arr := m.arr.filter fun p => !m.lost.contains p.1
    leaving := [], joining := [], lost := [] }

/-- The context as a matrix instruction finds it: with no MMA under way, changes of the participating set have taken effect (R227). -/
def Mx.settled (m : Mx) : Mx := if m.jobs.any (·.mma) then m else m.boundary

/-- What R228 asks of a context that another gang waits for: the core has exited, every accumulator is OPEN and every A register EMPTY. -/
def Mx.idle (m : Mx) : Bool :=
  !m.run && m.exitVal.isSome && m.jobs == []
    && m.boundary.arr.all fun p => (p.2.mc.all fun r => !r.2.published) && (p.2.ma.all fun r => !r.2.full) && p.2.latch.isNone

/-- MPUB's publication (R246). -/
def McReg.publish (r : McReg) : McReg := { r with published := true, drained := [] }

/-- Elements of an accumulator: 64 × 128, or 64 × 64 in 64-bit format. -/
def McReg.size (r : McReg) : Nat := if r.wide then 4096 else 8192

/-- Marks elements drained; when all are, the accumulator becomes OPEN with contents +0 (R239). -/
def McReg.drain (r : McReg) (is : List Nat) : McReg :=
  let d := (is ++ r.drained).dedup
  if d.length ≥ r.size then { r with published := false, els := [], drained := [] } else { r with drained := d }

/-! ### The record of a matrix fault (R256) -/

def matrixRecord (iaddr cause slot holder daddr : Nat) (bids : Nat) : List Byte :=
  leBytes 8 (2 ^ 63 + iaddr / 8) ++ leBytes 1 cause ++ leBytes 1 slot ++ leBytes 2 0 ++ leBytes 4 holder ++ leBytes 8 daddr ++ leBytes 8 bids

/-- The BIDs of the participating arrays, as a mask. -/
def partBids (s : State) (m : Mx) : Nat :=
  match m.owner with
  | some g => ((blocksOfGang s g).map fun b => match s.block? b with
      | some x => if m.parts.contains (x.cu % 8) then 2 ^ b.bid else 0
      | none => 0).sum
  | none => 0

/-- The record after a group-side MATRIX (R256): one that tells of the core's own stop stays until the next FORK. -/
def noteMatrix (s : State) (l : Nat) (info : FaultInfo) : State :=
  let m := s.mxD l
  if m.stopped then s else s.setMx l { m with frec := matrixRecord info.iaddr info.sub info.slot 0 info.daddr (partBids s m) }

/-! ### Groups and the context (R249 to R253) -/

/-- The matrix context of a group's cluster. -/
def mxOf (s : State) (gr : Group) : Nat := lcluOf s gr.block.gang
/-- The issuing gang owns the context. -/
def ownsMx (s : State) (gr : Group) : Bool := (s.mxD (mxOf s gr)).owner == some gr.block.gang
/-- The array of the issuing CU. -/
def arrayOf (gr : Group) : Nat := gr.cu % 8

/-- MFEED on an EMPTY register (R251). -/
def feedWords (r : MaReg) (zero fin : Bool) (row0 n : Nat) (mask : Mask) (v : Nat → VReg) : MaReg :=
  let base := if zero then [] else r.words
  let ws := (List.range n).flatMap fun j => (lanesOf mask).filterMap fun i =>
    let w := 16 * row0 + 96 * j + i
    if w < 1024 then some (w, lane (v j) i) else none
  { r with words := ws.foldl (fun t p => t.put p.1 p.2) base, full := r.full || fin }

/-- The indices MDRAIN takes: register j, lane i (R253). -/
def drainIdx (wide : Bool) (sel j i : Nat) : Nat :=
  let row := sel % 64 + j
  if wide then 64 * row + i else 128 * row + 32 * (sel / 64 % 2) + i

/-- A state with an array of a context changed. -/
def updArr (s : State) (l c : Nat) (f : Array8 → Array8) : State := let m := s.mxD l; s.setMx l (m.setArr c (f (m.arrD c)))

/-- What an MDRAIN delivers from a PUBLISHED accumulator (R253): the values for its registers, or the tile written. A late fault, with its
sub-code and data address: a core that has stopped, a context that is another gang's, a format that does not agree (R255), or a tile
element that has gone meanwhile. -/
def drainPend (s : State) (gr : Group) (p : Pend) : Option (Except (Cause × Nat × Nat) (State × Pend)) :=
  let l := mxOf s gr
  let c := arrayOf gr
  let op := (List.find? (fun (x : Nat × Word) => x.1 == 96) p.vals).map (·.2.toNat)
  let log := fun (s : State) => syncRec s gr.block.gang.slot (clusterSrc s gr.block.gang) 2 gr.lgn p.frag c 0
  if (s.mxD l).owner ≠ some gr.block.gang then some (.error (.matrix, 0x40, 0))
  else if (s.mxD l).stopped then some (.error (.matrix, 0x46, 0))
  else if !syncMay s gr.block.gang.slot (clusterSrc s gr.block.gang) 2 gr.lgn p.frag then none else
  match p.instr with
  | .mdrain f =>
    let r := ((s.mxD l).arrD c).mcD f.a.field
    if !r.published then none
    else if r.wide ≠ (f.ty == .b64) then some (.error (.matrix, 0x44, 0))
    else
      let sel := op.getD 0
      let n := f.c.field - 384
      let ok := fun (i : Nat) => if r.wide then decide (i < 64) else true
      let val := fun (j i : Nat) => if ok i then mcEl r (drainIdx r.wide sel j i) else 0
      let d := f.d.toNat
      let regs := (List.range n).flatMap fun j =>
        if r.wide then [(d + 2 * j, p.mask, vec fun i => BitVec.ofNat 32 (val j i)),
                        (d + 2 * j + 1, p.mask, vec fun i => BitVec.ofNat 32 (val j i / 2 ^ 32))]
        else [(d + j, p.mask, vec fun i => BitVec.ofNat 32 (val j i))]
      let is := (List.range n).flatMap fun j => ((lanesOf p.mask).filter ok).map fun i => drainIdx r.wide sel j i
      some (.ok (log (updArr s l c fun a => a.setMc f.a.field ((a.mcD f.a.field).drain is)),
                 { p with land := { v := regs }, mc := false }))
  | .mdrainTl f =>
    let r := ((s.mxD l).arrD c).mcD f.a.field
    if !r.published then none
    else if r.wide ≠ (f.ty == .b64) then some (.error (.matrix, 0x44, 0))
    else
      let base := op.getD 0
      let esz := f.ty.width / 8
      let is := (List.range r.size).map (base + ·)
      match is.find? fun i => (elemAt s gr.block f.c.field i esz).isNone with
      | some i => some (.error (.tilebound, 0, i * esz))
      | none =>
      if is.any fun i => chunkAway s gr.block f.c.field i esz then none else
      let cv := fun (x : Nat) => if f.ty == .f16 || f.ty == .bf16 then fpEncode f.ty false (rndOf f.md.toNat 0) (fpDecode .f32 x) else x
      let s1 := foldS s (List.range r.size) fun s e => elemWrite s gr.block f.c.field (base + e) (f.ty.width / 8) (cv (mcEl r e))
      some (.ok (log (updArr s1 l c fun a => a.setMc f.a.field ((a.mcD f.a.field).drain (List.range r.size))), { p with mc := false }))
  | _ => none

/-- Rendezvous state. -/
def Mx.rdvD (m : Mx) (r : Nat) : Rdv := m.rdv.get r {}
def Mx.setRdv (m : Mx) (r : Nat) (x : Rdv) : Mx := { m with rdv := m.rdv.put r x }

/-- The first k arrivals of the open round receive a value, and the round advances (R237). -/
def Rdv.complete (x : Rdv) (k : Nat) (v : Word) : Rdv :=
  { round := (x.round + 1) % 65536, arrivals := x.arrivals.drop k, results := x.results ++ (x.arrivals.take k).map fun a => (a.1, a.2, v) }

/-- The context bound to a gang afresh (R228). -/
def freshMx (g : GId) (parts : List Nat) : Mx := { owner := some g, parts }

/-- The local CUs of the gang's blocks that are in it and have not retired. -/
def gangArrays (s : State) (g : GId) : List Nat :=
  (blocksOfGang s g).filterMap fun b => match s.block? b with
    | some x => if x.inGang && !x.retired then some (x.cu % 8) else none
    | none => none

end Sys2Proof.Machine
end

