-- ==== Sys2Proof/Machine/Fab.lean ====
section
/-! DEFINITION. The fabric engine's shared operations: routes, packets, sending, and the requests a group has outstanding
(R336 to R341, R346, R348 to R353). -/
namespace Sys2Proof.Machine
open Sys2Proof

def Fab.portD (f : Fab) (p : Nat) : Port := f.ports.get p {}
def setPort (s : State) (p : Nat) (x : Port) : State := { s with fab := { s.fab with ports := s.fab.ports.put p x } }

/-- The port carries packets: up, not failed, and the fabric enabled (R336, R337). -/
def portLive (f : Fab) (p : Nat) : Bool := f.en && (f.portD p).up && !(f.portD p).failed

/-- The live ports of a mask. -/
def maskPorts (f : Fab) (m : BitVec 24) : List Nat := (List.range 24).filter fun p => m.getLsbD p && portLive f p

/-- The candidate ports for a destination (R338). -/
def candidates (f : Fab) (dst : Nat) : List Nat :=
  if f.mesh && dst / 16 == f.devno / 16 then
    let dx := dst % 4
    let dy := dst / 4 % 4
    let mx := f.devno % 4
    let my := f.devno / 4 % 4
    let dir := if dx ≠ mx then (if dx > mx then 0 else 1) else if dy > my then 2 else 3
    (List.range 24).filter fun p => (f.dir.toNat / 4 ^ p % 4) == dir && portLive f p
  else if dst / 1024 = f.devno / 1024 then maskPorts f (f.devrt.get (dst % 1024) 0)
  else maskPorts f (f.domrt.get (dst / 1024) 0)

/-- The port a packet leaves by: 24 for loopback; none when the destination is unreachable (R338). -/
def fabPort (f : Fab) (dst : Nat) : Option Nat :=
  if dst = f.devno then some 24
  else match candidates f dst with
    | [] => none
    | l => some (l.getD (Config.fabHash f.devno dst % l.length) 0)

/-- The VC of a packet kind (R340). -/
def vcOf (kind : Nat) : Nat :=
  match kind with
  | 1 | 2 => 0
  | 4 | 5 | 6 | 8 => 1
  | 3 | 9 | 0xB | 0xC => 2
  | _ => 3

/-- Flits of a packet (R340, R341). -/
def flitsOf (pk : Packet) : Nat :=
  let up := fun (n : Nat) => (n + 63) / 64
  match pk.kind with
  | 2 => up (16 + 24 * pk.ents.length)
  | 3 | 4 => up (16 + 4 * pk.words.length)
  | 5 => up (16 + 16 * pk.ents.length)
  | 9 | 0xB | 0xC => up (16 + pk.raw.length)
  | _ => 1

/-- A packet with everything zero but its kind, ends and tag. -/
def blankPk (kind src dst tag : Nat) : Packet :=
  { kind, src, dst, tag, addr := 0, wmask := 0, ty := none, x := 0, ord := 0, scope := 0, part := 0, npart := 1, status := 0,
    holder := 0xFFFFFF, words := [], ents := [], flag := 0, raw := [] }

/-- A packet joins its output port's queue, `inp` naming the input it came by (24 and above: this device's hub). -/
def enqueue (s : State) (pk : Packet) (port inp : Nat) : State :=
  let p := s.fab.portD port
  setPort s port { p with outq := p.outq ++ [{ pk, inp, flits := flitsOf pk }] }

/-- The next tag for a destination (R346). -/
def newTag (s : State) (dst : Nat) : Nat × State :=
  let t := s.fab.tags.get dst 0
  (t, { s with fab := { s.fab with tags := s.fab.tags.put dst ((t + 1) % 65536) } })

/-- A device's requests without response. -/
def unanswered (s : State) (dst : Nat) : Nat := (s.fab.outstanding.filter fun r => r.dst == dst).length

/-- Unanswered requests of a cluster's groups (R353). -/
def clusterUnanswered (s : State) (lclu : Nat) : Nat :=
  (s.fab.outstanding.filter fun r => match s.group? r.lgn with | some g => lcluOf s g.block.gang == lclu | none => false).length

/-- A request goes out: its packets, with the tag, and its place among the outstanding ones; a group's, with the chunk of its clause. Without
a route nothing leaves, and the timeout of R346 decides. -/
def sendFab (s : State) (r : FReq) (mk : Nat → Nat → List Packet) : Nat × State :=
  let f := freshId s
  let t := newTag f.2 r.dst
  let route := fabPort s.fab r.dst
  let pks := mk s.fab.devno t.1
  let s1 := match route with
    | some port => foldS t.2 pks fun s pk => enqueue s pk port 25
    | none => t.2
  (f.1, { s1 with fab := { s1.fab with outstanding := s1.fab.outstanding ++ [{ r with id := f.1, tag := t.1, pk := pks, port := route.getD 25, chunk := (chunkOf s r.lgn r.e).id }] } })

/-- Requests of the hub itself go out in order, as far as each destination has room for them (R346). -/
def flowFab (s : State) : State :=
  foldS { s with fab := { s.fab with unsent := [] } } s.fab.unsent fun s r =>
    if unanswered s r.dst < 32768 && !(s.fab.unsent.any fun x => x.dst == r.dst) then (sendFab s r fun src tag => r.pk.map fun p => { p with src, tag }).2
    else { s with fab := { s.fab with unsent := s.fab.unsent ++ [r] } }

/-- A request of the hub itself, of one packet; `lgn` is the key under which its answer is awaited. -/
def hubSend (s : State) (lgn kind line : Nat) (accs : List Acc) (pk : Packet) : State :=
  let r : FReq := { id := 0, dst := pk.dst, tag := 0, pk := [pk], port := 0, lgn, e := 16, seq := 0, iaddr := 0, tok := none, kind, accs, line }
  flowFab { s with fab := { s.fab with unsent := s.fab.unsent ++ [r] } }

/-- A request of the hub under a key is unanswered, or has yet to go out. -/
def hubOwes (s : State) (lgn : Nat) : Bool := (s.fab.outstanding ++ s.fab.unsent).any fun r => r.lgn == lgn

/-- The (device, line) pairs that accesses name, in ascending order of their lowest lane. -/
def fabLines (accs : List Acc) : List (Nat × Nat) := ((accs.map fun a => (a.dev, a.pa / 128)).reverse.dedup).reverse
def fabOf (accs : List Acc) (dl : Nat × Nat) : List Acc := accs.filter fun a => (a.dev, a.pa / 128) == dl

/-- The words of one line that stores write; a higher lane's bytes stand (R348). -/
def storeWords (accs : List Acc) : List (Nat × BitVec 32) :=
  let ws : AList Nat (BitVec 32) := accs.foldl (fun t a =>
    let t1 := AList.put t (a.pa / 4 % 32) (BitVec.ofNat 32 a.b.toNat)
    if a.size = 8 then AList.put t1 (a.pa / 4 % 32 + 1) (BitVec.ofNat 32 (a.b.toNat / 2 ^ 32)) else t1) []
  (List.range 32).filterMap fun k => (ws.find? k).map fun v => (k, v)

def wordMask (ks : List Nat) : BitVec 32 := ks.foldl (fun m k => m ||| (1#32 <<< k)) 0

/-- The packets of an FST, an FLD and an FATOM for one line (R348 to R350). -/
def storePk (dst line : Nat) (ty : Ty) (ord scope : Nat) (accs : List Acc) (src tag : Nat) : List Packet :=
  let ws := storeWords accs
  [{ blankPk 3 src dst tag with
     addr := line * 128, wmask := wordMask (ws.map (·.1)), ty := some ty, ord := BitVec.ofNat 2 ord,
     scope := BitVec.ofNat 3 scope, words := ws.map (·.2) }]
def loadPk (dst line : Nat) (ty : Ty) (ord scope : Nat) (accs : List Acc) (src tag : Nat) : List Packet :=
  let ks := accs.flatMap fun a => if a.size = 8 then [a.pa / 4 % 32, a.pa / 4 % 32 + 1] else [a.pa / 4 % 32]
  [{ blankPk 1 src dst tag with
     addr := line * 128, wmask := wordMask ks, ty := some ty, ord := BitVec.ofNat 2 ord,
     scope := BitVec.ofNat 3 scope }]
def chunk7 {α : Type} : Nat → List α → List (List α)
  | 0, _ => []
  | n + 1, l => if l.isEmpty then [] else l.take 7 :: chunk7 n (l.drop 7)
def atomPk (dst line : Nat) (ty : Ty) (x ord scope : Nat) (accs : List Acc) (src tag : Nat) : List Packet :=
  let ents : List PkEntry := accs.map fun a => { word := a.pa / 4 % 32, lane := a.lane, b := a.b, c := a.c, status := 0, old := 0 }
  let parts := chunk7 (ents.length + 1) ents
  (List.range parts.length).map fun k =>
    { blankPk 2 src dst tag with
      addr := line * 128, ty := some ty, x := BitVec.ofNat 4 x, ord := BitVec.ofNat 2 ord,
      scope := BitVec.ofNat 3 scope, part := k, npart := parts.length, ents := parts.getD k [] }
def flagPk (dst addr : Nat) (ty : Ty) (scope : Nat) (v : Word) (src tag : Nat) : List Packet :=
  [{ blankPk 7 src dst tag with addr, ty := some ty, ord := 2, scope := BitVec.ofNat 3 scope, flag := v }]

/-- An earlier FST or FATOM of the group to the line is unacknowledged; before an FST or FATOM, an earlier FLD too, since the group's
accesses to a line are performed in program order and the two kinds travel apart (R352). -/
def lineBusy (s : State) (lgn : Nat) (write : Bool) (dl : Nat × Nat) : Bool :=
  s.fab.outstanding.any fun r => r.lgn == lgn && r.dst == dl.1 && r.line == dl.2 && (r.kind == 0 || r.kind == 2 || (write && r.kind == 1))

/-- Every fabric access of the group has been acknowledged: towards one device, or all (R351, R352). -/
def fabQuiet (s : State) (lgn : Nat) (dev : Option Nat) : Bool :=
  !(s.fab.outstanding.any fun r => r.lgn == lgn && (match dev with | some d => r.dst == d && r.kind != 1 | none => true))

/-- The device is unreachable after a port has failed: operations to it follow R33 (R34, R346). -/
def lostByPart (s : State) (dst : Nat) : Bool := (fabPort s.fab dst).isNone && (List.range 24).any fun p => (s.fab.portD p).failed

/-- An acquire form of the group awaits its response: every later access of the group does (R262, R349, R350). -/
def acquiring (s : State) (lgn : Nat) : Bool :=
  s.fab.outstanding.any fun r => r.lgn == lgn && (r.kind == 1 || r.kind == 2) && r.pk.any fun p => p.ord == 1 || p.ord == 3

/-- A FENCE or an acquire form of the group that later accesses wait for is still to be performed here (R262, R352). -/
def fenced (s : State) (lgn : Nat) (load : Bool) : Bool :=
  s.m.reqs.any fun a => a.agent == lgn && !a.performed
    && (a.isAcquire || (a.isFence && (a.ord == 1 || a.ord == 3 || (a.ord == 2 && !load))))

/-- There is room for `n` more requests of a group, by cluster and by destination (R346, R353). -/
def fabRoom (s : State) (gr : Group) (dls : List (Nat × Nat)) : Bool :=
  decide (clusterUnanswered s (lcluOf s gr.block.gang) + dls.length ≤ 2048)
    && dls.all fun d => decide (unanswered s d.1 + (dls.filter fun x => x.1 == d.1).length ≤ 32768)

end Sys2Proof.Machine
end

