-- ==== Sys2Proof/Machine/Clause.lean ====
section
/-! DEFINITION. A clause before its first instruction: fetching its words, the decoder's checks, what it waits for, and which
fragment a partition selects (R38, R39, R45 to R48, R56, R120 to R126, R174). -/
namespace Sys2Proof.Machine
open Sys2Proof

/-! ### The decoder's checks (R45, R46, R48) -/

/-- The issue class of an instruction (R57). -/
def Instr.cls (i : Instr) : Cls := i.shape.cls
def isTail (i : Instr) : Bool := match Instr.cls i with | .c | .cl | .j => true | _ => false

/-- What earlier slots of the clause leave to check later ones against. -/
structure Seen where
  kinds : AList Nat LKind := []
  toks : List Nat := []
  tdst : List RegName := []
  dst : List RegName := []

/-- The fault the decoder finds in a slot (R45, R48 rules 2, 4 and 5, R60). MFEED's BUDGET is found at its slot (R251). -/
def slotCheck (vregs : Nat) (last : Bool) (seen : Seen) (i : Instr) : Option Cause :=
  let tok := i.tok
  let dup := match tok with | some t => seen.toks.contains t | none => false
  let ds := i.dests
  let clash := ds.any fun d => seen.tdst.contains d || (tok.isSome && seen.dst.contains d)
  if i.isCore || dup || clash || (isTail i && !last) then some .illop
  else match i, operandFault vregs (fun n => seen.kinds.find? n) i with
    | .mfeed _, some .budget => none
    | _, r => r

/-- What a slot adds. -/
def Seen.add (seen : Seen) (k : Nat) (i : Instr) : Seen :=
  let ds := i.dests
  { kinds := (match i.latchKind with | some x => AList.put seen.kinds (k % 8) x | none => AList.del seen.kinds (k % 8))
    toks := (match i.tok with | some t => t :: seen.toks | none => seen.toks)
    tdst := if i.tok.isSome then ds ++ seen.tdst else seen.tdst
    dst := ds ++ seen.dst }

/-- The first slot that the decoder faults, and the cause (R48, R190). -/
def wordsCheck (vregs : Nat) : Nat → Seen → List Word → Option (Nat × Cause)
  | _, _, [] => none
  | k, seen, w :: t =>
    match decodeVec w with
    | .error _ => some (k, .illop)
    | .ok i =>
      match slotCheck vregs t.isEmpty seen i with
      | some c => some (k, c)
      | none => wordsCheck vregs (k + 1) (seen.add k i) t

/-- The instructions of a clause; a word that does not decode is left out. -/
def clauseInstrs (ws : List Word) : List Instr := ws.filterMap fun w => match decodeVec w with | .ok i => some i | .error _ => none

/-- A control-core clause: transfers stand last (R232). -/
def coreCheck : Nat → List Word → Option (Nat × Cause)
  | _, [] => none
  | k, w :: t =>
    match decodeCore w with
    | .error _ => some (k, .illop)
    | .ok i =>
      let jump := match i with | .cbr _ | .cloop _ | .cjmp _ | .cexit _ => true | _ => false
      if jump && !t.isEmpty then some (k, .illop) else coreCheck (k + 1) t

/-! ### Fetching (R39) -/

/-- What a fetch of consecutive words comes to. -/
inductive Fetch where
  | ok (ws : List Word)
  | fault (c : Cause)
  | nonres (pages : List Nat)
  | retype (frame : Nat)
  deriving DecidableEq, Repr

/-- Of two results, the one that decides: ILLOP before UNMAPPED before PROT before TYPEMIS; a fault before a wait. -/
def Fetch.join (a b : Fetch) : Fetch :=
  match a, b with
  | .fault x, .fault y => .fault (if x.rank ≤ y.rank then x else y)
  | .fault x, _ => .fault x
  | _, .fault y => .fault y
  | .retype f, _ => .retype f
  | _, .retype f => .retype f
  | .nonres p, .nonres q => .nonres (p ++ q).dedup
  | .nonres p, _ => .nonres p
  | _, .nonres q => .nonres q
  | .ok x, .ok y => .ok (x ++ y)

/-- One word of code at a virtual address. -/
def fetchWord (s : State) (ttu : Bool) (u pasid va : Nat) : State × Fetch :=
  let t := translateIn s ttu u pasid va { x := true }
  match t.2 with
  | .ok pa _ => (t.1, .ok [BitVec.ofNat 64 (leNat (if ttu then physRead t.1 pa 8 else readCu t.1 u pa 8))])
  | .fault c => (t.1, .fault c)
  | .nonres => (t.1, .nonres [va / 4096])
  | .retype f => (t.1, .retype f)

/-- `n` words from an address. -/
def fetchWords (s : State) (ttu : Bool) (u pasid : Nat) : Nat → Nat → State × Fetch
  | _, 0 => (s, .ok [])
  | va, n + 1 =>
    let a := fetchWord s ttu u pasid va
    let b := fetchWords a.1 ttu u pasid (va + 8) n
    (b.1, a.2.join b.2)

/-- A whole clause of a kind (ENG) at a header: the fault of its header, or its words (R39). -/
def fetchClause (s : State) (ttu : Bool) (u pasid eng va : Nat) : State × Except Fetch Clause :=
  let h := fetchWord s ttu u pasid va
  match h.2 with
  | .ok (w :: _) =>
    match decodeHeader w with
    | none => (h.1, .error (.fault .illop))
    | some hdr =>
      if hdr.eng.toNat ≠ eng then (h.1, .error (.fault .illop))
      else
        let b := fetchWords h.1 ttu u pasid (va + 8) (hdr.cnt.toNat + 1)
        match b.2 with
        | .ok ws => (b.1, .ok { addr := va, hdr, words := ws })
        | r => (b.1, .error r)
  | r => (h.1, .error r)

/-! ### Interlocks (R47, R48 rule 3, R126) -/

/-- A pending tokened write names the register. -/
def pendingWrite (gr : Group) (r : RegName) : Bool := gr.pend.any fun p => !p.dead && p.instr.dests.contains r

/-- The registers a clause reads or writes; every clause reads its mask registers (R47 rule 2, R114). -/
def clauseRegs (ws : List Word) : List RegName :=
  [(1, 60), (1, 61), (1, 62)] ++ (clauseInstrs ws).flatMap fun i => i.reads ++ i.dests

/-- A token is set, and whether this fragment set it. -/
def tokenSet (gr : Group) (t : Nat) : Bool := gr.pend.any fun p => p.tok == some t
def tokenMine (gr : Group) (e t : Nat) : Bool := gr.pend.any fun p => p.tok == some t && p.frag == e

/-- The tokens that the slots of a clause name. -/
def clauseToks (ws : List Word) : List Nat := (clauseInstrs ws).filterMap (·.tok)

/-- A fetched clause waits: a WAIT token, an interlocked register, a sibling's token (R47, R126). -/
def clauseWaits (gr : Group) (e : Nat) (c : Clause) : Bool :=
  ((List.range 8).any fun t => c.hdr.wait.getLsbD t && tokenSet gr t)
  || (clauseRegs c.words).any (pendingWrite gr)
  || (clauseToks c.words).any fun t => tokenSet gr t && !tokenMine gr e t

/-- The slot that names a token of this fragment which is set and not in WAIT (R48 rule 3). -/
def tokenClash (gr : Group) (e : Nat) (c : Clause) : Option Nat :=
  (List.range c.words.length).find? fun k =>
    match decodeVec (c.words.getD k 0) with
    | .ok i => match i.tok with
      | some t => tokenMine gr e t && !c.hdr.wait.getLsbD t
      | none => false
    | .error _ => false

/-- A fragment that becomes READY takes its place in the order of readiness (R122), and its ageing counter starts anew: also when it was
READY before and had to wait again (R126), where R123 names no reset but at a clause's start (DESIGN CHOICE, notes/assumptions/66). -/
def makeReady (s : State) (g e : Nat) : State :=
  let f := freshId s
  f.2.updGroup g fun gr => gr.updEnt e fun x => { x with st := .ready, since := f.1, age := 0, forced := false }

/-- Fetched clauses whose waits have ended become READY, and a READY one that must wait again, since a sibling has set a token or has a
tokened write pending, is WAITING (R47, R120, R126). -/
def recheck (s : State) (g : Nat) : State :=
  match s.group? g with
  | none => s
  | some gr => foldS s gr.frags fun s e =>
      match (gr.ent e).st, (gr.ent e).park, (gr.ent e).clause with
      | .waiting, .none, some c => if clauseWaits gr e c then s else makeReady s g e
      | .ready, _, some c => if clauseWaits gr e c then s.updGroup g fun gr => gr.updEnt e fun x => { x with st := .waiting } else s
      | _, _, _ => s

/-! ### Selection (R121 to R123) -/

/-- Groups of a partition, in order of logical number. -/
def groupsOfPart (s : State) (p : Nat) : List Nat :=
  sortNat ((s.groups.filter fun x => x.2.part == p && decide (x.2.status = .resident)).map (·.1))

/-- The recorder holds the fragment: replay has not begun its chunk (R376), the ring is full under stall (R360), the twin lags
(R382), the partition is halted (R377, R383), or the accesses that end its chunk are not all performed. -/
def recorderHolds (s : State) (gr : Group) (e : Nat) : Bool :=
  match partOfTask s gr.block.gang.slot with
  | none => false
  | some p =>
    let r := rpart s p
    let ch := (gr.ent e).chunk
    r.halted || ch.endCode.isSome
      || (r.mode ≥ 2 && ch.replay.isNone)
      || ringStalls r
      || (r.mode == 1 && r.pair && !r.unpaired && ch.count == 0 && decide (r.ended > r.compared + 256))

/-- A fragment whose fetched clause may start: nothing it waits for is set again, no halt or recorder holds it, and no acquire of its group
is under way at another device (R47, R121, R124, R262). -/
def mayStart (s : State) (gr : Group) (e : Nat) : Bool :=
  decide ((gr.ent e).st = .ready) && !(gr.ent e).haltReq && !recorderHolds s gr e && !acquiring s gr.lgn
    && !((gr.ent e).clause.any fun c => clauseWaits gr e c)

/-- The fragments of a partition that may be selected: group, entry, the entry's fields (R121). -/
def readyFrags (s : State) (p : Nat) : List (Nat × Nat × Entry) :=
  (groupsOfPart s p).flatMap fun g => match s.group? g with
    | some gr => (gr.frags.filter (mayStart s gr)).map fun e => (g, e, gr.ent e)
    | none => []

/-- The priority class of a group's task: its queue's CLASS (R85). -/
def classOf (s : State) (g : Nat) : Nat :=
  match (s.group? g).bind (taskOf s) with
  | some t => (s.queueD t.queue).cls
  | none => 3

/-- The earlier of two ready fragments (R122 steps 3 and 4): readiness, group number, split-table index. -/
def earlier (a b : Nat × Nat × Entry) : Bool :=
  decide (a.2.2.since < b.2.2.since) || (a.2.2.since == b.2.2.since &&
    (decide (a.1 < b.1) || (a.1 == b.1 && decide (a.2.1 < b.2.1))))
def earliest : List (Nat × Nat × Entry) → Option (Nat × Nat × Entry)
  | [] => none
  | x :: t => match earliest t with
    | none => some x
    | some y => if earlier y x then some y else some x

/-- The choice of R122. -/
def selectFrag (s : State) (p : Nat) : Option (Nat × Nat) :=
  let rs := readyFrags s p
  let forced := rs.filter fun x => x.2.2.forced
  let stay := rs.filter fun x => x.2.2.stayed
  let best := fun (l : List (Nat × Nat × Entry)) =>
    let c := l.foldl (fun m x => min m (classOf s x.1)) 4
    earliest (l.filter fun x => classOf s x.1 == c)
  (if forced != [] then earliest forced else if stay != [] then earliest stay else best rs).map fun x => (x.1, x.2.1)

/-- A clause of the partition is issuing. -/
def partBusy (s : State) (p : Nat) : Bool := (groupsOfPart s p).any fun g => match s.group? g with | some gr => gr.ctx.isSome | none => false

/-! ### Start (R37, R40, R185, R187) -/

/-- The starting value of SIG (R184). -/
def sigReset : BitVec 32 := 0x811C9DC5

/-- No fragment of a partition is the one that STAY keeps any longer, nor of a group that has left it for the swap reservation: another
clause begins (R122 step 2). -/
def clearStay (s : State) (p : Nat) : State :=
  foldS s ((s.groups.filter fun x => x.2.part == p).map (·.1)) fun s g =>
    s.updGroup g fun gr => { gr with ents := gr.ents.map fun y => { y with stayed := false } }

/-- The cycle counters as a clause starts (R129): counter 4 has gone on by cycles that passed, counter 5 by no more than those. -/
def passCycles (perf : List (Nat × Nat)) (ix : Nat) : List (Nat × Nat) :=
  let d := (Config.perfCycles (2 * ix)).toNat
  let p4 := AList.put perf 4 (AList.get perf 4 0 + d)
  AList.put p4 5 (AList.get perf 5 0 + (Config.perfCycles (2 * ix + 1)).toNat % (d + 1))

/-- A group whose entry's fetched clause starts issuing: RGN and SIG take effect (R185, R187), and the clause-local view begins. A chunk that
is to end at this header ends with SIG as it stood before. -/
def beginClause (gr : Group) (e : Nat) (c : Clause) (ix : Nat) : Group :=
  let x := gr.ent e
  let k := gr.ctl
  let k1 := if c.hdr.rgn then { k with region := c.addr, seen := false, tRegent := e } else k
  let k2 := if c.hdr.rgn || x.fresh then { k1 with sig := sigReset } else k1
  let perf := passCycles gr.perf ix
  { gr with
    ctl := k2, perf
    ents := gr.ents.modify e fun y =>
      { y with st := .issuing, age := 0, forced := false, clause := none
               chunk := { y.chunk with sig0 := k.sig, words := [], seenBy := [] } }
    ctx := some { entry := e, addr := c.addr, hdr := c.hdr, words := c.words, mask := x.mask, am := x.mask, cc := x.cc, view := gr.regs,
                  ctl0 := k2, perf0 := perf } }

/-- The fetched clause of an entry starts issuing. -/
def startClause (s : State) (g e : Nat) (c : Clause) : State :=
  let f := freshFree s
  let s1 := match s.group? g with | some gr => clearStay f.2 gr.part | none => f.2
  s1.updGroup g fun gr => beginClause gr e c f.1

/-- A header with RGN is refused: siblings, or a narrowed mask (R187). -/
def regionBad (gr : Group) (e : Nat) (c : Clause) : Bool :=
  c.hdr.rgn && (decide (gr.frags.length > 1) || (gr.ent e).mask != (gr.ent e).own)

end Sys2Proof.Machine
end

