-- ==== Sys2Proof/Machine/Fault.lean ====
section
/-! DEFINITION. Faults: abandoning a clause, recording and delivering a fault, late faults, the restart of a region (R42, R180,
R186, R189 to R192, R323, R329). -/
namespace Sys2Proof.Machine
open Sys2Proof

/-! ### Abandonment (R42) -/

/-- The clause under way is abandoned: its view, stores and tokens go; the fragment is back at its header. -/
def abandon (s : State) (g : Nat) : State :=
  match s.group? g with
  | none => s
  | some gr =>
    match gr.ctx with
    | none => s
    | some c =>
      let gone := (gr.pend.filter fun p => p.frag == c.entry && !p.committed).flatMap (·.wait) ++ c.wait
      let s1 := s.updGroup g fun gr =>
        { gr with
          ctx := none
          pend := gr.pend.filter fun p => !(p.frag == c.entry && !p.committed)
          perf := AList.put gr.perf 7 (AList.get gr.perf 7 0 + 1)
          ents := gr.ents.modify c.entry fun x =>
            { x with st := .fetching, clause := none, chunk := { x.chunk with split := false, count := x.chunk.count - (if x.chunk.split then c.ops.length else 0) } } }
      { s1 with
        m := { s1.m with reqs := s1.m.reqs.filter (fun r => !gone.contains r.id), resv := s1.m.resv.filter fun r => !(r.lgn == g && r.e == c.entry) }
        cur := if s1.cur = some (.grp g) then none else s1.cur }

/-- The same, if it is a clause of this fragment. -/
def abandonOf (s : State) (g e : Nat) : State :=
  match (s.group? g).bind (·.ctx) with
  | some c => if c.entry = e then abandon s g else s
  | none => s

/-- The header a fragment stands at, or whose clause it issues. -/
def headerOf (gr : Group) (e : Nat) : Nat :=
  match gr.ctx with
  | some c => if c.entry = e then c.addr else (gr.ent e).pc
  | none => (gr.ent e).pc

/-- A slot check or a fetch met pages that are not resident: the clause is abandoned and the fragment parks until they are
answered (R39, R323). -/
def parkPages (s : State) (g e : Nat) (ps : List (Nat × Bool × Bool)) : State :=
  match s.group? g with
  | none => s
  | some gr =>
    let pasid := pasidOf s gr.block.gang.slot
    -- while RF is set every request is answered Invalid at once (R328)
    if s.m.rf then
      let p := ps.headD (0, false, false)
      addLate (abandonOf s g e) g e { seq := gr.seq, slot := 0,
                                      info := { cause := .unmapped, iaddr := headerOf gr e, lanes := (gr.ent e).mask, daddr := if p.2.2 then 0 else p.1 * 4096,
                                                sub := if p.2.2 then 2 + p.1 else b2n p.2.1 } }
    else
    let s1 := foldS (abandonOf s g e) ps fun s p => requestPage s pasid p.1 p.2.1 p.2.2
    s1.updGroup g fun gr => gr.updEnt e fun x => { x with st := .parked, waitk := 4, park := .pages (ps.map fun p => (pasid, p.1, p.2.1)) }

/-- A frame under retype was met with the other type: the clause restarts once the retype is over (R192, R290). Its fragment stands
at its header, FETCHING as R120 has it after an abandonment, and does not fetch before then. The restart is logged (R291). -/
def parkRetype (s : State) (g e f : Nat) : State :=
  let slot := match s.group? g with | some gr => gr.block.gang.slot | none => 2 ^ 17
  let s1 := syncRec (abandonOf s g e) slot (sliceSrc (f * 32)) 9 g (e % 16) 0 (f * 4096)
  if (frameAt s f).rt then s1.updGroup g fun gr => gr.updEnt e fun x => { x with st := .fetching, waitk := 0, park := .retype f } else s1

/-! ### The record of a fault (R189, R191) -/

/-- FLT as CSRR reads it. -/
def Flt.word (f : Flt) : Word :=
  BitVec.ofNat 64 (b2n f.v * 2 ^ 63 + b2n f.late * 2 ^ 62 + f.iaddr / 8 % 2 ^ 54 * 2 ^ 8 + f.cause)

def faultRecord (f : Flt) (info : FaultInfo) : List Byte :=
  leBytes 8 f.word.toNat ++ leBytes 12 f.m.toNat ++ leBytes 4 (if info.cause = .race then info.holder else 0) ++ leBytes 8 info.daddr

/-- FLT, FLTMASK, the fault record and the trace record. -/
def recordFault (s : State) (g e : Nat) (info : FaultInfo) (late : Bool) : State :=
  let f : Flt := { v := true, late, iaddr := info.iaddr, cause := info.cause.code, m := info.lanes }
  let s0 := noteShared (s.updGroup g fun gr => { gr with ctl := { gr.ctl with flt := f, tFlt := e }, frec := faultRecord f info }) g e
    [64 + 0x20, 64 + 0x21, 64 + 0x22, 64 + 0x23]
  match s.group? g with
  | some gr =>
    let s1 := if info.cause = .matrix then noteMatrix s0 (mxOf s0 gr) info else s0
    trace s1 gr.block.gang.slot 7 info.cause.code e (agentOfGroup g) (info.iaddr / 8) info.lanes 0
  | none => s0

/-- The group's task has a debug capability (R409). -/
def debugged (s : State) (g : Nat) : Bool := match s.group? g with | some gr => hasRight s gr.block.gang.slot 0 | none => false

/-- A fatal fault: the gang is killed and the task reported FAILED with the code (R192). -/
def fatal (s : State) (g : Nat) (cause : Nat) : State :=
  match s.group? g with
  | none => s
  | some gr =>
    let mrec := if cause = 0x14 then (s.mxD (mxOf s gr)).frec else []
    killGang (s.updTask gr.block.gang.slot fun t => if t.failed.isSome then t else { t with frec := gr.frec ++ mrec }) gr.block.gang cause

/-- A fragment halts (R124, R192). -/
def haltFrag (s : State) (g e on : Nat) (code : Nat := 0) : State :=
  s.updGroup g fun gr => gr.updEnt e fun x => { x with st := .halted, waitk := 0, haltOn := some on, haltCode := code, haltReq := false, clause := none }

/-- The fragment waits for the host or a debugger to service its fault; its block is to be swapped out (R104, R192). It stands at its
header, FETCHING as R120 has it after an abandonment, and does not fetch before it is serviced. -/
def needService (s : State) (g e code : Nat) : State :=
  match s.group? g with
  | none => s
  | some gr =>
    let s1 := s.updGroup g fun gr => gr.updEnt e fun x => { x with st := .fetching, waitk := 0, park := .service, clause := none }
    s1.updBlock gr.block fun b => { b with why := .fault g e code }

/-- UNMAPPED and PROT are sent to the host as page requests (R329). `sub`: 0 a read, 1 a write, 2 and more a fetch, whose page is
then sub − 2. -/
def askHost (s : State) (g e : Nat) (info : FaultInfo) : State :=
  match s.group? g with
  | none => s
  | some gr =>
    let pasid := pasidOf s gr.block.gang.slot
    let page := if info.sub ≥ 2 then info.sub - 2 else info.daddr / 4096
    if s.m.rf then fatal s g info.cause.code else
    let s1 := requestPage s pasid page (info.sub == 1) (decide (info.sub ≥ 2))
    { s1 with m := { s1.m with preqs := s1.m.preqs.map fun p =>
      if p.pasid == pasid && p.page == page then { p with faulted := (g, e) :: p.faulted } else p } }

/-- The clause that met a first HOLDCAP restarts once the group's holds are released, which waits for every earlier store and atomic of the
group (R192, R303). -/
def settleRelease (s : State) (g e : Nat) : State :=
  match s.group? g with
  | none => s
  | some gr =>
    if (gr.ent e).park ≠ .release ∨ agentBusy s g = true then s
    else (release s g 4).updGroup g fun gr => gr.updEnt e fun x => { x with park := .none }

/-- HOLDCAP (R192): the first on a clause releases the group's holds and restarts; a second queues the failed reservations. -/
def holdcap (s : State) (g e : Nat) : State :=
  match s.group? g with
  | none => s
  | some gr =>
    let s0 := delivery s g e 6 0x09
    let s1 := s0.updGroup g fun gr => gr.updEnt e fun x => { x with holdcap := x.holdcap + 1 }
    if (gr.ent e).holdcap = 0 then settleRelease (s1.updGroup g fun gr => gr.updEnt e fun x => { x with park := .release }) g e
    else s1.updGroup g fun gr => gr.updEnt e fun x => { x with st := .waiting, park := .holdq }

/-- Delivers a fault (R192). A FABRIC that follows the failure of a port is that part's fault (R34, R346). The clause, if the fault was precise, has been abandoned: the fragment stands at its header. -/
def deliver (s : State) (g e : Nat) (info : FaultInfo) (late : Bool) : State :=
  let s1 := recordFault s g e info late
  let code := info.cause.code
  match info.cause with
  | .unmapped | .prot => askHost (needService (delivery s1 g e 1 code) g e code) g e info
  | .budget | .splitov =>
    let s2 := delivery s1 g e 1 code
    if debugged s2 g then needService s2 g e code else fatal s2 g code
  | .typemis => fatal (delivery s1 g e 1 code) g code
  | .holdcap => holdcap s1 g e
  | .uncorr => fatal (delivery s1 g e 1 code) g code
  | .fabric =>
    let s2 := delivery s1 g e 1 code
    if info.sub = 0x80 then fatal s2 g 0x80 else if debugged s2 g then haltFrag s2 g e 256 code else fatal s2 g code
  | .pgpark => match s1.group? g with
    | some gr => s1.updBlock gr.block fun b => { b with why := .pgpark }
    | none => s1
  | .brk =>
    let s2 := haltFrag (delivery s1 g e 3 code) g e 256 code
    match s2.group? g with
    | some gr => s2.updBlock gr.block fun b => { b with why := .fault g e code }
    | none => s2
  | _ =>
    let s2 := delivery s1 g e 1 code
    if debugged s2 g then haltFrag s2 g e 256 code else fatal s2 g code

/-! ### Faults of slots (R42, R190) -/

/-- The lowest lane of a mask, 96 for none. -/
def lowestLane (m : Mask) : Nat := (lanesOf m).headD 96

/-- The fault recorded for a clause: the lowest slot, then the cause ranked first; the lanes of that cause, with the holder and the
data address of the lowest of them (R190, R191). -/
def firstFault : List (Nat × FaultInfo) → Option (Nat × FaultInfo)
  | [] => none
  | x :: t => match firstFault t with
    | none => some x
    | some y =>
      if x.1 < y.1 then some x
      else if y.1 < x.1 then some y
      else if x.2.cause = y.2.cause then
        some (x.1, { (if lowestLane x.2.lanes ≤ lowestLane y.2.lanes then x.2 else y.2) with lanes := x.2.lanes ||| y.2.lanes })
      else if x.2.cause.rank ≤ y.2.cause.rank then some x else some y

/-- The recorder has no free frame for what a group's fragments log (R360). -/
def groupStalls (s : State) (g : Nat) : Bool := match s.group? g with | some gr => slotStalls s gr.block.gang.slot | none => false

/-- The faults of the clause under way are all known: it is abandoned and the first is delivered. It waits where the recorder has no free
frame (R360); the clause's next look is CLAUSE_COMMIT's. -/
def takeFaults (s : State) (g : Nat) : State :=
  if groupStalls s g then s else
  match (s.group? g).bind (·.ctx) with
  | none => s
  | some c =>
    match firstFault c.faults with
    | none => s
    | some f =>
      -- a second HOLDCAP keeps the clause and its reservations: those granted stay so, those that failed queue (R192)
      let again : Bool := decide (f.2.cause = .holdcap) && (match s.group? g with | some gr => decide ((gr.ent c.entry).holdcap ≥ 1) | none => false)
      let keep := s.m.resv.filter fun r => r.lgn == g && r.e == c.entry
      let s1 := abandon s g
      if again then
        let s2 : State := { s1 with m := { s1.m with resv := s1.m.resv ++ keep.map fun r => { r with queued := !r.granted } } }
        (deliver s2 g c.entry f.2 false).updGroup g fun gr => gr.updEnt c.entry fun x =>
          { x with clause := some { addr := c.addr, hdr := c.hdr, words := c.words } }
      else deliver s1 g c.entry f.2 false

/-- A slot raises a fault: nothing further issues; loads under way are awaited, because an earlier slot's fault comes first. -/
def raiseInfo (s : State) (g : Nat) (c : Ctx) (info : FaultInfo) : State :=
  let s1 := s.setCtx g (some { c with faults := c.faults ++ [(c.slot, { info with slot := c.slot })], slot := c.words.length + 1 })
  if c.wait = [] then takeFaults s1 g else s1

/-- The address of the word in a slot. -/
def Ctx.iaddr (c : Ctx) : Nat := c.addr + 8 * (c.slot + 1)

/-- A fault at the current slot with some lanes; none for an instruction that is not per lane, which names the mask (R189). -/
def raise (s : State) (g : Nat) (c : Ctx) (cause : Cause) (lanes : Mask) (daddr sub : Nat) : State :=
  raiseInfo s g c { cause, iaddr := c.iaddr, lanes, daddr, sub }

/-! ### Late faults (R42, R190, R192) -/

def lateFirst : List Late → Option Late
  | [] => none
  | x :: t => match lateFirst t with
    | none => some x
    | some y =>
      let before := x.seq < y.seq || (x.seq == y.seq && (x.slot < y.slot || (x.slot == y.slot && x.info.cause.rank ≤ y.info.cause.rank)))
      some (if before then x else y)

/-- The operation a parked fragment left, if a late fault interrupts it (R192). -/
def Entry.left (x : Entry) : Option POp :=
  match x.st, x.park with
  | .parked, .op p => some p
  | .parked, .pgreq _ p => some { p with phase := 0, aux := 0 }
  | _, _ => x.resume

/-- Takes the first pending late fault if the fragment stands at a header or is parked, and no fault of its own is being serviced
there (R42, R192). -/
def settleLate (s : State) (g e : Nat) : State :=
  match s.group? g with
  | none => s
  | some gr =>
    let x := gr.ent e
    let at_ := match x.st with | .fetching | .waiting | .ready | .parked => true | _ => false
    if !x.valid || !at_ || decide (x.park = .service) || decide (x.park = .release) || !lateMay s gr g e then s
    else match lateFirst x.late with
      | none => s
      | some l =>
        let s1 := s.updGroup g fun gr => gr.updEnt e fun x =>
          { x with st := .fetching, waitk := 0, park := .none, clause := none, resume := x.left, late := x.late.erase l }
        deliver s1 g e { l.info with lanes := if l.info.lanes = 0 then x.mask else l.info.lanes } true

/-- The DELIVERY of a fault against a group whose fragment is gone (R361, R369): with SPLIT, ICNT and LAST zero and the largest stamp that the
group has ended, as a gang kill has them; the spec gives none for it (DESIGN CHOICE, notes/assumptions/66). -/
def deliverGone (s : State) (g cause : Nat) : State :=
  match s.group? g with
  | none => s
  | some gr =>
    match recording s gr.block.gang.slot, replaying s gr.block.gang.slot with
    | some p, _ =>
      let e := eventChunk s (s.damask.lastChunk.get g []) 0
      emit e.2 p (clusterSrc s gr.block.gang) (rowBytes 4 1 0 cause (agentOfGroup g) 0 0 0) (some e.1)
    | none, some p =>
      let r := rpart s p
      match r.log.findIdx? fun b => fieldOf b 0 1 == 4 && fieldOf b 1 1 == 1 && fieldOf b 4 4 == g && fieldOf b 8 4 == 0 && fieldOf b 0x18 8 == 0 with
      | some k => setRpart s p { r with log := r.log.eraseIdx k }
      | none => haltPart s p 2 g 0 0 []
    | none, none => s

/-- A late fault of a fragment that is gone is delivered against the group and is fatal (R192). -/
def lateGroup (s : State) (g : Nat) (l : Late) : State :=
  fatal (deliverGone (recordFault s g 0 l.info true) g l.info.cause.code) g l.info.cause.code

/-- A late report reaches its fragment; entry 16 stands for one that has exited. -/
def reportLate (s : State) (g e : Nat) (l : Late) : State :=
  if e ≥ 16 then lateGroup s g l else settleLate (addLate s g e l) g e

/-- Names of a freed entry move: its late reports and a core it forked follow to another entry, or to the group (16); its tokens are no
fragment's own any more (R126). What the recorder writes of its requests goes on naming the fragment that made them (`Req.split`). -/
def moveOrigs (s : State) (g e m : Nat) : State :=
  let mv : Orig → Orig := fun o => if o = .grp g e then .grp g m else o
  let s1 : State := { s with
    m := { s.m with reqs := s.m.reqs.map fun r => { r with orig := mv r.orig } }
    fab := { s.fab with outstanding := s.fab.outstanding.map fun r => if r.lgn == g && r.e == e then { r with e := m } else r } }
  let s2 : State := { s1 with mx := s1.mx.map fun p => (p.1, if p.2.forker = (g, e) then { p.2 with forker := (g, m) } else p.2) }
  s2.updGroup g fun gr => { gr with pend := gr.pend.map fun p =>
    { p with frag := if p.frag = e then 16 else p.frag, dest := if p.dest = e then m else p.dest } }

/-! ### A control core's fault (R59, R255) -/

/-- The fragments of a group that are parked in an RDV, with its operation. -/
def rdvParked (gr : Group) : List (Nat × POp) :=
  gr.frags.filterMap fun e => match (gr.ent e).st, (gr.ent e).park with
    | .parked, .op p => (match p.instr with | .rdv _ => some (e, p) | _ => none)
    | _, _ => none

/-- The stop of a core is reported to the group that forked it (R59): to a fragment at an RDV, else for an MDRAIN that has not delivered,
else at a clause header: the forking fragment's, or the lowest fragment's if that one has gone; a group with none left takes it as a
group. -/
def reportCore (s : State) (l : Nat) (info : FaultInfo) : State :=
  let m := s.mxD l
  let g := m.forker.1
  match s.group? g with
  | none => s
  | some gr =>
    match rdvParked gr, gr.pend.findIdx? (·.mc) with
    | (e, p) :: _, _ =>
      reportLate (s.updGroup g fun gr => gr.updEnt e fun x => { x with st := .fetching, waitk := 0, park := .none }) g e
        { seq := p.seq / 16, slot := p.slot, info }
    | [], some k =>
      let p := gr.pend.getD k { tok := none, frag := 16, instr := .nop ⟨0, .k 0, 0⟩ }
      reportLate (s.updGroup g fun gr => { gr with pend := gr.pend.set k { p with mc := false } }) g p.dest
        { seq := p.seq / 16, slot := p.seq % 16, info }
    | [], none =>
      let e := if (gr.ent m.forker.2).valid && decide (m.forker.2 < 16) then m.forker.2 else gr.frags.headD 16
      reportLate s g e { seq := m.forkSeq / 16, slot := m.forkSeq % 16, info }

/-- A fault at the word `ia`, slot `k`, stops the control core (R59, R255, R256): the record is written, and the forking group is told,
late. -/
def stopCoreAt (s : State) (l ia k cause holder daddr : Nat) : State :=
  let m := s.mxD l
  if m.stopped then s
  else
    let r := matrixRecord ia cause k holder daddr (partBids s m)
    reportCore (s.setMx l { m with stopped := true, run := false, clause := none, frec := r }) l
      { cause := .matrix, iaddr := ia, lanes := 0, sub := cause, holder, daddr }

/-- A fault of the slot under way. -/
def stopCore (s : State) (l cause holder daddr : Nat) : State :=
  match (s.mxD l).clause with
  | none => s
  | some c => stopCoreAt s l (c.addr + 8 * (c.slot + 1)) c.slot cause holder daddr

/-! ### The restart of a region (R186) -/

/-- SIGMIS at a SIGCHK: the gang is killed on a second mismatch; else what is in flight is to write nothing, and the region restarts when
it has all come in (`restart`). -/
def sigmis (s : State) (g e iaddr : Nat) : State :=
  match s.group? g with
  | none => s
  | some gr =>
    let info : FaultInfo := { cause := .sigmis, iaddr, lanes := (gr.ent e).mask }
    let s1 := delivery (recordFault s g e info false) g e 5 0x0E
    if gr.ctl.seen then fatal s1 g 0x0E
    else
      let t := match taskOf s gr with | some t => t.handle | none => 0
      let s2 := errLog s1 1 0x0E g t 0
      (noteShared s2 g e [64 + 0x18]).updGroup g fun gr =>
        { gr with ctl := { gr.ctl with seen := true, tRegent := e }, pend := gr.pend.map fun p => { p with dead := true } }

/-- The restart itself (R186), once nothing of the group is in flight: one fragment of the lanes that have not exited, at the region's
header. Late faults still to come, or to be taken, are its own. -/
def restart (s : State) (g e : Nat) : State :=
  let s1 := (List.range 16).foldl (fun s k => moveOrigs s g k 0) s
  s1.updGroup g fun gr =>
    let lanes := allLanes &&& ~~~gr.exited
    let late := (List.range 16).flatMap fun k => (gr.ent k).late
    { gr with
      ctl := { gr.ctl with sig := sigReset }
      ents := (List.range 16).map fun k =>
        if k = 0 then { valid := true, own := lanes, mask := lanes, pc := gr.ctl.region, late, chunk := (gr.ent e).chunk } else {} }

end Sys2Proof.Machine
end

