-- ==== Sys2Proof/Machine/Slot.lean ====
section
/-! DEFINITION. One slot of the clause that is issuing: the operand checks every instruction shares, and how a slot ends (R40, R45 to
R48, R50 to R52, R125). -/
namespace Sys2Proof.Machine
open Sys2Proof

/-- The group whose clause is issuing, while the clause has a slot left. -/
def issuing? (s : State) : Option (Nat × Group × Ctx) :=
  match s.cur with
  | some (.grp g) =>
    match s.group? g with
    | some gr =>
      match gr.ctx with
      | some c => if c.slot < c.words.length then some (g, gr, c) else none
      | none => none
    | none => none
  | _ => none

/-- The context at a slot: it notes a read of a register that a sibling wrote last (R125). -/
def Ctx.noting (c : Ctx) (gr : Group) (i : Instr) : Ctx := if observesSibling gr c i then { c with obsSib := true } else c

/-- One slot: the operand faults of R45 and R50, then the instruction's own effect `k` on the group, its state and its view. -/
def slot (s : State) (i : Instr) (k : Nat → Group → Ctx → State) : Out :=
  match issuing? s with
  | none => .refused .notIssuing
  | some (g, gr, c) =>
    match operandFault gr.vregs c.kinds i with
    | some cause => .next (raise s g c cause c.mask 0 0)
    | none => .next (k g gr (c.noting gr i))

/-- The slot ends with a latch or none. -/
def endSlot (s : State) (g : Nat) (c : Ctx) (i : Instr) (l : Option Latch) : State := s.setCtx g (some (c.finish i l))

/-- A per-lane result in a vector register or pair (R51, R52): `fn` gives a lane's bits. -/
def vecSlot (s : State) (i : Instr) (p : Pred) (d : BitVec 7) (nw wide : Bool) (fn : Group → Ctx → Nat → Nat) : Out :=
  slot s i fun g gr c =>
    let r := c.putV d.toNat nw (c.exec p) wide (fn gr c)
    endSlot s g r.1 i (some r.2)

/-- A uniform result in a scalar register (R51). -/
def scaSlot (s : State) (i : Instr) (d : BitVec 7) (nw : Bool) (fn : Group → Ctx → Word) : Out :=
  slot s i fun g gr c =>
    let r := c.putS (gr.ent c.entry).own d.toNat nw (fn gr c)
    endSlot s g r.1 i (some r.2)

/-- A per-lane result in a predicate (R115, R134). -/
def predSlot (s : State) (i : Instr) (p : Pred) (d : BitVec 7) (nw : Bool) (fn : Group → Ctx → Nat → Bool) : Out :=
  slot s i fun g gr c =>
    let r := c.putQ d.toNat nw (c.exec p) (maskOf (fn gr c))
    endSlot s g r.1 i (some r.2)

/-- New condition codes (R142, R154, R167). -/
def ccSlot (s : State) (i : Instr) (fn : Group → Ctx → CC) : Out :=
  slot s i fun g gr c => endSlot s g (c.putCC (fn gr c)) i none

/-- A result that lands with a token (R47): its writes are computed at the slot. -/
def tokSlot (s : State) (i : Instr) (m : Ctx → Mask) (fn : Group → Ctx → Land) (cc : Ctx → Land → Ctx) : Out :=
  slot s i fun g gr c =>
    let l := fn gr c
    let s1 := s.updGroup g fun gr => { gr with pend := gr.pend ++ [{ tok := i.tok, frag := c.entry, instr := i, mask := m c, land := l }] }
    endSlot s1 g (cc c l) i none

/-- The writes of a vector register or pair. -/
def landV (d : BitVec 7) (m : Mask) (wide : Bool) (f : Nat → Nat) : Land :=
  if wide then { v := [(d.toNat, m, vec fun i => BitVec.ofNat 32 (f i)), (d.toNat + 1, m, vec fun i => BitVec.ofNat 32 (f i / 2 ^ 32))] }
  else { v := [(d.toNat, m, vec fun i => BitVec.ofNat 32 (f i))] }

/-- A write of the executing lanes that lands with a token. -/
def tokVec (s : State) (i : Instr) (p : Pred) (d : BitVec 7) (wide : Bool) (fn : Group → Ctx → Nat → Nat) : Out :=
  tokSlot s i (fun c => c.exec p) (fun gr c => landV d (c.exec p) wide (fn gr c)) fun c _ => c

/-- A write that lands while a clause of the group is under way: the interlock keeps that clause from naming the register (R47), and the
write stands in its view too, so that its commit leaves it. -/
def Group.landRegs (gr : Group) (f : Regs → Regs) : Group :=
  { gr with regs := f gr.regs, ctx := gr.ctx.map fun c => { c with view := f c.view } }

/-- A committed write of a scalar register by a fragment (R112, R114, R125). -/
def writeS (s : State) (g e n : Nat) (v : Word) : State :=
  if n = 63 then s
  else if n ≥ 60 then s.updGroup g fun gr => gr.updEnt e fun x =>
    { x with mask := setMaskWord x.mask (n - 60) (v.setWidth 32 &&& maskWord x.own (n - 60)) }
  else noteShared (s.updGroup g fun gr => { gr.landRegs (·.setS n v) with stag := AList.put gr.stag n e }) g e [n]

/-- The writes of a token take effect (R47 rule 1, R125). -/
def landAll (s : State) (g e : Nat) (l : Land) : State :=
  let vq := fun (r : Regs) =>
    l.q.foldl (fun r w => r.mergeQ w.1 w.2.1 w.2.2) (l.v.foldl (fun r w => r.mergeV w.1 w.2.1 w.2.2) r)
  foldS (s.updGroup g fun gr => gr.landRegs vq) l.s fun s w => writeS s g e w.1 w.2

end Sys2Proof.Machine
end

