-- ==== Sys2Proof/Machine/Access.lean ====
section
/-! DEFINITION. Memory accesses at their slot: addresses, the checks of R177, R180, R306 and R323, held stores, reservations and the
requests a clause makes (R40 rule 5, R178, R179, R303). -/
namespace Sys2Proof.Machine
open Sys2Proof

/-! ### Addresses -/

/-- addr(i) of R177: A(i) + B(i) × s + SExt(OFS), modulo 2^64. -/
def fmAddr (c : Ctx) (f : FM) (size i : Nat) : Nat :=
  (c.src64 f.a i + (c.src32 f.b i).signExtend 64 * BitVec.ofNat 64 size + f.ofs.signExtend 64).toNat

/-- One access of a lane (96 for a uniform form), before translation. -/
def mkAcc (lane va size : Nat) (b c : Word) : Acc := { lane, va, pa := 0, size, b, c }

/-! ### The checks of a slot -/

/-- What the checks of a slot's accesses find. -/
inductive Checked where
  /-- resident accesses with their physical addresses, and non-resident ones -/
  | ok (accs : List Acc) (nres : List Acc)
  | fault (c : Cause) (lanes : Mask) (daddr sub : Nat)
  | retype (frame : Nat)
  deriving DecidableEq, Repr

/-- One access: alignment first, then the translation. -/
def checkOne (s : State) (cu pasid : Nat) (align : Bool) (need : Need) (a : Acc) : State × XR :=
  if align && a.va % a.size ≠ 0 then (s, .fault .align) else translate s cu pasid a.va need

/-- Every access of a list, in order: what each finds. -/
def checkEach (s : State) (cu pasid : Nat) (align : Bool) (need : Need) : List Acc → State × List (Acc × XR)
  | [] => (s, [])
  | a :: t =>
    let r := checkOne s cu pasid align need a
    let q := checkEach r.1 cu pasid align need t
    (q.1, (a, r.2) :: q.2)

/-- The cause that R190 records among those met. -/
def worst (l : List (Acc × XR)) : Option Cause :=
  l.foldl (fun m x => match x.2 with | .fault c => Cause.first m (some c) | _ => m) none

/-- The checks of a slot (R177, R180): of the faults, the cause ranked first with its lanes; then a frame under retype; then the
accesses, resident and not. -/
def checkAccs (s : State) (cu pasid : Nat) (align : Bool) (need : Need) (accs : List Acc) : State × Checked :=
  let r := checkEach s cu pasid align need accs
  match worst r.2 with
  | some c =>
    let bad := r.2.filter fun x => x.2 == .fault c
    let daddr := match bad with | x :: _ => x.1.va | [] => 0
    (r.1, .fault c (maskOf fun i => bad.any fun x => x.1.lane == i) daddr (b2n need.w))
  | none =>
    match r.2.findSome? fun x => match x.2 with | .retype f => some f | _ => none with
    | some f => (r.1, .retype f)
    | none =>
      (r.1, .ok (r.2.filterMap fun x => match x.2 with | .ok pa ct => some { x.1 with pa, ct, tgen := (frameAt r.1 (pa / 4096)).tgen } | _ => none)
                (r.2.filterMap fun x => match x.2 with | .nonres => some x.1 | _ => none))

/-- The pages of accesses, once each. -/
def pagesOf (accs : List Acc) (w : Bool) : List (Nat × Bool × Bool) := ((accs.map fun a => a.va / 4096).dedup).map fun p => (p, w, false)

/-- A slot whose accesses must all be resident (R323): a fault, a wait for pages or a retype, or the next thing to do. -/
def withAccs (s : State) (g : Nat) (gr : Group) (c : Ctx) (align : Bool) (need : Need) (accs : List Acc)
    (k : State → List Acc → State) : State :=
  let r := checkAccs s gr.cu (pasidOf s gr.block.gang.slot) align need accs
  match r.2 with
  | .fault cause lanes daddr sub => raise r.1 g c cause (if lanes = 0 then c.mask else lanes) daddr sub
  | .retype f => parkRetype r.1 g c.entry f
  | .ok l [] => k r.1 l
  | .ok _ n => parkPages r.1 g c.entry (pagesOf n need.w)

/-! ### Requests -/

/-- Program order of a slot of the clause under way. -/
def seqOf (gr : Group) (slot : Nat) : Nat := gr.seq * 16 + slot

/-- The page type of a physical address: its frame's (R23, R266). -/
def ctOf (s : State) (pa : Nat) : BitVec 2 := if isDev pa then (frameAt s (pa / 4096)).ty else 1

/-- The lines of accesses, in order of the lowest lane. -/
def linesOf (accs : List Acc) : List Nat := ((accs.map fun a => a.pa / 128).reverse.dedup).reverse

/-- One request for each line that accesses name; answers their identifiers. -/
def addReqs (s : State) (r : Req) (accs : List Acc) : List Nat × State :=
  (linesOf accs).foldl (fun (x : List Nat × State) line =>
    let f := freshId x.2
    let mine := accs.filter fun a => a.pa / 128 == line
    (x.1 ++ [f.1], addReq f.2 { r with id := f.1, accs := mine, ct := match mine with | a :: _ => a.ct | [] => 0 })) ([], s)

/-- Runs of consecutive accesses in one line: a store keeps slot and lane order (R179). -/
def lineRuns : List Acc → List (List Acc)
  | [] => []
  | a :: t => match lineRuns t with
    | (b :: r) :: q => if b.pa / 128 = a.pa / 128 then (a :: b :: r) :: q else [a] :: (b :: r) :: q
    | q => [a] :: q

/-! ### Held stores (R40 rule 5) -/

/-- The bytes of an access that held stores cover: which, and their values; a later store, or a higher lane, stands. -/
def forward (stores : List Held) (pa size : Nat) : Nat × Nat :=
  let puts := stores.flatMap fun h => h.accs
  (List.range size).foldl (fun (m : Nat × Nat) k =>
    match puts.reverse.find? fun p => decide (p.pa ≤ pa + k) && decide (pa + k < p.pa + p.size) with
    | some p => (m.1 + 2 ^ k, m.2 + (p.b.toNat / 2 ^ (8 * (pa + k - p.pa)) % 256) * 2 ^ (8 * k))
    | none => m) (0, 0)

/-- An access that carries what held stores cover. -/
def withForward (c : Ctx) (a : Acc) : Acc :=
  let f := forward c.stores a.pa a.size
  { a with fwd := f.1, b := BitVec.ofNat 64 f.2 }

/-- A value with the forwarded bytes in place. -/
def mergeFwd (a : Acc) (v : Nat) : Nat :=
  ((List.range a.size).map fun k => (if a.fwd.testBit k then a.b.toNat else v) / 2 ^ (8 * k) % 256 * 2 ^ (8 * k)).sum

/-! ### Reservations (R303) -/

/-- A store to RC or WO pages reserves its lines (R270, R303), unless the CU already holds a reservation, one that was granted, for the line and
agent; answers the new ones. -/
def reserve (s : State) (g : Nat) (gr : Group) (c : Ctx) (accs : List Acc) : List Nat × State :=
  let lines := (linesOf (accs.filter fun a => ctOf s a.pa == 0 || ctOf s a.pa == 2)).filter fun l =>
    !(s.m.resv.any fun r => r.agent == g && r.line == l && r.granted)
  lines.foldl (fun (x : List Nat × State) line =>
    let f := freshId x.2
    let mine := maskOf fun i => accs.any fun a => a.lane == i && a.pa / 128 == line
    let r : Resv := { id := f.1, lgn := gr.lgn, e := c.entry, slot := c.slot, iaddr := c.iaddr, mask := mine, agent := g, line,
                      granted := false, queued := false }
    (x.1 ++ [f.1], { f.2 with m := { f.2.m with resv := f.2.m.resv ++ [r] } })) ([], s)

end Sys2Proof.Machine
end

