-- ==== Sys2Proof/Machine/Coll.lean ====
section
/-! DEFINITION. Collectives: the descriptor, the start, what arrives, completion (R288, R354 to R356). How a participant cuts its data
into CDATA packets is the model's choice (notes/assumptions/7). -/
namespace Sys2Proof.Machine
open Sys2Proof

/-- Reads bytes at a virtual address through a CU's translations; none where one of them cannot be read now. -/
def readVa (s : State) (cu pasid va : Nat) : Nat → Option (List Byte)
  | 0 => some []
  | n + 1 =>
    match (translate s cu pasid va { r := true }).2, readVa s cu pasid (va + 1) n with
    | .ok pa _, some t => some (byteAt s cu pa :: t)
    | _, _ => none

/-- The physical address of one element of a buffer; buffers are judged page by page. -/
def vaPa (s : State) (cu pasid va : Nat) (w : Bool) : XR := (translate s cu pasid va { r := !w, w }).2

/-- Elements of SRCB and of DSTB at a rank (R355). -/
def collSizes (op ndev count : Nat) (isRoot : Bool) : Nat × Nat :=
  match op with
  | 1 => (count, count)
  | 2 => (ndev * count, count)
  | 3 => (count, ndev * count)
  | _ => (if isRoot then count else 0, count)

/-- The TYPEs a collective accepts (R355). -/
def collTypes (op : Nat) : List Ty :=
  let base : List Ty := [.f64, .f32, .f16, .bf16, .i32, .n32, .i64, .n64]
  if op ≤ 2 then base else base ++ [.b32, .b64]

/-- One step of a reduction (R356): rounded RNE, subnormals kept. -/
def collStep (redop : Nat) (t : Ty) (a b : Nat) : Nat := atomStep redop t a b 0

/-- The ranks that need element e of a rank's source: everyone for OP 1, 3 and 4 from ROOT, one rank for OP 2. -/
def collNeeds (c : Coll) (rank e dst : Nat) : Bool :=
  match c.op with
  | 2 => e / c.count == dst
  | 4 => rank == c.root
  | _ => true

/-- This device's rank. -/
def collRank (s : State) (c : Coll) : Nat := c.devs.findIdx (· == s.fab.devno)

/-- The key under which the packets of a collective wait for their acknowledgements. -/
def collKey (slot n : Nat) : Nat := 2 ^ 21 + slot * 16 + n

/-- What names a collective in its packets: CID, and the CRC-32C of DEVLIST, since its participants are those whose descriptors name one
CID and one DEVLIST (R356). -/
def collTag (c : Coll) : BitVec 64 := crc32c (c.devs.flatMap (leBytes 4)) ++ BitVec.ofNat 32 c.cid

/-- Sends one packet of a collective. -/
def collSend (s : State) (c : Coll) (dst kind : Nat) (addr : Nat) (raw : List Byte) : State :=
  hubSend s (collKey c.slot c.n) 5 0 [] { blankPk kind 0 dst 0 with addr, ty := some c.ty, flag := collTag c, raw }

/-- The parameters that must agree at every participant. -/
def collParams (c : Coll) : List Byte :=
  leBytes 1 c.op ++ leBytes 1 (WF.codeOfTy c.ty) ++ leBytes 1 c.redop ++ leBytes 1 0 ++ leBytes 4 c.devs.length ++ leBytes 4 c.root ++ leBytes 8 c.count

/-- The state of a task's collective slot: 0 idle, 1 in progress, 2 complete, 3 failed, 4 failed after a port did. -/
def collState (s : State) (slot n : Nat) : Nat :=
  match s.task? slot with
  | some t => AList.get t.coll n 0
  | none => 0
def setColl (s : State) (slot n v : Nat) : State := s.updTask slot fun t => { t with coll := AList.put t.coll n v }

def findColl (s : State) (slot n : Nat) : Option Coll := s.fab.colls.find? fun c => c.slot == slot && c.n == n
def updColl (s : State) (slot n : Nat) (f : Coll → Coll) : State :=
  { s with fab := { s.fab with colls := s.fab.colls.map fun c => if c.slot = slot ∧ c.n = n then f c else c } }

/-- A destination word is held by the collective's agent (R288). -/
def collHold (s : State) (w : Nat) : State :=
  setTag s w { tagAt s w with hold := true, stamp := 7, owner := agentRemote s.fab.devno }

/-- The hold of a destination word ends, as by a release (R356), unless it is a destination of another collective in progress, whose hold it
stays (R288). -/
def collFree (s : State) (w : Nat) : State :=
  if s.fab.colls.any fun x => x.dstWords.contains w then collHold s w
  else if (tagAt s w).owner = agentRemote s.fab.devno then setTag s w { tagAt s w with hold := false } else s

/-- Ends a collective: its own holds and claims go, and its slot takes the outcome. -/
def endColl (s : State) (c : Coll) (v : Nat) : State :=
  let s1 : State := { s with fab := { s.fab with colls := s.fab.colls.filter fun x => !(x.slot == c.slot && x.n == c.n) } }
  setColl (foldS (foldS s1 c.srcWords fun s w => dropClaim s (agentRemote s.fab.devno) w) c.dstWords collFree) c.slot c.n v

/-- A collective fails here; every other participant that can be reached is told (R356). `v`: 3, or 4 where the failure of a port has cut one
off (R34). -/
def failColl (s : State) (c : Coll) (tell : Bool) (v : Nat) : State :=
  let key := collKey c.slot c.n
  let s1 : State := { s with fab := { s.fab with
    outstanding := s.fab.outstanding.filter fun r => r.lgn != key
    unsent := s.fab.unsent.filter fun r => r.lgn != key } }
  let s2 := endColl s1 c v
  if !tell then s2
  else foldS s2 (c.devs.filter fun d => d != s.fab.devno && (fabPort s.fab d).isSome) fun s d =>
    hubSend s (2 ^ 25) 7 0 [] { blankPk 0xA 0 d 0 with ty := some c.ty, x := 1, flag := collTag c }

/-- Collectives with a participant that is unreachable fail (R356). -/
def failCut (s : State) : State :=
  foldS s (s.fab.colls.filter fun c => c.devs.any fun d => d != s.fab.devno && (fabPort s.fab d).isNone) fun s c =>
    failColl s c true (if c.devs.any fun d => d != s.fab.devno && lostByPart s d then 4 else 3)

/-- What the start of a collective comes to. -/
inductive CollStart where
  | started (s : State)
  /-- room, an answer or a retype is awaited (R270, R291, R312) -/
  | wait (s : State)
  /-- a word of a buffer is held against the collective's agent, or claimed: the holder (R269) -/
  | race (holder : Nat)
  /-- FABRIC, late -/
  | refused
  /-- UNCORR: its source has lost data (R333) -/
  | lost (va : Nat)
  /-- pages that are not resident: virtual page, write access -/
  | nonres (ps : List (Nat × Bool))

/-- What stands before a collective's hold of its buffers (R288): L1 copies go at once, so every L1 concerned must answer; the host gives up
lines it may have modified; and each destination line has an entry and a record. -/
def buffersTurn (s : State) (src dst : List Nat) : CollStart :=
  let a := agentRemote s.fab.devno
  let ls := linesOfWords (src ++ dst)
  let back := ls.filter fun l => (dirAt s l).hostx
  match (src ++ dst).find? fun w => heldAgainst s w a, s.m.claims.find? fun c => c.1 != a && dst.contains c.2 with
  | some w, _ => .race (tagAt s w).owner
  | none, some c => .race c.1
  | none, none =>
    if wordsFrozen s (src ++ dst) || !copiesAnswer s (src ++ dst) || !wordsQuiet s (src ++ dst) || ls.any (fun l => !l3Room s l)
        || (linesOfWords dst).any (fun l => !holdRoom s a l) then .wait s
    else if back != [] then .wait (foldS s back sendBi)
    else .started (dropEverywhere (bringAll s (src ++ dst)) (src ++ dst))

/-- The elements of a buffer with what the translation of each gives. -/
def collElems (s : State) (cu pasid va esz n : Nat) (w : Bool) : List (Nat × XR) :=
  (List.range n).map fun e => (va + e * esz, vaPa s cu pasid (va + e * esz) w)

/-- The descriptor of R355 as a collective, if every field is in range. -/
def collOf (s : State) (cu pasid slot n : Nat) (d : List Byte) : Option Coll :=
  let count := fieldOf d 0x10 8
  let op := fieldOf d 0x18 1
  let redop := fieldOf d 0x1A 1
  let ndev := fieldOf d 0x1C 4
  let root := fieldOf d 0x2C 4
  let srcb := fieldOf d 0 8
  let dstb := fieldOf d 8 8
  if op < 1 ∨ op > 4 ∨ count < 1 ∨ count ≥ 2 ^ 32 ∨ ndev < 2 ∨ ndev > 1024 then none
  else match WF.tyOfCode (fieldOf d 0x19 1), readVa s cu pasid (fieldOf d 0x20 8) (4 * ndev) with
  | some ty, some bytes =>
    let devs := (List.range ndev).map fun k => fieldOf bytes (4 * k) 4
    let esz := ty.width / 8
    let rank := devs.findIdx (· == s.fab.devno)
    let sz := collSizes op ndev count (rank == root)
    let ok := (collTypes op).contains ty && (if op ≤ 2 then decide (redop ≤ 2) else redop == 0) && fieldOf d 0x1B 1 == 0
      && (if op = 4 then decide (root < ndev) else root == 0) && allZero ((d.drop 0x30).take 16)
      && srcb % esz == 0 && dstb % esz == 0 && decide (sz.1 * esz ≤ 2 ^ 36) && decide (sz.2 * esz ≤ 2 ^ 36)
      && (sz.1 == 0 || decide (srcb + sz.1 * esz ≤ dstb) || decide (dstb + sz.2 * esz ≤ srcb))
      && (devs.filter (· == s.fab.devno)).length == 1
    if ok then some { slot, n, srcb, dstb, count, op, ty, redop, devs, cid := fieldOf d 0x28 4, root, pasid } else none
  | _, _ => none

/-- The pages of DEVLIST that are not resident. -/
def listAway (s : State) (cu pasid : Nat) (d : List Byte) : List (Nat × Bool) :=
  ((collElems s cu pasid (fieldOf d 0x20 8) 4 (min 1024 (fieldOf d 0x1C 4)) false).filterMap fun x =>
    match x.2 with | .nonres => some (x.1 / 4096, false) | _ => none).dedup

/-- COLL at commit, after its release (R356). -/
def startColl (s : State) (gr : Group) (n : Nat) (d : List Byte) : CollStart :=
  let slot := gr.block.gang.slot
  let pasid := pasidOf s slot
  if collState s slot n ≠ 0 then .refused
  else if listAway s gr.cu pasid d ≠ [] then .nonres (listAway s gr.cu pasid d)
  else match collOf s gr.cu pasid slot n d with
  | none => .refused
  | some c =>
    let rank := collRank s c
    let esz := c.ty.width / 8
    let sz := collSizes c.op c.devs.length c.count (rank == c.root)
    let src := collElems s gr.cu pasid c.srcb esz sz.1 false
    let dst := collElems s gr.cu pasid c.dstb esz sz.2 true
    let bad := (src ++ dst).any fun x => match x.2 with | .fault _ => true | .ok _ ct => ct != 0 | _ => false
    let away : List (Nat × XR) → Bool → List (Nat × Bool) := fun l w =>
      l.filterMap fun x => match x.2 with | .nonres => some (x.1 / 4096, w) | _ => none
    let held := (src ++ dst).any fun x => match x.2 with | .retype _ => true | .ok pa _ => isDev pa && frozenByRetype s pa | _ => false
    if held then .wait s
    else if bad then .refused
    else if away src false ++ away dst true ≠ [] then .nonres (away src false ++ away dst true).dedup
    else
      let pas : List (Nat × XR) → List Nat := fun l => l.filterMap fun x => match x.2 with | .ok pa _ => some pa | _ => none
      let words := fun (l : List Nat) => (l.flatMap fun pa => wordsOf pa esz).dedup
      match buffersTurn s (words (pas src)) (words (pas dst)) with
      | .started s0 =>
      let lost := src.find? fun x => match x.2 with | .ok pa _ => s0.m.poison.contains (pa / 128) | _ => false
      if lost.isSome then .lost ((lost.map (·.1)).getD 0) else
      let val := fun (pa : Nat) => leNat (readCu s0 gr.cu pa esz)
      let mine := (pas src).map val
      let s1 := foldS (foldS (watchHub s0 1 3 (agentRemote s0.fab.devno) 0 ((words (pas src)).filter fun w => isDev (4 * w))) (words (pas src)) fun s w => addClaim s (agentRemote s.fab.devno) w) (words (pas dst)) collHold
      let c1 := { c with got := (List.range mine.length).map fun e => (rank, e, BitVec.ofNat 64 (mine.getD e 0)), agreed := [rank], dpas := pas dst,
                         srcWords := words (pas src), dstWords := words (pas dst) }
      let s2 : State := { s1 with fab := { s1.fab with colls := s1.fab.colls ++ [c1] } }
      let s3 := foldS s2 ((List.range c.devs.length).filter (· != rank)) fun s r =>
        let dev := c.devs.getD r 0
        let s' := collSend s c dev 0xA 0 (collParams c)
        foldS s' ((List.range mine.length).filter fun e => collNeeds c rank e r) fun s e =>
          collSend s c dev 9 e (leBytes esz (mine.getD e 0))
      .started (setColl s3 slot n 1)
      | x => x

/-- The elements a participant writes: rank and element of each term, by destination index (R356). -/
def collTerms (c : Coll) (rank j : Nat) : List (Nat × Nat) :=
  match c.op with
  | 1 => (List.range c.devs.length).map fun r => (r, j)
  | 2 => (List.range c.devs.length).map fun r => (r, rank * c.count + j)
  | 3 => [(j / c.count, j % c.count)]
  | _ => [(c.root, j)]

/-- The value of a destination element, once every term has come. -/
def collValue (c : Coll) (rank j : Nat) : Option Nat :=
  let vs := (collTerms c rank j).map fun t => (c.got.find? fun g => g.1 == t.1 && g.2.1 == t.2).map fun g => g.2.2.toNat
  if vs.any (·.isNone) then none
  else match vs.filterMap id with
    | [] => none
    | v :: t => some (t.foldl (fun a b => collStep c.redop c.ty a b) v)

/-- Every element can be written, every participant has agreed, and nothing owed is unacknowledged or still to be sent. -/
def collReady (s : State) (c : Coll) : Bool :=
  let rank := collRank s c
  let n := (collSizes c.op c.devs.length c.count (rank == c.root)).2
  ((List.range n).all fun j => (collValue c rank j).isSome) && decide (c.agreed.length ≥ c.devs.length)
    && !hubOwes s (collKey c.slot c.n)

end Sys2Proof.Machine
end

