-- ==== Sys2Proof/Machine/Run.lean ====
section
/-! DEFINITION. What a commit-class instruction does at commit step 3 (R41): fences, page requests, seals, atomics, barriers, waits,
rendezvous, the matrix unit's group side, the fabric, traps, spawning. One definition for each instruction; one that parks is run again
when its condition may hold (R120). -/
namespace Sys2Proof.Machine
open Sys2Proof

/-- What running a committed instruction comes to. -/
inductive Ran where
  | done (s : State)
  /-- the fragment parks with a WAITK -/
  | park (s : State) (waitk : Nat) (p : Park)
  /-- done, with a late fault to be taken at the next header (R42) -/
  | late (s : State) (info : FaultInfo)
  /-- the fragment's entry is settled already -/
  | taken (s : State)

/-- A late fault of a committed instruction. -/
def lateInfo (p : POp) (cause : Cause) (lanes : Mask) (sub : Nat) (daddr : Nat := 0) : FaultInfo :=
  { cause, iaddr := p.iaddr, lanes, sub, daddr, slot := p.slot }

/-- A committed tile load of the group has yet to read elements of chunks that are away (R183). -/
def tilesOwed (s : State) (g : Nat) : Bool := match s.group? g with | some gr => gr.pend.any fun p => p.committed && p.tiles != [] | none => false

/-- The release that an operation begins with: every earlier access of the group is performed first, of memory and of tiles (R197, R262,
R303). At fabric scope and wider, every fabric access must be acknowledged too (R348, R352). -/
def withRelease (s : State) (g waitk scope : Nat) (p : POp) (k : State → POp → Ran) : Ran :=
  if p.phase = 0 then
    if agentBusy s g || tilesOwed s g || (decide (scope ≥ 5) && !fabQuiet s g none) then .park s waitk (.op p)
    else k (release s g scope) { p with phase := 1 }
  else k s p

/-- A request of a fragment's committed instruction. -/
def reqOf (g e : Nat) (gr : Group) (p : POp) (kind : RKind) : Req :=
  { id := 0, kind, agent := g, orig := .grp g e, cu := gr.cu, seq := p.seq, iaddr := p.iaddr }

/-- A fence among the group's requests. -/
def addFence (s : State) (g e : Nat) (gr : Group) (p : POp) (ord scope : Nat) : State :=
  let f := freshId s
  addReq f.2 { reqOf g e gr p .release with id := f.1, ord, scope, cu := 896 }

/-- A token of a committed instruction, waiting for requests. -/
def addPend (s : State) (g e : Nat) (p : POp) (tok : Option Nat) (wait : List Nat) : State :=
  s.updGroup g fun gr => { gr with pend := gr.pend ++ [{ tok, frag := e, instr := p.instr, mask := p.mask, wait, committed := true }] }

/-! ### Memory (R181, R279 to R283, R307, R325) -/

def runFence (s : State) (g e : Nat) (gr : Group) (p : POp) (f : FM) : Ran :=
  .done (addFence s g e gr p f.ord.toNat f.scope.toNat)

/-- PGREQ (R325): the pages not resident that executing lanes name; a lane whose page has changed otherwise since its slot asks for none.
Phase 1 follows the last answer, with the refused lanes in `aux`. -/
def runPgreq (s : State) (g e : Nat) (gr : Group) (p : POp) (w : Bool) : Ran :=
  let refused := fun (m : Mask) (s : State) =>
    let low := match lanesOf m with | i :: _ => ((p.accs.find? fun a => a.lane == i).map (·.va)).getD 0 | [] => 0
    Ran.late s { lateInfo p .unmapped m (b2n w) with daddr := low }
  if p.phase = 1 then
    if p.aux = 0 then .done s else refused (BitVec.ofNat 96 p.aux) s
  else match logValue s g e 6 with
  -- under replay the completion is the logged one (R375)
  | some (v, s1) => if v % 2 ^ 96 = 0 then .done s1 else refused (BitVec.ofNat 96 v) s1
  | none =>
    let pasid := pasidOf s gr.block.gang.slot
    let r := checkEach s gr.cu pasid false { r := !w, w } p.accs
    let away := r.2.filterMap fun x => match x.2 with | .nonres => some x.1 | _ => none
    if away = [] then .done r.1
    else if s.m.rf then refused (maskOf fun i => away.any fun x => x.lane == i) r.1
    else
      let ps := (away.map fun x => x.va / 4096).dedup
      .park (foldS r.1 ps fun s pg => requestPage s pasid pg w false) 4 (.pgreq (ps.map fun pg => (pasid, pg, w)) { p with phase := 1 })

/-- SEAL and REUSE (R280, R281): one request for the range; the fragment parks until it is performed. -/
def runSeal (s : State) (g e : Nat) (gr : Group) (p : POp) (kind : RKind) : Ran :=
  if p.accs = [] then .done s
  else if p.phase = 0 then
    let f := freshId s
    let r : Req := { reqOf g e gr p kind with id := f.1, ord := 2, scope := 4, accs := p.accs, base := p.a.toNat, len := p.b.toNat, cu := 896 }
    .park (addReq f.2 r) 2 (.op { p with phase := 1, aux := f.1 })
  else if (findReq s p.aux).isSome then .park s 2 (.op p)
  else .done s

/-- FLUSH (R282): the L1 writes back its dirty words on IP pages and drops its copies on WO pages. -/
def runFlush (s : State) (g : Nat) (gr : Group) (p : POp) : Ran :=
  if s.m.reqs.any fun r => r.agent == g && !r.performed && (r.ct == 3 || r.ct == 2) then .park s 2 (.op p)
  else .done (foldS s p.accs fun s a =>
    let line := a.pa / 128
    match homeType s a.pa with
    | 3 => writeBackLine s gr.cu line
    | 2 => dropWords s gr.cu line (BitVec.allOnes 32)
    | _ => s)

/-- The operations that host memory takes as PCIe AtomicOps (R309). -/
def hostAtom (f : FA) : Bool :=
  match f.x.toNat with
  | 0 => !f.ty.isFloat && !f.ty.packed
  | 6 | 7 => true
  | _ => false

/-- The lanes of an atomic in host memory: one request for each, or, for an operation that is not sent, their refusal (R306, R309). -/
def hostReqs (s : State) (r : Req) (sent : Bool) (accs : List Acc) : List Nat × State :=
  if sent then accs.foldl (fun (x : List Nat × State) a =>
    let i := freshId x.2
    (x.1 ++ [i.1], addReq i.2 { r with id := i.1, kind := .hostAtomic, accs := [a], ct := 1 })) ([], s)
  else if accs = [] then ([], s)
  else
    let i := freshId s
    ([i.1], addReq i.2 { r with id := i.1, kind := .hostAtomic, accs, ct := 1, performed := true, refused := accs.map fun a => (.typeop, a.lane, a.va, 0) })

/-- ATOM, SATOM and RED.M (R307, R309): a release first, then one request for each line, or for each lane in host memory. -/
def runAtomic (s : State) (g e : Nat) (gr : Group) (p : POp) (f : FA) : Ran :=
  let ord := f.ord.toNat
  let sc := f.scope.toNat
  if p.accs = [] then .done (if ord = 0 then s else addFence s g e gr p ord sc)
  else
    let s0 := if ord ≥ 2 then addFence s g e gr p 2 sc else s
    let r : Req := { reqOf g e gr p .atomic with ord, scope := sc, ty := f.ty, x := f.x.toNat, tok := f.tok.map (·.toNat) }
    let dev := addReqs s0 r (p.accs.filter fun a => isDev a.pa)
    let host := hostReqs dev.2 r (hostAtom f) (p.accs.filter fun a => !isDev a.pa)
    .done (match f.tok with
      | some t => addPend host.2 g e p (some t.toNat) (dev.1 ++ host.1)
      | none => host.2)

/-! ### Barriers and membership (R203) -/

/-- The destination of an FS instruction. -/
def osReg (o : Src) : Nat := match o with | .s n => n.toNat | _ => 63

/-- An arrival: the name is bound first, then the release, then the arrival itself (R203). -/
def runArrive (s : State) (g e : Nat) (p : POp) (f : FS) (k : State → Nat → Ran) : Ran :=
  match openGen s g f.imm.toNat with
  | none => .park s 1 (.op p)
  | some b =>
  withRelease b.2 g 1 (barScope f.imm.toNat) p fun s p =>
    match arriveAt s g f.imm.toNat with
    | .wait => .park s 1 (.op p)
    | .refuse s1 => .late s1 (lateInfo p .barrier 0 0)
    | .arrived gen s1 => k (writeS s1 g e (osReg f.o) (BitVec.ofNat 64 gen)) gen

def runBarv (s : State) (g e : Nat) (p : POp) (f : FS) : Ran := runArrive s g e p f fun s _ => .done s

/-- Waits while a generation is still to come (R199). -/
def waitGen (s : State) (g : Nat) (p : POp) (imm gen : Nat) : Ran :=
  match openGen s g imm with
  | none => .park s 1 (.op p)
  | some (now, s1) => if genWaits now gen then .park s1 1 (.op p) else .done s1

def runBwait (s : State) (g : Nat) (p : POp) (f : FS) : Ran := waitGen s g p f.imm.toNat (p.a.toNat % 65536)

def runBarw (s : State) (g e : Nat) (p : POp) (f : FS) : Ran :=
  if p.phase = 2 then waitGen s g p f.imm.toNat p.aux
  else runArrive s g e p f fun s gen => waitGen s g { p with phase := 2, aux := gen } f.imm.toNat gen

def runBgrp (s : State) (g e : Nat) (p : POp) (f : FS) : Ran :=
  match setMembers s g e f.imm.toNat p.a.toNat with
  | none => .park s 1 (.op p)
  | some (.error s1) => .late s1 (lateInfo p .barrier 0 0)
  | some (.ok s1) => .done s1

def runGjoin (s : State) (gr : Group) : Ran := .done (joinGang s gr.block)

/-- GLEAVE: where it revokes chunks, it waits for its turn under replay, and for a free frame (R360, R375). -/
def runGleave (s : State) (g e : Nat) (gr : Group) (p : POp) : Ran :=
  let in_ : Bool := match s.block? gr.block with | some b => b.inGang | none => false
  if in_ && holdsChunks s gr.block && !syncMay s gr.block.gang.slot (clusterSrc s gr.block.gang) 6 g e then .park s 1 (.op p)
  else .done (leaveGang s gr.block g e)

/-! ### Waiting on a word (R205, R206) -/

/-- WAITA: evaluated at commit, after every event, and in host memory only when its period ends (phase 0). In phase 3 an evaluation
has held while its cluster's clock was stopped (R386). -/
def runWaita (s : State) (g e : Nat) (gr : Group) (p : POp) (f : FA) : Ran :=
  if p.phase = 3 then .done s else match p.accs with
  | a :: _ =>
    let parked := fun (s : State) => Ran.park s 2 (.op { p with phase := 1 })
    let ord := f.ord.toNat
    let q : Req := { id := s.ids, kind := .load, agent := g, orig := .grp g e, seq := p.seq, ct := ctOf s a.pa, ord, scope := f.scope.toNat,
                     accs := [a] }
    let ws := wordsOf a.pa a.size
    let acq := if ord = 1 then some f.scope.toNat else none
    let rc := if homeType s a.pa = 0 then ws else []
    if (!isDev a.pa && p.phase == 1) || frozenByRetype s a.pa || !reqReady s q || !promoteMay s g e acq rc then parked s
    else
      let s1 := promoteWords s g e acq rc
      if homeType s1 a.pa = 0 && (firstHeld s1 g ws).isSome then parked s1
      else match readNow s1 g e gr a.pa a.size with
        | .wait s2 => parked s2
        | .refused c h _ => .late s1 { lateInfo p c 0 0 with holder := h, daddr := a.va }
        | .got s2 bs => if waitCmp f.x.toNat (leNat bs) p.b.toNat then .done (watchNow s2 g e gr a.pa a.size) else parked s2
  | [] => .done s

/-- WAITAT: the word is a tile's element. -/
def runWaitat (s : State) (g : Nat) (gr : Group) (p : POp) (f : FA) : Ran :=
  let esz := f.ty.width / 8
  let parked := Ran.park s 2 (.op p)
  if p.phase = 3 then .done s else match elemAt s gr.block f.a.field p.a.toNat esz with
  | none => .late s (lateInfo p .tilebound 0 0 (p.a.toNat * esz))
  | some _ =>
    if chunkAway s gr.block f.a.field p.a.toNat esz then parked
    else if s.m.reqs.any fun r => r.agent == g && !r.performed && r.isAcquire then parked
    else if waitCmp f.x.toNat (elemRead s gr.block f.a.field p.a.toNat esz) p.b.toNat then .done s
    else parked

/-! ### The matrix unit (R249 to R255) -/

/-- The SYNC record of an array or rendezvous (R254). -/
def matrixSync (s : State) (g e : Nat) (gr : Group) (kind obj : Nat) : State :=
  syncRec s gr.block.gang.slot (clusterSrc s gr.block.gang) kind g e obj 0

/-- Under replay such an event waits for its turn (R375). -/
def matrixMay (s : State) (g e : Nat) (gr : Group) (kind : Nat) : Bool :=
  syncMay s gr.block.gang.slot (clusterSrc s gr.block.gang) kind g e

/-- RDV (R237, R250): release, arrival, then the value of the round. -/
def runRdv (s : State) (g e : Nat) (gr : Group) (p : POp) (f : FS) : Ran :=
  withRelease s g 3 3 p fun s p =>
    let l := mxOf s gr
    let m := s.mxD l
    let r := f.imm.toNat
    let parked := fun (s : State) (p : POp) => Ran.park s 3 (.op p)
    match ((m.rdvD r).results.find? fun x => x.1 == g && x.2.1 == e), p.phase with
    | some x, 2 =>
      let s1 := s.setMx l (m.setRdv r { m.rdvD r with results := (m.rdvD r).results.erase x })
      .done (writeS s1 g e (osReg f.o) x.2.2)
    | _, ph =>
      if !ownsMx s gr then .late s (lateInfo p .matrix 0 0x40)
      else if m.stopped then .late s (lateInfo p .matrix 0 0x46)
      else if !m.run then
        match m.exitVal with
        | some v => if r = m.xr then .done (writeS s g e (osReg f.o) v) else .late s (lateInfo p .matrix 0 0x45)
        | none => .late s (lateInfo p .matrix 0 0x45)
      else if ph = 2 then parked s p
      else if ((m.rdvD r).arrivals.any fun x => x.1 == g) || !matrixMay s g e gr 3 then parked s p
      else
        let x := m.rdvD r
        parked (matrixSync (s.setMx l (m.setRdv r { x with arrivals := x.arrivals ++ [(g, e)] })) g e gr 3 r) { p with phase := 2 }

/-- FORK (R249). It takes s0 to s7 as they are at its commit; a context that another gang leaves idle is released for it (R228). -/
def runFork (s : State) (g e : Nat) (gr : Group) (p : POp) (f : FS) : Ran :=
  let args := if p.accs = [] then (List.range 8).map fun k => mkAcc 96 k 8 (gr.regs.getS k) 0 else p.accs
  withRelease s g 3 3 { p with accs := args } fun s p =>
    let l := mxOf s gr
    let others := fun (m : Mx) => m.owner.isSome && m.owner != some gr.block.gang
    let free := others (s.mxD l) && (s.mxD l).idle && !agentBusy s (agentOfCore l)
    let s := if free then releaseMx s l else s
    let m0 := s.mxD l
    if others m0 || !matrixMay s g e gr 4 then .park s 3 (.op p)
    else
      let m := if m0.owner.isNone then freshMx gr.block.gang (gangArrays s gr.block.gang) else m0
      if m.run then .late (s.setMx l m) (lateInfo p .matrix 0 0x41)
      else
        let m1 := { m with
          home := gr.block.bid, forker := (g, e), forkSeq := p.seq, c := p.accs.map fun a => (a.va, a.b)
          fz := false, fn := false, fc := false, fv := false
          pc := p.a.toNat, run := true, stopped := false, xr := f.imm.toNat, exitVal := none, clause := none
          rdv := [], frec := [], waitPage := none }
        .done (matrixSync (s.setMx l m1) g e gr 4 f.imm.toNat)

/-- The faults of a group instruction on the context at commit: the core has stopped on a fault, or the context is another's. -/
def mxFault (s : State) (gr : Group) : Option Nat :=
  if !ownsMx s gr then some 0x40 else if (s.mxD (mxOf s gr)).stopped then some 0x46 else none

/-- The register of the issuing CU's array is EMPTY. -/
def maEmpty (s : State) (gr : Group) (n : Nat) : Bool :=
  let a := (s.mxD (mxOf s gr)).arrD (arrayOf gr)
  !(a.maD n).full && a.latch != some n

/-- MFEED (R251). -/
def runMfeed (s : State) (g e : Nat) (gr : Group) (p : POp) (f : F3) : Ran :=
  match mxFault s gr with
  | some c => .late s (lateInfo p .matrix 0 c)
  | none =>
    let n := f.d.toNat
    if !maEmpty s gr n || !matrixMay s g e gr 1 then .park s 3 (.op p)
    else
      let v := fun (j : Nat) => gr.regs.getV (f.a.field + j)
      .done (matrixSync (updArr s (mxOf s gr) (arrayOf gr) fun a =>
        a.setMa n (feedWords (a.maD n) (f.x.getLsbD 0) (f.x.getLsbD 1) p.b.toNat (f.c.field - 384) p.mask v)) g e gr 1 n)

/-- MFEEDT (R252): the 4,096 bytes from the base element. -/
def runMfeedt (s : State) (g e : Nat) (gr : Group) (p : POp) (f : F3) : Ran :=
  match mxFault s gr with
  | some c => .late s (lateInfo p .matrix 0 c)
  | none =>
    let n := f.d.toNat
    let h := f.a.field
    let esz := p.aux
    let is := (List.range (4096 / esz)).map fun k => p.b.toNat + k
    match is.find? fun i => (elemAt s gr.block h i esz).isNone with
    | some i => .late s (lateInfo p .tilebound 0 0 (i * esz))
    | none =>
    if !maEmpty s gr n || !matrixMay s g e gr 1 || is.any fun i => chunkAway s gr.block h i esz then .park s 3 (.op p)
    else
      let byte := fun (k : Nat) => elemRead s gr.block h (p.b.toNat + k / esz) esz / 2 ^ (8 * (k % esz)) % 256
      let words : AList Nat (BitVec 32) := (List.range 1024).map fun w =>
        (w, BitVec.ofNat 32 (((List.range 4).map fun j => byte (4 * w + j) * 2 ^ (8 * j)).sum))
      .done (matrixSync (updArr s (mxOf s gr) (arrayOf gr) fun a => a.setMa n { a.maD n with full := true, words }) g e gr 1 n)

/-- Tries every MDRAIN of a group that has not delivered (R253). -/
def tryDrains (s : State) (g : Nat) : State :=
  match s.group? g with
  | none => s
  | some gr => (List.range gr.pend.length).foldl (fun s k =>
      match (s.group? g).bind fun gr => (gr.pend[k]?).map fun p => (gr, p) with
      | none => s
      | some (gr, p) =>
        if !p.mc then s
        else match drainPend s gr p with
          | none => s
          | some (.ok (s1, p1)) => s1.updGroup g fun x => { x with pend := x.pend.set k p1 }
          | some (.error (cause, sub, daddr)) =>
            let ia := ((p.vals.find? fun v => v.1 == 97).map fun v => v.2.toNat).getD 0
            reportLate (s.updGroup g fun x => { x with pend := x.pend.set k { p with mc := false } }) g p.dest
              { seq := p.seq / 16, slot := p.seq % 16, info := { cause, iaddr := ia, lanes := p.mask, sub, daddr, slot := p.seq % 16 } }) s

/-- MDRAIN (R253): the token stays set until the accumulator is PUBLISHED. -/
def runMdrain (s : State) (g e : Nat) (gr : Group) (p : POp) (f : F3) : Ran :=
  match mxFault s gr with
  | some c => .late s (lateInfo p .matrix 0 c)
  | none =>
    let pd : Pend := { tok := f.tok.map (·.toNat), frag := e, instr := p.instr, mask := p.mask, committed := true, mc := true, seq := p.seq, dest := e,
                       vals := [(96, p.b), (97, BitVec.ofNat 64 p.iaddr)] }
    .done (tryDrains (s.updGroup g fun x => { x with pend := x.pend ++ [pd] }) g)

/-! ### The fabric (R348 to R353) -/

/-- The devices that a group has stored to since it last released there (R353). -/
def devKey (g dev : Nat) : Nat := g * 2 ^ 18 + dev
def noteStore (s : State) (gr : Group) (g dev : Nat) (rel : Bool) : State :=
  let k := devKey g dev
  let next := fun (l : List Nat) => if rel then l.filter (· != k) else if l.contains k then l else k :: l
  s.updTask gr.block.gang.slot fun t => { t with fdevs := next t.fdevs }

/-- Sends one request for each line, when each may go: what the group's fences and acquires hold back waits too (R262, R346, R352, R353). -/
def sendLines (s : State) (g : Nat) (gr : Group) (p : POp) (mk : Nat → Nat → List Acc → FReq × (Nat → Nat → List Packet)) :
    Option (List Nat × State) :=
  let dls := fabLines p.accs
  let kind := match dls with | d :: _ => (mk d.1 d.2 []).1.kind | [] => 0
  if (dls.any fun d => lineBusy s g (kind != 1) d) || fenced s g (kind == 1) || !fabRoom s gr dls then none
  else some (dls.foldl (fun (x : List Nat × State) d =>
    let r := mk d.1 d.2 (fabOf p.accs d)
    let t := sendFab x.2 r.1 r.2
    (x.1 ++ [t.1], t.2)) ([], s))

def fabReq (g e : Nat) (p : POp) (kind dst line : Nat) (tok : Option Nat) (accs : List Acc) : FReq :=
  { id := 0, dst, tag := 0, pk := [], port := 0, lgn := g, e, seq := p.seq, iaddr := p.iaddr, tok, kind, accs, line }

def tokNat (t : Option (BitVec 3)) : Option Nat := t.map (·.toNat)

def runFst (s : State) (g e : Nat) (gr : Group) (p : POp) (f : FA) : Ran :=
  let rel := f.ord == 2
  let go := fun (s : State) (p : POp) =>
    let mk := fun (dst line : Nat) (accs : List Acc) =>
      (fabReq g e p 0 dst line (tokNat f.tok) accs, storePk dst line f.ty f.ord.toNat f.scope.toNat accs)
    match sendLines s g gr p mk with
    | none => Ran.park s 2 (.op p)
    | some (ids, s1) =>
      let s2 := foldS s1 (fabLines p.accs) fun s d => noteStore s gr g d.1 rel
      .done (match f.tok with | some t => addPend s2 g e p (some t.toNat) ids | none => s2)
  if rel then withRelease s g 2 (max 5 f.scope.toNat) p go else go s p

/-- An acquire form holds its fragment until its last response; no other fragment of its group starts a clause meanwhile (`acquiring`; R262,
R349). -/
def holdAcquire (s : State) (g : Nat) (p : POp) : Ran :=
  if s.fab.outstanding.any fun r => r.lgn == g && r.seq == p.seq then .park s 2 (.op { p with phase := 2 }) else .done s

def runFld (s : State) (g e : Nat) (gr : Group) (p : POp) (f : FA) : Ran :=
  if p.phase = 2 then holdAcquire s g p
  else
    let mk := fun (dst line : Nat) (accs : List Acc) =>
      (fabReq g e p 1 dst line (tokNat f.tok) accs, loadPk dst line f.ty f.ord.toNat f.scope.toNat accs)
    match sendLines s g gr p mk with
    | none => .park s 2 (.op p)
    | some (ids, s1) =>
      let s2 := addPend s1 g e p (tokNat f.tok) ids
      if f.ord = 1 then holdAcquire s2 g p else .done s2

def runFatom (s : State) (g e : Nat) (gr : Group) (p : POp) (f : FA) : Ran :=
  let go := fun (s : State) (p : POp) =>
    let mk := fun (dst line : Nat) (accs : List Acc) =>
      (fabReq g e p 2 dst line (tokNat f.tok) accs, atomPk dst line f.ty f.x.toNat f.ord.toNat f.scope.toNat accs)
    match sendLines s g gr p mk with
    | none => Ran.park s 2 (.op p)
    | some (ids, s1) =>
      let s2 := addPend s1 g e p (tokNat f.tok) ids
      if f.ord = 1 || f.ord = 3 then holdAcquire s2 g p else .done s2
  if p.phase = 2 then holdAcquire s g p
  else if f.ord = 2 || f.ord = 3 then withRelease s g 2 (max 5 f.scope.toNat) p go else go s p

/-- FFENCE (R351): the release, then the FENCE packet once the device has acknowledged what came before. -/
def runFfence (s : State) (g e : Nat) (gr : Group) (p : POp) (f : FA) : Ran :=
  let go := fun (s : State) (p : POp) =>
    match p.accs with
    | a :: _ =>
      if !(fabQuiet s g (some a.dev) && fabRoom s gr [(a.dev, a.pa / 128)]) || fenced s g false then Ran.park s 2 (.op p)
      else
        let r := sendFab s (fabReq g e p 3 a.dev (a.pa / 128) (tokNat f.tok) [a]) (flagPk a.dev a.pa f.ty f.scope.toNat a.b)
        let s1 := noteStore r.2 gr g a.dev true
        .done (match f.tok with | some t => addPend s1 g e p (some t.toNat) [r.1] | none => s1)
    | [] => .done s
  if p.phase = 0 then
    if agentBusy s g || tilesOwed s g then .park s 2 (.op p) else go (release s g f.scope.toNat) { p with phase := 1 }
  else go s p

/-- COLL (R356). -/
def runColl (s : State) (g e : Nat) (gr : Group) (p : POp) (f : FS) : Ran :=
  withRelease s g 2 5 p fun s p =>
    -- a page that the host has refused (R328)
    if p.aux ≠ 0 then .late s (lateInfo p .unmapped 0 0) else
    let a := p.accs.headD (mkAcc 96 0 64 0 0)
    match readNow s g e gr a.pa 64 with
    | .wait s1 => .park s1 2 (.op p)
    | .refused c h pa => .late s { lateInfo p c 0 0 (a.va + pa - a.pa) with holder := h }
    | .got s d =>
    match startColl s gr f.imm.toNat d with
    | .started s1 => .done (failCut s1)
    | .wait s1 => .park s1 2 (.op p)
    | .lost va => .late s (lateInfo p .uncorr 0 0 va)
    | .race h => .late s { lateInfo p .race 0 0 with holder := h }
    | .refused => .late s (lateInfo p .fabric 0 0)
    | .nonres ps => if s.m.rf then .late s (lateInfo p .unmapped 0 0) else .park (foldS s ps fun s x => requestPage s (pasidOf s gr.block.gang.slot) x.1 x.2 false) 4
        (.pgreq (ps.map fun x => (pasidOf s gr.block.gang.slot, x.1, x.2)) p)

/-- FWAITC (R356): once the slot's collective is over, an acquire at fabric scope, and the slot is idle again; a failure is FABRIC, late. -/
def runFwaitc (s : State) (g e : Nat) (gr : Group) (p : POp) (f : FS) : Ran :=
  let slot := gr.block.gang.slot
  let n := f.imm.toNat
  let fin := setColl (addFence s g e gr p 1 5) slot n 0
  match collState s slot n with
  | 0 => .done s
  | 1 => .park s 2 (.op p)
  | 2 => .done fin
  | 3 => .late fin (lateInfo p .fabric 0 0)
  | _ => .late fin (lateInfo p .fabric 0 0x80)

/-! ### System (R106, R110, R111, R186, R188, R373) -/

/-- SIGCHK (R186). On a mismatch the fragment stays at it, with no WAITK of its own, until nothing is in flight (phase 1). -/
def runSigchk (s : State) (g e : Nat) (gr : Group) (p : POp) (f : FI) : Ran :=
  let again := fun (s : State) => if (s.group? g).any (fun x => x.pend == []) then Ran.taken (settleLate (restart s g e) g 0) else .park s 0 (.op { p with phase := 1 })
  if p.phase = 1 then again s
  else if gr.frags.length = 1 && gr.ctl.sig != f.imm then
    (if gr.ctl.seen then .taken (sigmis s g e p.iaddr) else again (sigmis s g e p.iaddr))
  else .done (s.updGroup g fun x => { x with ctl := { x.ctl with sig := sigReset, tSig := e } })

/-- A system call (R106, R188): the trap point with s0 to s4 as they are now, then the request (SYSCALL_REQUEST) and its reply (SYSCALL_REPLY). -/
def runTrap (s : State) (g e : Nat) (p : POp) : Ran :=
  let regs := match s.group? g with | some gr => (List.range 5).map fun k => mkAcc 96 k 8 (gr.regs.getS k) 0 | none => []
  if p.phase = 0 then .park (delivery s g e 2 0) 5 (.op { p with phase := 1, accs := regs }) else .park s 5 (.op p)

/-- A fault taken at commit after step 3 (R188). -/
def commitFault (s : State) (g e : Nat) (p : POp) (cause : Cause) : Ran :=
  let lanes := match s.group? g with | some gr => (gr.ent e).mask | none => 0
  .taken (deliver (s.updGroup g fun gr => gr.updEnt e fun x => { x with st := .fetching, clause := none, waitk := 0, park := .none }) g e
    { cause, iaddr := p.iaddr, lanes } false)

def runTrapAbort (s : State) (g e : Nat) (p : POp) : Ran := commitFault s g e p .trap
def runBrk (s : State) (g e : Nat) (p : POp) : Ran := if debugged s g then commitFault s g e p .brk else .done s

/-- RECMARK (R373). Under replay its MARK leaves the log. -/
def runRecmark (s : State) (g e : Nat) (gr : Group) (p : POp) (f : FS) : Ran :=
  let ch := (gr.ent e).chunk
  match recording s gr.block.gang.slot, replaying s gr.block.gang.slot with
  | none, none => .done s
  | none, some q =>
    let r := rpart s q
    .done (match r.log.findIdx? fun b => fieldOf b 0 1 == 0xB && fieldOf b 2 1 == e && fieldOf b 4 4 == g && fieldOf b 8 4 == ch.count with
      | some k => setRpart s q { r with log := r.log.eraseIdx k }
      | none => s)
  | some q, _ =>
    .done (emit s q (clusterSrc s gr.block.gang)
      (rowBytes 0xB 0 e 0 (agentOfGroup g) (ch.count + f.imm.toNat * 2 ^ 32) 0 p.a.toNat) (some ch.id))

/-- The spawn key (R109): KID, BID, group index, SPNCNT. -/
def spawnKey (gr : Group) : Nat × Nat × Nat × Nat := (gr.block.gang.kid, gr.block.bid, gr.gix, gr.ctl.spncnt.toNat)
def countSpawn (s : State) (g e : Nat) : State :=
  noteShared (s.updGroup g fun x => { x with ctl := { x.ctl with spncnt := x.ctl.spncnt + 1, tSpncnt := e } }) g e [64 + 0x1A]
def recordKey (s : State) (gr : Group) : State := s.updTask gr.block.gang.slot fun t => { t with keys := spawnKey gr :: t.keys }
def keySeen (s : State) (gr : Group) : Bool :=
  match taskOf s gr with | some t => t.keys.contains (spawnKey gr) | none => false

/-- SPAWN (R110). -/
def runSpawn (s : State) (g e : Nat) (gr : Group) (p : POp) (f : FS) : Ran :=
  withRelease s g 6 4 p fun s p =>
    if keySeen s gr then .done (countSpawn s g e)
    else
      let q := f.imm.toNat
      let x := s.queueD q
      if x.spawned.length ≥ 256 then .park s 6 (.op p)
      else
        let a := p.accs.headD (mkAcc 96 0 256 0 0)
        match readNow s g e gr a.pa 256 with
        | .wait s1 => .park s1 6 (.op p)
        | .refused c h pa => .late s { lateInfo p c 0 0 (a.va + pa - a.pa) with holder := h }
        | .got s0 bs =>
          let s1 := s0.setQueue q { x with spawned := x.spawned ++ [⟨g, pasidOf s gr.block.gang.slot, a.pa, bs, !x.en⟩] }
          .done (countSpawn (recordKey (watchNow s1 g e gr a.pa 256) gr) g e)

/-- TDEP (R111). -/
def runTdep (s : State) (g e : Nat) (gr : Group) (p : POp) : Ran :=
  withRelease s g 6 4 p fun s p =>
    if keySeen s gr then .done (countSpawn s g e)
    else
      let s1 := countSpawn (recordKey s gr) g e
      let h := p.a.toNat % 2 ^ 48
      let slot := h % 2 ^ 17
      let hit : Bool := match s1.task? slot with
        | some t => t.handle == h && t.live && decide (t.st = .waiting) && t.lr.pasid == pasidOf s1 gr.block.gang.slot && decide (t.ext > 0)
        | none => false
      .done (if hit then settleTasks (s1.updTask slot fun t => { t with ext := t.ext - 1 })
             else s1.updTask gr.block.gang.slot fun t => { t with tdepref := true })

/-! ### Meeting a core that a halting watchpoint has seen (R417) -/

/-- A capability with HALT covers the task of a group. -/
def mayHalt (s : State) (cap g : Nat) : Bool :=
  match s.group? g with
  | some gr => (capD s cap).has 0 && (capD s cap).subject == pasidOf s gr.block.gang.slot
  | none => false

/-- At RDV, MFEED or MDRAIN the group is halted at the clause's boundary. -/
def meetCore (s : State) (g e : Nat) (gr : Group) : State :=
  let l := mxOf s gr
  let m := s.mxD l
  match m.watched with
  | some cap =>
    if m.met.contains g || !mayHalt s cap g || m.owner != some gr.block.gang then s
    else (s.setMx l { m with met := g :: m.met }).updGroup g fun x => x.updEnt e fun y => { y with haltReq := true, haltOn := some cap }
  | none => s

/-! ### All of them -/

/-- Commit step 3 for an instruction (R41). An instruction of another class has nothing to do there. -/
def runOp (s : State) (g e : Nat) (p : POp) : Ran :=
  match s.group? g with
  | none => .taken s
  | some gr =>
    match p.instr with
    | .fence f => runFence s g e gr p f
    | .pgreq f => runPgreq s g e gr p (f.d == 1)
    | .seal _ => runSeal s g e gr p .seal
    | .reuse _ => runSeal s g e gr p .reuse
    | .flush _ => runFlush s g gr p
    | .atom f => runAtomic s g e gr p f
    | .satom f => runAtomic s g e gr p f
    | .redM f => runAtomic s g e gr p f
    | .barv f => runBarv s g e p f
    | .bwait f => runBwait s g p f
    | .barw f => runBarw s g e p f
    | .bgrp f => runBgrp s g e p f
    | .gjoin _ => runGjoin s gr
    | .gleave _ => runGleave s g e gr p
    | .waita f => runWaita s g e gr p f
    | .waitat f => runWaitat s g gr p f
    | .rdv f => runRdv (meetCore s g e gr) g e gr p f
    | .fork f => runFork s g e gr p f
    | .mfeed f => runMfeed (meetCore s g e gr) g e gr p f
    | .mfeedt f => runMfeedt (meetCore s g e gr) g e gr p f
    | .mdrain f => runMdrain (meetCore s g e gr) g e gr p f
    | .mdrainTl f => runMdrain (meetCore s g e gr) g e gr p f
    | .fst f => runFst s g e gr p f
    | .fld f => runFld s g e gr p f
    | .fatom f => runFatom s g e gr p f
    | .ffence f => runFfence s g e gr p f
    | .coll f => runColl s g e gr p f
    | .fwaitc f => runFwaitc s g e gr p f
    | .sigchk f => runSigchk s g e gr p f
    | .trap _ => runTrap s g e p
    | .trapAbort _ => runTrapAbort s g e p
    | .brk _ => runBrk s g e p
    | .recmark f => runRecmark s g e gr p f
    | .spawn f => runSpawn s g e gr p f
    | .tdep _ => runTdep s g e gr p
    | _ => .done s

end Sys2Proof.Machine
end

