-- ==== Sys2Proof/Machine/Commit.lean ====
section
/-! DEFINITION. The commit of a clause (R41), the control transfers (R171 to R176), what a fragment does after a commit-class instruction,
and the waking of parked fragments. -/
namespace Sys2Proof.Machine
open Sys2Proof

/-! ### Chunks at commit (R364) -/

/-- The lowest code that the last instruction of a clause gives. `splits`: a CALLI that splits. -/
def endCodeOf (i : Option Instr) (splits : Bool) : Nat :=
  match i with
  | none => 99
  | some i => match i with
    | .atom _ | .satom _ | .redM _ | .fatom _ => 4
    | .sigchk _ | .pgreq _ | .trap _ | .trapAbort _ | .brk _ => 99
    | .recmark _ => 7
    | .forkm _ | .join _ => 5
    | .calli _ => if splits then 5 else 99
    | .exit _ => 9
    | i => match Instr.cls i with
      | .c | .cl => 5
      | _ => 99

/-- SC requests of a fragment, which may have gone since, that are still to be performed. -/
def scBusy (s : State) (g e : Nat) : Bool :=
  s.m.reqs.any fun r => r.agent == g && r.split == e && r.ct == 1 && !r.performed && r.kind != .resv

/-- Ends a fragment's chunk if a code is due and its SC accesses are performed, with the lowest that applies (R364). -/
def settleChunk (s : State) (g e : Nat) : State :=
  let ch := chunkOf s g e
  match ch.endCode with
  | none => s
  | some code =>
    if scBusy s g e then s
    else if code ≥ 99 ∧ !ch.split ∧ !ch.observed then
      s.updGroup g fun gr => gr.updEnt e fun x => { x with chunk := { x.chunk with endCode := none } }
    else endChunk s g e code

/-- A code falls due at a commit; a chunk of a replayed task ends where its log says (R375). -/
def dueChunk (s : State) (g e code : Nat) (held : Bool) : State :=
  match s.group? g with
  | none => s
  | some gr =>
    match partOfTask s gr.block.gang.slot with
    | none => s
    | some _ =>
      let ch := (gr.ent e).chunk
      let code1 := match ch.replay with
        | some b => if ch.count ≥ fieldOf b 8 4 && !((replaying s gr.block.gang.slot).any fun p => (rpart s p).log.any (isDelivery gr g e)) then 8 else 99
        | none => if ch.count ≥ 65536 then min code 8 else code
      let s1 := s.updGroup g fun gr => gr.updEnt e fun x => { x with chunk := { x.chunk with endCode := some code1 } }
      if held then s1 else settleChunk s1 g e

/-! ### The split table (R174, R175) -/

def putEnt (s : State) (g e : Nat) (f : Entry → Entry) : State := s.updGroup g fun gr => gr.updEnt e f

/-- A fragment goes on at a header (R38). -/
def goTo (s : State) (g e pc : Nat) : State := putEnt s g e fun x => { x with pc, st := .fetching, waitk := 0, park := .none }

/-- The chunks whose stamps make up a fragment's clock: its open chunk where that holds an instruction, else those which that one follows
(R364, R365). -/
def Chunk.clock (ch : Chunk) : List Nat := if ch.count = 0 then ch.deps else [ch.id]

/-- A new fragment beside its parent, with lanes of its own (R174, R175) and its parent's clock (R364). -/
def newFrag (s : State) (g e n : Nat) (lanes : Mask) (pc : Nat) (call : Option POp) : State :=
  let c := s.damask.chunkNext
  let s2 : State := { s with damask := { s.damask with chunkNext := c + 1 } }
  let s3 := s2.updGroup g fun gr =>
    let x := gr.ent e
    (gr.updEnt n fun _ =>
      { valid := true, own := lanes, mask := lanes, rj := x.rj, pc, cc := x.cc, sib := x.sib, depth := x.depth, rejoin := x.rejoin,
        call, chunk := { id := c, deps := x.chunk.clock, floor := x.chunk.floor } }).updEnt e fun x =>
      { x with own := x.own &&& ~~~lanes, mask := x.mask &&& ~~~lanes }
  match s.group? g with
  | some gr => trace s3 gr.block.gang.slot 2 0 n (agentOfGroup g) (pc / 8) lanes e
  | none => s3

/-- MARK at commit: the join entry, and the marked fragment (R175). -/
def applyMark (gr : Group) (e : Nat) (m : Nat × Nat × Mask) : Group :=
  let x := gr.ent e
  (gr.updEnt m.2.1 fun _ =>
    { valid := true, own := x.own, mask := m.2.2, rj := x.rj, pc := m.1, cc := x.cc, sib := x.sib, depth := x.depth, st := .joinWait,
      rejoin := m.1, chunk := { deps := x.chunk.deps, floor := x.chunk.floor } }).updEnt e fun x =>
    { x with rj := m.1, sib := m.2.1, depth := x.depth + 1 }

/-- Frees an entry. -/
def freeEnt (s : State) (g e : Nat) : State := putEnt s g e fun x => { chunk := x.chunk }

/-- An entry freed with late faults still to take: they are the group's (R192). -/
def dropLates (s : State) (g e : Nat) : State :=
  match s.group? g with
  | none => s
  | some gr => match lateFirst (gr.ent e).late with
    | none => s
    | some l => lateGroup s g l

/-- Settle of R175; `last`: the clock of the sibling that has just gone. -/
def settleJoin : Nat → State → Nat → Nat → List Nat → State
  | 0, s, _, _, _ => s
  | n + 1, s, g, m, last =>
    match s.group? g with
    | none => s
    | some gr =>
      let x := gr.ent m
      if gr.valids.any fun k => k != m && (gr.ent k).sib == m && decide ((gr.ent k).depth > 0) then s
      else if x.own = 0 then
        let s1 := dropLates (freeEnt (moveOrigs s g m 16) g m) g m
        if x.depth > 0 then settleJoin n s1 g x.sib last else s1
      else
        let c := s.damask.chunkNext
        let s1 : State := { s with damask := { s.damask with chunkNext := c + 1 } }
        let s2 := s1.updGroup g fun gr =>
          { gr with ctl := { gr.ctl with sig := sigReset } }.updEnt m fun y =>
            { y with st := .fetching, cc := {}, fresh := true, rejoin := 0, chunk := { id := c, deps := last ++ y.chunk.deps, floor := y.chunk.floor } }
        trace s2 gr.block.gang.slot 3 0 m (agentOfGroup g) (x.pc / 8) x.own 0

/-- The join entries on the chain from one. -/
def joinChain (gr : Group) : Nat → Nat → List Nat
  | 0, _ => []
  | n + 1, j => j :: (if (gr.ent j).depth > 0 then joinChain gr n (gr.ent j).sib else [])

/-- The chunk of an entry that is freed ends, unless SC accesses of its last clause are still to be performed, after which it does (R364). -/
def lastChunkEnd (s : State) (g e code : Nat) : State := if (chunkOf s g e).endCode.isSome then s else endChunk s g e code

/-- JOIN at commit (R175). -/
def doJoin (s : State) (g e next : Nat) : State :=
  match s.group? g with
  | none => s
  | some gr =>
    let x := gr.ent e
    let m := x.sib
    let s1 := lastChunkEnd s g e 5
    let last := (chunkOf s1 g e).clock
    let s2 := freeEnt (moveOrigs s1 g e m) g e
    let s3 := putEnt s2 g m fun y => { y with pc := next, late := y.late ++ x.late }
    settleJoin 17 s3 g m last

/-- EXIT at commit (R175). -/
def doExit (s : State) (g e : Nat) : State :=
  match s.group? g with
  | none => s
  | some gr =>
    let x := gr.ent e
    let s0 := lastChunkEnd s g e 9
    let last := (chunkOf s0 g e).clock
    let s1 := s0.updGroup g fun gr =>
      { gr with exited := gr.exited ||| x.own
                ents := if x.depth > 0 then
                  (joinChain gr 16 x.sib).foldl (fun l k => l.modify k fun y => { y with own := y.own &&& ~~~x.own, mask := y.mask &&& ~~~x.own }) gr.ents
                  else gr.ents }
    let s2 := freeEnt (moveOrigs s1 g e 16) g e
    let s3 := if x.depth > 0 then settleJoin 17 s2 g x.sib last else s2
    match lateFirst x.late with
    | some l => lateGroup s3 g l
    | none =>
      match s3.group? g with
      | some gr' => if gr'.valids = [] then groupExited s3 g else s3
      | none => s3

/-- The distinct targets of a call, ascending (R174). -/
def callTargets (accs : List Acc) : List Nat := sortNat (accs.map (·.va)).dedup

/-- CALL and CALLI at commit: s58, then a fragment for each target after the first, which the fragment itself takes (R174). -/
def doCall (s : State) (g e : Nat) (p : POp) (targets : List Nat) : State :=
  match targets, s.group? g with
  | [], _ => goTo s g e p.nextHdr
  | t :: ts, some gr =>
    let s1 := writeS s g e 58 (BitVec.ofNat 64 p.nextHdr)
    let s2 := (List.zip ts gr.frees).foldl (fun s x =>
      newFrag s g e x.2 (maskOf fun i => p.accs.any fun a => a.lane == i && a.va == x.1) x.1 (some p)) s1
    putEnt (goTo s2 g e t) g e fun x => { x with call := some p }
  | _, none => s

/-- The trace record of a transfer (R413): where the fragment goes on, unless that is its next header. -/
def traceJump (s : State) (g e : Nat) (p : POp) : State :=
  match s.group? g with
  | none => s
  | some gr =>
    let x := gr.ent e
    if !x.valid || x.pc == p.nextHdr then s
    else trace s gr.block.gang.slot 1 p.instr.opcode.toNat e (agentOfGroup g) (x.pc / 8) x.mask (p.hdr / 8 % 2 ^ 32)

/-- Commit step 4 for a class J instruction. Its clause's fragment starts its next clause afresh (R185). -/
def doJump (s : State) (g e : Nat) (p : POp) : State :=
  let s := putEnt s g e fun x => { x with fresh := true }
  match p.instr with
  | .br _ | .brany _ | .brnone _ => goTo s g e (if p.aux = 1 then p.a.toNat else p.nextHdr)
  | .jmpi _ | .ret _ => goTo s g e p.a.toNat
  | .call _ => doCall s g e p [p.a.toNat]
  | .calli _ => doCall s g e p (callTargets p.accs)
  | .forkm _ =>
    match s.group? g with
    | none => s
    | some gr =>
      let x := gr.ent e
      let t := x.mask &&& p.mask
      if t = 0 then goTo s g e p.nextHdr
      else if x.mask &&& ~~~p.mask = 0 then goTo s g e p.a.toNat
      else goTo (newFrag s g e (gr.frees.headD 16) t p.a.toNat none) g e p.nextHdr
  | .join _ => doJoin s g e p.nextHdr
  | .exit _ => doExit s g e
  | _ => goTo s g e p.nextHdr

/-! ### After a commit-class instruction -/

/-- What the fragment does (R120). -/
def settleRan (g e : Nat) (p : POp) (r : Ran) : State :=
  let free := fun (s : State) => putEnt s g e fun x => { x with st := .fetching, waitk := 0, park := .none }
  match r with
  | .done s => settleChunk (free s) g e
  | .park s w k => putEnt s g e fun x => { x with st := .parked, waitk := w, park := k }
  | .late s info => settleChunk (addLate (free s) g e { seq := p.seq / 16, slot := p.slot, info }) g e
  | .taken s => s

/-! ### Waking -/

/-- Tile elements of a token that wait for chunks (R183): those that have landed are read. -/
def landTiles (s : State) (g : Nat) : State :=
  match s.group? g with
  | none => s
  | some gr =>
    if !(gr.pend.any fun p => p.tiles != []) then s
    else
      let one := fun (p : Pend) =>
        match p.instr.fields with
        | .f3 f =>
          let esz := match p.instr with | .tldXp8 _ => 1 | .tldXp16 _ => 2 | _ => f.ty.width / 8
          let held := fun (i : Nat) => (p.held.find? fun y => y.1 == i).map (·.2)
          let el := fun (i : Nat) => (held i).getD (elemRead s gr.block f.a.field i esz)
          let away := fun (x : Nat × List Nat) => x.2.any fun i => chunkAway s gr.block f.a.field i esz && (held i).isNone
          let got := p.tiles.filter fun x => !away x
          { p with tiles := p.tiles.filter away
                   vals := p.vals ++ got.map fun x => (x.1, BitVec.ofNat 64
                     ((List.range x.2.length).map fun k => el (x.2.getD k 0) * 2 ^ (8 * esz * k)).sum) }
        | _ => p
      s.updGroup g fun gr => { gr with pend := gr.pend.map one }

/-- A resident group whose cluster's clock runs. -/
def groupRuns (s : State) (gr : Group) : Bool := decide (gr.status = .resident) && clockRuns s (cluOfCu gr.cu)

/-! ### What reaches a cluster that is stopped (R386) -/

/-- An item joins a parking buffer once. -/
def parkIn (l : List Parked) (vc : Nat) (ev : ParkEv) : List Parked := if l.any fun p => decide (p.ev = ev) then l else l ++ [Parked.mk vc ev]

/-- A step for a logical cluster whose clock is stopped, or whose context is in an image, is parked there; none when it runs. -/
def parkAt (s : State) (l vc : Nat) (ev : ParkEv) : Option State :=
  match physClu s l with
  | some c =>
    let x := cluD s c
    if x.stopped then some (setClu s c { x with park := parkIn x.park vc ev }) else none
  | none =>
    if s.frz.images.any fun im => im.lclu == l then
      some { s with frz := { s.frz with images := s.frz.images.map fun im =>
        if im.lclu = l then { im with park := parkIn im.park vc ev } else im } }
    else none

/-- The same for a group's cluster. -/
def parkForGroup (s : State) (g vc : Nat) (ev : ParkEv) : Option State :=
  match s.group? g with
  | some gr => parkAt s (lcluOf s gr.block.gang) vc ev
  | none => none

/-- The same for the cluster of a request's agent. -/
def parkForReq (s : State) (o : Orig) (vc : Nat) (ev : ParkEv) : Option State :=
  match o with | .grp g _ => parkForGroup s g vc ev | .core l => parkAt s l vc ev

/-- What is parked for a logical cluster. -/
def parkedAt (s : State) (l : Nat) : List Parked :=
  match physClu s l with
  | some c => (cluD s c).park
  | none => match s.frz.images.find? fun im => im.lclu == l with | some im => im.park | none => []

/-- Whether an event wakes a parked operation whatever its cluster's clock does (R386): 1, a wait on a word, which is evaluated there
and then; 2, one whose condition stays true once it is. -/
def POp.wakes (p : POp) : Nat :=
  match p.instr with
  | .waita _ | .waitat _ => 1
  | .bwait _ => 2
  | .barw _ | .rdv _ => if p.phase = 2 then 2 else 0
  | _ => 0

/-- What would wake a parked fragment of a stopped cluster is parked there, once. -/
def parkWake (s : State) (g e : Nat) (gr : Group) (p : POp) : State :=
  if p.wakes = 0 || p.phase = 3 || (parkedAt s (lcluOf s gr.block.gang)).any fun x => match x.ev with | .wake h k => h == g && k == e | .fault h k l => h == g && k == e && l.seq == p.seq / 16 | _ => false then s
  else match runOp s g e p with
    | .done s1 => (parkForGroup (if p.wakes = 1 then s1 else s) g 5 (.wake g e)).getD s
    | .park s1 _ _ => if p.wakes = 1 then s1 else s
    | .late s1 info => if p.wakes = 1 then (parkForGroup s1 g 0 (.fault g e { seq := p.seq / 16, slot := p.slot, info })).getD s else s
    | .taken _ => s

/-- A parked fragment's operation is looked at again. -/
def wakeFrag (s : State) (g e : Nat) (gr : Group) (p : POp) : State :=
  if !(gr.ent e).valid then s
  else if groupRuns s gr then settleRan g e p (runOp s g e p)
  else if ctxRuns s (lcluOf s gr.block.gang) then s
  else parkWake s g e gr p

/-- Looks again at the parked operations and waiting results of one group. -/
def wakeGroup (s : State) (g : Nat) : State :=
  match s.group? g with
  | none => s
  | some gr =>
    let runs := groupRuns s gr
    let s1 := if runs then landTiles (if gr.pend.any (·.mc) then tryDrains s g else s) g else s
    foldS s1 (List.range 16) fun s e =>
      match s.group? g with
      | none => s
      | some gr =>
        match (gr.ent e).st, (gr.ent e).park with
        | .parked, .op p => wakeFrag s g e gr p
        | _, .release => if runs then settleRelease s g e else s
        | _, _ => s

/-- Evaluates the WAITATs that are parked (R206). -/
def wakeTileWaits (s : State) : State :=
  foldS s (s.groups.map (·.1)) fun s g => foldS s (List.range 16) fun s e =>
    match s.group? g with
    | none => s
    | some gr =>
      match (gr.ent e).st, (gr.ent e).park with
      | .parked, .op p => if (match p.instr with | .waitat _ => true | _ => false) then wakeFrag s g e gr p else s
      | _, _ => s

/-- Looks at every group, as often as there are groups and once more. -/
def wakeN : Nat → State → State
  | 0, s => s
  | n + 1, s => wakeN n (foldS s (s.groups.map (·.1)) wakeGroup)
def wakeAll (s : State) : State := wakeN (s.groups.length + 1) s

/-! ### Commit (R41) -/

/-- One CSRW (R71, R127, R128), or the drop of a hint (number 0x1028, R330). -/
def csrwOne (e : Nat) (k : Ctl) (w : Nat × Nat × Word) : Ctl :=
  match w.2.1 with
  | 0x10 => { k with ftz := w.2.2.getLsbD 0, tFmode := e }
  | 0x11 => { k with srseed := w.2.2, srctr := 0, tSrseed := e, tSrctr := e }
  | 0x12 => { k with srctr := w.2.2, tSrctr := e }
  | 0x19 => { k with sig := w.2.2.setWidth 32, tSig := e }
  | 0x28 => { k with hintdrop := k.hintdrop && !w.2.2.getLsbD 0 }
  | 0x1028 => { k with hintdrop := true }
  | _ => k

/-- SIG after a committed instruction (R185): `k` is 1 where MASK is no subset of OWN. The beats issued here are always those that
MASK selects. -/
def sigStep (k : Nat) (sig : BitVec 32) (op : BitVec 8) : BitVec 32 :=
  if op = 0xF2 then sig else (sig ^^^ (op.setWidth 32 + BitVec.ofNat 32 (256 * k))) * 0x01000193

/-- CC after the clause: a CSRW of CCR and the flag writes, the higher slot standing (R128). -/
def ccAfter (c : Ctx) : CC :=
  (c.csrw.foldl (fun (m : Nat × CC) w => if w.2.1 = 8 && decide (w.1 + 1 > m.1) then (w.1 + 1, ccOfWord w.2.2) else m) (c.ccSlot, c.cc)).2

/-- The group after its clause-local view has become architectural (R41 step 1). -/
def commitGroup (gr : Group) (c : Ctx) : Group :=
  let e := c.entry
  let k0 : Ctl := if c.rs = 0 then gr.ctl else { gr.ctl with srctr := gr.ctl.srctr + BitVec.ofNat 64 c.rs, tSrctr := e }
  let k1 := c.csrw.foldl (csrwOne e) k0
  let k2 : Ctl := { k1 with sig := c.ops.foldl (sigStep (b2n (c.mask &&& ~~~(gr.ent e).own != 0))) k1.sig, tSig := e }
  let add := fun (p : List (Nat × Nat)) (k n : Nat) => AList.put p k (AList.get p k 0 + n)
  let perf := add (add (add (add gr.perf 0 1) 1 c.ops.length) 2 c.beats) 3 c.skipped
  let tags := c.sWritten.foldl (fun t n => AList.put t n e) gr.stag
  let ents := gr.ents.modify e fun x =>
    { x with mask := if c.amDirty then c.am else x.mask
             cc := ccAfter c
             pc := c.addr + 8 * (c.words.length + 1)
             st := .fetching, fresh := false, stayed := c.hdr.stay, holdcap := 0
             chunk := { x.chunk with count := x.chunk.count + c.ops.length, last := c.ops.length, prevHdr := x.chunk.lastHdr, lastHdr := c.addr / 8 } }
  let g1 := { gr with
    regs := c.view, stag := tags, ctl := k2, perf, ents, ctx := none, seq := gr.seq + 1
    pend := gr.pend.map fun p => if p.frag = e then { p with committed := true } else p }
  c.marks.foldl (fun gr m => applyMark gr e m) g1

/-- The tile operations and held tile stores of the clause, in slot order (R182, R183). The waits on tile elements are evaluated after every
TST (R206). -/
def commitTiles (s : State) (gr : Group) (c : Ctx) : State :=
  foldS s (List.range 16) fun s k =>
    let s1 := tileOps s gr.block (c.tops.filter fun o => o.slot == k)
    foldS s1 (c.tsts.filter fun t => t.slot == k) fun s t =>
      wakeTileWaits (foldS s t.els fun s x => elemWrite s gr.block t.tile x.2.1 t.esz x.2.2.toNat)

/-- A store drops the words it writes from its own CU's L1 when it leaves the CU, but for IP pages, whose home that is (R285, R298). -/
def dropOwn (s : State) (cu : Nat) (accs : List Acc) : State :=
  foldS s (accs.filter fun a => isDev a.pa && homeType s a.pa != 3) fun s a => dropWords s cu (a.pa / 128) (wmaskOf (wordsOf a.pa a.size))

/-- The held stores become requests in slot and lane order (R41 step 2, R179); a token waits for them. -/
def commitStores (s : State) (g : Nat) (gr : Group) (c : Ctx) : State :=
  foldS s c.stores fun s h =>
    let r := (lineRuns h.accs).foldl (fun (x : List Nat × State) run =>
      let f := freshId x.2
      let q : Req := { id := f.1, kind := .store, agent := g, orig := .grp g c.entry, cu := gr.cu, seq := seqOf gr h.slot,
                       ct := (match run with | a :: _ => a.ct | [] => 0), ord := h.ord, scope := h.scope, accs := run,
                       iaddr := c.addr + 8 * (h.slot + 1), tok := h.tok }
      (x.1 ++ [f.1], addReq f.2 q)) ([], dropOwn s gr.cu h.accs)
    match h.tok with
    | none => r.2
    | some t => r.2.updGroup g fun gr => { gr with pend := gr.pend.map fun p => if p.tok = some t then { p with wait := r.1 } else p }

/-- The registers shared by siblings that a clause reads (R125): s0 to s59 by number, the control registers from 64 on. -/
def sharedReads (gr : Group) (c : Ctx) : List Nat :=
  (clauseInstrs c.words).flatMap fun i =>
    (i.reads.filterMap fun r => if r.1 == 1 && r.2 < 60 && gr.stag.get r.2 0 != c.entry then some r.2 else none)
    ++ (if i.readsFmode && gr.ctl.tFmode != c.entry then [64 + 0x10] else [])
    ++ (if i.isRs then [64 + 0x11, 64 + 0x12] else [])
    ++ (match i with
        | .csrr f => if (gr.ctl.tag f.imm.toNat).isSome && gr.ctl.tag f.imm.toNat != some c.entry then [64 + f.imm.toNat] else []
        | _ => [])

/-- The clause observed a sibling: its chunk follows what last touched those registers (R125, R363). The registers it read or wrote, SIG
among them, take this fragment's chunk; those written otherwise do so where they are written (`noteShared`). -/
def commitShared (s : State) (g : Nat) (gr : Group) (c : Ctx) : State :=
  match recording s gr.block.gang.slot with
  | none => s
  | some _ =>
      let e := c.entry
      let rd := sharedReads gr c
      let s1 := if c.obsSib then splitChunk s g e 0 else s
      let obs := rd.filterMap fun r => s1.damask.shared.find? (g, r)
      let others := obs.filter fun a => a.frag != FragId.mk g e
      let s2 := foldS s1 others markObserved
      let s3 := putEnt s2 g e fun x => { x with chunk := { x.chunk with deps := others.map (·.chunk) ++ x.chunk.deps } }
      let csr := (c.csrw.map fun (w : Nat × Nat × Word) => w.2.1).filter fun n => decide (n < 0x1000)
      let wrote := c.sWritten ++ (csr ++ [0x19] ++ (if c.rs = 0 then [] else [0x12]) ++ (if c.hdr.rgn then [0x18] else [])).map (64 + ·)
      noteShared s3 g e (rd ++ wrote)

/-- Reservations of the clause go back (R303). -/
def returnResv (s : State) (g e : Nat) : State :=
  { s with m := { s.m with resv := s.m.resv.filter fun r => !(r.lgn == g && r.e == e) } }

/-- The instruction in the tail of a clause. -/
def Tail.op? : Tail → Option POp
  | .none => Option.none
  | .commitOp p => some p
  | .jump p => some p

/-- Steps 1 and 2 of a commit (R41): the outside values are logged, the view becomes architectural, tiles are written, held stores
become requests, and reservations go back. -/
def commitHeld (s : State) (g : Nat) (gr : Group) (c : Ctx) : State :=
  let s1 := commitOuts (commitShared s g gr c) g c.entry c.outs
  let s2 := s1.updGroup g fun gr => commitGroup gr c
  let s3 := commitStores (commitTiles s2 gr c) g gr c
  { returnResv s3 g c.entry with cur := none }

/-- The boundary code that the last instruction of a clause gives its chunk. -/
def commitCode (c : Ctx) : Nat :=
  endCodeOf (c.tail.op?.map (·.instr)) (match c.tail with | .jump p => decide ((callTargets p.accs).length > 1) | _ => false)

/-- Steps 3 and 4 (R41): what the last instruction does. -/
def commitTail (s : State) (g : Nat) (c : Ctx) : State :=
  let e := c.entry
  match c.tail with
  | .none => dueChunk s g e (commitCode c) false
  | .commitOp p => settleRan g e p (runOp (dueChunk s g e (commitCode c) true) g e p)
  | .jump p => traceJump (doJump (dueChunk s g e (commitCode c) false) g e p) g e p

/-- The tile operations and held tile stores of a clause as they would be done now, in slot order: the slot of the first that cannot,
its cause, lanes and data address (R182, R183, R201). -/
def judgeTiles (s : State) (gr : Group) (c : Ctx) : Nat → Nat → Option (Nat × Cause × Mask × Nat)
  | 0, _ => none
  | n + 1, k =>
    let os := c.tops.filter fun o => o.slot == k
    match tileOpsBad s gr.block os with
    | some cause => some (k, cause, c.mask, 0)
    | none =>
      let s1 := tileOps s gr.block os
      let els := (c.tsts.filter fun t => t.slot == k).flatMap fun t => t.els.map fun x => (t, x)
      let bound := els.filter fun x => (elemAt s1 gr.block x.1.tile x.2.2.1 x.1.esz).isNone
      let busy := els.filter fun x => chunkOwned s1 gr.block x.1.tile x.2.2.1 x.1.esz
      let lanes := fun (l : List (HeldT × Nat × Nat × Word)) => maskOf fun i => l.any fun x => x.2.1 == i
      match bound, busy with
      | x :: _, _ => some (k, .tilebound, lanes bound, x.2.2.1 * x.1.esz)
      | [], x :: _ => some (k, .tilebusy, lanes busy, x.2.2.1 * x.1.esz)
      | [], [] => judgeTiles s1 gr c n (k + 1)

/-- The fault of a clause whose tile operations passed at their slots and can no longer be done (R182, R201): precise, at its slot. -/
def tileFault (s : State) (g : Nat) (c : Ctx) (x : Nat × Cause × Mask × Nat) : State :=
  deliver (abandon s g) g c.entry { cause := x.2.1, iaddr := c.addr + 8 * (x.1 + 1), lanes := x.2.2.1, daddr := x.2.2.2, slot := x.1 } false

/-- After a commit a late fault that has arrived is taken, parked fragments are looked at again, and waiting clauses. -/
def commitEnd (s : State) (g e : Nat) : State := recheck (wakeAll (settleLate s g e)) g

/-- The memory accesses that a committed instruction makes with the translations of its slot. -/
def POp.memAccs (p : POp) : List Acc :=
  match p.instr with
  | .atom _ | .satom _ | .redM _ | .seal _ | .reuse _ | .waita _ | .coll _ | .spawn _ => p.accs
  | _ => []

/-- A frame that has been retyped since the clause translated an access it still has to make (R266, R292). -/
def staleFrame (s : State) (c : Ctx) : Option Nat :=
  let tail := match c.tail.op? with | some p => p.memAccs | none => []
  ((c.stores.flatMap (·.accs) ++ tail).find? fun a => isDev a.pa && a.tgen != (frameAt s (a.pa / 4096)).tgen).map fun a => a.pa / 4096

/-- The clause commits (R41), or restarts where a frame it is to access has been retyped since (R292). -/
def commitClause (s : State) (g : Nat) : State :=
  match s.group? g with
  | none => s
  | some gr =>
    match gr.ctx with
    | none => s
    | some c =>
      match staleFrame s c, judgeTiles s gr c 16 0 with
      | some f, _ => parkRetype s g c.entry f
      | none, some x => tileFault s g c x
      | none, none => commitEnd (commitTail (commitHeld s g gr c) g c) g c.entry

/-- The clause under way has nothing left to issue or to await. -/
def commitReady (c : Ctx) : Bool := c.slot == c.words.length && c.wait == [] && c.faults == []

/-- The clause makes fragments or join entries. -/
def Ctx.splits (c : Ctx) : Bool :=
  c.marks != [] || (c.tail.op?.any fun p => match p.instr with | .forkm _ | .calli _ => true | _ => false)

/-- Nothing outside the clause holds its commit: the recorder has a free frame (R360), the entries it may take have ended their chunks
(R364), and the tile elements it is to write do not lie with a block that is swapped out (R104). -/
def commitMay (s : State) (gr : Group) (c : Ctx) : Bool :=
  !slotStalls s gr.block.gang.slot
    && !(c.splits && gr.frees.any fun n => (gr.ent n).chunk.endCode.isSome)
    && !(c.tsts.any fun t => t.els.any fun x => chunkAway s gr.block t.tile x.2.1 t.esz && !chunkOwned s gr.block t.tile x.2.1 t.esz)

/-- A clause whose last slot has issued commits at once if it waits for nothing. -/
def tryCommit (s : State) (g : Nat) : State :=
  match (s.group? g).bind fun gr => gr.ctx.map fun c => (gr, c) with
  | some (gr, c) => if commitReady c && commitMay s gr c then commitClause s g else s
  | none => s

/-- The slot of a commit-class or transfer instruction: its checks and its record; then the commit. -/
def tailSlot (s : State) (i : Instr) (k : State → Nat → Group → Ctx → POp → (State → Ctx → Tail → State) → State) : Out :=
  slot s i fun g gr c =>
    let p : POp := { instr := i, iaddr := c.iaddr, nextHdr := c.addr + 8 * (c.words.length + 1), hdr := c.addr, mask := 0, seq := seqOf gr c.slot,
                     slot := c.slot }
    k s g gr c p fun s c t => tryCommit (s.setCtx g (some { c.finish i none with tail := t })) g

end Sys2Proof.Machine
end

