-- ==== Sys2Proof/Machine/IntVec.lean ====
section
/-! DEFINITION. Integer, logical, bit and address instructions of vector clauses, per lane and scalar (R130 to R144). -/
namespace Sys2Proof.Machine
open Sys2Proof

/-! ### What they compute, on bits -/

/-- The result of an arithmetic instruction, wrapped or clamped (R130 rule 1, R131). -/
def arithBits (op : Int → Int → Int → Int) (t : Ty) (md a b c : Nat) : Nat :=
  let x := op (extInt t a) (extInt t b) (extInt t c)
  wrapInt t.width (if md = 1 then clampInt t x else x)

def opAdd (a b _ : Int) : Int := a + b
def opSub (a b _ : Int) : Int := a - b
def opMul (a b _ : Int) : Int := a * b
def opMulhi (w : Nat) (a b _ : Int) : Int := a * b / (2 ^ w : Nat)
def opMad (a b c : Int) : Int := a * b + c
def opMin (a b _ : Int) : Int := if a ≤ b then a else b
def opMax (a b _ : Int) : Int := if a ≤ b then b else a
def opAdif (a b _ : Int) : Int := (a - b).natAbs

/-- NOT at a width (R132). -/
def notBits (w a : Nat) : Nat := 2 ^ w - 1 - a % 2 ^ w

/-- SHL, SHR and ROT by an unsigned 32-bit amount (R132). -/
def shlBits (t : Ty) (a sh : Nat) : Nat := if sh ≥ t.width then 0 else a * 2 ^ sh % 2 ^ t.width
def shrBits (t : Ty) (a sh : Nat) : Nat :=
  let x := extInt t a
  wrapInt t.width (if sh ≥ t.width then (if x < 0 then -1 else 0) else x / (2 ^ sh : Nat))
def rotBits (t : Ty) (a sh : Nat) : Nat :=
  let k := sh % t.width
  (a * 2 ^ k + a / 2 ^ (t.width - k)) % 2 ^ t.width

/-- CLZ, POPC and BREV (R137). -/
def clzBits (w a : Nat) : Nat := w - bitLen (a % 2 ^ w)
def popcFrom (a : Nat) : Nat → Nat
  | 0 => 0
  | n + 1 => popcFrom a n + b2n (bitAt a n)
def brevFrom (w a : Nat) : Nat → Nat
  | 0 => 0
  | n + 1 => brevFrom w a n + (if bitAt a (w - 1 - n) then 2 ^ n else 0)

/-- The field width that BFE and BFI act on (R138). -/
def fieldWidth (w ctl : Nat) : Nat :=
  let pos := ctl % 256
  if pos ≥ w then 0 else min (ctl / 256 % 256) (w - pos)
def bfeBits (t : Ty) (a ctl : Nat) : Nat :=
  let w := fieldWidth t.width ctl
  let f := a / 2 ^ (ctl % 256) % 2 ^ w
  if decide (w > 0) && t.signed && bitAt f (w - 1) then wrapInt t.width ((f : Int) - (2 ^ w : Nat)) else f
def bfiBits (t : Ty) (ins base ctl : Nat) : Nat :=
  let w := fieldWidth t.width ctl
  let pos := ctl % 256
  let m := (2 ^ w - 1) * 2 ^ pos
  (base &&& notBits t.width m) ||| (ins * 2 ^ pos &&& m)

/-- A relation of CMP (R134). -/
def intRel (x : Nat) (a b : Int) : Bool :=
  match x with
  | 0 => decide (a = b)
  | 1 => decide (a ≠ b)
  | 2 => decide (a < b)
  | 3 => decide (a ≤ b)
  | 4 => decide (a > b)
  | _ => decide (a ≥ b)

/-- An operation of QOP (R136). -/
def qopBit (x : Nat) (a b : Bool) : Bool :=
  match x with
  | 0 => a && b
  | 1 => a || b
  | 2 => a != b
  | 3 => a && !b
  | 4 => !a
  | _ => a

/-- W and k of an FI immediate (R140, R143). -/
def immWide (f : FI) : Bool := f.sz != 0
def immBits (f : FI) : Nat :=
  match f.sz.toNat with
  | 0 => f.imm.toNat
  | 1 => (f.imm.signExtend 64).toNat
  | 2 => f.imm.toNat
  | _ => f.imm.toNat * 2 ^ 32

/-- The immediate arithmetic on bits, modulo 2^W. -/
def immOp (op : Nat → Nat → Nat) (f : FI) (a : Nat) : Nat := op a (immBits f) % 2 ^ (if immWide f then 64 else 32)

/-- A scaled index (R144). -/
def leaBits (t : Ty) (x base idx : Nat) : Nat := wrapInt 64 ((base : Int) + extInt t idx * (2 ^ x : Nat))

/-! ### Shapes of slots -/

/-- A per-lane result from the bits of the three operands, at the width of TYPE. -/
def laneOp (s : State) (i : Instr) (f : F3) (op : Nat → Nat → Nat → Nat) : Out :=
  vecSlot s i f.p f.d f.nw f.ty.wide fun _ c k => op (c.srcT f.ty f.a k) (c.srcT f.ty f.b k) (c.srcT f.ty f.c k)

/-- A per-lane result from an operand and a control operand (R130 rule 3). -/
def laneCtl (s : State) (i : Instr) (f : F3) (op : Nat → Nat → Nat) : Out :=
  vecSlot s i f.p f.d f.nw f.ty.wide fun _ c k => op (c.srcT f.ty f.a k) (c.src32 f.b k).toNat

/-- A scalar result from the bits of two operands, written as R130 rule 4 says. -/
def uniOp (s : State) (i : Instr) (f : F3) (op : Nat → Nat → Nat) : Out :=
  scaSlot s i f.d f.nw fun _ c => BitVec.ofNat 64 (widen f.ty 64 (op (c.uniT f.ty f.a) (c.uniT f.ty f.b)))

/-- A scalar result from an operand and a control operand. -/
def uniCtl (s : State) (i : Instr) (f : F3) (op : Nat → Nat → Nat) : Out :=
  scaSlot s i f.d f.nw fun _ c => BitVec.ofNat 64 (widen f.ty 64 (op (c.uniT f.ty f.a) ((c.uni f.b).toNat % 2 ^ 32)))

/-- A per-lane FI result. -/
def laneImm (s : State) (i : Instr) (f : FI) (op : Nat → Nat → Nat) : Out :=
  vecSlot s i f.p f.d f.nw (immWide f) fun _ c k =>
    immOp op f (if immWide f then (c.src64 f.a k).toNat else (c.src32 f.a k).toNat)

/-- A scalar FI operand and result (R143). -/
def uniImmA (f : FI) (c : Ctx) : Nat := (c.uni f.a).toNat % 2 ^ (if immWide f then 64 else 32)
def uniImm (s : State) (i : Instr) (f : FI) (op : Nat → Nat → Nat) : Out :=
  scaSlot s i f.d f.nw fun _ c => BitVec.ofNat 64 (immOp op f (uniImmA f c))

/-! ### Vector arithmetic (R131) -/

def execAdd (f : F3) (s : State) : Out := laneOp s (.add f) f (arithBits opAdd f.ty f.md.toNat)
def execSub (f : F3) (s : State) : Out := laneOp s (.sub f) f (arithBits opSub f.ty f.md.toNat)
def execMul (f : F3) (s : State) : Out := laneOp s (.mul f) f (arithBits opMul f.ty f.md.toNat)
def execMulhi (f : F3) (s : State) : Out := laneOp s (.mulhi f) f (arithBits (opMulhi f.ty.width) f.ty 0)
def execMad (f : F3) (s : State) : Out := laneOp s (.mad f) f (arithBits opMad f.ty f.md.toNat)
def execMin (f : F3) (s : State) : Out := laneOp s (.min f) f (arithBits opMin f.ty 0)
def execMax (f : F3) (s : State) : Out := laneOp s (.max f) f (arithBits opMax f.ty 0)
def execAdif (f : F3) (s : State) : Out := laneOp s (.adif f) f (arithBits opAdif f.ty 0)

/-! ### Vector logical and shift (R132) -/

def execAnd (f : F3) (s : State) : Out := laneOp s (.and f) f fun a b _ => a &&& b
def execOr (f : F3) (s : State) : Out := laneOp s (.or f) f fun a b _ => a ||| b
def execXor (f : F3) (s : State) : Out := laneOp s (.xor f) f fun a b _ => a ^^^ b
def execNot (f : F3) (s : State) : Out := laneOp s (.not f) f fun a _ _ => notBits f.ty.width a
def execShl (f : F3) (s : State) : Out := laneCtl s (.shl f) f (shlBits f.ty)
def execShr (f : F3) (s : State) : Out := laneCtl s (.shr f) f (shrBits f.ty)
def execRot (f : F3) (s : State) : Out := laneCtl s (.rot f) f (rotBits f.ty)

/-! ### Select, compare, bits (R133 to R139) -/

/-- SEL: the predicate that C names is read as stored. -/
def execSel (f : F3) (s : State) : Out :=
  vecSlot s (.sel f) f.p f.d f.nw f.ty.wide fun _ c k =>
    if (c.view.getQ (f.c.field % 16)).getLsbD k then c.srcT f.ty f.a k else c.srcT f.ty f.b k
def execCmp (f : F3) (s : State) : Out :=
  predSlot s (.cmp f) f.p f.d f.nw fun _ c k =>
    intRel f.x.toNat (extInt f.ty (c.srcT f.ty f.a k)) (extInt f.ty (c.srcT f.ty f.b k))
def execClz (f : F3) (s : State) : Out := laneOp s (.clz f) f fun a _ _ => clzBits f.ty.width a
def execPopc (f : F3) (s : State) : Out := laneOp s (.popc f) f fun a _ _ => popcFrom a f.ty.width
def execBrev (f : F3) (s : State) : Out := laneOp s (.brev f) f fun a _ _ => brevFrom f.ty.width a f.ty.width
def execBfe (f : F3) (s : State) : Out := laneCtl s (.bfe f) f (bfeBits f.ty)
def execBfi (f : F3) (s : State) : Out :=
  vecSlot s (.bfi f) f.p f.d f.nw f.ty.wide fun _ c k =>
    bfiBits f.ty (c.srcT f.ty f.a k) (c.srcT f.ty f.b k) (c.src32 f.c k).toNat
def execLane (f : F3) (s : State) : Out := vecSlot s (.lane f) f.p f.d f.nw false fun _ _ k => k
def execMov (f : F3) (s : State) : Out := laneOp s (.mov f) f fun a _ _ => a

def execQop (f : F3) (s : State) : Out :=
  predSlot s (.qop f) f.p f.d f.nw fun _ c k =>
    qopBit f.x.toNat ((c.view.getQ (f.a.field % 16)).getLsbD k) ((c.view.getQ (f.b.field % 16)).getLsbD k)
def execQtest (f : F3) (s : State) : Out :=
  predSlot s (.qtest f) f.p f.d f.nw fun _ c k => (c.srcT f.ty f.a k &&& c.srcT f.ty f.b k) != 0

/-! ### Vector immediates (R140) -/

def execAddi (f : FI) (s : State) : Out := laneImm s (.addi f) f fun a k => a + k
def execAndi (f : FI) (s : State) : Out := laneImm s (.andi f) f fun a k => a &&& k
def execOri (f : FI) (s : State) : Out := laneImm s (.ori f) f fun a k => a ||| k
def execXori (f : FI) (s : State) : Out := laneImm s (.xori f) f fun a k => a ^^^ k
def execMovi (f : FI) (s : State) : Out := laneImm s (.movi f) f fun _ k => k
def execMuli (f : FI) (s : State) : Out := laneImm s (.muli f) f fun a k => a * k

/-! ### Scalar instructions (R141 to R143) -/

def execSadd (f : F3) (s : State) : Out := uniOp s (.sadd f) f fun a b => arithBits opAdd f.ty f.md.toNat a b 0
def execSsub (f : F3) (s : State) : Out := uniOp s (.ssub f) f fun a b => arithBits opSub f.ty f.md.toNat a b 0
def execSmul (f : F3) (s : State) : Out := uniOp s (.smul f) f fun a b => arithBits opMul f.ty f.md.toNat a b 0
def execSmulhi (f : F3) (s : State) : Out := uniOp s (.smulhi f) f fun a b => arithBits (opMulhi f.ty.width) f.ty 0 a b 0
def execSmin (f : F3) (s : State) : Out := uniOp s (.smin f) f fun a b => arithBits opMin f.ty 0 a b 0
def execSmax (f : F3) (s : State) : Out := uniOp s (.smax f) f fun a b => arithBits opMax f.ty 0 a b 0
def execSand (f : F3) (s : State) : Out := uniOp s (.sand f) f fun a b => a &&& b
def execSor (f : F3) (s : State) : Out := uniOp s (.sor f) f fun a b => a ||| b
def execSxor (f : F3) (s : State) : Out := uniOp s (.sxor f) f fun a b => a ^^^ b
def execSshl (f : F3) (s : State) : Out := uniCtl s (.sshl f) f (shlBits f.ty)
def execSshr (f : F3) (s : State) : Out := uniCtl s (.sshr f) f (shrBits f.ty)
def execSmov (f : F3) (s : State) : Out := uniOp s (.smov f) f fun a _ => a
def execSclz (f : F3) (s : State) : Out := uniOp s (.sclz f) f fun a _ => clzBits f.ty.width a
def execSpopc (f : F3) (s : State) : Out := uniOp s (.spopc f) f fun a _ => popcFrom a f.ty.width
def execScmp (f : F3) (s : State) : Out :=
  ccSlot s (.scmp f) fun _ c => cmpFlags f.ty.width (c.uniT f.ty f.a) (c.uniT f.ty f.b) c.cc

def execSaddi (f : FI) (s : State) : Out := uniImm s (.saddi f) f fun a k => a + k
def execSandi (f : FI) (s : State) : Out := uniImm s (.sandi f) f fun a k => a &&& k
def execSori (f : FI) (s : State) : Out := uniImm s (.sori f) f fun a k => a ||| k
def execSxori (f : FI) (s : State) : Out := uniImm s (.sxori f) f fun a k => a ^^^ k
def execSmovi (f : FI) (s : State) : Out := uniImm s (.smovi f) f fun _ k => k
def execScmpi (f : FI) (s : State) : Out :=
  ccSlot s (.scmpi f) fun _ c => cmpFlags (if immWide f then 64 else 32) (uniImmA f c) (immBits f) c.cc

/-! ### Addresses (R144) -/

def execLea (f : F3) (s : State) : Out :=
  vecSlot s (.lea f) f.p f.d f.nw true fun _ c k => leaBits f.ty f.x.toNat (c.src64 f.a k).toNat (c.src32 f.b k).toNat
def execSlea (f : F3) (s : State) : Out :=
  scaSlot s (.slea f) f.d f.nw fun _ c =>
    BitVec.ofNat 64 (leaBits f.ty f.x.toNat (c.uni f.a).toNat ((c.uni f.b).toNat % 2 ^ 32))

end Sys2Proof.Machine
end

