-- ==== Sys2Proof/Machine/Float.lean ====
section
/-! DEFINITION. Floating-point, conversion and special-function instructions (R145 to R161). -/
namespace Sys2Proof.Machine
open Sys2Proof

/-- An operation on each element of a packed pair, or on the one element (R65, R147). -/
def eachElem (t : Ty) (op : Nat → Nat → Nat → Nat) (a b c : Nat) : Nat :=
  if t.packed then
    op (a % 2 ^ 16) (b % 2 ^ 16) (c % 2 ^ 16) + op (a / 2 ^ 16 % 2 ^ 16) (b / 2 ^ 16 % 2 ^ 16) (c / 2 ^ 16 % 2 ^ 16) * 2 ^ 16
  else op a b c

/-- The direction MOD 0 to 3 selects (R53, R72). -/
def dirOf (f : F3) : Rnd := rndOf f.md.toNat 0

/-- A per-lane floating result: `op` sees FMODE.FTZ and the elements of the operands. -/
def fpLane (s : State) (i : Instr) (f : F3) (op : Bool → Nat → Nat → Nat → Nat) : Out :=
  vecSlot s i f.p f.d f.nw f.ty.wide fun gr c k =>
    eachElem f.ty (op gr.ctl.ftz) (c.srcT f.ty f.a k) (c.srcT f.ty f.b k) (c.srcT f.ty f.c k)

/-- A scalar floating result (R153, R145). -/
def fpUni (s : State) (i : Instr) (f : F3) (op : Bool → Nat → Nat → Nat → Nat) : Out :=
  scaSlot s i f.d f.nw fun gr c =>
    BitVec.ofNat 64 (op gr.ctl.ftz (c.uniT f.ty f.a) (c.uniT f.ty f.b) (c.uniT f.ty f.c))

/-! ### Arithmetic (R147 to R152) -/

def execFadd (f : F3) (s : State) : Out := fpLane s (.fadd f) f fun z a b _ => fpAdd f.ty (dirOf f) z a b
def execFsub (f : F3) (s : State) : Out := fpLane s (.fsub f) f fun z a b _ => fpSub f.ty (dirOf f) z a b
def execFmul (f : F3) (s : State) : Out := fpLane s (.fmul f) f fun z a b _ => fpMul f.ty (dirOf f) z a b
def execFma (f : F3) (s : State) : Out := fpLane s (.fma f) f fun z a b c => fpFma f.ty (dirOf f) z a b c
def execFmin (f : F3) (s : State) : Out :=
  fpLane s (.fmin f) f fun z a b _ => flushBits f.ty z (fpMinMax false f.ty z a b)
def execFmax (f : F3) (s : State) : Out :=
  fpLane s (.fmax f) f fun z a b _ => flushBits f.ty z (fpMinMax true f.ty z a b)

/-- FSGN on one element: abs, neg or cps (R149). -/
def fpSgn (t : Ty) (x a b : Nat) : Nat :=
  let h := 2 ^ ((fmtOf t).fb + (fmtOf t).eb)
  let mag := a % h
  match x with
  | 0 => mag
  | 1 => if a / h % 2 = 0 then mag + h else mag
  | _ => mag + b / h % 2 * h
def execFsgn (f : F3) (s : State) : Out := fpLane s (.fsgn f) f fun _ a b _ => fpSgn f.ty f.x.toNat a b

def execFcmp (f : F3) (s : State) : Out :=
  predSlot s (.fcmp f) f.p f.d f.nw fun gr c k =>
    fpRel f.x.toNat f.ty gr.ctl.ftz (c.srcT f.ty f.a k) (c.srcT f.ty f.b k)
def execFclass (f : F3) (s : State) : Out :=
  vecSlot s (.fclass f) f.p f.d f.nw false fun _ c k => 2 ^ fpClass f.ty (c.srcT f.ty f.a k)
def execFrnd (f : F3) (s : State) : Out :=
  fpLane s (.frnd f) f fun z a _ _ => flushBits f.ty z (fpRnd f.ty (dirOf f) z a)

/-! ### Scalar (R153, R154) -/

def execSfadd (f : F3) (s : State) : Out := fpUni s (.sfadd f) f fun z a b _ => fpAdd f.ty (dirOf f) z a b
def execSfmul (f : F3) (s : State) : Out := fpUni s (.sfmul f) f fun z a b _ => fpMul f.ty (dirOf f) z a b
def execSfma (f : F3) (s : State) : Out := fpUni s (.sfma f) f fun z a b c => fpFma f.ty (dirOf f) z a b c
def execSfcmp (f : F3) (s : State) : Out :=
  ccSlot s (.sfcmp f) fun gr c =>
    let v := fun (x : Src) => fpDecode f.ty (flushBits f.ty gr.ctl.ftz (c.uniT f.ty x))
    fcmpFlags (fvCmp (v f.a) (v f.b)) c.cc

/-! ### Conversion (R155 to R159) -/

/-- The source type of CVT and SCVT: C[4:0]. -/
def cvtSrc (f : F3) : Ty := (WF.tyOfCode (f.c.field % 32)).getD .f32

/-- A draw of an instruction of this clause, at a position and element (R76). -/
def drawOf (gr : Group) (c : Ctx) (pos e : Nat) : Nat := srDraw gr.ctl.srseed (gr.ctl.srctr + BitVec.ofNat 64 c.rs) pos e

/-- One .rs instruction more in the clause (R76 rule 4). -/
def Ctx.countRs (c : Ctx) (i : Instr) : Ctx := if i.isRs then { c with rs := c.rs + 1 } else c

/-- A per-lane result of a conversion; an .rs form advances the clause's count of draws. -/
def rsVec (s : State) (i : Instr) (f : F3) (wide : Bool) (fn : Group → Ctx → Nat → Nat) : Out :=
  slot s i fun g gr c =>
    let r := c.putV f.d.toNat f.nw (c.exec f.p) wide (fn gr c)
    endSlot s g (r.1.countRs i) i (some r.2)

def execCvt (f : F3) (s : State) : Out :=
  rsVec s (.cvt f) f f.ty.wide fun gr c k =>
    widen f.ty (if f.ty.wide then 64 else 32)
      (cvtBits f.ty (cvtSrc f) f.md.toNat (drawOf gr c k 0) (f.x.getLsbD 0) (c.srcT (cvtSrc f) f.a k))
def execScvt (f : F3) (s : State) : Out :=
  slot s (.scvt f) fun g gr c =>
    let x := cvtBits f.ty (cvtSrc f) f.md.toNat (drawOf gr c 384 0) (f.x.getLsbD 0) (c.uniT (cvtSrc f) f.a)
    let r := c.putS (gr.ent c.entry).own f.d.toNat f.nw (BitVec.ofNat 64 (widen f.ty 64 x))
    endSlot s g (r.1.countRs (.scvt f)) (.scvt f) (some r.2)

/-- PACK2 of two .f32 values and the raw bits of C (R156). -/
def pack2Bits (t : Ty) (md ra rb a b c : Nat) : Nat :=
  let w := t.elem.width
  let one := fun (rb x : Nat) => cvtBits t.elem .f32 md rb false x
  (one ra a + one rb b * 2 ^ w + (if t.packed then 0 else c * 2 ^ (2 * w))) % 2 ^ 32
def execPack2 (f : F3) (s : State) : Out :=
  rsVec s (.pack2 f) f false fun gr c k =>
    pack2Bits f.ty f.md.toNat (drawOf gr c k 0) (drawOf gr c k 1) (c.srcT .f32 f.a k) (c.srcT .f32 f.b k) (c.src32 f.c k).toNat

/-- UNPACK of the element that k names (R157). -/
def unpackBits (t : Ty) (a k : Nat) : Nat :=
  let w := t.width
  cvtBits .f32 t 0 0 false (a / 2 ^ (w * (k % (32 / w))) % 2 ^ w)
/-- The 32 bits that A names: a constant is a value of the type (R50), which stands in element 0, the other elements being zero
(DESIGN CHOICE, notes/assumptions/66). -/
def unpackSrc (c : Ctx) (f : F3) (k : Nat) : Nat := match f.a with | .k n => constBits f.ty n | a => (c.src32 a k).toNat
def execUnpack (f : F3) (s : State) : Out :=
  vecSlot s (.unpack f) f.p f.d f.nw false fun _ c k => unpackBits f.ty (unpackSrc c f k) (c.src32 f.b k).toNat

def execScale (f : F3) (s : State) : Out :=
  vecSlot s (.scale f) f.p f.d f.nw f.ty.wide fun _ c k =>
    eachElem f.ty (fun a _ _ => fpScale f.ty (dirOf f) a (c.src32 f.b k).toInt) (c.srcT f.ty f.a k) 0 0

/-- FDOT2: a0 × b0 + a1 × b1 + c as one exact value, rounded once (R159). -/
def fdot2Bits (t : Ty) (r : Rnd) (ftz : Bool) (a b c : Nat) : Nat :=
  let e := fun (x k : Nat) => fpDecode t (flushBits t ftz (x / 2 ^ (16 * k) % 2 ^ 16))
  let x := fvSum r [fvMul (e a 0) (e b 0), fvMul (e a 1) (e b 1), fpDecode .f32 (flushBits .f32 ftz c)]
  flushBits .f32 ftz (fpEncode .f32 false r x)
def execFdot2 (f : F3) (s : State) : Out :=
  vecSlot s (.fdot2 f) f.p f.d f.nw false fun gr c k =>
    fdot2Bits f.ty (dirOf f) gr.ctl.ftz (c.srcT f.ty f.a k) (c.srcT f.ty f.b k) (c.srcT .f32 f.c k)

/-! ### Special functions (R160, R161) -/

/-- A special function of each lane, landing with its token. -/
def sfLane (s : State) (i : Instr) (f : F3) (fn : Nat) : Out :=
  tokVec s i f.p f.d false fun gr c k => specialFn fn f.ty gr.ctl.ftz (c.srcT f.ty f.a k)

def execExp2 (f : F3) (s : State) : Out := sfLane s (.exp2 f) f 0
def execLog2 (f : F3) (s : State) : Out := sfLane s (.log2 f) f 1
def execRcp (f : F3) (s : State) : Out := sfLane s (.rcp f) f 2
def execRsq (f : F3) (s : State) : Out := sfLane s (.rsq f) f 3
def execSqrt (f : F3) (s : State) : Out := sfLane s (.sqrt f) f 4
def execSin (f : F3) (s : State) : Out := sfLane s (.sin f) f 5
def execCos (f : F3) (s : State) : Out := sfLane s (.cos f) f 6
def execTanh (f : F3) (s : State) : Out := sfLane s (.tanh f) f 7

/-- The write of one scalar register. -/
def landS (d : BitVec 7) (x : Nat) : Land := { s := [(d.toNat, BitVec.ofNat 64 x)] }
def execSfn (f : F3) (s : State) : Out :=
  tokSlot s (.sfn f) (fun c => c.mask)
    (fun gr c => landS f.d (specialFn f.x.toNat f.ty gr.ctl.ftz (c.uniT f.ty f.a))) fun c _ => c

end Sys2Proof.Machine
end

