-- ==== Sys2Proof/Machine/CrossLane.lean ====
section
/-! DEFINITION. Cross-lane instructions (R162 to R169) with the tree and the sequence of R78 and R79. -/
namespace Sys2Proof.Machine
open Sys2Proof

/-- Lane j of a cross-lane source may be read: it is owned by the executing fragment (R162). -/
def readableLane (gr : Group) (c : Ctx) (j : Nat) : Bool := decide (j < 96) && (gr.ent c.entry).own.getLsbD j

/-! ### Shuffles (R163) -/

/-- The source lane that an index and a lane give; none for SHFLUP beyond lane 0. -/
def shuffleSrc (kind idx i : Nat) : Option Nat :=
  match kind with
  | 0 => some idx
  | 1 => if idx ≤ i then some (i - idx) else none
  | 2 => some (i + idx)
  | 3 => some (i ^^^ idx)
  | _ => some idx

def shuffle (s : State) (i : Instr) (f : F3) (kind : Nat) : Out :=
  tokVec s i f.p f.d f.ty.wide fun gr c k =>
    match shuffleSrc kind (c.src32 f.b k).toNat k with
    | some j => if readableLane gr c j then c.srcT f.ty f.a j else c.srcT f.ty f.c k
    | none => c.srcT f.ty f.c k

def execShfl (f : F3) (s : State) : Out := shuffle s (.shfl f) f 0
def execShflup (f : F3) (s : State) : Out := shuffle s (.shflup f) f 1
def execShfldn (f : F3) (s : State) : Out := shuffle s (.shfldn f) f 2
def execShflx (f : F3) (s : State) : Out := shuffle s (.shflx f) f 3
def execBcast (f : F3) (s : State) : Out := shuffle s (.bcast f) f 4

/-! ### Reductions and scans (R78, R79, R164, R165) -/

/-- Combine: the operation of RED and SCAN on two values of a type. -/
def combine (op : Nat) (t : Ty) (md : Nat) (ftz : Bool) (a b : Nat) : Nat :=
  match op with
  | 0 => if t.isFloat then fpAdd t (rndOf md 0) ftz a b else arithBits opAdd t md a b 0
  | 1 => if t.isFloat then flushBits t ftz (fpMinMax false t ftz a b) else arithBits opMin t 0 a b 0
  | 2 => if t.isFloat then flushBits t ftz (fpMinMax true t ftz a b) else arithBits opMax t 0 a b 0
  | 3 => a &&& b
  | 4 => a ||| b
  | _ => a ^^^ b

/-- What a lane that takes no part contributes: −0 for a floating add, else the value written when no lane takes part (R78). -/
def identityOf (op : Nat) (t : Ty) : Nat :=
  match op with
  | 0 => if t.isFloat then signBit (fmtOf t) true else 0
  | 1 => if t.isFloat then infEnc (fmtOf t) else wrapInt t.width t.maxInt
  | 2 => if t.isFloat then signBit (fmtOf t) true + infEnc (fmtOf t) else wrapInt t.width t.minInt
  | 3 => 2 ^ t.width - 1
  | _ => 0

/-- What RED writes when no lane takes part (R78): +0 for a floating add, else the identity. -/
def emptyOf (op : Nat) (t : Ty) : Nat := if op = 0 then 0 else identityOf op t

/-- One level of the tree: neighbours combine, an odd last value passes up unrounded. -/
def treeLevel (f : Nat → Nat → Nat) : List Nat → List Nat
  | a :: b :: t => f a b :: treeLevel f t
  | l => l

/-- The tree over its levels. -/
def treeRed (f : Nat → Nat → Nat) : Nat → List Nat → Nat
  | 0, l => l.headD 0
  | n + 1, l => treeRed f n (treeLevel f l)

/-- The result of RED over 96 lanes: levels of 96, 48, 24, 12, 6, 3 and 2 values. -/
def redBits (f : F3) (ftz : Bool) (m : Mask) (src : Nat → Nat) : Nat :=
  let op := f.x.toNat
  if m = 0 then emptyOf op f.ty
  else treeRed (combine op f.ty f.md.toNat ftz) 7
    ((List.range 96).map fun i => if m.getLsbD i then src i else identityOf op f.ty)

/-- The running values of SCAN: for each lane that takes part, the value before and after it. -/
def scanFrom (f : Nat → Nat → Nat) (src : Nat → Nat) : Nat → List Nat → List (Nat × Nat × Nat)
  | _, [] => []
  | run, i :: t =>
    let after := f run (src i)
    (i, run, after) :: scanFrom f src after t

def scanBits (f : F3) (ftz : Bool) (m : Mask) (src : Nat → Nat) : List (Nat × Nat) :=
  let op := f.x.toNat % 8
  (scanFrom (combine op f.ty f.md.toNat ftz) src (identityOf op f.ty) (lanesOf m)).map fun x =>
    (x.1, if f.x.getLsbD 3 then x.2.1 else x.2.2)

/-- CC.E: set when no lane takes part, else cleared (R164). -/
def ccEmpty (c : Ctx) (m : Mask) : Ctx := c.putCC { c.cc with e := m == 0 }

def execRed (f : F3) (s : State) : Out :=
  tokSlot s (.red f) (fun c => c.exec f.p)
    (fun gr c => landS f.d (widen f.ty 64 (redBits f gr.ctl.ftz (c.exec f.p) fun i => c.srcT f.ty f.a i)))
    fun c _ => ccEmpty c (c.exec f.p)

def execScan (f : F3) (s : State) : Out :=
  tokSlot s (.scan f) (fun c => c.exec f.p)
    (fun gr c =>
      let vals := scanBits f gr.ctl.ftz (c.exec f.p) fun i => c.srcT f.ty f.a i
      landV f.d (c.exec f.p) f.ty.wide fun i => AList.get vals i 0)
    fun c _ => ccEmpty c (c.exec f.p)

/-! ### Predicates across lanes (R166 to R168) -/

/-- The lanes that take part and have the predicate set that A[3:0] names, and all that take part. -/
def takeQ (f : F3) (c : Ctx) : Mask × Mask := (c.exec f.p &&& c.view.getQ (f.a.field % 16), c.exec f.p)

/-- BALLOT writes three scalar registers and leaves its latch unwritten. -/
def execBallot (f : F3) (s : State) : Out :=
  slot s (.ballot f) fun g gr c =>
    let m := (takeQ f c).1
    let own := (gr.ent c.entry).own
    let put := fun (c : Ctx) (b : Nat) => (c.putS own (f.d.toNat + b) false ((maskWord m b).setWidth 64)).1
    endSlot s g (put (put (put c 0) 1) 2) (.ballot f) none

/-- Z of VOTE: all, any or uni. -/
def voteZ (x : Nat) (hit take : Mask) : Bool :=
  match x with
  | 0 => hit == take
  | 1 => hit != 0
  | _ => hit == 0 || hit == take
def execVote (f : F3) (s : State) : Out :=
  ccSlot s (.vote f) fun _ c =>
    let m := takeQ f c
    { c.cc with z := voteZ f.x.toNat m.1 m.2, e := m.2 == 0 }

def execPopl (f : F3) (s : State) : Out :=
  scaSlot s (.popl f) f.d f.nw fun _ c => BitVec.ofNat 64 (popLanes (takeQ f c).1)
def execFirst (f : F3) (s : State) : Out :=
  scaSlot s (.first f) f.d f.nw fun _ c => BitVec.ofNat 64 ((lanesOf (takeQ f c).1).headD 96)

/-! ### One lane (R169) -/

def execRdlane (f : F3) (s : State) : Out :=
  tokSlot s (.rdlane f) (fun c => c.mask)
    (fun gr c =>
      let j := (c.uni f.b).toNat % 2 ^ 32
      landS f.d (if readableLane gr c j then c.srcT f.ty f.a j else c.uniT f.ty f.c))
    fun c _ => c

def execWrlane (f : F3) (s : State) : Out :=
  slot s (.wrlane f) fun g _ c =>
    let j := (c.uni f.b).toNat % 2 ^ 32
    let r := c.putV f.d.toNat f.nw (c.exec f.p &&& maskOf fun i => i == j) f.ty.wide fun _ => c.uniT f.ty f.a
    endSlot s g r.1 (.wrlane f) (some r.2)

end Sys2Proof.Machine
end

