-- ==== Sys2Proof/Machine/Memory.lean ====
section
/-! DEFINITION. Memory and tile instructions: loads, stores, fences, hints, page requests, tiles, SEAL, REUSE and FLUSH (R177 to R183,
R279, R324, R330). -/
namespace Sys2Proof.Machine
open Sys2Proof

/-- The PASID of a group's task. -/
def groupPasid (s : State) (gr : Group) : Nat := pasidOf s gr.block.gang.slot

/-- What the checks of a slot find, when non-resident pages are no obstacle (R178, R279, R324). -/
def withChecked (s : State) (g : Nat) (gr : Group) (c : Ctx) (align : Bool) (need : Need) (accs : List Acc)
    (k : State → List Acc → List Acc → State) : State :=
  let r := checkAccs s gr.cu (groupPasid s gr) align need accs
  match r.2 with
  | .fault cause lanes daddr sub => raise r.1 g c cause (if lanes = 0 then c.mask else lanes) daddr sub
  | .retype f => parkRetype r.1 g c.entry f
  | .ok l n => k r.1 l n

/-! ### Loads (R177, R178) -/

/-- The accesses of a load or store: one for each executing lane, or the uniform one (lane 96). -/
def fmAccs (c : Ctx) (f : FM) (size : Nat) (uni : Bool) (data : Nat → Word) : List Acc :=
  if uni then [mkAcc 96 (fmAddr c f size 0) size (data 0) 0]
  else (lanesOf (c.exec f.p)).map fun i => mkAcc i (fmAddr c f size i) size (data i) 0

/-- Lines that a load does not find in its CU's L1 (R129, counter 6). -/
def countMisses (s : State) (gr : Group) (accs : List Acc) : Nat := (linesOf (accs.filter fun a => !l1Hit s gr.cu a.pa a.size)).length

/-- The residency outcome of a load: the lanes that met a non-resident page, as the log says under replay (R178, R323). -/
def residency (s : State) (g : Nat) (gr : Group) (c : Ctx) (uni : Bool) (nres : List Acc) : Mask × Ctx :=
  let live := if uni then (if nres = [] then 0 else c.mask) else maskOf fun i => nres.any fun a => a.lane == i
  let rep := (replaying s gr.block.gang.slot).isSome
  if !rep && live == 0 then (0, c)
  else
    let r := outside s g gr c 4 (if rep then 0 else live.toNat)
    (BitVec.ofNat 96 r.1, r.2)

/-- A load at its slot: non-resident lanes receive zero and their flag; the others become requests, one for each line. -/
def loadSlot (s : State) (i : Instr) (f : FM) (size : Nat) (uni : Bool) : Out :=
  slot s i fun g gr c =>
    withChecked s g gr c true { r := true } (fmAccs c f size uni fun _ => 0) fun s res nres =>
      let o := residency s g gr c uni nres
      let flagged := fun (a : Acc) => if uni then o.1 != 0 else o.1.getLsbD a.lane
      match nres.filter fun a => !flagged a with
      | a :: t => parkPages s g c.entry (pagesOf (a :: t) false)
      | [] =>
        let accs := (res.filter fun a => !flagged a).map (withForward c)
        let r : Req := { id := 0, kind := .load, agent := g, orig := .grp g c.entry, cu := gr.cu, seq := seqOf gr c.slot,
                         ord := f.ord.toNat, scope := f.scope.toNat, iaddr := c.iaddr, tok := i.tok }
        let q := addReqs s r accs
        let p : Pend := { tok := i.tok, frag := c.entry, instr := i, mask := if uni then c.mask else c.exec f.p, nres := o.1, wait := q.1 }
        let s1 := q.2.updGroup g fun x =>
          { x with pend := x.pend ++ [p], perf := AList.put x.perf 6 (AList.get x.perf 6 0 + countMisses s gr accs) }
        endSlot s1 g { o.2 with wait := o.2.wait ++ q.1 } i none

def execLdN8 (f : FM) (s : State) : Out := loadSlot s (.ldN8 f) f 1 false
def execLdI8 (f : FM) (s : State) : Out := loadSlot s (.ldI8 f) f 1 false
def execLdN16 (f : FM) (s : State) : Out := loadSlot s (.ldN16 f) f 2 false
def execLdI16 (f : FM) (s : State) : Out := loadSlot s (.ldI16 f) f 2 false
def execLdB32 (f : FM) (s : State) : Out := loadSlot s (.ldB32 f) f 4 false
def execLdB64 (f : FM) (s : State) : Out := loadSlot s (.ldB64 f) f 8 false
def execSldB32 (f : FM) (s : State) : Out := loadSlot s (.sldB32 f) f 4 true
def execSldB64 (f : FM) (s : State) : Out := loadSlot s (.sldB64 f) f 8 true

/-! ### Stores (R177, R179) -/

/-- The data register of a store. -/
def storeData (c : Ctx) (f : FM) (size : Nat) (uni : Bool) (i : Nat) : Word :=
  if uni then c.getS f.d.toNat
  else if size = 8 then c.src64 (.v f.d) i
  else (lane (c.view.getV f.d.toNat) i).setWidth 64

/-- A store at its slot: it is held until commit; RC lines reserve their hold entries (R40 rule 5, R303). -/
def storeSlot (s : State) (i : Instr) (f : FM) (size : Nat) (uni : Bool) : Out :=
  slot s i fun g gr c =>
    withAccs s g gr c true { w := true } (fmAccs c f size uni (storeData c f size uni)) fun s l =>
      let r := reserve s g gr c l
      let held : Held := { slot := c.slot, tok := i.tok, ord := f.ord.toNat, scope := f.scope.toNat, accs := l }
      let s1 := match i.tok with
        | none => r.2
        | some t => r.2.updGroup g fun x => { x with pend := x.pend ++ [{ tok := some t, frag := c.entry, instr := i, mask := c.mask }] }
      endSlot s1 g { c with stores := c.stores ++ [held], wait := c.wait ++ r.1 } i none

def execStN8 (f : FM) (s : State) : Out := storeSlot s (.stN8 f) f 1 false
def execStN16 (f : FM) (s : State) : Out := storeSlot s (.stN16 f) f 2 false
def execStB32 (f : FM) (s : State) : Out := storeSlot s (.stB32 f) f 4 false
def execStB64 (f : FM) (s : State) : Out := storeSlot s (.stB64 f) f 8 false
def execSstB32 (f : FM) (s : State) : Out := storeSlot s (.sstB32 f) f 4 true
def execSstB64 (f : FM) (s : State) : Out := storeSlot s (.sstB64 f) f 8 true

/-! ### Commit-class memory instructions (R181, R279, R324) -/

/-- A commit-class instruction that needs no more than its operands. -/
def opSlot (s : State) (i : Instr) (k : Group → Ctx → POp → POp) : Out :=
  tailSlot s i fun s _ gr c p fin => fin s c (.commitOp (k gr c p))

def execFence (f : FM) (s : State) : Out := opSlot s (.fence f) fun _ _ p => p

/-- PGREQ: each executing lane is checked; the pages are asked for at commit. -/
def execPgreq (f : FM) (s : State) : Out :=
  tailSlot s (.pgreq f) fun s g gr c p fin =>
    let w := f.d == 1
    let accs := fmAccs c f 1 false fun _ => 0
    withChecked s g gr c false { r := !w, w } accs fun s _ _ => fin s c (.commitOp { p with accs, mask := c.exec f.p })

/-- base and length of SEAL, REUSE and FLUSH (R279). -/
def rangeBase (c : Ctx) (f : FM) : Nat := (c.uni f.a + f.ofs.signExtend 64).toNat
def rangeLen (c : Ctx) (f : FM) : Nat := (c.uni f.b).toNat % 2 ^ 32

/-- One access for each line of the range. -/
def rangeAccs (base len : Nat) : List Acc := (List.range (len / 128)).map fun k => mkAcc 96 (base + 128 * k) 128 0 0

/-- The slot of SEAL, REUSE and FLUSH: alignment, then every page of the range. SEAL and REUSE need every page resident. -/
def rangeSlot (s : State) (i : Instr) (f : FM) (need : Need) (skip : Bool) : Out :=
  tailSlot s i fun s g gr c p fin =>
    let base := rangeBase c f
    let len := rangeLen c f
    if base % 128 ≠ 0 ∨ len % 128 ≠ 0 then raise s g c .align c.mask base (b2n need.w)
    else
      let go := fun (s : State) (l : List Acc) =>
        fin s c (.commitOp { p with a := BitVec.ofNat 64 base, b := BitVec.ofNat 64 len, accs := l })
      if skip then withChecked s g gr c false need (rangeAccs base len) fun s l _ => go s l
      else withAccs s g gr c false need (rangeAccs base len) go

def execSeal (f : FM) (s : State) : Out := rangeSlot s (.seal f) f { w := true } false
def execReuse (f : FM) (s : State) : Out := rangeSlot s (.reuse f) f { w := true } false
def execFlush (f : FM) (s : State) : Out := rangeSlot s (.flush f) f { r := true } true

/-! ### Hints (R330) -/

/-- Puts a line where a PREF asks. -/
def prefetch (s : State) (cu lvl line : Nat) : State :=
  let s1 := hintLine s line
  if lvl = 0 then fillL1 s1 cu line else if lvl = 1 && s1.m.l3.contains line then l2Touch s1 line else s1

/-- One lane of a PREF: the state after it, and whether the hint is dropped. -/
def prefLane (g : Nat) (gr : Group) (lvl va : Nat) (s : State) : State × Bool :=
  let r := translate s gr.cu (groupPasid s gr) va { r := true }
  match r.2 with
  | .ok pa _ =>
    if isDev pa && homeType s pa == 3 && !ipOk s g (pa / 4096) then (r.1, true)
    else (if isDev pa then prefetch r.1 gr.cu lvl (pa / 128) else r.1, false)
  | _ => (r.1, true)

/-- One lane of a RESHINT: it asks for a page that is not resident, if a request may be sent at once. -/
def reshintLane (g : Nat) (gr : Group) (w : Bool) (va : Nat) (s : State) : State × Bool :=
  let pasid := groupPasid s gr
  let r := translate s gr.cu pasid va { r := !w, w }
  match r.2 with
  | .ok pa _ => (r.1, isDev pa && homeType s pa == 3 && !ipOk s g (pa / 4096))
  | .nonres =>
    let page := va / 4096
    if s.m.rf || (!preqCovers r.1 pasid page w && decide ((r.1.m.preqs.filter fun p => !p.answered).length ≥ Config.pageAllowance)) then (r.1, true)
    else
      let s1 := requestPage r.1 pasid page w false
      ({ s1 with m := { s1.m with preqs := s1.m.preqs.map fun p =>
        if p.pasid == pasid && p.page == page then { p with hints := g :: p.hints } else p } }, false)
  | _ => (r.1, true)

/-- A hint on every executing lane; a drop sets HINTDROP at commit. -/
def hintSlot (s : State) (i : Instr) (f : FM) (one : Nat → Group → Nat → State → State × Bool) : Out :=
  slot s i fun g gr c =>
    let r := (lanesOf (c.exec f.p)).foldl (fun (x : State × Bool) k =>
      let y := one g gr (fmAddr c f 1 k) x.1
      (y.1, x.2 || y.2)) (s, false)
    endSlot r.1 g (if r.2 then { c with csrw := c.csrw ++ [(c.slot, 0x1028, 1)] } else c) i none

def execPref (f : FM) (s : State) : Out := hintSlot s (.pref f) f fun g gr va s => prefLane g gr f.d.toNat va s
def execReshint (f : FM) (s : State) : Out := hintSlot s (.reshint f) f fun g gr va s => reshintLane g gr (f.d == 1) va s

/-! ### Tiles (R182, R183) -/

/-- The level X of TALLOC names. -/
def levelOf (x : BitVec 4) : TLevel := if x = 0 then .cu else if x = 1 then .gang else .l2

/-- A TALLOC or TFREE at its slot: the fault it would meet after the clause's earlier ones; it takes effect at commit. -/
def tileOpSlot (s : State) (i : Instr) (op : Ctx → TileOp) : Out :=
  slot s i fun g gr c =>
    let o := op c
    match tileOp (tileOps s gr.block c.tops) gr.block o with
    | .error cause => raise s g c cause c.mask 0 0
    | .ok _ => endSlot s g { c with tops := c.tops ++ [{ o with slot := c.slot }] } i none

def execTalloc (f : F3) (s : State) : Out :=
  tileOpSlot s (.talloc f) fun c =>
    { free := false, h := f.d.toNat, rows := (c.uni f.a).toNat, cols := (c.uni f.b).toNat, esz := f.ty.width / 8, level := levelOf f.x }
def execTfree (f : F3) (s : State) : Out := tileOpSlot s (.tfree f) fun _ => { free := true, h := f.d.toNat }

/-- rows and cols of a handle as the clause sees it. -/
def tileDims (s : State) (b : BlockId) (h : Nat) : Nat × Nat :=
  match (s.block? b).bind fun x => x.tiles.find? h with
  | some t => (t.rows, t.cols)
  | none => (0, 0)

/-- The element indices that a lane of TLD reads: one, or four or two down a column; beyond the tile, an index it does not have. -/
def tldIdx (dims : Nat × Nat) (n base i : Nat) : List Nat :=
  if n = 1 then [base + i]
  else (List.range n).map fun k =>
    let r := base / 2 ^ 16 + k
    let c := base % 2 ^ 16 + i
    if r < dims.1 ∧ c < dims.2 then r * dims.2 + c else dims.1 * dims.2

/-- The value that a held TST of the clause gives an element: the last one's. -/
def tldHeld (c : Ctx) (h esz idx : Nat) : Option Nat :=
  (((c.tsts.filter fun t => t.tile == h).flatMap (·.els)).reverse.find? fun x => x.2.1 == idx).map fun x => x.2.2.toNat % 2 ^ (8 * esz)

/-- An element as a TLD of the clause sees it: a held TST first. -/
def tldEl (s : State) (b : BlockId) (c : Ctx) (h esz idx : Nat) : Nat := (tldHeld c h esz idx).getD (elemRead s b h idx esz)

/-- TLD: `n` elements of `esz` bytes a lane. A lane waits for its chunks, but for elements that held TSTs give. -/
def tldSlot (s : State) (i : Instr) (f : F3) (esz n : Nat) : Out :=
  slot s i fun g gr c =>
    let t := tileOps s gr.block c.tops
    let h := f.a.field
    let m := c.exec f.p
    let ls := (lanesOf m).map fun k => (k, tldIdx (tileDims t gr.block h) n ((c.uni f.b).toNat % 2 ^ 32) k)
    let bad := ls.filter fun x => x.2.any fun e => (elemAt t gr.block h e esz).isNone
    if bad ≠ [] then raise s g c .tilebound (maskOf fun k => bad.any fun x => x.1 == k) (((bad.headD (0, [])).2.headD 0) * esz) 0
    else
      let away := fun (x : Nat × List Nat) => x.2.any fun e => chunkAway t gr.block h e esz && (tldHeld c h esz e).isNone
      let vals := (ls.filter fun x => !away x).map fun x => (x.1, BitVec.ofNat 64
        (((List.range x.2.length).map fun k => tldEl t gr.block c h esz (x.2.getD k 0) * 2 ^ (8 * esz * k)).sum))
      let held := ((ls.filter away).flatMap (·.2)).filterMap fun e => (tldHeld c h esz e).map fun v => (e, v)
      let p : Pend := { tok := i.tok, frag := c.entry, instr := i, mask := m, vals, tiles := ls.filter away, held }
      endSlot (s.updGroup g fun x => { x with pend := x.pend ++ [p] }) g c i none

def execTld (f : F3) (s : State) : Out := tldSlot s (.tld f) f (f.ty.width / 8) 1
def execTldXp8 (f : F3) (s : State) : Out := tldSlot s (.tldXp8 f) f 1 4
def execTldXp16 (f : F3) (s : State) : Out := tldSlot s (.tldXp16 f) f 2 2

/-- TST: checked at its slot, held until commit. -/
def execTst (f : F3) (s : State) : Out :=
  slot s (.tst f) fun g gr c =>
    let t := tileOps s gr.block c.tops
    let h := f.a.field
    let esz := f.ty.width / 8
    let els := (lanesOf (c.exec f.p)).map fun k => (k, (c.uni f.b).toNat % 2 ^ 32 + k, BitVec.ofNat 64 (c.srcT f.ty f.c k))
    let bad := els.filter fun x => (elemAt t gr.block h x.2.1 esz).isNone
    let busy := els.filter fun x => chunkOwned t gr.block h x.2.1 esz
    let lanes := fun (l : List (Nat × Nat × Word)) => maskOf fun k => l.any fun x => x.1 == k
    let first := fun (l : List (Nat × Nat × Word)) => (l.headD (0, 0, 0)).2.1 * esz
    if bad ≠ [] then raise s g c .tilebound (lanes bad) (first bad) 0
    else if busy ≠ [] then raise s g c .tilebusy (lanes busy) (first busy) 0
    else
      let tok := (Instr.tst f).tok
      let s1 := match tok with
        | none => s
        | some k => s.updGroup g fun x => { x with pend := x.pend ++ [{ tok := some k, frag := c.entry, instr := .tst f, mask := c.mask }] }
      endSlot s1 g { c with tsts := c.tsts ++ [{ slot := c.slot, tok, tile := h, esz, els }] } (.tst f) none

end Sys2Proof.Machine
end

