-- ==== Sys2Proof/Machine/Flow.lean ====
section
/-! DEFINITION. Control transfers and divergence: BR to EXIT (R171 to R176). What they do at commit stands in Commit. -/
namespace Sys2Proof.Machine
open Sys2Proof

/-- The target of an FB instruction: its own clause header plus 8 × OFS (R172). -/
def fbTarget (c : Ctx) (f : FB) : Word := BitVec.ofNat 64 c.addr + f.ofs.signExtend 64 * 8

/-- A transfer whose target is fixed at its slot. -/
def jumpSlot (s : State) (i : Instr) (k : Group → Ctx → POp → POp) : Out :=
  tailSlot s i fun s _ gr c p fin => fin s c (.jump (k gr c p))

/-- The lanes of the mask in force that have a predicate set. -/
def anyQ (c : Ctx) (q : BitVec 4) : Bool := (c.mask &&& c.view.getQ q.toNat) != 0

/-- A branch, taken or not. -/
def branchSlot (s : State) (i : Instr) (f : FB) (taken : Ctx → Bool) : Out :=
  jumpSlot s i fun _ c p => { p with a := fbTarget c f, aux := b2n (taken c) }

def execBr (f : FB) (s : State) : Out := branchSlot s (.br f) f fun c => condHolds f.cond.toNat c.cc (c.am == 0)
def execBrany (f : FB) (s : State) : Out := branchSlot s (.brany f) f fun c => anyQ c f.cond
def execBrnone (f : FB) (s : State) : Out := branchSlot s (.brnone f) f fun c => !anyQ c f.cond
def execCall (f : FB) (s : State) : Out := jumpSlot s (.call f) fun _ c p => { p with a := fbTarget c f }

/-- Split-table entries that are free at a slot: earlier MARKs of the clause have taken theirs. -/
def freeAt (gr : Group) (c : Ctx) : List Nat := gr.frees.filter fun k => !(c.marks.any fun m => m.2.1 == k)

/-- The targets of CALLI: one for each lane of the mask in force, or one. -/
def calliAccs (c : Ctx) (a : Src) : List Acc :=
  let per : Bool := match a with
    | .v _ => true
    | .l n => match c.latch n.toNat with | some l => l.kind = .v64 | none => false
    | _ => false
  if per then (lanesOf c.mask).map fun i => mkAcc i (c.src64 a i).toNat 8 0 0 else [mkAcc 96 (c.src64 a 0).toNat 8 0 0]

def execCalli (f : F3) (s : State) : Out :=
  tailSlot s (.calli f) fun s g gr c p fin =>
    let accs := calliAccs c f.a
    let bad := accs.filter fun a => a.va % 8 ≠ 0
    if bad ≠ [] then
      let m := maskOf fun i => bad.any fun a => a.lane == i
      raise s g c .align (if m = 0 then c.mask else m) 0 0
    else if (callTargets accs).length > (freeAt gr c).length + 1 then raise s g c .splitov c.mask 0 0
    else fin s c (.jump { p with accs })

/-- A transfer to an address in a register (R171, R173). The fault record of its ALIGN holds no data address: a transfer is no memory
access (DESIGN CHOICE, notes/assumptions/47). -/
def toSlot (s : State) (i : Instr) (a : Ctx → Word) : Out :=
  tailSlot s i fun s g _ c p fin =>
    if (a c).toNat % 8 ≠ 0 then raise s g c .align c.mask 0 0 else fin s c (.jump { p with a := a c })

def execJmpi (f : F3) (s : State) : Out := toSlot s (.jmpi f) fun c => c.uni f.a
def execRet (f : F3) (s : State) : Out := toSlot s (.ret f) fun c => c.getS 58

/-- DEPTH as a slot sees it. -/
def depthAt (gr : Group) (c : Ctx) : Nat := (gr.ent c.entry).depth + c.marks.length

/-- MARK (R175): class S; its changes are held until commit. -/
def execMark (f : FB) (s : State) : Out :=
  slot s (.mark f) fun g gr c =>
    match freeAt gr c with
    | n :: _ =>
      if depthAt gr c ≥ 15 then raise s g c .splitov c.mask 0 0
      else endSlot s g { c with marks := c.marks ++ [((fbTarget c f).toNat, n, c.am)] } (.mark f) none
    | [] => raise s g c .splitov c.mask 0 0

/-- FORKM (R175). The MASK it splits is the one its clause commits. -/
def execForkm (f : FB) (s : State) : Out :=
  tailSlot s (.forkm f) fun s g gr c p fin =>
    let q := c.view.getQ f.cond.toNat
    if depthAt gr c = 0 then raise s g c .illop c.mask 0 0
    else if c.am &&& q ≠ 0 ∧ c.am &&& ~~~q ≠ 0 ∧ freeAt gr c = [] then raise s g c .splitov c.mask 0 0
    else fin s c (.jump { p with a := fbTarget c f, mask := q })

/-- RJ as a slot sees it: the rejoin address of the clause's last MARK, else the stored one. -/
def rejoinAt (gr : Group) (c : Ctx) : Nat :=
  match c.marks.reverse with
  | m :: _ => m.1
  | [] => (gr.ent c.entry).rj

/-- JOIN (R175). -/
def execJoin (f : F3) (s : State) : Out :=
  tailSlot s (.join f) fun s g gr c p fin =>
    if depthAt gr c = 0 ∨ rejoinAt gr c ≠ c.addr then raise s g c .illop c.mask 0 0 else fin s c (.jump p)

/-- EXIT (R175). -/
def execExit (f : F3) (s : State) : Out := jumpSlot s (.exit f) fun _ _ p => p

end Sys2Proof.Machine
end

