-- ==== Sys2Proof/Machine/Sync.lean ====
section
/-! DEFINITION. Barriers, waits on a word and atomics at their slots (R202 to R206, R304 to R306). What they do at commit stands in
Run. -/
namespace Sys2Proof.Machine
open Sys2Proof

/-! ### Barriers and membership (R202, R203) -/

def execBarv (f : FS) (s : State) : Out := opSlot s (.barv f) fun _ _ p => p
def execBwait (f : FS) (s : State) : Out := opSlot s (.bwait f) fun _ c p => { p with a := c.uni f.o }
def execBarw (f : FS) (s : State) : Out := opSlot s (.barw f) fun _ _ p => p
def execBgrp (f : FS) (s : State) : Out := opSlot s (.bgrp f) fun _ c p => { p with a := c.uni f.o }
def execGjoin (f : FS) (s : State) : Out := opSlot s (.gjoin f) fun _ _ p => p
def execGleave (f : FS) (s : State) : Out := opSlot s (.gleave f) fun _ _ p => p

/-! ### Waits (R204, R205) -/

/-- The page of an access is one on which a load raises TYPEOP. -/
def loadTypeop (s : State) (g : Nat) (a : Acc) : Bool :=
  decide (homeType s a.pa ≥ 2) && judgeRead s g a.pa a.size == .refuse .typeop 0

def execWaita (f : FA) (s : State) : Out :=
  tailSlot s (.waita f) fun s g gr c p fin =>
    let acc := mkAcc 96 (c.uni f.a).toNat (f.ty.width / 8) 0 0
    withAccs s g gr c true { r := true } [acc] fun s l =>
      if l.any (loadTypeop s g) then raise s g c .typeop c.mask acc.va 0
      else fin s c (.commitOp { p with accs := l, a := c.uni f.a, b := BitVec.ofNat 64 (c.uniT f.ty f.b) })

def execWaitat (f : FA) (s : State) : Out :=
  tailSlot s (.waitat f) fun s g gr c p fin =>
    let idx := (c.uni f.b).toNat % 2 ^ 32
    match elemAt (tileOps s gr.block c.tops) gr.block f.a.field idx (f.ty.width / 8) with
    | none => raise s g c .tilebound c.mask (idx * (f.ty.width / 8)) 0
    | some _ => fin s c (.commitOp { p with a := BitVec.ofNat 64 idx, b := BitVec.ofNat 64 (c.uniT f.ty f.c) })

/-! ### Atomics (R304 to R306) -/

/-- The accesses of ATOM and RED.M: every active lane. -/
def laneAtoms (c : Ctx) (f : FA) : List Acc :=
  (lanesOf c.mask).map fun i =>
    mkAcc i (c.src64 f.a i).toNat (f.ty.width / 8) (BitVec.ofNat 64 (c.srcT f.ty f.b i)) (BitVec.ofNat 64 (c.srcT f.ty f.c i))

/-- The slot of an atomic: its checks; the requests are made at commit. -/
def atomSlot (s : State) (i : Instr) (need : Need) (accs : Ctx → List Acc) : Out :=
  tailSlot s i fun s g gr c p fin =>
    withAccs s g gr c true need (accs c) fun s l => fin s c (.commitOp { p with accs := l, mask := c.mask })

def execAtom (f : FA) (s : State) : Out := atomSlot s (.atom f) { r := true, w := true } fun c => laneAtoms c f
def execSatom (f : FA) (s : State) : Out :=
  atomSlot s (.satom f) { r := true, w := true } fun c =>
    [mkAcc 96 (c.uni f.a).toNat (f.ty.width / 8) (BitVec.ofNat 64 (c.uniT f.ty f.b)) (BitVec.ofNat 64 (c.uniT f.ty f.c))]
def execRedM (f : FA) (s : State) : Out := atomSlot s (.redM f) { w := true } fun c => laneAtoms c f

end Sys2Proof.Machine
end

