-- ==== Sys2Proof/Machine/Fabric.lean ====
section
/-! DEFINITION. Fabric instructions at their slots (R347 to R351, R354). What they do at commit stands in Run. -/
namespace Sys2Proof.Machine
open Sys2Proof

/-- The fault of one fabric access (R347): device, alignment, address. -/
def fabCause (s : State) (a : Acc) : Option Cause :=
  Cause.first (if a.va % a.size ≠ 0 then some .align else none)
    (Cause.first (if a.va ≥ 2 ^ 40 then some .unmapped else none)
      (if a.dev ≥ 2 ^ 18 || !s.fab.en || (fabPort s.fab a.dev).isNone then some .fabric else none))

/-- The checks of a fabric instruction's accesses: of the faults, the cause ranked first with its lanes (R190); 0x80 in the sub-code of a
FABRIC that follows the failure of a port (R34). -/
def withFab (s : State) (g : Nat) (c : Ctx) (accs : List Acc) (w : Bool) (k : List Acc → State) : State :=
  match accs.foldl (fun m a => Cause.first m (fabCause s a)) none with
  | none => k (accs.map fun a => { a with pa := a.va })
  | some cause =>
    let bad := accs.filter fun a => fabCause s a == some cause
    let m := maskOf fun i => bad.any fun a => a.lane == i
    let lost := cause == .fabric && bad.any fun a => lostByPart s a.dev
    raise s g c cause (if m = 0 then c.mask else m) ((bad.map (·.va)).headD 0) (if lost then 0x80 else b2n w)

/-- The accesses of FST, FLD and FATOM: every active lane. -/
def fabAccs (c : Ctx) (f : FA) (b cmp : Nat → Word) : List Acc :=
  (lanesOf c.mask).map fun i =>
    { mkAcc i (c.src64 f.a i).toNat (f.ty.width / 8) (b i) (cmp i) with dev := (c.src32 f.b i).toNat }

/-- The D register of a lane: the data of FST, the compare value of FATOM.cas. -/
def fabReg (c : Ctx) (f : FA) (i : Nat) : Word := BitVec.ofNat 64 (c.srcT f.ty (.v f.d) i)

/-- The slot of a per-lane fabric instruction. -/
def fabSlot (s : State) (i : Instr) (w : Bool) (accs : Ctx → List Acc) : Out :=
  tailSlot s i fun s g _ c p fin =>
    withFab s g c (accs c) w fun l => fin s c (.commitOp { p with accs := l, mask := c.mask })

def execFst (f : FA) (s : State) : Out := fabSlot s (.fst f) true fun c => fabAccs c f (fabReg c f) fun _ => 0
def execFld (f : FA) (s : State) : Out := fabSlot s (.fld f) false fun c => fabAccs c f (fun _ => 0) fun _ => 0
def execFatom (f : FA) (s : State) : Out :=
  fabSlot s (.fatom f) true fun c => fabAccs c f (fun i => BitVec.ofNat 64 (c.srcT f.ty f.c i)) (fabReg c f)
def execFfence (f : FA) (s : State) : Out :=
  fabSlot s (.ffence f) true fun c =>
    [{ mkAcc 96 (c.uni f.a).toNat (f.ty.width / 8) (BitVec.ofNat 64 (c.uniT f.ty f.c)) 0 with dev := (c.uni f.b).toNat % 2 ^ 32 }]

/-- COLL: its descriptor is checked as a 64-byte load, and FABRIC is raised while the fabric is off: of the two, the first in rank (R190). -/
def execColl (f : FS) (s : State) : Out :=
  tailSlot s (.coll f) fun s g gr c p fin =>
    withChecked s g gr c true { r := true } [mkAcc 96 (c.uni f.o).toNat 64 0 0] fun s l away =>
      if !s.fab.en then raise s g c .fabric c.mask 0 0
      else match away with
        | [] => fin s c (.commitOp { p with accs := l })
        | _ => parkPages s g c.entry (pagesOf away false)

/-- FWAITC: FABRIC while the fabric is off (R337). -/
def execFwaitc (f : FS) (s : State) : Out :=
  tailSlot s (.fwaitc f) fun s g _ c p fin => if !s.fab.en then raise s g c .fabric c.mask 0 0 else fin s c (.commitOp p)

end Sys2Proof.Machine
end

