-- ==== Sys2Proof/Machine/Matrix.lean ====
section
/-! DEFINITION. The group side of the matrix unit at its slots: MFEED, MFEEDT, MDRAIN, FORK, RDV (R249 to R253). What they do at commit
stands in Run. -/
namespace Sys2Proof.Machine
open Sys2Proof

/-- A slot of a group instruction on the matrix unit: what its tile operand refuses, then NOCTX unless its gang owns the context
(R190, R256), then its own checks. -/
def mxSlot (s : State) (i : Instr) (tile : State → Group → Ctx → Option (Cause × Nat))
    (k : State → Nat → Group → Ctx → POp → (State → Ctx → Tail → State) → State) : Out :=
  tailSlot s i fun s g gr c p fin =>
    match tile s gr c with
    | some x => raise s g c x.1 c.mask x.2 0
    | none => if !ownsMx s gr then raise s g c .matrix c.mask 0 0x40 else k s g gr c p fin

/-- MFEED: row0 is taken at its full 64 bits (DESIGN CHOICE, notes/assumptions/66). -/
def execMfeed (f : F3) (s : State) : Out :=
  mxSlot s (.mfeed f) (fun _ _ _ => none) fun s g _ c p fin =>
    let row0 := c.uni f.b
    if row0.toNat > 63 then raise s g c .matrix c.mask 0 0x48
    else fin s c (.commitOp { p with b := row0, mask := c.exec f.p })

/-- The element size of a handle as the clause sees it, in bytes. -/
def tileEsz (s : State) (b : BlockId) (h : Nat) : Option Nat := ((s.block? b).bind fun x => x.tiles.find? h).map (·.esz)

/-- The first element index that a matrix slot's base operand names. -/
def mxBase (c : Ctx) (f : F3) : Nat := (c.uni f.b).toNat % 2 ^ 32

/-- The 4,096 bytes from byte offset base × element size must lie in MFEEDT's tile. -/
def feedTile (f : F3) (s : State) (gr : Group) (c : Ctx) : Option (Cause × Nat) :=
  let t := tileOps s gr.block c.tops
  let base := mxBase c f
  match tileEsz t gr.block f.a.field with
  | none => some (.tilebound, 0)
  | some esz =>
    ((List.range (4096 / esz)).find? fun k => (elemAt t gr.block f.a.field (base + k) esz).isNone).map fun k => (.tilebound, (base + k) * esz)

/-- MFEEDT. -/
def execMfeedt (f : F3) (s : State) : Out :=
  mxSlot s (.mfeedt f) (feedTile f) fun s _ gr c p fin =>
    let esz := (tileEsz (tileOps s gr.block c.tops) gr.block f.a.field).getD 1
    fin s c (.commitOp { p with b := BitVec.ofNat 64 (mxBase c f), aux := esz })

/-- MDRAIN to registers: sel and n in range. -/
def execMdrain (f : F3) (s : State) : Out :=
  mxSlot s (.mdrain f) (fun _ _ _ => none) fun s g _ c p fin =>
    let sel := (c.uni f.b).toNat % 2 ^ 32
    let n := f.c.field - 384
    if sel ≥ 128 ∨ (f.ty = .b64 ∧ sel ≥ 64) ∨ sel % 64 + n > 64 then raise s g c .matrix c.mask 0 0x48
    else fin s c (.commitOp { p with b := BitVec.ofNat 64 sel, mask := c.exec f.p })

/-- Elements that MDRAIN.TL writes: those of an accumulator of the format that TYPE asks for. -/
def drainCount (t : Ty) : Nat := if t = .b64 then 4096 else 8192

/-- The elements that MDRAIN.TL writes must lie in its tile, in chunks that no stream copy owns. -/
def drainTile (f : F3) (s : State) (gr : Group) (c : Ctx) : Option (Cause × Nat) :=
  let t := tileOps s gr.block c.tops
  let h := f.c.field
  let esz := f.ty.width / 8
  let is := (List.range (drainCount f.ty)).map fun k => mxBase c f + k
  match is.find? (fun i => (elemAt t gr.block h i esz).isNone), is.find? fun i => chunkOwned t gr.block h i esz with
  | some i, _ => some (.tilebound, i * esz)
  | none, some i => some (.tilebusy, i * esz)
  | none, none => none

/-- MDRAIN to a tile. -/
def execMdrainTl (f : F3) (s : State) : Out :=
  mxSlot s (.mdrainTl f) (drainTile f) fun s _ _ c p fin =>
    fin s c (.commitOp { p with b := BitVec.ofNat 64 (mxBase c f), mask := c.mask })

/-- FORK: the entry address. -/
def execFork (f : FS) (s : State) : Out :=
  tailSlot s (.fork f) fun s g _ c p fin =>
    if (c.uni f.o).toNat % 8 ≠ 0 then raise s g c .align c.mask 0 0 else fin s c (.commitOp { p with a := c.uni f.o })

def execRdv (f : FS) (s : State) : Out := opSlot s (.rdv f) fun _ _ p => p

end Sys2Proof.Machine
end

