-- ==== Sys2Proof/Machine/System.lean ====
section
/-! DEFINITION. Control registers, time, counters, signatures, traps, the recorder's instructions, SPAWN and TDEP at their slots (R109,
R127 to R129, R186, R188, R372, R373). -/
namespace Sys2Proof.Machine
open Sys2Proof

/-! ### Control registers (R127, R128) -/

/-- DIMS. -/
def dimsWord (t : Task) : Nat := t.lr.gangs - 1 + (t.lr.groups - 1) * 2 ^ 24 + (t.lr.blocks - 1) * 2 ^ 28

/-- A control register's value at clause start (R128). -/
def csrValue (s : State) (gr : Group) (c : Ctx) (num : Nat) : Word :=
  let t := taskOf s gr
  let k := c.ctl0
  let x := gr.ent c.entry
  match num with
  | 0x000 => BitVec.ofNat 64 (gr.lgn % 2 ^ 21 + gr.gix * 2 ^ 24)
  | 0x001 => BitVec.ofNat 64 gr.block.bid
  | 0x002 => BitVec.ofNat 64 gr.block.gang.kid
  | 0x003 => BitVec.ofNat 64 (match t with | some t => t.handle | none => 0)
  | 0x004 => BitVec.ofNat 64 (match t with | some t => dimsWord t | none => 0)
  | 0x008 => ccrWord x.cc (c.mask == 0)
  | 0x010 => BitVec.ofNat 64 (b2n k.ftz)
  | 0x011 => k.srseed
  | 0x012 => k.srctr
  | 0x018 => BitVec.ofNat 64 (b2n k.seen * 2 ^ 63 + k.region)
  | 0x019 => k.sig.setWidth 64
  | 0x01A => k.spncnt
  | 0x020 => k.flt.word
  | 0x021 => (maskWord k.flt.m 0).setWidth 64
  | 0x022 => (maskWord k.flt.m 1).setWidth 64
  | 0x023 => (maskWord k.flt.m 2).setWidth 64
  | _ => BitVec.ofNat 64 (b2n k.hintdrop)

/-- A value written to the destination of an FS instruction at its slot. -/
def osSlot (s : State) (i : Instr) (f : FS) (fn : State → Nat → Group → Ctx → State × Ctx × Word) : Out :=
  slot s i fun g gr c =>
    let r := fn s g gr c
    let q := r.2.1.putS (gr.ent c.entry).own (osReg f.o) false r.2.2
    endSlot r.1 g q.1 i (some q.2)

def execCsrr (f : FS) (s : State) : Out :=
  osSlot s (.csrr f) f fun s g gr c =>
    let num := f.imm.toNat
    let v := csrValue s gr c num
    if num = 0x028 then
      let o := outside s g gr c 3 v.toNat
      (s, o.2, BitVec.ofNat 64 o.1)
    else (s, c, v)

/-- CSRW: the value is kept for the commit. -/
def execCsrw (f : FS) (s : State) : Out :=
  slot s (.csrw f) fun g _ c => endSlot s g { c with csrw := c.csrw ++ [(c.slot, f.imm.toNat, c.uni f.o)] } (.csrw f) none

/-! ### TIME, PERF, NOP (R129) -/

def execTime (f : FS) (s : State) : Out :=
  osSlot s (.time f) f fun s g gr c =>
    let r := readTime s
    let o := outside r.2 g gr c 1 r.1.toNat
    (r.2, o.2, BitVec.ofNat 64 o.1)

/-- What a counter counted up to the start of the clause, modulo 2^64. -/
def perfValue (c : Ctx) (k : Nat) : Word := BitVec.ofNat 64 (AList.get c.perf0 k 0)

def execPerf (f : FS) (s : State) : Out :=
  osSlot s (.perf f) f fun s g gr c =>
    let o := outside s g gr c 2 (perfValue c f.imm.toNat).toNat
    (s, o.2, BitVec.ofNat 64 o.1)

def execNop (f : FS) (s : State) : Out := slot s (.nop f) fun g _ c => endSlot s g c (.nop f) none

/-! ### Signatures and traps (R186, R188) -/

def execSigchk (f : FI) (s : State) : Out := opSlot s (.sigchk f) fun _ _ p => p
def execTrap (f : FS) (s : State) : Out := opSlot s (.trap f) fun _ _ p => p
def execTrapAbort (f : FS) (s : State) : Out := opSlot s (.trapAbort f) fun _ _ p => p
def execBrk (f : FS) (s : State) : Out := opSlot s (.brk f) fun _ _ p => p

/-! ### The recorder (R372, R373) -/

def execRecmark (f : FS) (s : State) : Out := opSlot s (.recmark f) fun _ c p => { p with a := c.uni f.o }

/-- RECMODE: item 0, recorded and paired; item 1, chunks the fragment has ended, up to the start of the clause: one that an observation
of this clause ends at its header (R364) is not counted, as replay may cut there before the clause or during it. -/
def recmodeWord (s : State) (gr : Group) (c : Ctx) (item : Nat) : Nat :=
  match partOfTask s gr.block.gang.slot with
  | none => 0
  | some p =>
    let r := rpart s p
    let ch := (gr.ent c.entry).chunk
    if item = 0 then 1 + 2 * b2n (if r.mode = 1 then r.pair else r.origPair) else ch.ended - b2n (ch.count == 0 && ch.cause == 1)
def execRecmode (f : FS) (s : State) : Out :=
  osSlot s (.recmode f) f fun s _ gr c => (s, c, BitVec.ofNat 64 (recmodeWord s gr c f.imm.toNat))

/-! ### SPAWN and TDEP (R109) -/

def execSpawn (f : FS) (s : State) : Out :=
  tailSlot s (.spawn f) fun s g gr c p fin =>
    withAccs s g gr c true { r := true } [mkAcc 96 (c.uni f.o).toNat 256 0 0] fun s l => fin s c (.commitOp { p with accs := l })
def execTdep (f : FS) (s : State) : Out := opSlot s (.tdep f) fun _ c p => { p with a := c.uni f.o }

end Sys2Proof.Machine
end

