-- ==== Sys2Proof/Machine/Shape.lean ====
section
/-! DEFINITION. Shape records and copy descriptors as they stand in memory (R210, R212). -/
namespace Sys2Proof.Machine
open Sys2Proof

/-- The element TYPEs of tiles and shape records (R182). -/
def elemTypes : List Ty :=
  [.i8, .n8, .e4m3, .e5m2, .i16, .n16, .f16, .bf16, .i32, .n32, .b32, .f32, .bf16x2, .f16x2, .i64, .n64, .b64, .f64]

/-- The ranges of R212 for a record of a known element type. -/
def shapeOk (t : Ty) (r : ShapeRec) (bs : List Byte) : Bool :=
  let esz := t.width / 8
  decide (1 ≤ r.rank) && decide (r.rank ≤ 5) && decide (r.xform ≤ 3) && fieldOf bs 0x0B 1 == 0
    && decide (r.padval < 2 ^ (min t.width 32))
    && ((List.range 5).all fun k =>
      let e := r.ext.getD k 0
      if k < r.rank then decide (1 ≤ e) && decide (e ≤ 16777216) else e == 0)
    && ((List.range 4).all fun k =>
      let x := r.stride.getD k 0
      if k + 1 < r.rank then (if esz = 0 then true else x % esz == 0) else x == 0)
    && (if r.rank = 1 then r.padl1 == 0 && r.padh1 == 0 else true)
    && (if r.xform = 3 then r.gidx % 4 == 0 else r.gidx == 0)
    && (if r.xform = 0 then true else decide (r.rank ≥ 2))
    && (if r.xform = 1 then t.width == 8 else if r.xform = 2 then t.width == 16 else true)

/-- A shape record of 64 bytes; `ok`: every field is in its range, its TYPE one that R182 accepts. -/
def parseShape (bs : List Byte) : ShapeRec :=
  let r : ShapeRec :=
    { base := fieldOf bs 0 8, rank := fieldOf bs 8 1, ety := WF.tyOfCode (fieldOf bs 9 1), xform := fieldOf bs 0x0A 1, padval := fieldOf bs 0x0C 4,
      ext := (List.range 5).map fun k => fieldOf bs (0x10 + 4 * k) 4, stride := (List.range 4).map fun k => fieldOf bs (0x24 + 4 * k) 4,
      padl0 := fieldOf bs 0x34 1, padh0 := fieldOf bs 0x35 1, padl1 := fieldOf bs 0x36 1, padh1 := fieldOf bs 0x37 1,
      gidx := fieldOf bs 0x38 8, ok := false }
  match r.ety with
  | some t => { r with ok := elemTypes.contains t && shapeOk t r bs }
  | none => r

end Sys2Proof.Machine
end

