-- ==== Sys2Proof/Machine/CoreClauses.lean ====
section
/-! DEFINITION. The matrix control core: its clauses, scalar instructions, memory accesses and transfers (R229 to R237). -/
namespace Sys2Proof.Machine
open Sys2Proof

/-- The control core whose clause is issuing, with a slot left. -/
def coreIssuing? (s : State) : Option (Nat × Mx × CoreClause) :=
  match s.cur with
  | some (.core l) =>
    let m := s.mxD l
    match m.clause with
    | some c => if m.run && !m.stopped && decide (c.slot < c.words.length) then some (l, m, c) else none
    | none => none
  | _ => none

/-- One slot of a control-core clause: it stalls while a CLD or a reservation is outstanding (R232). -/
def coreSlot (s : State) (k : Nat → Mx → CoreClause → State) : Out :=
  match coreIssuing? s with
  | none => .refused .notIssuing
  | some (l, m, c) => .next (if c.wait = [] then k l m c else s)

/-- The requests and reservations of a core go. -/
def dropCoreReqs (s : State) (l : Nat) : State :=
  { s with m := { s.m with reqs := s.m.reqs.filter (fun r => !(r.orig == .core l && r.kind == .load)),
                           resv := s.m.resv.filter fun r => r.lgn != agentOfCore l } }

/-- What follows the stop: the forking group takes MATRIX, the others CORESTOP (R59, R255). -/
def coreStopped (s : State) (l : Nat) : State :=
  let s1 : State := { dropCoreReqs s l with cur := match s.cur with | some (.core k) => if k = l then none else s.cur | c => c }
  let s2 := wakeAll s1
  match (s2.mxD l).owner with | some g => retireGang s2 g | none => s2

/-- The owning gang is killed for uncorrectable data that its core consumed (R33, R406). -/
def coreUncorr (s : State) (l : Nat) : State :=
  match (s.mxD l).owner with | some g => wakeAll (killGang s g 0x0F) | none => s
def coreFault (s : State) (l code holder daddr : Nat) : State :=
  if code = 0x0F then coreUncorr s l else coreStopped (stopCore s l code holder daddr) l
def coreFaultAt (s : State) (l ia k code holder daddr : Nat) : State :=
  if code = 0x0F then coreUncorr s l else coreStopped (stopCoreAt s l ia k code holder daddr) l

/-! ### Commit (R232, R41) -/

/-- The held stores become requests, in slot order. -/
def coreStores (s : State) (l : Nat) (m : Mx) (c : CoreClause) : State :=
  foldS s c.stores fun s a =>
    let f := freshId s
    addReq f.2 { id := f.1, kind := .store, agent := agentOfCore l, orig := .core l, seq := m.seq * 16 + 15, ct := a.ct, accs := [a],
                 iaddr := c.addr }

/-- The clause of a core commits, and the core goes on at `pc`. -/
def coreCommit (s : State) (l pc : Nat) : State :=
  let m := s.mxD l
  match m.clause with
  | none => s
  | some c =>
    let s1 := coreStores s l m c
    { s1.setMx l { m with clause := none, pc, seq := m.seq + 1 } with cur := none }

/-- The header after a clause. -/
def CoreClause.next (c : CoreClause) : Nat := c.addr + 8 * (c.words.length + 1)

/-- A clause whose last slot has issued commits when nothing is outstanding. -/
def coreSettle (s : State) (l : Nat) : State :=
  match (s.mxD l).clause with
  | some c => if c.slot = c.words.length ∧ c.wait = [] then coreCommit s l c.next else s
  | none => s

/-- The slot is done: on to the next, with the context changed as given. -/
def coreNext (s : State) (l : Nat) (m : Mx) (c : CoreClause) : State :=
  coreSettle (s.setMx l { m with clause := some { c with slot := c.slot + 1 }, waitPage := none }) l

/-! ### Scalar instructions (R233, R234) -/

/-- The second operand. -/
def caV (m : Mx) (f : CA) : Word := if f.i then f.imm.signExtend 64 else m.getC f.b.toNat

/-- A result in cD. -/
def coreAlu (s : State) (f : CA) (op : Word → Word → Word) : Out :=
  coreSlot s fun l m c => coreNext s l (m.setC f.d.toNat (op (m.getC f.a.toNat) (caV m f))) c

def execCadd (f : CA) (s : State) : Out := coreAlu s f fun a v => a + v
def execCsub (f : CA) (s : State) : Out := coreAlu s f fun a v => a - v
def execCmul (f : CA) (s : State) : Out := coreAlu s f fun a v => a * v
def execCand (f : CA) (s : State) : Out := coreAlu s f fun a v => a &&& v
def execCor (f : CA) (s : State) : Out := coreAlu s f fun a v => a ||| v
def execCxor (f : CA) (s : State) : Out := coreAlu s f fun a v => a ^^^ v
def execCshl (f : CA) (s : State) : Out := coreAlu s f fun a v => if v.toNat ≥ 64 then 0 else a <<< v.toNat
def execCshr (f : CA) (s : State) : Out :=
  coreAlu s f fun a v =>
    if f.x = 1 then (if v.toNat ≥ 64 then (if a.msb then BitVec.allOnes 64 else 0) else a.sshiftRight v.toNat)
    else if v.toNat ≥ 64 then 0 else a >>> v.toNat
def execCmovi (f : CA) (s : State) : Out := coreSlot s fun l m c => coreNext s l (m.setC f.d.toNat (f.imm.signExtend 64)) c
def execCmoviHi (f : CA) (s : State) : Out :=
  coreSlot s fun l m c => coreNext s l (m.setC f.d.toNat (f.imm ++ (m.getC f.d.toNat).setWidth 32 : BitVec 64)) c

/-- The core's flags as condition codes. -/
def Mx.cc (m : Mx) : CC := { z := m.fz, n := m.fn, c := m.fc, v := m.fv }

def execCcmp (f : CA) (s : State) : Out :=
  coreSlot s fun l m c =>
    let x := cmpFlags 64 (m.getC f.a.toNat).toNat (caV m f).toNat m.cc
    coreNext s l { m with fz := x.z, fn := x.n, fc := x.c, fv := x.v } c

/-! ### Memory (R229, R235) -/

def corePasid (s : State) (m : Mx) : Nat := match m.owner with | some g => pasidOf s g.slot | none => 0
def coreClu (s : State) (l : Nat) : Nat := (physClu s l).getD 0

/-- One access of a core: its checks, then `k`. A page that is not resident makes the core wait (R218, R229). -/
def coreAccess (s : State) (l : Nat) (m : Mx) (va size : Nat) (need : Need) (k : State → Acc → BitVec 2 → State) : State :=
  if va % size ≠ 0 then coreFault s l 0x03 0 va
  else
    let r := translateIn s true (coreClu s l) (corePasid s m) va need
    match r.2 with
    | .ok pa ct => k r.1 { mkAcc 96 va size 0 0 with pa, ct, tgen := (frameAt r.1 (pa / 4096)).tgen } ct
    | .fault cause => coreFault (faultAsk r.1 (corePasid s m) cause.code va need.w false) l cause.code 0 va
    | .retype _ => r.1
    | .nonres =>
      -- while RF is set the request is answered Invalid at once (R328)
      if s.m.rf then coreFault r.1 l 0x05 0 va else
      (requestPage r.1 (corePasid s m) (va / 4096) need.w false).setMx l { m with waitPage := some (va / 4096, need.w) }

/-- The address of CLD and CST. -/
def coreAddr (m : Mx) (f : CA) : Nat := (m.getC f.a.toNat + f.imm.signExtend 64).toNat
def coreSize (f : CA) : Nat := if f.x = 1 then 4 else 8

/-- CLD: the request goes out, and the core stalls until its data returns. -/
def execCld (f : CA) (s : State) : Out :=
  coreSlot s fun l m c =>
    coreAccess s l m (coreAddr m f) (coreSize f) { r := true } fun s a ct =>
      let w := forward [{ slot := 0, tok := none, ord := 0, scope := 0, accs := c.stores }] a.pa a.size
      let i := freshId s
      let q : Req := { id := i.1, kind := .load, agent := agentOfCore l, orig := .core l, seq := m.seq * 16 + c.slot, ct,
                       accs := [{ a with fwd := w.1, b := BitVec.ofNat 64 w.2 }], x := f.d.toNat, iaddr := c.addr + 8 * (c.slot + 1) }
      coreNext (addReq i.2 q) l m { c with wait := [i.1] }

/-- CST: held until commit. It reserves nothing: where the hold partition has no room it waits at its home (R270, R303). -/
def execCst (f : CA) (s : State) : Out :=
  coreSlot s fun l m c =>
    coreAccess s l m (coreAddr m f) (coreSize f) { w := true } fun s a _ =>
      coreNext s l m { c with stores := c.stores ++ [{ a with b := m.getC f.b.toNat }] }

/-! ### Transfers (R236) -/

def cbTarget (c : CoreClause) (f : CB) : Nat := (BitVec.ofNat 64 c.addr + f.ofs.signExtend 64 * 8).toNat

/-- A transfer: the clause commits and the core goes on at the target. -/
def coreJump (s : State) (l : Nat) (m : Mx) (pc : Nat) : State := coreCommit (s.setMx l { m with waitPage := none }) l pc

def execCbr (f : CB) (s : State) : Out :=
  coreSlot s fun l m c => coreJump s l m (if condHolds f.cond.toNat m.cc false then cbTarget c f else c.next)
def execCloop (f : CB) (s : State) : Out :=
  coreSlot s fun l m c =>
    let m1 := m.setC f.a.toNat (m.getC f.a.toNat - 1)
    coreJump s l m1 (if m1.getC f.a.toNat ≠ 0 then cbTarget c f else c.next)
def execCjmp (f : CA) (s : State) : Out :=
  coreSlot s fun l m _ =>
    let t := (m.getC f.a.toNat).toNat
    if t % 8 ≠ 0 then coreFault s l 0x03 0 0 else coreJump s l m t

/-- CEXIT: the exit rendezvous completes for all its arrivals (R237); groups parked on the others take EXITED. A gang that waited for its
core alone retires (R228). -/
def execCexit (f : CA) (s : State) : Out :=
  coreSlot s fun l m c =>
    let v := m.getC f.a.toNat
    let s1 := coreJump s l m c.next
    let m1 := s1.mxD l
    let x := m1.rdvD m.xr
    let s2 := wakeAll (s1.setMx l { m1.setRdv m.xr (x.complete x.arrivals.length v) with run := false, exitVal := some v })
    match m.owner with | some g => retireGang s2 g | none => s2

/-! ### CRDV (R237) -/

def execCrdv (f : CA) (s : State) : Out :=
  coreSlot s fun l m c =>
    let r := f.x.toNat
    let k := f.imm.toNat
    let x := m.rdvD r
    if x.arrivals.length < k || agentBusy s (agentOfCore l) then s
    else
      let s1 := release s (agentOfCore l) 3
      wakeAll (coreNext s1 l (m.setRdv r (x.complete k (m.getC f.a.toNat))) c)

end Sys2Proof.Machine
end

