-- ==== Sys2Proof/Machine/CoreMatrix.lean ====
section
/-! DEFINITION. The matrix instructions of the control core: MZERO to MWAIT (R241 to R248). Each takes effect when it issues (R232). -/
namespace Sys2Proof.Machine
open Sys2Proof

/-- Every participating array. -/
def Mx.allArr (m : Mx) (p : Array8 → Bool) : Bool := m.parts.all fun c => p (m.arrD c)
def Mx.anyArr (m : Mx) (p : Array8 → Bool) : Bool := m.parts.any fun c => p (m.arrD c)
def Mx.eachArr (m : Mx) (f : Array8 → Array8) : Mx := m.parts.foldl (fun m c => m.setArr c (f (m.arrD c))) m

/-- A slot of a matrix instruction, on the settled context. -/
def mxCoreSlot (s : State) (k : Nat → Mx → CoreClause → State) : Out := coreSlot s fun l m c => k l m.settled c

/-- MZERO waits until the accumulator is OPEN everywhere and no issued MMA still works on it. -/
def execMzero (f : CM) (s : State) : Out :=
  mxCoreSlot s fun l m c =>
    let n := f.mc.toNat
    if (m.anyArr fun a => (a.mcD n).published) || m.jobs.any fun j => j.mma && j.mc == n then s
    else coreNext s l (m.eachArr fun a => a.setMc n { wide := f.ty == some .f64 }) c

/-- Array cycles of an MMA (R238). -/
def mmaCycles (t : Ty) : Nat := if t = .f32 ∨ t = .f64 then 256 else 128

/-- MMA: waits, the faults REUSE and FORMAT, then the sum on every array (R242). -/
def execMma (f : CM) (s : State) : Out :=
  mxCoreSlot s fun l m c =>
    let t := f.ty.getD .f32
    let mc := f.mc.toNat
    let ma := f.ma.toNat
    let bs := f.bs.toNat
    if m.jobs.any (·.mma) || !(m.allArr fun a => arrayReady a mc ma) || !(m.bD bs).loaded then s
    else if f.r && m.anyArr fun a => match a.latch with | some k => k != ma | none => false then coreFault s l 0x42 0 0
    else if m.anyArr fun a => (a.mcD mc).wide != (t == .f64) then coreFault s l 0x44 0 0
    else
      let m1 := m.eachArr (mmaArray t f.r mc ma (m.bD bs))
      let w := freshFree s
      let st := { m1.stamp with nmma := m1.stamp.nmma + 1, compc := m1.stamp.compc + mmaCycles t, waitc := m1.stamp.waitc + (Config.stampCycles w.1).toNat }
      wakeAll (coreNext w.2 l { m1 with jobs := m1.jobs ++ [⟨true, mc, ma, bs, false⟩], stamp := st } c)

/-! ### Operands from tiles (R244, R245) -/

/-- What a read by the core comes to. -/
inductive CRead where
  | ok (bs : List Byte)
  | fault (code holder daddr : Nat)
  | wait (page : Option Nat)
  deriving DecidableEq, Repr

/-- `n` bytes of a block's handle from an element on. -/
def tileRead (s : State) (b : BlockId) (h base n : Nat) : CRead :=
  match tileEsz s b h with
  | none => .fault 0x0B 0 0
  | some esz =>
    let is := (List.range (n / esz)).map fun k => base + k
    if is.any fun i => (elemAt s b h i esz).isNone then .fault 0x0B 0 0
    else if is.any fun i => chunkAway s b h i esz then .wait none
    else .ok (is.flatMap fun i => leBytes esz (elemRead s b h i esz))

/-- The home block, and the block of the owning gang whose array is `c`. -/
def homeBlock (m : Mx) : Option BlockId := m.owner.map fun g => ⟨g, m.home⟩
def arrayBlock (s : State) (m : Mx) (c : Nat) : Option BlockId :=
  m.owner.bind fun g => (blocksOfGang s g).find? fun b => match s.block? b with | some x => x.cu % 8 == c && !x.retired | none => false

/-- Bytes as an association list from 0 on. -/
def byteMap (bs : List Byte) : AList Nat Byte := (List.range bs.length).zip bs

/-- MSCALE.a: 256 bytes of each array's own block. -/
def execMscaleA (f : CM) (s : State) : Out :=
  mxCoreSlot s fun l m c =>
    let ma := f.ma.toNat
    let base := (m.getC f.cb.toNat).toNat
    if m.jobs.any fun j => j.mma && j.ma == ma then s
    else
      let rs := m.parts.map fun k => (k, match arrayBlock s m k with | some b => tileRead s b f.th.toNat base 256 | none => .fault 0x0B 0 0)
      if rs.any fun r => match r.2 with | .fault .. => true | _ => false then coreFault s l 0x0B 0 0
      else if rs.any fun r => match r.2 with | .wait _ => true | _ => false then s
      else coreNext s l (rs.foldl (fun m r => match r.2 with
        | .ok bs => m.setArr r.1 ((m.arrD r.1).setMa ma { (m.arrD r.1).maD ma with scales := byteMap bs })
        | _ => m) m) c

/-- MSCALE.b: 512 bytes of the home block. -/
def execMscaleB (f : CM) (s : State) : Out :=
  mxCoreSlot s fun l m c =>
    let bs := f.bs.toNat
    if m.jobs.any fun j => j.mma && j.bs == bs then s
    else match homeBlock m with
      | none => coreFault s l 0x0B 0 0
      | some b => match tileRead s b f.th.toNat (m.getC f.cb.toNat).toNat 512 with
        | .ok x => coreNext s l { m with b := m.b.put bs { m.bD bs with scales := byteMap x } } c
        | .fault code h d => coreFault s l code h d
        | .wait _ => s

/-- Bytes of a B image (R240). -/
def imageBytes (t : Ty) : Nat := if t = .f64 then 4096 else 8192

/-- A slot begins to load: its bytes are there, the loaded bit comes with MLDB_COMPLETION. -/
def loadSlotB (s : State) (l : Nat) (m : Mx) (c : CoreClause) (bs : Nat) (bytes : List Byte) (mem : Bool) : State :=
  coreNext s l { m with b := m.b.put bs { m.bD bs with loaded := false, bytes := byteMap bytes }, jobs := m.jobs ++ [⟨false, 0, 0, bs, mem⟩] } c

/-- A slot that an issued MMA has still to read, or that is loading. -/
def slotBusy (m : Mx) (bs : Nat) : Bool := m.jobs.any fun j => j.bs == bs

/-- MLDB from a tile of the home block. -/
def execMldb (f : CM) (s : State) : Out :=
  mxCoreSlot s fun l m c =>
    let bs := f.bs.toNat
    if slotBusy m bs then s
    else match homeBlock m with
      | none => coreFault s l 0x0B 0 0
      | some b => match tileRead s b f.th.toNat (m.getC f.cb.toNat).toNat (imageBytes (f.ty.getD .f32)) with
        | .ok x => loadSlotB s l m c bs x false
        | .fault code h d => coreFault s l code h d
        | .wait _ => s

/-! ### MLDB from memory (R229, R245) -/

/-- `n` bytes of memory through the tensor translation unit. -/
def coreRead (l clu pasid : Nat) : Nat → State → Nat → State × CRead
  | 0, s, _ => (s, .ok [])
  | n + 1, s, va =>
    let r := translateIn s true clu pasid va { r := true }
    match r.2 with
    | .fault cause => (faultAsk r.1 pasid cause.code va false false, .fault cause.code 0 va)
    | .retype _ => (r.1, .wait none)
    | .nonres => (r.1, .wait (some (va / 4096)))
    | .ok pa _ =>
      match engineRead r.1 (if isDev pa then [pa / 4] else []) with
      | .wait => (r.1, .wait none)
      | .clear ls => (foldS r.1 ls sendBi, .wait none)
      | .go =>
      let s1 := bringAll r.1 (if isDev pa then [pa / 4] else [])
      match unitJudge s1 (agentOfCore l) pa with
      | some (code, h) => (s1, .fault code h va)
      | none =>
        let q := coreRead l clu pasid n s1 ((va + 1) % 2 ^ 64)
        match q.2 with
        | .ok bs => (q.1, .ok ((physRead s1 pa 1).headD 0 :: bs))
        | x => (q.1, x)

/-- Watchpoints see what the core reads of memory (R415). -/
def coreWatch (s : State) (l clu pasid : Nat) (vas : List Nat) : State :=
  let ws := (vas.filterMap fun va => match (translateIn s true clu pasid va { r := true }).2 with
    | .ok pa _ => if isDev pa then some (pa / 4) else none
    | _ => none).dedup
  let slot := match (s.mxD l).owner with | some g => g.slot | none => 2 ^ 17
  foldS s ((ws.map (· / 32)).dedup) fun s n => watch s 1 0 (agentOfCore l) slot n (wmaskOf (ws.filter fun w => w / 32 == n)) clu none

/-- The rows of a B operand: each row's bytes, padded with zeros to a whole row. -/
def coreRows (l clu pasid rowLen nb stride : Nat) : Nat → State → Nat → State × CRead
  | 0, s, _ => (s, .ok [])
  | n + 1, s, va =>
    let r := coreRead l clu pasid nb s va
    match r.2 with
    | .ok x =>
      let q := coreRows l clu pasid rowLen nb stride n r.1 ((va + stride) % 2 ^ 64)
      match q.2 with
      | .ok y => (q.1, .ok (takeZ rowLen x ++ y))
      | z => (q.1, z)
    | z => (r.1, z)

/-- The shape record serves a B operand of the type (R245). What R212 asks of a record beside what R245 names is not asked here, but for an
extent of 0, which names no element (DESIGN CHOICE, notes/assumptions/66). -/
def shapeFits (t : Ty) (sh : ShapeRec) : Bool :=
  sh.rank == 2 && sh.ety.any (fun e => e.width == t.width) && sh.xform == 0 && sh.padl0 == 0 && sh.padh0 == 0 && sh.padl1 == 0 && sh.padh1 == 0
    && decide (1 ≤ sh.ext.getD 0 0) && decide (1 ≤ sh.ext.getD 1 0)
    && decide (sh.ext.getD 0 0 ≤ mmaN t) && decide (sh.ext.getD 1 0 ≤ mmaK t) && (t != .e2m1 || sh.ext.getD 0 0 % 2 == 0)

/-- MLDB through a shape record. -/
def execMldbM (f : CM) (s : State) : Out :=
  mxCoreSlot s fun l m c =>
    let bs := f.bs.toNat
    let t := f.ty.getD .f32
    let ca := (m.getC f.ca.toNat).toNat
    let clu := coreClu s l
    let pasid := corePasid s m
    let hold := fun (s : State) (page : Option Nat) => match page with
      | some p => if s.m.rf then coreFault s l 0x05 0 (p * 4096) else (requestPage s pasid p false false).setMx l { m with waitPage := some (p, false) }
      | none => s
    if slotBusy m bs || agentBusy s (agentOfCore l) then s
    else if ca % 64 ≠ 0 then coreFault s l 0x03 0 ca
    else
      let r := coreRead l clu pasid 64 s ca
      match r.2 with
      | .fault code h d => coreFault r.1 l code h d
      | .wait p => hold r.1 p
      | .ok rec =>
        let sh := parseShape rec
        let s1 := coreWatch r.1 l clu pasid ((List.range 64).map (ca + ·))
        if !shapeFits t sh then coreFault s1 l 0x43 0 ca
        else
          let nb := sh.ext.getD 0 0 * t.width / 8
          let first := sh.base + (m.getC f.cb.toNat).toNat
          let q := coreRows l clu pasid (mmaN t * t.width / 8) nb (sh.stride.getD 0 0) (sh.ext.getD 1 0) s1 (first % 2 ^ 64)
          let vas := (List.range (sh.ext.getD 1 0)).flatMap fun k => (List.range nb).map fun j => (first + k * sh.stride.getD 0 0 + j) % 2 ^ 64
          match q.2 with
          | .fault code h d => coreFault q.1 l code h d
          | .wait p => hold q.1 p
          | .ok x =>
            let s2 := coreWatch q.1 l clu pasid vas
            loadSlotB s2 l m c bs x true

/-! ### Publication, stamps, waits (R246 to R248) -/

def execMpub (f : CM) (s : State) : Out :=
  mxCoreSlot s fun l m c =>
    let n := f.mc.toNat
    if m.jobs.any fun j => j.mma && j.mc == n then s
    else if m.anyArr fun a => (a.mcD n).published then coreFault s l 0x47 0 0
    else wakeAll (coreNext s l (m.eachArr fun a => a.setMc n (a.mcD n).publish) c)

def execMstamp (f : CM) (s : State) : Out :=
  mxCoreSlot s fun l m c =>
    let r := readTime s
    let st := match f.x.toNat with
      | 0 => { m.stamp with tin0 := r.1 }
      | 1 => { m.stamp with tin1 := r.1 }
      | _ => { m.stamp with tout0 := r.1 }
    coreNext r.2 l { m with stamp := st } c

/-- A counter of a stamp record saturates. -/
def sat32 (n : Nat) : Nat := min n (2 ^ 32 - 1)

/-- The record MDONE writes. -/
def stampBytes (m : Mx) (l : Nat) (tile done : Word) : List Byte :=
  leBytes 8 tile.toNat ++ leBytes 8 m.stamp.tin0.toNat ++ leBytes 8 m.stamp.tin1.toNat ++ leBytes 8 m.stamp.tout0.toNat ++ leBytes 8 done.toNat
    ++ leBytes 4 (sat32 m.stamp.waitc) ++ leBytes 4 (sat32 m.stamp.compc) ++ leBytes 4 m.stamp.nmma ++ leBytes 2 l
    ++ leBytes 1 m.parts.length ++ leBytes 1 (b2n m.stamp.stopped) ++ leBytes 8 0

/-- The record that a replayed log holds for the core's next MDONE, and the log without it (R247, R369). -/
def logStamp (s : State) (slot l : Nat) : Option (List Byte × State) :=
  (replaying s slot).bind fun p =>
    let r := rpart s p
    match r.log.findIdx? fun b => fieldOf b 0 1 == 5 && fieldOf b 1 1 == 7 && fieldOf b 4 4 == agentOfCore l with
    | none => none
    | some k =>
      some ((((r.log.drop (k + 1)).take 3).flatMap fun b => b.drop 4).take 64, setRpart s p { r with log := r.log.take k ++ r.log.drop (k + 4) })

/-- The values an MDONE writes are logged, or come from the log. -/
def stampRecord (s : State) (slot l : Nat) (bs : List Byte) : List Byte × State :=
  match logStamp s slot l with
  | some x => x
  | none =>
    match recording s slot with
    | none => (bs, s)
    | some p =>
      let e := eventFor s (agentOfCore l) []
      let s1 := emit e.2 p ⟨1, l⟩ (rowBytes 5 7 0 3 (agentOfCore l) 0 0 0) (some e.1)
      (bs, emitData s1 p ⟨1, l⟩ bs)

/-- MDONE waits for every issued MMA, then writes its record as a store-release at device scope. A cA that is no multiple of 64 stops the core
with ALIGN, as R245 says of MLDB's (DESIGN CHOICE, notes/assumptions/66). -/
def execMdone (f : CM) (s : State) : Out :=
  mxCoreSlot s fun l m c =>
    if m.jobs.any (·.mma) || (m.owner.any fun g => slotStalls s g.slot) then s
    else coreAccess s l m (m.getC f.ca.toNat).toNat 64 { w := true } fun s a ct =>
      if ct ≠ 0 then coreFault s l 0x07 0 a.va
      else
        let r := readTime s
        let slot := match m.owner with | some g => g.slot | none => 0
        let b := stampRecord r.2 slot l (stampBytes m l (m.getC f.cb.toNat) r.1)
        let i := freshId (trace b.2 slot 5 0 0 (agentOfCore l) (m.getC f.cb.toNat).toNat 0 (a.va % 2 ^ 32))
        let accs := (List.range 8).map fun k => { mkAcc 96 (a.va + 8 * k) 8 (BitVec.ofNat 64 (fieldOf b.1 (8 * k) 8)) 0 with pa := a.pa + 8 * k }
        let q : Req := { id := i.1, kind := .store, agent := agentOfCore l, orig := .core l, seq := m.seq * 16 + c.slot, ct, ord := 2, scope := 4,
                         accs, iaddr := c.addr + 8 * (c.slot + 1) }
        coreNext (addReq i.2 q) l { m with stamp := {} } c

/-- The registers a mask names. -/
def maskBits (m : BitVec 8) : List Nat := (List.range 8).filter fun k => m.getLsbD k

def execMwaitPub (f : CM) (s : State) : Out :=
  mxCoreSlot s fun l m c =>
    if (maskBits f.mask).all fun n => m.allArr fun a => !(a.mcD n).published then coreNext s l m c else s
def execMwaitA (f : CM) (s : State) : Out :=
  mxCoreSlot s fun l m c =>
    if (maskBits f.mask).all fun n => m.allArr fun a => (a.maD n).full then coreNext s l m c else s

end Sys2Proof.Machine
end

