-- ==== Sys2Proof/Machine/Issue.lean ====
section
/-! DEFINITION. What a step does next: the head of the agenda, or the next word of the clause that issues; and how a word is put where
the next step fetches it. -/
namespace Sys2Proof.Machine
open Sys2Proof

/-! ### A group at its start (R71, R96, R184) -/

def groupEnts (kentry : Nat) : List Entry :=
  { valid := true, own := allLanes, mask := allLanes, pc := kentry } :: List.replicate 15 {}

/-- A group as placement starts it. -/
def freshGroup (lgn : Nat) (b : BlockId) (gix part : Nat) (lr : LRec) : Group :=
  let seed : Word := lr.taskseed ^^^ (BitVec.ofNat 64 (b.gang.kid * 2 ^ 8 + b.bid * 2 ^ 4 + gix) * 0xD6E8FEB86659FD93)
  { lgn, block := b, gix, part, vregs := lr.vregs, regs := { s := [(0, lr.argptr)] }, ents := groupEnts lr.kentry
    ctl := { srseed := seed, region := lr.kentry } }

/-! ### The next thing to do -/

/-- The instructions of clauses; the other rows of the table are operations of the engines. -/
def Instr.isWord (i : Instr) : Bool := i.opcode != 0xFF

/-- An instruction to carry out in a state, or an outcome already known. -/
inductive Todo where
  | run (i : Instr) (s : State)
  | out (o : Out)

/-- The word that the agent under way issues; none when it has nothing to issue, or its cluster's clock is stopped. A word that is
no instruction raises ILLOP (R57). -/
def nextWord (s : State) : Option Todo :=
  match s.cur with
  | none => none
  | some (.grp g) =>
    match s.group? g with
    | none => none
    | some gr =>
      match gr.ctx with
      | none => none
      | some c =>
        if c.slot < c.words.length ∧ groupRuns s gr = true then
          match decodeVec (c.words.getD c.slot 0) with
          | .ok i => some (.run i s)
          | .error _ => some (.out (.next (raise s g c .illop c.mask 0 0)))
        else none
  | some (.core l) =>
    match (s.mxD l).clause with
    | none => none
    | some c =>
      if c.slot < c.words.length ∧ (physClu s l).any (clockRuns s) = true then
        match decodeCore (c.words.getD c.slot 0) with
        | .ok i => some (.run i s)
        | .error _ => some (.out (.next (coreFault s l 0x01 0 0)))
      else none

/-- What can still happen after a device failure: the host resets the device, or power goes and comes (R35). -/
def Instr.afterFailure : Instr → Bool
  | .reset | .powerOn _ _ => true
  | _ => false

/-- What recovery lets in (R430). -/
def Instr.inRecovery : Instr → Bool
  | .reset | .powerOn _ _ | .firmwareUpdate _ => true
  | _ => false

/-- The agenda's head, or the next word of the agent under way; a machine with neither is idle. -/
def nextTodo (s : State) : Todo :=
  match s.agenda with
  | .event i :: t =>
    if Instr.isWord i then .out (.refused .notIssuing)
    else if s.plat.failed && !Instr.afterFailure i then .out (notEnabled "DEVICE_FAILURE")
    else if s.plat.recovery && !Instr.inRecovery i then .out (notEnabled "POWER_ON")
    else .run i { s with agenda := t }
  | .issue r :: t =>
    match nextWord { s with agenda := t, cur := some r } with
    | some x => x
    | none => .out (.refused .notIssuing)
  | [] =>
    match nextWord s with
    | some x => x
    | none => .out (.next s)

/-! ### A word where the next step fetches it -/

/-- A launch record of a task that asks for nothing but one group. -/
def plainRec : LRec :=
  { ty := 1, idem := false, graphid := 0, pasid := 0, kentry := 0, gangs := 1, blocks := 1, groups := 1, vregs := 128, tiles := 32, spad := 131072,
    extdep := 0, nin := 0, nout := 0, taskseed := 0, argptr := 0, copytab := 0, pred := [], graphtab := 0, nodes := 0, stamp := 0, seq := 0 }

/-- The header of a clause of one vector instruction. -/
def plainHeader : Header := { eng := 0, cnt := 0, wait := 0, rgn := false, stay := false }

/-- A clause of one word that a fragment issues. -/
def wordCtx (gr : Group) (e : Nat) (w : Word) : Ctx :=
  let x := gr.ent e
  { entry := e, addr := x.pc, hdr := plainHeader, words := [w], mask := x.mask, am := x.mask, cc := x.cc, view := gr.regs, ctl0 := gr.ctl,
    perf0 := gr.perf }

/-- A task with one group, all of whose fields are those of a task just placed; it takes slot and number 0. -/
def placePlain (s : State) : State :=
  let g : GangId := ⟨0, 0⟩
  let b : BlockId := ⟨g, 0⟩
  { s with
    tasks := s.tasks.put 0 { slot := 0, gen := 0, queue := 0, order := 0, lr := plainRec, st := .running, nextKid := 1 }
    gangs := s.gangs.put g { id := g, lclu := 0 }
    blocks := s.blocks.put b { id := b, cu := 0, base := 0, spad := 131072, ntiles := 32 }
    groups := s.groups.put 0 (freshGroup 0 b 0 0 plainRec)
    frz := { s.frz with clus := s.frz.clus.put 0 { cluD s 0 with lclu := some 0 } } }

/-- The clock of a cluster that is stopped runs. -/
def clockOn (s : State) (c : Nat) : State := if clockRuns s c then s else setClu s c { cluD s c with stopped := false }

/-- The word becomes the only instruction of a clause of the group under way, or of group 0, which is placed if there is none; the
agenda, which would come first, is emptied, and a stopped clock runs. -/
def placeGroupWord (s : State) (w : Word) : State :=
  let g := match s.cur with | some (.grp g) => g | _ => 0
  let s1 := match s.group? g with | some _ => s | none => placePlain s
  let h := match s.group? g with | some _ => g | none => 0
  let put := fun (gr : Group) =>
    let gr1 := { gr with status := .resident }
    match gr.ctx with
    | some c => { gr1 with ctx := some { c with words := [w], slot := 0 } }
    | none => { gr1 with ctx := some (wordCtx gr1 0 w) }
  let clu := match s1.group? h with | some gr => cluOfCu gr.cu | none => 0
  { (clockOn s1 clu).updGroup h put with agenda := [], cur := some (.grp h) }

/-- The same for a control core: the one under way, or that of group 0's gang, which is forked with every register zero if it has not
been. -/
def placeCoreWord (s : State) (w : Word) : State :=
  let s1 := match s.group? 0 with | some _ => s | none => placePlain s
  let g : GId := match s1.group? 0 with | some gr => gr.block.gang | none => ⟨0, 0⟩
  let l := match s.cur with | some (.core k) => k | _ => lcluOf s1 g
  let m := s1.mxD l
  let m1 := if m.owner.isNone then freshMx g (gangArrays s1 g) else m
  let c : CoreClause := match m1.clause with
    | some c => { c with words := [w], slot := 0, wait := [] }
    | none => { addr := m1.pc, hdr := { plainHeader with eng := 1 }, words := [w] }
  let s2 := clockOn s1 ((physClu s1 l).getD 0)
  { s2.setMx l { m1 with run := true, stopped := false, clause := some c } with agenda := [], cur := some (.core l) }

/-- A word that only the control core's decoder knows is placed there; every other word in a vector clause (R57, R58). -/
def placeWord (s : State) (w : Word) : State :=
  match decodeVec w, decodeCore w with
  | .error _, .ok _ => placeCoreWord s w
  | _, _ => placeGroupWord s w

end Sys2Proof.Machine
end

