-- ==== Sys2Proof/Machine/VectorEvents.lean ====
section
/-! DEFINITION. Operations of the vector engine: fetch, selection, commit, tokens, late faults, halts and retirement (R17, R39, R41, R47,
R56, R120 to R124, R174, R192). -/
namespace Sys2Proof.Machine
open Sys2Proof

/-! ### CLAUSE_FETCH (R39, R56, R174) -/

/-- A fault at the header a fragment stands at. -/
def headerFault (s : State) (g e : Nat) (x : Entry) (cause : Cause) (page : Nat) : State :=
  deliver s g e { cause, iaddr := x.pc, lanes := x.mask, sub := 2 + page } false

/-- The page of the first word of a range whose fetch meets a cause. -/
def badPage (s : State) (cu pasid va n : Nat) (cause : Cause) : Nat :=
  match (List.range n).find? fun k => (translate s cu pasid (va + 8 * k) { x := true }).2 == .fault cause with
  | some k => (va + 8 * k) / 4096
  | none => va / 4096

/-- The fault of an entry word (R56, R174). -/
def entryFault (vregs ntiles : Nat) (w : Word) : Option Cause :=
  let n := w.toNat
  let v := bits n 15 8
  let t := bits n 21 16
  if bits n 7 0 ≠ 0xFF ∨ bits n 63 22 ≠ 0 ∨ v < 16 ∨ v > 128 ∨ v % 8 ≠ 0 ∨ t > 32 then some .illop
  else if v > vregs ∨ t > ntiles then some .budget
  else none

/-- Pages that a fetch waits for, as `parkPages` takes them. -/
def fetchPages (ps : List Nat) : List (Nat × Bool × Bool) := ps.map fun p => (p, false, true)

/-- A fetch of `n` words from an address that fails: a fault that names the header, a park, or a restart after a retype (R39). -/
def fetchFails (s : State) (g e : Nat) (x : Entry) (cu pasid va n : Nat) (r : Fetch) : State :=
  match r with
  | .fault cause => headerFault s g e x cause (badPage s cu pasid va n cause)
  | .nonres ps => parkPages s g e (fetchPages ps)
  | .retype f => parkRetype s g e f
  | .ok _ => s

/-- The clause is whole: the decoder's checks, then it waits or is ready (R120). -/
def clauseIn (s : State) (g e : Nat) (gr : Group) (x : Entry) (c : Clause) : State :=
  match wordsCheck gr.vregs 0 {} c.words with
  | some (k, cause) => deliver s g e { cause, iaddr := c.addr + 8 * (k + 1), lanes := x.mask } false
  | none =>
    let s1 := putEnt s g e fun x => { x with st := .waiting, clause := some c, call := none }
    recheck s1 g

/-- The clause at a fragment's header is fetched and decoded. -/
def fetchAt (s : State) (g e : Nat) (gr : Group) (x : Entry) : State :=
  let cu := gr.cu
  let pasid := pasidOf s gr.block.gang.slot
  let entry := match x.call with
    | some _ => fetchWord s false cu pasid ((x.pc + 2 ^ 64 - 8) % 2 ^ 64)
    | none => (s, .ok [])
  let ntiles := match s.block? gr.block with | some b => b.ntiles | none => 0
  match x.call, entry.2 with
  | some p, .ok [w] =>
    match entryFault gr.vregs ntiles w with
    | some cause =>
      deliver (putEnt entry.1 g e fun x => { x with call := none }) g e { cause, iaddr := p.iaddr, lanes := x.mask } true
    | none =>
      let r := fetchClause entry.1 false cu pasid 0 x.pc
      match r.2 with
      | .ok c => clauseIn r.1 g e gr x c
      | .error f => fetchFails r.1 g e x cu pasid x.pc 17 f
  | _, .ok _ =>
    let r := fetchClause s false cu pasid 0 x.pc
    match r.2 with
    | .ok c => clauseIn r.1 g e gr x c
    | .error f => fetchFails r.1 g e x cu pasid x.pc 17 f
  | _, f =>
    let r := fetchClause entry.1 false cu pasid 0 x.pc
    let va := (x.pc + 2 ^ 64 - 8) % 2 ^ 64
    match r.2 with
    | .ok _ => fetchFails r.1 g e x cu pasid va 1 f
    | .error q => fetchFails r.1 g e x cu pasid va 18 (f.join q)

/-- The core's header is fetched; it waits for a page that is not resident (R229, R232). -/
def fetchCore (s : State) (l : Nat) (m : Mx) : State :=
  let pasid := corePasid s m
  let r := fetchClause s true (coreClu s l) pasid 1 m.pc
  match r.2 with
  | .ok c =>
    if c.hdr.wait != 0 || c.hdr.rgn || c.hdr.stay then coreFaultAt r.1 l m.pc 0 0x01 0 0
    else match coreCheck 0 c.words with
      | some (k, cause) => coreFaultAt r.1 l (m.pc + 8 * (k + 1)) k cause.code 0 0
      | none => { r.1.setMx l { m with clause := some { addr := c.addr, hdr := c.hdr, words := c.words } } with cur := some (.core l) }
  | .error (.fault cause) => coreFaultAt r.1 l m.pc 0 cause.code 0 0
  | .error (.nonres (p :: ps)) =>
    if s.m.rf then coreFaultAt r.1 l m.pc 0 0x05 0 0
    else (foldS r.1 (p :: ps) fun s p => requestPage s pasid p false true).setMx l { m with waitPage := some (p, false) }
  | .error _ => r.1

/-- A fragment that stands at a header: a late fault first, then a halt, then the operation a fault interrupted, then the fetch
(R42, R124, R192). For a control core, `g` is its agent number. -/
def execClauseFetch (g e : Nat) (s : State) : Out :=
  if agentKind g = 2 then
    let l := agentIndex g
    let m := s.mxD l
    when "CLAUSE_FETCH" (m.run && !m.stopped && m.clause.isNone && m.waitPage.isNone && (physClu s l).any (clockRuns s)) (fetchCore s l m)
  else match s.group? g with
  | none => notEnabled "CLAUSE_FETCH"
  | some gr =>
    let x := gr.ent e
    if !(x.valid && decide (x.st = .fetching) && decide (x.park = .none) && groupRuns s gr) then notEnabled "CLAUSE_FETCH"
    else if x.late != [] && lateMay s gr g e then .next (wakeAll (settleLate s g e))
    else if x.haltReq then .next (delivery (haltFrag s g e (x.haltOn.getD 256)) g e 7 0)
    else match x.resume with
      | some p =>
        let s1 := putEnt s g e fun x => { x with resume := none }
        .next (wakeAll (settleRan g e p (runOp s1 g e p)))
      | none => .next (fetchAt s g e gr x)

/-! ### Selection and ageing (R121 to R123) -/

/-- The fault that stops a clause at its start: a token of its own that is still set (R48 rule 3), or a region it may not begin
(R187). -/
def startFault (gr : Group) (e : Nat) (c : Clause) : Option FaultInfo :=
  let lanes := (gr.ent e).mask
  if regionBad gr e c then some { cause := .illop, iaddr := c.addr, lanes }
  else (tokenClash gr e c).map fun k => { cause := .illop, iaddr := c.addr + 8 * (k + 1), lanes }

def execFragmentSelect (p : Nat) (s : State) : Out :=
  if partBusy s p || !clockRuns s (cluOfCu (cuOfPart p)) then notEnabled "FRAGMENT_SELECT"
  else match selectFrag s p with
  | none => notEnabled "FRAGMENT_SELECT"
  | some (g, e) =>
    match s.group? g with
    | none => notEnabled "FRAGMENT_SELECT"
    | some gr =>
      match (gr.ent e).clause with
      | none => notEnabled "FRAGMENT_SELECT"
      | some c =>
        match startFault gr e c with
        | some info => .next (deliver (putEnt s g e fun x => { x with st := .fetching, clause := none }) g e info false)
        | none => .next { startClause s g e c with cur := some (.grp g) }

/-- A ready fragment has been ready for 256 core cycles. -/
def execAgeingForce (g e : Nat) (s : State) : Out :=
  match s.group? g with
  | none => notEnabled "AGEING_FORCE"
  | some gr =>
    let x := gr.ent e
    when "AGEING_FORCE" (x.valid && decide (x.st = .ready) && !x.forced && groupRuns s gr && !recorderHolds s gr e)
      (putEnt s g e fun x => { x with forced := true, age := 256 })

/-! ### Commit (R41) -/

/-- The clause of a group, or of a control core whose agent number is given, commits once nothing is outstanding; one that has met a
fault is abandoned. -/
def execClauseCommit (g : Nat) (s : State) : Out :=
  if agentKind g = 2 then
    let l := agentIndex g
    match (s.mxD l).clause with
    | none => notEnabled "CLAUSE_COMMIT"
    | some c => when "CLAUSE_COMMIT" (c.slot == c.words.length && c.wait == []) (coreSettle s l)
  else match s.group? g with
  | none => notEnabled "CLAUSE_COMMIT"
  | some gr =>
    match gr.ctx with
    | none => notEnabled "CLAUSE_COMMIT"
    | some c =>
      if c.faults != [] && c.wait == [] then when "CLAUSE_COMMIT" (groupRuns s gr) (takeFaults s g)
      else when "CLAUSE_COMMIT" (commitReady c && commitMay s gr c && groupRuns s gr) (commitClause s g)

/-! ### TOKEN_CLEAR (R47, R178, R183, R306, R349) -/

/-- The value a lane received. -/
def Pend.val (p : Pend) (i : Nat) : Nat := match List.find? (fun (x : Nat × Word) => x.1 == i) p.vals with | some x => x.2.toNat | none => 0

/-- The lanes that received a value. -/
def Pend.got (p : Pend) : Mask := maskOf fun i => p.vals.any fun x => x.1 == i

/-- The residency flags of a load (R178). -/
def flagLand (p : Pend) (f : FM) : List (Nat × Mask × Mask) := if f.f = 15 then [] else [(f.f.toNat, p.mask, p.nres)]

/-- A load's writes: each executing lane's value, or zero where its page was not resident. -/
def loadLand (p : Pend) (f : FM) (wide : Bool) (ext : Nat → Nat) : Land :=
  let l := if f.nw then {} else landV f.d p.mask wide fun i => ext (p.val i)
  { l with q := flagLand p f }
def sldLand (p : Pend) (f : FM) : Land :=
  { s := if f.nw then [] else [(f.d.toNat, BitVec.ofNat 64 (p.val 96))], q := flagLand p f }

/-- A tile load's writes. -/
def tldLand (p : Pend) (f : F3) (ext : Nat → Nat) : Land := if f.nw then {} else landV f.d p.mask f.ty.wide fun i => ext (p.val i)

/-- An atomic's old values, in the lanes that received one. -/
def oldLand (p : Pend) (f : FA) : Land := if f.nw then {} else landV f.d (p.mask &&& p.got) f.ty.wide p.val

/-- What a scalar register takes of a value of a type (R145). -/
def scalarOf (t : Ty) (x : Nat) : Word := BitVec.ofNat 64 (widen t 64 x)

/-- The writes of a result whose values have all come. -/
def Pend.writes (p : Pend) : Land :=
  match p.instr with
  | .ldN8 f => loadLand p f false id
  | .ldI8 f => loadLand p f false (widen .i8 32)
  | .ldN16 f => loadLand p f false id
  | .ldI16 f => loadLand p f false (widen .i16 32)
  | .ldB32 f => loadLand p f false id
  | .ldB64 f => loadLand p f true id
  | .sldB32 f => sldLand p f
  | .sldB64 f => sldLand p f
  | .tld f => tldLand p f (if f.ty.wide then id else widen f.ty 32)
  | .tldXp8 f => tldLand p f id
  | .tldXp16 f => tldLand p f id
  | .atom f => oldLand p f
  | .satom f => if f.nw || p.vals == [] then {} else { s := [(f.d.toNat, scalarOf f.ty (p.val 96))] }
  | .fld f => oldLand p f
  | .fatom f => oldLand p f
  | _ => p.land

/-- Everything a token waits for has come. -/
def Pend.ready (p : Pend) (t : Nat) : Bool := p.tok == some t && p.committed && p.wait == [] && p.tiles == [] && !p.mc

def execTokenClear (g t : Nat) (s : State) : Out :=
  match s.group? g with
  | none => notEnabled "TOKEN_CLEAR"
  | some gr =>
    match gr.pend.findIdx? fun p => p.ready t with
    | none => notEnabled "TOKEN_CLEAR"
    | some k =>
      if !groupRuns s gr && !(decide (gr.status = .exited) && ctxRuns s (lcluOf s gr.block.gang)) then notEnabled "TOKEN_CLEAR"
      else
        let s1 := s.updGroup g fun gr => { gr with pend := gr.pend.eraseIdx k }
        let p := gr.pend.getD k { tok := none, frag := 0, instr := .nop ⟨0, .k 0, 0⟩ }
        let s2 := if p.dead then s1 else landAll s1 g p.frag p.writes
        .next (wakeAll (recheck s2 g))

/-! ### LATE_FAULT_REPORT (R180, R192) -/

/-- The refused lanes as a fault: the cause ranked first, its lanes, the first one's holder and address. -/
def refusedInfo (q : Req) : Option FaultInfo :=
  match q.refused.foldl (fun m x => Cause.first m (some x.1)) none with
  | none => none
  | some c =>
    let bad := q.refused.filter fun x => x.1 == c
    let h := (bad.drop 1).foldl (fun m x => if x.2.1 < m.2.1 then x else m) (bad.headD (c, 0, 0, 0))
    some { cause := c, iaddr := q.iaddr, lanes := maskOf fun i => bad.any fun x => x.2.1 == i, holder := h.2.2.2, daddr := h.2.2.1,
           sub := b2n !q.isLoad }

/-- Takes a request out of what tokens and clauses wait for. -/
def unwait (s : State) (lgn id : Nat) : State :=
  s.updGroup lgn fun gr => { gr with pend := gr.pend.map fun p => { p with wait := p.wait.filter (· != id) } }

/-- Old values reach the token that waits for them. -/
def giveOld (s : State) (q : Req) : State :=
  match q.orig with
  | .grp g _ => s.updGroup g fun gr => { gr with pend := gr.pend.map fun p => if p.wait.contains q.id then { p with vals := p.vals ++ q.vals } else p }
  | .core _ => s

/-- A request is over for its agent: its old values and its response have come. -/
def answered (s : State) (q : Req) : State :=
  match q.orig with
  | .grp g _ => settleChunk (unwait (dropReq (giveOld s q) q.id) g q.id) g q.split
  | .core _ => dropReq s q.id

/-- A refusal reaches the fragment that made the request. -/
def groupLate (s : State) (g e : Nat) (q : Req) (info : FaultInfo) : State :=
  reportLate (answered s q) g e { seq := q.seq / 16, slot := q.seq % 16, info }

/-- A refusal reaches the agent that made the request. -/
def lateTo (s : State) (q : Req) (info : FaultInfo) : State :=
  match q.orig with
  | .grp g e => groupLate s g e q info
  | .core l => coreFaultAt (dropReq s q.id) l q.iaddr (q.seq % 16) info.cause.code info.holder info.daddr

/-- The refusals of all requests of one atomic are one report, of the lanes of all (R306), once each is performed; of other
instructions the request's own. -/
def lateWhole (s : State) (q : Req) : Option (State × Req) :=
  if !q.performed then none
  else if !q.isAtomic then some (s, q)
  else
    let mates := s.m.reqs.filter fun x => x.isAtomic && x.agent == q.agent && x.seq == q.seq && x.id != q.id
    if mates.any fun x => !x.performed then none
    else
      let q1 := { q with refused := q.refused ++ mates.flatMap (·.refused) }
      some (foldS (setReq s q1) mates answered, q1)

def execLateFaultReport (r : Nat) (s : State) : Out :=
  match (findReq s r).bind (lateWhole s) with
  | none => notEnabled "LATE_FAULT_REPORT"
  | some (s1, q) =>
    match refusedInfo q with
    | none => notEnabled "LATE_FAULT_REPORT"
    | some info => .next ((parkForReq s q.orig 0 (.late r)).getD (wakeAll (lateTo s1 q info)))

/-! ### Halts (R124, R410) -/

/-- At once where the fragment stands at a clause boundary, its group resident or swapped out; after its clause, or after its park,
otherwise. In a context whose clock is stopped nothing changes before the restore (R385). -/
def execDebugHalt (cap g e : Nat) (s : State) : Out :=
  match s.group? g with
  | none => notEnabled "DEBUG_HALT"
  | some gr =>
    let x := gr.ent e
    if !(mayHalt s cap g && x.valid && decide (x.st ≠ .joinWait) && decide (x.st ≠ .halted)
        && (decide (gr.status = .resident) || decide (gr.status = .swapped)) && ctxRuns s (lcluOf s gr.block.gang)
        && !slotStalls s gr.block.gang.slot) then
      notEnabled "DEBUG_HALT"
    else if x.st = .issuing ∨ x.st = .parked then .next (putEnt s g e fun x => { x with haltReq := true, haltOn := some cap })
    else .next (delivery (haltFrag s g e cap) g e 7 0)

/-- A fragment goes on after a halt. -/
def resumeFrag (s : State) (g e : Nat) : State :=
  putEnt s g e fun x => { x with st := .fetching, waitk := 0, park := .none, haltOn := none, haltReq := false }

/-- The fault of a fragment, for which its block was to be swapped out, is released (R104). -/
def releaseFault (s : State) (g e : Nat) : State :=
  match s.group? g with
  | none => s
  | some gr => s.updBlock gr.block fun b =>
      match b.why with
      | .fault g' e' _ => if g' = g ∧ e' = e then { b with why := .none } else b
      | _ => b

/-- BUDGET and SPLITOV wait for a debugger (R192). -/
def awaitsDebugger (s : State) (gr : Group) (x : Entry) : Bool :=
  decide (x.park = .service) &&
    (match s.block? gr.block with
     | some b => (match b.why with | .fault _ _ code => code == Cause.budget.code || code == Cause.splitov.code | _ => false)
     | none => false)

/-- A halted fragment, or one whose fault waits for a debugger, goes on; one whose block is swapped out does so when it returns. -/
def execDebugResume (cap g e : Nat) (s : State) : Out :=
  match s.group? g with
  | none => notEnabled "DEBUG_RESUME"
  | some gr =>
    let x := gr.ent e
    when "DEBUG_RESUME" (mayHalt s cap g && x.valid && (decide (x.st = .halted) || awaitsDebugger s gr x)
        && (decide (gr.status = .resident) || decide (gr.status = .swapped)) && ctxRuns s (lcluOf s gr.block.gang))
      (releaseFault (resumeFrag s g e) g e)

/-! ### Retirement (R17) -/

def execGroupRetire (g : Nat) (s : State) : Out :=
  match s.group? g with
  | none => notEnabled "GROUP_RETIRE"
  | some gr => when "GROUP_RETIRE" (decide (gr.status = .exited) && groupQuiet s g && ctxRuns s (lcluOf s gr.block.gang)) (wakeAll (retireGroup s g))

def execBlockRetire (b : BlockId) (s : State) : Out := when "BLOCK_RETIRE" (blockReady s b) (wakeAll (retireBlock s b))

end Sys2Proof.Machine
end

