-- ==== Sys2Proof/Machine/Copy.lean ====
section
/-! DEFINITION. Copies: their accesses, chunks, the arbitration between instances, source claims, flags and completion (R209 to R226). -/
namespace Sys2Proof.Machine
open Sys2Proof

/-! ### Accesses (R216 to R218, R221) -/

/-- What a copy's access comes to. -/
inductive CopyR (α : Type) where
  | ok (v : α)
  | nonres (page : Nat) (w : Bool)
  /-- a retype, or another access under way at the home: it waits -/
  | held
  /-- lines that the host may have modified: they come back first -/
  | away (lines : List Nat)
  | fault (code holder daddr : Nat)
  deriving Repr

/-- A fault, a page, a wait: the same of an access that gives something else. -/
def CopyR.as {α β : Type} (f : α → CopyR β) : CopyR α → CopyR β
  | .ok v => f v
  | .nonres p w => .nonres p w
  | .held => .held
  | .away ls => .away ls
  | .fault c h d => .fault c h d

/-- The translation of a copy's access through its cluster's tensor translation unit. -/
def copyPa (s : State) (clu pasid va : Nat) (w : Bool) : CopyR Nat :=
  let r := translateIn s true clu pasid va { r := !w, w }
  -- a stale entry has gone, so the second attempt walks
  let x := match r.2 with | .retype _ => (translateIn r.1 true clu pasid va { r := !w, w }).2 | x => x
  match x with
  | .ok pa _ => .ok pa
  | .fault c => .fault c.code 0 va
  | .nonres => .nonres (va / 4096) w
  | .retype _ => .held

/-- The word of a device address; host memory has no tags. -/
def devWord (pa : Nat) : List Nat := if isDev pa then [pa / 4] else []

/-- `n` bytes a copy reads, with the words they lie in: each byte at its home's turn, then judged there. -/
def copyRead (s : State) (agent clu pasid : Nat) : Nat → Nat → CopyR (List Byte × List Nat)
  | 0, _ => .ok ([], [])
  | n + 1, va => (copyPa s clu pasid va false).as fun pa =>
    match engineRead s (devWord pa) with
    | .wait => .held
    | .clear ls => .away ls
    | .go =>
      match unitJudge (bringIn s (pa / 128)) agent pa with
      | some (code, h) => .fault code h va
      | none => (copyRead s agent clu pasid n ((va + 1) % 2 ^ 64)).as fun r => .ok ((physRead s pa 1).headD 0 :: r.1, devWord pa ++ r.2)

/-- Where a gather's row begins in the table (R213 step 2): none for a row of padding. -/
def rowVa (d : CopyDesc) (off idx : Nat) : Option Nat :=
  if idx ≥ d.shape.ext.getD 1 0 then none else some ((d.shape.base + off + idx * d.shape.stride.getD 0 0) % 2 ^ 64)

/-- The bytes of one element of an input (R213). A gather's index is the one read ahead, if it has been. -/
def elementBytes (s : State) (x : Inst) (i : Nat) : CopyR (List Byte × List Nat) :=
  let d := x.desc
  let rd := copyRead s (x.agent s) x.clu (x.pasid s)
  let row := fun (off idx : Nat) (seen : List Nat) => match rowVa d off idx with
    | none => CopyR.ok (padBytes d, seen)
    | some va => (rd d.shape.esz va).as fun q => .ok (q.1, seen ++ q.2)
  match sourceOf d (if d.cls = 0 then 0 else x.disp) i with
  | .pad => .ok (padBytes d, [])
  | .mem va => rd d.shape.esz va
  | .via at_ off => match x.idx.find? at_ with
    | some idx => row off idx []
    | none => (rd 4 at_).as fun r => row off (leNat r.1) r.2

/-- The bytes of several elements. -/
def elementsBytes (s : State) (x : Inst) : List Nat → CopyR (List Byte × List Nat)
  | [] => .ok ([], [])
  | i :: t => (elementBytes s x i).as fun a => (elementsBytes s x t).as fun b => .ok (a.1 ++ b.1, a.2 ++ b.2)

/-- The physical places of bytes that a copy writes. -/
def copyPlaces (s : State) (clu pasid : Nat) : List (Nat × Byte) → CopyR (List (Nat × Nat × Byte))
  | [] => .ok []
  | (va, b) :: t => (copyPa s clu pasid va true).as fun pa => (copyPlaces s clu pasid t).as fun r => .ok ((va, pa, b) :: r)

/-- The verdict on the words a copy writes: none if they may all be written. -/
def copyJudge (s : State) (agent : Nat) (ps : List (Nat × Nat × Byte)) : Option (Nat × Nat × Nat) :=
  ps.findSome? fun p =>
    let w := p.2.1 / 4
    match homeType s p.2.1 with
    | 0 => (writeRace s agent [w]).map fun h => (0x08, h, p.1)
    | 2 =>
      let whole := (List.range 4).all fun k => ps.any fun q => q.2.1 == 4 * w + k
      if whole && wstOf s w == 0 then none else some (0x07, 0, p.1)
    | _ => some (0x07, 0, p.1)

/-- The words of bytes. -/
def wordsOfPs (ps : List (Nat × Nat × Byte)) : List Nat := (ps.map fun p => p.2.1 / 4).dedup

/-- A write by a copy at the homes of its words: `ord` 2 makes it a store-release at device scope. -/
def copyStore (s : State) (agent ord : Nat) (ps : List (Nat × Nat × Byte)) : State :=
  unpoison (foldS (bringAll s (wordsOfPs ps)) ps fun s p => homeWrite s agent 896 p.2.1 [p.2.2] 0 ord (if ord = 2 then 4 else 0))
    (ps.map fun p => (p.2.1, 1))

/-- Watchpoints see what an instance reads or writes (R416, R417). -/
def copyWatch (s : State) (x : Inst) (what : Nat) (ws : List Nat) : State :=
  let extra := x.clu + x.copy % 256 * 2 ^ 16 + x.desc.queue % 4 * 2 ^ 24
  foldS s (linesOfWords ws) fun s l =>
    watch s what 4 (x.agent s) x.slot l (wmaskOf (ws.filter fun w => w / 32 == l)) extra none (if x.desc.cls = 0 then none else some x.block)

/-! ### A chunk (R219) -/

/-- What moving the next chunk of an instance would do. -/
inductive Move where
  /-- the chunk's bytes land in the tile; the words read -/
  | tile (bs : List Byte) (read : List Nat)
  /-- the chunk's bytes, the words read, and the bytes still to be written, at some of whose lines the turn has come -/
  | mem (bs : List Byte) (read : List Nat) (ps : List (Nat × Nat × Byte))
  | wait
  | ask (page : Nat) (w : Bool)
  /-- copies of lines that a write needs gone, with its words; lines a read needs back from the host -/
  | inval (ws lines : List Nat)
  | back (lines : List Nat)
  /-- `w`: it is a write that faults (R329) -/
  | fault (code holder daddr : Nat) (w : Bool)
  deriving Repr

/-- The bytes of one line. -/
def onLine (ps : List (Nat × Nat × Byte)) (l : Nat) : List (Nat × Nat × Byte) := ps.filter fun p => p.2.1 / 128 == l
/-- The lines of bytes, in their order. -/
def linesOfPs (ps : List (Nat × Nat × Byte)) : List Nat := ((ps.map fun p => p.2.1 / 128).reverse.dedup).reverse

/-- A copy's turn at one line that it writes: it waits for room at that line alone (R216, R270). -/
def lineTurn (s : State) (agent ord : Nat) (ps : List (Nat × Nat × Byte)) (l : Nat) : Turn :=
  if storeRoom s agent l ord 4 then engineTurn s (wordsOfPs (onLine ps l)) else .wait

/-- The write half of a chunk or a flag: whether it may be, and what must go first. Lines written already are left out. -/
def memMove (s : State) (x : Inst) (ord : Nat) (vs : List (Nat × Byte)) (bs : List Byte) (read : List Nat) : Move :=
  let agent := x.agent s
  match copyPlaces s x.clu (x.pasid s) vs with
  | .nonres p w => .ask p w
  | .held => .wait
  | .away ls => .back ls
  | .fault c h d => .fault c h d true
  | .ok all =>
    let ps := all.filter fun p => !x.part.contains (p.2.1 / 128)
    if wordsFrozen s (wordsOfPs ps) then .wait
    else match copyJudge s agent ps with
    | some (c, h, d) => .fault c h d true
    | none =>
      let turns := (linesOfPs ps).map (lineTurn s agent ord ps)
      if ps == [] || turns.any (· == .go) then .mem bs read ps
      else match turns.findSome? fun t => match t with | .clear ls => some ls | _ => none with
        | some ls => .inval (wordsOfPs ps) ls
        | none => .wait

/-- The chunk's bytes: read already, or to be read now; an output's come from its tile. -/
def chunkSource (s : State) (x : Inst) : CopyR (List Byte × List Nat) :=
  match x.buf with
  | some bs => .ok (bs, [])
  | none =>
    if x.desc.cls = 2 then .ok (x.chunkEls.flatMap fun i => leBytes x.desc.shape.esz (elemRead s x.block x.desc.tile i x.desc.shape.esz), [])
    else elementsBytes s x x.chunkEls

/-- Where the bytes of a chunk go in memory. -/
def chunkDest (x : Inst) (bs : List Byte) : List (Nat × Byte) :=
  let d := x.desc
  bs.zipIdx.map fun b =>
    (if d.cls = 2 then (destOf d x.disp (x.nextChunk * x.perChunk + b.2 / d.shape.esz) + b.2 % d.shape.esz) % 2 ^ 64
     else (d.dst + x.nextChunk * 2048 + b.2) % 2 ^ 64, b.1)

/-- The next chunk of an instance. -/
def nextMove (s : State) (x : Inst) : Move :=
  match chunkSource s x with
  | .nonres p w => .ask p w
  | .held => .wait
  | .away ls => .back ls
  | .fault c h d => .fault c h d false
  | .ok r => if x.desc.cls = 1 then .tile r.1 r.2 else memMove s x 0 (chunkDest x r.1) r.1 r.2

/-- The lines of a chunk at which the copy's turn has come are written, each once those before it are; answers them. -/
def writeLines (s : State) (agent : Nat) (ps : List (Nat × Nat × Byte)) : State × List Nat :=
  (linesOfPs ps).foldl (fun (r : State × List Nat) l =>
    match lineTurn r.1 agent 0 ps l with
    | .go => (copyStore r.1 agent 0 (onLine ps l), r.2 ++ [l])
    | _ => r) (s, [])

/-- The copy engine of the instance's cluster runs: no freeze stops it (R10, R12, R21, R35). -/
def Inst.runs (s : State) (x : Inst) : Bool := !s.plat.failed && !s.disp.deadDies.contains (dieOfClu x.clu)

/-- The fault that a replayed log gives an instance at its next chunk: its code and address, and the log without it (R226). -/
def loggedCopyFault (s : State) (x : Inst) : Option (Nat × Nat × State) :=
  (replaying s x.slot).bind fun p =>
    let r := rpart s p
    match r.log.findIdx? fun b => fieldOf b 0 1 == 4 && fieldOf b 1 1 == 1 && fieldOf b 4 4 == x.agent s && fieldOf b 8 4 == x.nextChunk with
    | none => none
    | some k => some (fieldOf (r.log.getD k []) 3 1, fieldOf (r.log.getD k []) 0x18 8 * 8, setRpart s p { r with log := r.log.eraseIdx k })

/-- The cluster of the instance can move data, and it is not waiting; a fault that the log gives it comes whatever it waits for (R226). -/
def Inst.serves (s : State) (x : Inst) : Bool :=
  !x.stopped && !x.moved && x.runs s
    && ((loggedCopyFault s x).isSome
        || (x.waitPage.isNone && (match nextMove s x with | .wait => false | .back ls => !ls.all s.m.bi.contains | _ => true)))

/-! ### Arbitration (R222, R223) -/

/-- The instance of a queue that comes next in turn. -/
def turnOf (s : State) (clu q last : Nat) : Option Inst :=
  let l := (queueInsts s clu q).filter (Inst.serves s)
  match l.find? fun x => decide (x.startNo ≥ last) with
  | some x => some x
  | none => l.head?

/-- The chunk a copy engine moves next, and its arbitration then. A queue all of whose instances wait is passed over, and takes no quantum for
it; what is left of a quantum when they begin to wait is lost: so no round moves more than R223 allows. -/
def copyNext (s : State) (clu : Nat) : Nat → CopyArb → Option (Inst × CopyArb)
  | 0, _ => none
  | n + 1, a =>
    let q := a.pos
    if queueInsts s clu q = [] then copyNext s clu n { a.pass with deficit := a.deficit.set q 0 }
    else match turnOf s clu q (a.last.getD q 0) with
    | none => copyNext s clu n { a.pass with deficit := if a.granted then a.deficit.set q 0 else a.deficit }
    | some x =>
      let a1 := if a.granted then a
        else { a with deficit := a.deficit.set q (a.deficit.getD q 0 + s.cqnt.getD q 1 * 2048), granted := true }
      if x.chunkBytes ≤ a1.deficit.getD q 0 then some (x, a1) else copyNext s clu n a1.pass

/-! ### The source claim and the translation ahead (R217, R221) -/

/-- Words that an instance has read leave its claim. -/
def unclaim (s : State) (x : Inst) (ws : List Nat) : State × Inst :=
  let gone := x.claimed.filter ws.contains
  (foldS s gone fun s w => dropClaim s (x.agent s) w, { x with claimed := x.claimed.filter fun w => !ws.contains w })

/-- Bytes that an element of an input has still to read: of a gather, the index; once that has been read, the row. -/
def pendingReads (x : Inst) (i : Nat) : List Nat :=
  let d := x.desc
  let range := fun (va n : Nat) => (List.range n).map fun k => (va + k) % 2 ^ 64
  match sourceOf d (if d.cls = 0 then 0 else x.disp) i with
  | .pad => []
  | .mem va => range va d.shape.esz
  | .via at_ off => match x.idx.find? at_ with
    | none => range at_ 4
    | some idx => match rowVa d off idx with
      | some va => range va d.shape.esz
      | none => []

/-- The elements from the chunk in progress on. -/
def Inst.left (x : Inst) : List Nat :=
  let first := x.nextChunk * x.perChunk
  (List.range (x.desc.count - first)).map (first + ·)

/-- The bytes of memory that an input has still to read, from the chunk in progress on, in a page. -/
def pageReads (x : Inst) (lo size : Nat) : List Nat :=
  if x.desc.cls = 2 then [] else ((x.left.flatMap (pendingReads x)).filter fun va => decide (lo ≤ va) && decide (va < lo + size)).dedup

/-- The unit has translated a page that holds the 4 KiB page `p`, or has failed to. -/
def Inst.hasWalked (x : Inst) (p : Nat) : Bool := x.walked.any fun w => decide (w ≤ p) && decide (p < w + x.span.get w 1)

/-- A page of `n` pages of 4 KiB from `lo` has been translated. -/
def Inst.noteWalk (x : Inst) (lo n : Nat) : Inst :=
  { x with walked := lo :: x.walked.filter (· != lo), span := if n = 1 then x.span.del lo else x.span.put lo n }

/-- What the translation unit wants next for an instance: a page, to read or to write, or a gather index. -/
inductive Want where
  | page (p : Nat) (w : Bool)
  | index (va : Nat)
  deriving DecidableEq, Repr

/-- What an element needs, in order. -/
def wantsOf (x : Inst) (i : Nat) : List Want :=
  let d := x.desc
  let reads := if d.cls = 2 then [] else ((pendingReads x i).map fun va => Want.page (va / 4096) false).dedup
  let row := match sourceOf d (if d.cls = 0 then 0 else x.disp) i with
    | .via at_ _ => if d.cls != 2 && (x.idx.find? at_).isNone then [Want.index at_] else []
    | _ => []
  let dst := fun (k : Nat) => (destOf d x.disp i + k) % 2 ^ 64 / 4096
  let writes := if d.cls = 1 then [] else ([dst 0, dst (d.shape.esz - 1)].map fun p => Want.page p true).dedup
  reads ++ row ++ writes

/-- The pages that an instance still needs. -/
def pagesLeft (x : Inst) : List Nat := (x.left.flatMap (wantsOf x)).filterMap fun w => match w with | .page p _ => some p | .index _ => none

/-- The first thing, in the order of the chunks, that has not been translated or read. -/
def nextWant (x : Inst) : Option Want :=
  x.left.findSome? fun i => (wantsOf x i).find? fun w => match w with | .page p _ => !x.hasWalked p | .index _ => true

/-- The words of a translated page, of whatever size, that the instance has still to read. -/
def pageWords (x : Inst) (e : TlbEnt) : List Nat :=
  if isDev e.pa && e.r then ((pageReads x e.va e.size).map fun va => (e.pa + (va - e.va)) / 4).dedup else []

/-- They enter the claim, and no L1 holds them from then on (R217, R298). -/
def claimPage (s : State) (x : Inst) (e : TlbEnt) : State × Inst :=
  let ws := (pageWords x e).filter fun w => !x.claimed.contains w
  (dropEverywhere (foldS s ws fun s w => addClaim s (x.agent s) w) ws, { x with claimed := ws ++ x.claimed })

/-- The words of a page whose claim would take them out of an L1 can leave it now. -/
def claimMay (s : State) (x : Inst) (e : TlbEnt) : Bool := copiesAnswer s (pageWords x e)

/-- The leaf of a page for the tensor translation unit: its TLB's, or a walk's; the type of the page is not looked at (R221). -/
def leafAhead (s : State) (clu pasid va : Nat) : State × Option TlbEnt :=
  if va ≥ 2 ^ 57 then (s, none)
  else match tlbHit (tlbOf s true clu) pasid va with
  | some e => (s, some e)
  | none =>
    let die := dieOfClu clu
    let w := walkCached s die pasid va
    let s1 := cacheWalk s die pasid w.2
    match w.1 with
    | .leaf e => (setTlb s1 true clu (keepNew 1024 e (tlbOf s1 true clu)), some e)
    | _ => (s1, none)

/-! ### Completion (R216, R219, R220) -/

/-- The words that an instance wrote are released and, on WO pages, sealed. -/
def releaseWords (s : State) (agent : Nat) (ws : List Nat) : State :=
  foldS s ws fun s w =>
    let t := tagAt s w
    if t.owner ≠ agent then s
    else setTag s w { t with hold := false, wst := if t.wst = 1 ∧ homeType s (4 * w) = 2 then 2 else t.wst }

/-- Tiles whose TFREE waited for an output are freed (R214). -/
def freeWaiting (s : State) (b : BlockId) (h : Nat) : State :=
  match s.block? b with
  | none => s
  | some bl => match bl.tiles.find? h with
    | some t => if t.freeing && !outputNeeds s bl h then tileDrop s b h else s
    | none => s

/-- An instance is complete. -/
def completeInst (s : State) (x : Inst) : State :=
  let s0 := (unclaim s x x.claimed).1
  let s1 := dropInst (releaseWords s0 (x.agent s) x.wrote) x.startNo
  let s2 := if x.desc.cls = 2 then freeWaiting s1 x.block x.desc.tile else s1
  wakeAll (if x.desc.cls = 0 then settleTasks (s2.updTask x.slot fun t => { t with gatesLeft := t.gatesLeft - 1 }) else s2)

/-- Later reads of the pages that a chunk has read enter the claim too: the unit translated them for it, and keeps them. -/
def claimMore (s : State) (x : Inst) (pages : List Nat) : State × Inst :=
  pages.foldl (fun (r : State × Inst) p =>
    let l := leafAhead r.1 r.2.clu (r.2.pasid r.1) (p * 4096)
    match l.2 with
    | some e => if claimMay l.1 r.2 e then claimPage l.1 r.2 e else (l.1, r.2)
    | none => (l.1, r.2)) (s, x)

/-- The pages that the chunk in progress reads or writes in memory, those of gather indices among them. -/
def chunkPages (x : Inst) : List Nat :=
  x.chunkEls.flatMap fun i =>
    (match sourceOf x.desc (if x.desc.cls = 0 then 0 else x.disp) i with | .via at_ _ => if x.desc.cls = 2 then [] else [at_ / 4096] | _ => [])
    ++ (wantsOf x i).filterMap fun w => match w with | .page p _ => some p | .index _ => none

/-- A stopped instance is over; a kill, a completion or a report that waited for it goes on (R225). -/
def endInst (s : State) (x : Inst) : State := wakeAll (settleOver (settleGangs (leaveInst s x)))

/-- A chunk has been moved: the arbitration's account, and completion where no flag follows; a stopped instance ends here. -/
def chunkDone (s : State) (x : Inst) (a : CopyArb) : State :=
  let q := x.desc.queue
  let z := { x with nextChunk := x.nextChunk + 1, buf := none, part := [] }
  let r := claimMore s z (chunkPages x).dedup
  let left := pagesLeft r.2
  let y := { r.2 with walked := r.2.walked.filter fun w => left.any fun p => decide (w ≤ p) && decide (p < w + r.2.span.get w 1) }
  let s1 := setInst r.1 y
  let left := a.deficit.getD q 0 - x.chunkBytes
  let a1 := { a with deficit := a.deficit.set q (if queueInsts s1 x.clu q = [] then 0 else left), last := a.last.set q (x.startNo + 1) }
  let s2 := setArb s1 x.clu a1
  if y.ending then endInst s2 y else if y.moved && y.desc.fkind == 0 then completeInst s2 y else wakeAll s2

/-- The logical cluster whose recorder writes for a copy engine (R226, R370). -/
def Inst.recorder (s : State) (x : Inst) : Nat :=
  if x.desc.cls = 0 then ((cluD s x.clu).lclu).getD x.clu else lcluOf s ⟨x.slot, x.kid⟩

/-- A copy fault (R218, R226): its record, which names the copy where none holds the word, then every gang of the task is killed. -/
def copyFault (s : State) (x : Inst) (code holder daddr : Nat) : State :=
  let f : Flt := { v := true, cause := code }
  let rec32 := leBytes 8 f.word.toNat ++ leBytes 12 0 ++ leBytes 4 (if code = 0x08 then holder else x.agent s) ++ leBytes 8 daddr
  let s1 := match recording s x.slot with
    | some p =>
      let e := eventChunk s [] 0
      emit e.2 p ⟨1, x.recorder s⟩ (rowBytes 4 1 0 code (x.agent s) x.nextChunk 0 (daddr / 8 % 2 ^ 54)) (some e.1)
    | none => s
  let s2 := s1.updTask x.slot fun t => if t.failed.isSome then t else { t with frec := rec32 }
  wakeAll (killTask s2 x.slot code)

/-- A fault that the copy finds: under replay one that the log does not give is a divergence (R226, R377). An UNMAPPED or PROT is sent to the
host too (R329). Of an instance that is stopped already it ends the chunk. -/
def unloggedFault (s : State) (x : Inst) (k : State → State) : State :=
  if x.ending then endInst s x else
  match replaying s x.slot with
  | some p => wakeAll (haltPart s p 2 (x.agent s) 0 0 [])
  | none => k s

/-- A fault that a move meets, with what the host is asked for then (R329). -/
def findFault (s : State) (x : Inst) (w : Bool) (code holder daddr : Nat) : State :=
  unloggedFault s x fun s => copyFault (faultAsk s (x.pasid s) code daddr w false) x code holder daddr

/-- A page that is not resident is asked for, and the instance waits; while RF is set the answer is Invalid at once (R328). -/
def askPage (s : State) (x : Inst) (p : Nat) (w : Bool) : State :=
  if s.m.rf then findFault s x w 0x05 0 (p * 4096)
  else setInst (requestPage s (x.pasid s) p w false) { x with waitPage := some (p, w) }

/-- A logged fault is delivered (R226). Of what the record does not hold, a holder and the address within its 8 bytes, memory gives what the move
finds now where it finds that fault; else the copy itself stands for the holder (DESIGN CHOICE, notes/assumptions/60). -/
def copyLogged (s : State) (x : Inst) (found : Move) (code daddr : Nat) : State :=
  match found with
  | .fault c h d _ => if c = code ∧ d / 8 % 2 ^ 54 = daddr / 8 then copyFault s x code h d else copyFault s x code (x.agent s) daddr
  | _ => copyFault s x code (x.agent s) daddr

/-- A chunk lands in its tile, or in the saved image of one that is away, and the stream owns it no longer (R219, R224). -/
def landChunk (s : State) (x : Inst) (bs : List Byte) : State :=
  (tileWrite (saveTile s x.block x.desc.tile (x.nextChunk * 2048) bs) x.block x.desc.tile ⟨false, x.nextChunk * 2048, 0⟩ bs).updBlock x.block fun b =>
    { b with tiles := b.tiles.upd x.desc.tile fun t => { t with owned := t.owned.filter (· != x.nextChunk) } }

/-- The gather indices that the chunk in progress reads: kept, so that the rest of their rows can be claimed (R217). -/
def noteIdx (s : State) (x : Inst) : Inst :=
  if x.desc.cls = 2 then x else
  x.chunkEls.foldl (fun (y : Inst) i => match sourceOf x.desc (if x.desc.cls = 0 then 0 else x.disp) i with
    | .via at_ _ => if (y.idx.find? at_).isSome then y else
      (match copyRead s (x.agent s) x.clu (x.pasid s) 4 at_ with | .ok r => { y with idx := y.idx.put at_ (leNat r.1) } | _ => y)
    | _ => y) x

/-- What an instance has read: brought in, out of its claim, seen by watchpoints. -/
def chunkRead (s : State) (x : Inst) (rd : List Nat) : State × Inst :=
  let r := unclaim (bringAll s rd) x rd
  (copyWatch r.1 x 1 rd.dedup, r.2)

def execCopyChunk (i : Nat) (s : State) : Out :=
  match findInst s i with
  | none => notEnabled "COPY_CHUNK"
  | some x =>
    match copyNext s x.clu 9 (arbOf s x.clu) with
    | none => notEnabled "COPY_CHUNK"
    | some (y, a) =>
      if y.startNo ≠ i then notEnabled "COPY_CHUNK"
      else match loggedCopyFault s x with
      | some (code, d, s1) => .next (copyLogged s1 x (nextMove s x) code d)
      | none =>
        match nextMove s x with
        | .wait => notEnabled "COPY_CHUNK"
        | .fault code h d w => .next (findFault s x w code h d)
        | .ask p w => .next (askPage s x p w)
        | .inval ws ls => .next (askFor s ws ls)
        | .back ls => .next (foldS s ls sendBi)
        | .tile bs rd =>
          let r := chunkRead s (noteIdx s x) rd
          .next (chunkDone (landChunk r.1 x bs) r.2 a)
        | .mem bs rd ps =>
          let r := chunkRead s (noteIdx s x) rd
          let w := writeLines r.1 (x.agent s) ps
          let ws := wordsOfPs (ps.filter fun p => w.2.contains (p.2.1 / 128))
          let z := { r.2 with wrote := (ws ++ x.wrote).dedup, buf := some bs, part := x.part ++ w.2 }
          let s1 := copyWatch w.1 x 2 ws
          -- lines without room keep the rest of the chunk waiting (R270)
          if w.2.length = (linesOfPs ps).length then .next (chunkDone s1 z a) else .next (wakeAll (setInst (setArb s1 x.clu a) z))

/-! ### COPY_FLAG_WRITE (R220) -/

/-- The flag word of an instance (R211). -/
def Inst.flagVa (s : State) (x : Inst) : Nat :=
  let blocks := match s.task? x.slot with | some t => t.lr.blocks | none => 1
  if x.desc.cls = 0 then x.desc.flag else (x.desc.flag + 8 * (x.kid * blocks + x.bid)) % 2 ^ 64

/-- FKIND 2: an element of 32 or 64 bits of a tile of the block, written as a TST is: not in a chunk that a stream copy still owns. Of a tile
that is away the element of the saved image is written too (R224). -/
def flagTile (s : State) (x : Inst) : State :=
  let h := x.desc.flag % 32
  let idx := x.desc.flag / 2 ^ 32
  match (s.block? x.block).bind fun b => b.tiles.find? h with
  | some t =>
    if !((t.esz = 4 ∨ t.esz = 8) ∧ (elemAt s x.block h idx t.esz).isSome) then findFault s x true 0x0B 0 (idx * t.esz)
    else if t.owned.contains (idx * t.esz / 2048) then findFault s x true Cause.tilebusy.code 0 (idx * t.esz)
    else
      let v := x.desc.fval.toNat % 2 ^ (8 * t.esz)
      completeInst (elemWrite (saveTile s x.block h (idx * t.esz) (leBytes t.esz v)) x.block h idx t.esz v) { x with flagDone := true }
  | none => findFault s x true 0x0B 0 0

/-- The bytes of a flag word. -/
def flagBytesAt (s : State) (x : Inst) : List (Nat × Byte) := (leBytes 8 x.desc.fval.toNat).zipIdx.map fun b => (x.flagVa s + b.2, b.1)

/-- What the write of a flag word meets. -/
def flagMove (s : State) (x : Inst) : Move := memMove s { x with part := [] } 2 (flagBytesAt s x) [] []

/-- FKIND 1: a store-release of eight bytes to an RC word. -/
def flagMem (s : State) (x : Inst) : Out :=
  let va := x.flagVa s
  if va % 8 ≠ 0 then .next (findFault s x true 0x03 0 va)
  else match flagMove s x with
  | .wait => notEnabled "COPY_FLAG_WRITE"
  | .fault code h d w => .next (findFault s x w code h d)
  | .ask p w => .next (askPage s x p w)
  | .inval ws ls => .next (askFor s ws ls)
  | .back ls => .next (foldS s ls sendBi)
  | .mem _ _ ps =>
    if ps.any fun p => homeType s p.2.1 != 0 then .next (findFault s x true 0x07 0 va)
    else
      let y := { x with flagDone := true }
      .next (completeInst (copyWatch (copyStore (releaseWords s (x.agent s) x.wrote) (x.agent s) 2 ps) x 2 (wordsOfPs ps)) y)
  | .tile _ _ => notEnabled "COPY_FLAG_WRITE"

def execCopyFlagWrite (i : Nat) (s : State) : Out :=
  match findInst s i with
  | none => notEnabled "COPY_FLAG_WRITE"
  | some x =>
    if !(x.moved && !x.stopped && !x.flagDone && x.runs s) then notEnabled "COPY_FLAG_WRITE"
    else match loggedCopyFault s x with
    | some (code, d, s1) => .next (copyLogged s1 x (if x.desc.fkind = 1 then flagMove s x else .wait) code d)
    | none =>
      if x.waitPage.isSome then notEnabled "COPY_FLAG_WRITE"
      else if x.desc.fkind = 2 then .next (flagTile s x)
      else if x.desc.fkind = 1 then flagMem s x
      else .next (completeInst s x)

/-! ### TTU_TRANSLATE (R217, R221) -/

/-- The page that holds a 4 KiB page is translated, its words claimed; a walk that fails changes nothing but the unit's caches. -/
def walkAhead (s : State) (x : Inst) (page : Nat) : Out :=
  let r := leafAhead s x.clu (x.pasid s) (page * 4096)
  match r.2 with
  | some e =>
    let y := x.noteWalk (e.va / 4096) (e.size / 4096)
    if !claimMay r.1 y e then notEnabled "TTU_TRANSLATE"
    else
      let c := claimPage r.1 y e
      .next (setInst c.1 c.2)
  | none => .next (setInst r.1 (x.noteWalk page 1))

/-- A gather index is read ahead, and leaves the claim; the words of its row follow, if their page is translated already. -/
def readIndex (s : State) (x : Inst) (va : Nat) : Out :=
  match copyRead s (x.agent s) x.clu (x.pasid s) 4 va with
  | .ok r =>
    let c := chunkRead s { x with idx := x.idx.put va (leNat r.1) } r.2
    let d := claimMore c.1 c.2 c.2.walked
    .next (wakeAll (setInst d.1 d.2))
  | .away ls => if ls.all s.m.bi.contains then notEnabled "TTU_TRANSLATE" else .next (foldS s ls sendBi)
  | _ => notEnabled "TTU_TRANSLATE"

/-- The unit goes ahead of an instance in the order of its chunks, to 64 pages beyond the chunk in progress: it translates the page that comes
next, again one that a shootdown has taken or whose walk failed, or reads the index of a gather that comes next. -/
def execTtuTranslate (i page : Nat) (s : State) : Out :=
  match findInst s i with
  | none => notEnabled "TTU_TRANSLATE"
  | some x =>
    let lost := x.walked.contains page && (tlbHit (s.m.ttlb.get x.clu []) (x.pasid s) (page * 4096)).isNone
    if x.stopped || x.moved || !x.runs s then notEnabled "TTU_TRANSLATE"
    else if lost then walkAhead s x page
    else match nextWant x with
    | some (.page p _) => if p ≠ page ∨ x.walked.length ≥ 64 then notEnabled "TTU_TRANSLATE" else walkAhead s x page
    | some (.index va) => if va / 4096 ≠ page then notEnabled "TTU_TRANSLATE" else readIndex s x va
    | none => notEnabled "TTU_TRANSLATE"

end Sys2Proof.Machine
end

