-- ==== Sys2Proof/Machine/Accept.lean ====
section
/-! DEFINITION. Acceptance: the launch record and its validation, the retained and graph stores, task handles, TASK, GRAPH, GDEF,
GDROP and SPAWN_PARSE (R85 to R93, R99, R100, R110, R210, R215). -/
namespace Sys2Proof.Machine
open Sys2Proof

/-! ### The launch record (R89) -/

/-- The record in 256 bytes; a node's predecessors are indices of four bytes (R99). -/
def parseRec (node : Bool) (b : List Byte) : LRec :=
  { ty := fieldOf b 0 1, idem := bitAt (fieldOf b 1 1) 0, graphid := fieldOf b 2 2, pasid := fieldOf b 4 4 % 2 ^ 20, kentry := fieldOf b 8 8,
    gangs := fieldOf b 0x10 4, blocks := fieldOf b 0x14 1, groups := fieldOf b 0x15 1, vregs := fieldOf b 0x16 1, tiles := fieldOf b 0x17 1,
    spad := fieldOf b 0x18 4, extdep := fieldOf b 0x1C 2, nin := fieldOf b 0x1E 1, nout := fieldOf b 0x1F 1,
    taskseed := BitVec.ofNat 64 (fieldOf b 0x20 8), argptr := BitVec.ofNat 64 (fieldOf b 0x28 8), copytab := fieldOf b 0x30 8,
    pred := if node then (List.range 8).map fun k => fieldOf b (0x38 + 4 * k) 4 else (List.range 4).map fun k => fieldOf b (0x38 + 8 * k) 8,
    graphtab := fieldOf b 0x58 8, nodes := fieldOf b 0x60 4, stamp := fieldOf b 0xF0 8, seq := BitVec.ofNat 64 (fieldOf b 0xF8 8) }

/-- Refusal codes (R90). -/
def rType : Nat := 1
def rRange : Nat := 2
def rReserved : Nat := 3
def rPasid : Nat := 4
def rEntry : Nat := 5
def rBudget : Nat := 6
def rCopy : Nat := 7
def rGraph : Nat := 8
def rStore : Nat := 9
def rQueue : Nat := 10

/-- The ranges of a TASK's fields. -/
def taskRanges (r : LRec) : Bool :=
  decide (1 ≤ r.gangs) && decide (r.gangs ≤ 2 ^ 24) && decide (1 ≤ r.blocks) && decide (r.blocks ≤ 8) && decide (1 ≤ r.groups)
    && decide (r.groups ≤ 16) && decide (16 ≤ r.vregs) && decide (r.vregs ≤ 128) && r.vregs % 8 == 0 && decide (r.tiles ≤ 32)
    && r.spad % 2048 == 0 && decide (r.spad ≤ 786432) && decide (r.nin ≤ 8) && decide (r.nout ≤ 8) && r.kentry % 8 == 0 && r.copytab % 64 == 0

/-- Bytes of a record that must be zero for its TYPE; STAMP too, which the host writes zero (R88, R89). -/
def zeroFields (b : List Byte) (ty : Nat) : Bool :=
  let z := fun (ofs n : Nat) => allZero ((b.drop ofs).take n)
  let top := fieldOf b 4 4 / 2 ^ 20 == 0 && z 0x64 140 && z 0xF0 8
  match ty with
  | 1 => top && fieldOf b 1 1 / 2 == 0 && z 2 2 && z 0x58 12
  | 3 => top && z 1 1
  | _ => top && z 1 1 && z 8 0x5C

/-- The PASID's context entry is valid (R316). -/
def pasidValid (s : State) (pasid : Nat) : Bool := (s.m.pasids.find? pasid).any (·.en)

/-- The refusal that a record's own bytes and PASID give, before anything is read for it (R90, R316). -/
def plainRefusal (s : State) (r : LRec) (b : List Byte) (pasid : Nat) : Option Nat :=
  if r.ty = 0 ∨ r.ty > 4 then some rType
  else if (r.ty = 1 ∧ !taskRanges r) ∨ (r.ty ≠ 1 ∧ r.graphid > 4095) ∨ (r.ty = 3 ∧ (r.nodes = 0 ∨ r.nodes > 1024)) then some rRange
  else if !zeroFields b r.ty then some rReserved
  else if r.pasid ≠ pasid ∨ pasidValid s pasid = false then some rPasid
  else none

/-! ### What the arbiter reads (R90) -/

/-- A judgement that may have to wait for pages. -/
inductive Judged (α : Type) where
  | good (v : α)
  | refuse (n : Nat)
  | wait (pages : List (Nat × Bool))

/-- Two judgements of one record: a refusal first, then the pages of both. -/
def Judged.both {α β : Type} (a : Judged α) (b : Judged β) : Judged (α × β) :=
  match a, b with
  | .refuse n, _ => .refuse n
  | _, .refuse n => .refuse n
  | .wait p, .wait t => .wait (p ++ t).dedup
  | .wait p, _ => .wait p
  | _, .wait t => .wait t
  | .good x, .good y => .good (x, y)

/-- The arbiter's access to a page in a queue's address space, judged as a group's read of `n` bytes or its fetch (R90): the physical
address. A page that cannot be read is refused; one under retype is waited for. -/
def hubPage (s : State) (q pasid va n : Nat) (x : Bool) : Judged Nat :=
  let need : Need := { r := !x, x }
  let bad := fun (p : Nat) => s.m.rf || (s.queueD q).parse.any fun y => y.badPages.contains p
  match (walk s pasid va).1 with
  | .leaf e =>
    if lacks need e.r e.w e.x then .refuse 0
    else match ctCheck s e (e.pa + va % e.size) with
      | .ok pa _ => if !x && judgeRead s agentNone pa n != .ok then .refuse 0 else .good pa
      | .retype _ => .wait []
      | _ => .refuse 0
  | .nonres r w x' => if lacks need r w x' || bad (va / 4096) then .refuse 0 else .wait [(va / 4096, x)]
  | _ => .refuse 0

/-- Bytes of memory in pieces of eight. -/
def hubRead (s : State) (q pasid : Nat) : Nat → Nat → Judged (List Byte)
  | 0, _ => .good []
  | n + 1, va =>
    match (hubPage s q pasid va 8 false).both (hubRead s q pasid n ((va + 8) % 2 ^ 64)) with
    | .refuse n => .refuse n
    | .wait p => .wait p
    | .good (pa, t) => .good (physRead s pa 8 ++ t)

/-- The words of the clause at KENTRY can be fetched: as many as its header counts, if it is a header (R39, R90). -/
def clauseJudge (s : State) (q pasid va pa : Nat) : Judged Unit :=
  match decodeHeader (BitVec.ofNat 64 (leNat (physRead s pa 8))) with
  | none => .good ()
  | some h => (List.range (h.cnt.toNat + 1)).foldl (fun (j : Judged Unit) k =>
      match j.both (hubPage s q pasid ((va + 8 * (k + 1)) % 2 ^ 64) 8 true) with
      | .refuse n => .refuse n
      | .wait p => .wait p
      | .good _ => .good ()) (.good ())

/-- KENTRY, its entry word and its clause (R56, R90). -/
def entryJudge (s : State) (q : Nat) (r : LRec) : Judged Unit :=
  let at_ := (r.kentry + 2 ^ 64 - 8) % 2 ^ 64
  match (hubPage s q r.pasid at_ 8 true).both (hubPage s q r.pasid r.kentry 8 true) with
  | .refuse _ => .refuse rEntry
  | .wait p => .wait p
  | .good (pa, kp) =>
    match clauseJudge s q r.pasid r.kentry kp with
    | .refuse _ => .refuse rEntry
    | .wait p => .wait p
    | .good _ =>
      match entryFault r.vregs r.tiles (BitVec.ofNat 64 (leNat (physRead s pa 8))) with
      | some .illop => .refuse rEntry
      | some _ => .refuse rBudget
      | none => .good ()

/-! ### Copy descriptors (R210, R211, R215) -/

def parseCopy (b : List Byte) (sh : ShapeRec) : CopyDesc :=
  { cls := fieldOf b 8 1, queue := fieldOf b 9 1, dkind := fieldOf b 0xA 1, fkind := fieldOf b 0xB 1, tile := fieldOf b 0xC 1,
    level := fieldOf b 0xD 1, dst := fieldOf b 0x10 8, kstride := fieldOf b 0x18 8, bstride := fieldOf b 0x20 8, flag := fieldOf b 0x28 8,
    fval := BitVec.ofNat 64 (fieldOf b 0x30 8), gcount := fieldOf b 0x38 4, shape := sh }

/-- The instances of an output write disjoint memory (R211). -/
def outputDisjoint (r : LRec) (d : CopyDesc) : Bool :=
  let e := d.shape.extent
  ((r.blocks == 1 && d.bstride == 0) || decide (e ≤ d.bstride))
    && ((r.gangs == 1 && d.kstride == 0) || decide (r.blocks * max e d.bstride ≤ d.kstride))

/-- A descriptor whose fields are in range, as copy `k` of a record. -/
def copyOk (r : LRec) (k : Nat) (b : List Byte) (d : CopyDesc) : Bool :=
  let sh := d.shape
  let pads := sh.padl0 + sh.padh0 + sh.padl1 + sh.padh1
  sh.ok && fieldOf b 0 8 % 64 == 0 && decide (d.queue ≤ 3) && decide (d.level = 0 ∨ d.level = 2) && fieldOf b 0xE 2 == 0 && fieldOf b 0x3C 4 == 0
    && (if k < r.nin then decide (d.cls ≤ 1) else d.cls == 2)
    && (if d.cls = 0 then d.dkind == 0 && decide (d.fkind ≤ 1) && d.kstride == 0 && d.bstride == 0
        else d.dkind == 1 && (if d.cls = 1 then decide (d.fkind ≤ 2) && d.dst == 0 else decide (d.fkind ≤ 1)))
    && (if d.dkind = 1 then decide (d.tile ≤ 31) else d.tile == 0)
    && (if d.fkind = 0 then d.flag == 0 else if d.fkind = 2 then bits d.flag 31 5 == 0 else true)
    && (if sh.xform = 3 then decide (1 ≤ d.gcount) && decide (d.gcount ≤ 65535) else d.gcount == 0)
    && (if d.cls = 2 then sh.xform == 0 && pads == 0 && outputDisjoint r d
        else decide (sh.extent ≤ 2 ^ 36))
    && (if d.cls = 1 then decide (d.rows ≤ 65535) && decide (d.cols ≤ 65535) && decide (d.tile < r.tiles)
          && (d.level != 0 || decide (tileBytes d.rows d.cols sh.esz ≤ r.spad))
        else true)

/-- The copies of a record from index `k` on. -/
def readCopies (s : State) (q : Nat) (r : LRec) : Nat → Nat → Judged (List CopyDesc)
  | 0, _ => .good []
  | n + 1, k =>
    match hubRead s q r.pasid 8 ((r.copytab + 64 * k) % 2 ^ 64) with
    | .refuse _ => .refuse rCopy
    | .wait p => match readCopies s q r n (k + 1) with | .refuse x => .refuse x | .wait t => .wait (p ++ t).dedup | .good _ => .wait p
    | .good b =>
      match hubRead s q r.pasid 8 (fieldOf b 0 8), readCopies s q r n (k + 1) with
      | .refuse _, _ => .refuse rCopy
      | _, .refuse x => .refuse x
      | .wait p, .wait t => .wait (p ++ t).dedup
      | .wait p, _ => .wait p
      | .good sb, t =>
        let d := parseCopy b (parseShape sb)
        if !copyOk r k b d then .refuse rCopy
        else match t with
          | .good l => .good (d :: l)
          | .wait p => .wait p
          | .refuse x => .refuse x

/-- Two stream inputs name one handle (R215). -/
def tilesClash (ds : List CopyDesc) : Bool :=
  let hs := (ds.filter fun d => d.cls == 1).map (·.tile)
  hs.dedup.length != hs.length

def copiesJudge (s : State) (q : Nat) (r : LRec) : Judged (List CopyDesc) :=
  match readCopies s q r (r.nin + r.nout) 0 with
  | .good l => if tilesClash l then .refuse rCopy else .good l
  | x => x

/-- KENTRY and the copies of a TASK record or a node. -/
def taskJudge (s : State) (q : Nat) (r : LRec) : Judged (List CopyDesc) :=
  match entryJudge s q r with
  | .refuse n => .refuse n
  | .wait p => match copiesJudge s q r with | .wait t => .wait (p ++ t).dedup | _ => .wait p
  | .good _ => copiesJudge s q r

/-! ### Graphs (R99, R100) -/

def versionOf (s : State) (h : Nat) : Option GVersion :=
  (s.disp.graphs.find? h).bind fun n => s.disp.versions.find? fun v => v.num == n

/-- A node of a GDEF as the table gives it: valid under R90 with the differences of R99. -/
def nodeJudge (s : State) (q pasid k : Nat) (b : List Byte) : Judged (LRec × List CopyDesc) :=
  let r := parseRec true b
  let preds := r.pred.all fun p => p == 0xFFFFFFFF || decide (p < k)
  if r.ty ≠ 1 ∨ (plainRefusal s r b pasid).isSome ∨ r.seq ≠ 0 ∨ r.extdep ≠ 0 ∨ !preds then .refuse rGraph
  else match taskJudge s q r with
    | .good l => .good (r, l)
    | .refuse _ => .refuse rGraph
    | .wait p => .wait p

def nodesJudge (s : State) (q : Nat) (r : LRec) : Nat → Nat → Judged (List (LRec × List CopyDesc))
  | 0, _ => .good []
  | n + 1, k =>
    match hubRead s q r.pasid 32 ((r.graphtab + 256 * k) % 2 ^ 64) with
    | .refuse _ => .refuse rGraph
    | .wait p => match nodesJudge s q r n (k + 1) with | .refuse x => .refuse x | .wait t => .wait (p ++ t).dedup | .good _ => .wait p
    | .good b =>
      match nodeJudge s q r.pasid k b, nodesJudge s q r n (k + 1) with
      | .refuse _, _ => .refuse rGraph
      | _, .refuse x => .refuse x
      | .wait p, .wait t => .wait (p ++ t).dedup
      | .wait p, _ => .wait p
      | _, .wait t => .wait t
      | .good x, .good t => .good (x :: t)

/-! ### Stores, slots and handles (R90, R91) -/

/-- Bytes of the retained store in use (R90). -/
def retainedUsed (s : State) : Nat := ((s.tasks.filter fun p => p.2.live).map fun p => p.2.retained).sum
/-- What a record takes of it: itself, a descriptor and a shape record for each copy. -/
def recordBytes (copies : List CopyDesc) : Nat := 256 + 128 * copies.length
/-- Bytes of the graph store in use. -/
def graphUsed (s : State) : Nat := (s.disp.versions.map fun v => 256 * v.nodes.length).sum

/-- What a record that has passed brings with it. -/
structure Passed where
  copies : List CopyDesc := []
  nodes : List (LRec × List CopyDesc) := []

/-- Validation (R90), with the lowest code that applies. -/
def validate (s : State) (q : Nat) (r : LRec) : Judged Passed :=
  let store := fun (p : Passed) (graph : Nat) =>
    let need := recordBytes p.copies + (p.nodes.map fun x => recordBytes x.2).sum
    if graphUsed s + graph > Config.graphStore || retainedUsed s + need > Config.retainedStore then Judged.refuse rStore else .good p
  match r.ty with
  | 1 => match taskJudge s q r with
    | .good l => store { copies := l } 0
    | .refuse n => .refuse n
    | .wait p => .wait p
  | 3 =>
    if (versionOf s r.graphid).any fun v => v.pasid != r.pasid then .refuse rGraph
    else match nodesJudge s q r r.nodes 0 with
      | .good l => store { nodes := l } (256 * l.length)
      | .refuse n => .refuse n
      | .wait p => .wait p
  | _ =>
    match versionOf s r.graphid with
    | none => .refuse rGraph
    | some v => if v.pasid ≠ r.pasid then .refuse rGraph
      else if r.ty = 2 then store { nodes := v.nodes } 0 else store {} 0

/-- A slot that no live task holds. -/
def slotFree (s : State) (slot : Nat) : Bool := decide (slot < 2 ^ 17) && (match s.task? slot with | some t => t.reported | none => true)

/-- `n` free slots from a number on. -/
def takeFree (s : State) : Nat → Nat → Nat → List Nat
  | 0, _, _ => []
  | _ + 1, _, 0 => []
  | fuel + 1, k, n + 1 => if slotFree s k then k :: takeFree s fuel (k + 1) n else takeFree s fuel (k + 1) (n + 1)

/-- A slot is taken: its generation (R91). -/
def nextGen (g : Nat) : Nat := if g = 2 ^ 31 - 1 then 1 else g + 1

/-- A task takes a slot. -/
def addTask (s : State) (t : Task) : State :=
  let g := nextGen (s.disp.gens.get t.slot 0)
  { s with
    tasks := s.tasks.put t.slot { t with gen := g, order := s.disp.orderNext }
    disp := { s.disp with gens := s.disp.gens.put t.slot g, orderNext := s.disp.orderNext + 1 } }

/-- The STAMP of an accepted or refused record (R90). -/
def stampWord (status reason handle : Nat) : Nat := status * 2 ^ 60 + reason * 2 ^ 48 + handle

/-- Versions that are neither current nor referenced leave the graph store (R100). -/
def sweepVersions (s : State) : State :=
  let used := (s.disp.graphs.map (·.2)) ++ s.tasks.filterMap fun p => if p.2.live then p.2.version else none
  { s with disp := { s.disp with versions := s.disp.versions.filter fun v => used.contains v.num } }

/-- What acceptance of a record does beyond its own task (R93, R99, R100). -/
def acceptEffect (s : State) (q slot : Nat) (r : LRec) (p : Passed) : State :=
  match r.ty with
  | 1 => settleTasks s
  | 2 =>
    match versionOf s r.graphid with
    | none => s
    | some v =>
      let slots := takeFree s (s.tasks.length + v.nodes.length + 1) 0 v.nodes.length
      let s1 := s.updTask slot fun t => { t with version := some v.num, st := .running }
      let nodes := (slots.zip v.nodes).zipIdx
      settleTasks (foldS s1 nodes fun s n =>
        addTask s { slot := n.1.1, gen := 0, queue := q, order := 0, lr := n.1.2.1, copies := n.1.2.2, parent := some (slot, n.2),
                    retained := recordBytes n.1.2.2 })
  | 3 =>
    let n := s.disp.verNext
    sweepVersions { s with
      tasks := s.tasks.upd slot fun t => { t with st := .done }
      disp := { s.disp with graphs := s.disp.graphs.put r.graphid n, verNext := n + 1,
                            versions := s.disp.versions ++ [⟨n, r.pasid, p.nodes⟩] } }
  | _ =>
    sweepVersions { s with
      tasks := s.tasks.upd slot fun t => { t with st := .done }
      disp := { s.disp with graphs := s.disp.graphs.del r.graphid } }

/-- The ACCEPT record and its ten DATA records (R361, R369). -/
def acceptRec (s : State) (q kind agent handle : Nat) (b : List Byte) : State :=
  match partOfQueue s q with
  | some p =>
    if (rpart s p).mode ≠ 1 then s
    else
      let e := eventChunk s [] 0
      emitData (emit e.2 p hubSrc (rowBytes 9 kind 0 10 agent q 0 handle) (some e.1)) p hubSrc b
  | none => s

/-- The recorder of a queue's partition waits for a free frame: nothing is accepted (R360). -/
def queueStalls (s : State) (q : Nat) : Bool := (partOfQueue s q).any fun p => ringStalls (rpart s p)

/-- The record passes and takes a slot: handle, task, log, effect. -/
def acceptRecord (s : State) (q slot kind agent : Nat) (b : List Byte) (r : LRec) (p : Passed) : State :=
  let s1 := addTask s { slot, gen := 0, queue := q, order := 0, lr := if kind = 2 then { r with seq := 0 } else r, copies := p.copies,
                        ext := r.extdep, spawned := kind == 2,
                        retained := recordBytes p.copies + (if r.ty = 3 then (p.nodes.map fun x => recordBytes x.2).sum else 0) }
  let h := match s1.task? slot with | some t => t.handle | none => 0
  acceptEffect (acceptRec s1 q kind agent h b) q slot r p

/-- Every slot the record needs is there (a graph instance takes one for each node). Where none is free the record waits: R90 has no code for
that (DESIGN CHOICE, notes/assumptions/66). -/
def roomFor (s : State) (slot : Nat) (r : LRec) (p : Passed) : Bool :=
  slotFree s slot && (r.ty != 2 ||
    decide ((takeFree { s with tasks := s.tasks.put slot { slot, gen := 0, queue := 0, order := 0, lr := r } }
      (s.tasks.length + p.nodes.length + 2) 0 p.nodes.length).length = p.nodes.length))

/-! ### The launch window (R87, R88, R90) -/

/-- The physical address of the slot that a queue watches. -/
def watchedSlot (x : Queue) : Nat := x.win + 256 * ((x.seqExp.toNat + 2 ^ 64 - 1) % 2 ^ x.slotlog)

/-- The record that a replayed log accepts next on a queue (R375): its bytes, its handle, and the log without it. -/
def loggedAccept (s : State) (q kind : Nat) : Option (List Byte × Nat × State) :=
  (partOfQueue s q).bind fun p =>
    let r := rpart s p
    if r.mode < 2 then none
    else match r.log.findIdx? fun b => fieldOf b 0 1 == 9 with
    | none => none
    | some k =>
      let h := r.log.getD k []
      if fieldOf h 1 1 = kind ∧ fieldOf h 8 4 = q then
        some ((((r.log.drop (k + 1)).take 10).flatMap fun b => b.drop 4).take 256, fieldOf h 0x18 8,
              setRpart s p { r with log := r.log.take k ++ r.log.drop (k + 11) })
      else none

/-- The parse of a queue's watched slot: the one under way, if it has the pages it waited for; else one that begins, with the 256 bytes read
once (R88), when the slot's SEQ is the one expected; under replay, the log's record. A parse under way goes on when its queue is
disabled (R85). -/
def windowParse (s : State) (q : Nat) : Option (Parse × State) :=
  let x := s.queueD q
  match x.parse with
  | some p => if p.spawn.isNone && p.waitPages == [] then some (p, s) else none
  | none =>
    if (partOfQueue s q).any fun p => decide ((rpart s p).mode ≥ 2) then
      (loggedAccept s q 1).map fun r => ({ at_ := watchedSlot x, bytes := r.1, logged := some r.2.1 }, r.2.2)
    else
      let b := physRead s (watchedSlot x) 256
      if x.en && fieldOf b 0xF8 8 == x.seqExp.toNat then some ({ at_ := watchedSlot x, bytes := b }, s) else none

/-- The STAMP of a record at an address is written when its turn at its home has come (R295, R299, R312); till then the queue's parse stays. -/
def withStamp (m : String) (s : State) (q : Nat) (y : Parse) (at_ : Nat) (k : State → State) : Out :=
  let ws := if isDev (at_ + 0xF0) then wordsOf (at_ + 0xF0) 8 else []
  match engineTurn s ws with
  | .wait => notEnabled m
  | .clear ls => .next (askFor (s.setQueue q { s.queueD q with parse := some y }) ws ls)
  | .go => .next (wakeAll (k (bringAll s ws)))

/-- The words of device memory that the hub has read at an address of a process. -/
def hubWords (s : State) (pasid va n : Nat) : List Nat :=
  ((List.range (n / 8)).flatMap fun k => match (walk s pasid ((va + 8 * k) % 2 ^ 64)).1 with
    | .leaf e => let pa := e.pa + (va + 8 * k) % 2 ^ 64 % e.size; if isDev pa then wordsOf pa 8 else []
    | _ => []).dedup

/-- The bytes that those words hold. -/
def wordsBytes (s : State) (ws : List Nat) : List Byte := ws.flatMap fun w => physRead s (4 * w) 4

/-- The words of the copy descriptors of a record and of their shape records. -/
def copyWords (s : State) (r : LRec) : List (List Nat) :=
  (List.range (r.nin + r.nout)).flatMap fun k =>
    let d := hubWords s r.pasid ((r.copytab + 64 * k) % 2 ^ 64) 64
    [d, hubWords s r.pasid (fieldOf (wordsBytes s d) 0 8) 64]

/-- The tables that a record has been judged by: each a read (R90, R415). Fetches of KENTRY's words are not compared. -/
def tableWords (s : State) (r : LRec) : List (List Nat) :=
  match r.ty with
  | 1 => copyWords s r
  | 3 => (List.range r.nodes).flatMap fun k =>
      let b := hubWords s r.pasid ((r.graphtab + 256 * k) % 2 ^ 64) 256
      b :: copyWords s { parseRec true (wordsBytes s b) with pasid := r.pasid }
  | _ => []

/-- Watchpoints see what the hub has read of a record that has been judged; of one refused by its own fields nothing else has been. -/
def watchTables (s : State) (y : Parse) : State :=
  let r := parseRec false y.bytes
  if s.dbg.wps.all (fun p => p.2.lines == 0) || y.code.any (fun n => n ≠ rCopy && n ≠ rGraph && n ≠ rStore) then s
  else foldS s (tableWords s r) fun s ws => watchHub s 1 3 agentNone 0 ws

/-- The slot has been parsed: its STAMP, and the next number. Watchpoints see the hub's reads and its write (R415). -/
def parsed (s : State) (q : Nat) (y : Parse) (stamp : Nat) : State :=
  let stored := fun (s : State) =>
    let r := watchTables (watchHub s 1 3 agentNone 0 (wordsOf y.at_ 256)) y
    watchHub (homeWrite r agentMgmt 896 (y.at_ + 0xF0) (leBytes 8 stamp) 2 0 0) 2 3 agentNone 0 (wordsOf (y.at_ + 0xF0) 8)
  let s1 := if y.logged.isNone then stored s else s
  let x := s1.queueD q
  s1.setQueue q { x with seqExp := if y.old then x.seqExp else x.seqExp + 1, parse := none }

/-- A parse that waits asks for its pages, and keeps its record. -/
def askPages (s : State) (q pasid : Nat) (y : Parse) (ps : List (Nat × Bool)) : State :=
  let s1 := foldS s ps fun s p => requestPage s pasid p.1 false p.2
  s1.setQueue q { s1.queueD q with parse := some { y with waitPages := ps.map (·.1), pasid } }

/-- The lines of a queue's watched slot that the host may hold modified: they come back before the slot is read (R312). -/
def slotAway (s : State) (q : Nat) : List Nat :=
  let x := s.queueD q
  if x.parse.isSome || !x.en then [] else [watchedSlot x / 128, watchedSlot x / 128 + 1].filter fun l => (dirAt s l).hostx

/-- The parse of a queue's watched slot, for a record of one TYPE; a record of no TYPE is refused by the row TASK. -/
def parseWindow (m : String) (types : List Nat) (q slot : Nat) (s : State) : Out :=
  if !s.plat.linkUp || s.plat.failed || decide (q ≥ 128) then notEnabled m
  else if slotAway s q != [] then (if (slotAway s q).all s.m.bi.contains then notEnabled m else .next (foldS s (slotAway s q) sendBi))
  else match windowParse s q with
  | none => notEnabled m
  | some (y, s1) =>
    let x := s1.queueD q
    let r := parseRec false y.bytes
    if !types.contains (if r.ty ≥ 2 ∧ r.ty ≤ 4 then r.ty else 1) then notEnabled m
    else
      let refuse := fun (n : Nat) => withStamp m s1 q { y with code := some n } y.at_ fun s => parsed s q y (stampWord 2 n 0)
      match y.code.orElse fun _ => plainRefusal s1 r y.bytes x.pasid with
      | some n => refuse n
      | none =>
        match validate s1 q r with
        | .refuse n => refuse n
        | .wait ps => .next (askPages s1 q r.pasid y ps)
        | .good p =>
          if !roomFor s1 slot r p || queueStalls s q || y.logged.any fun h => h % 2 ^ 17 != slot then notEnabled m
          else withStamp m s1 q y y.at_ fun s =>
            let s2 := acceptRecord s q slot 1 (agentHost x.pasid) y.bytes r p
            parsed s2 q y (stampWord 1 0 (match s2.task? slot with | some t => t.handle | none => 0))

def execTask (q slot : Nat) (s : State) : Out := parseWindow "TASK" [1] q slot s
def execGraph (q slot : Nat) (s : State) : Out := parseWindow "GRAPH" [2] q slot s
def execGdef (q slot : Nat) (s : State) : Out := parseWindow "GDEF" [3] q slot s
def execGdrop (q slot : Nat) (s : State) : Out := parseWindow "GDROP" [4] q slot s

/-! ### SPAWN_PARSE (R110) -/

/-- The STAMP of a spawned record: a device-scope store-release by the issuing group, which frees what it holds (R110, R268). -/
def spawnStamp (s0 : State) (g pa stamp : Nat) : State :=
  let s := release s0 g 4
  let slot := match s.group? g with | some gr => gr.block.gang.slot | none => 2 ^ 17
  watch (homeWrite s g 896 (pa + 0xF0) (leBytes 8 stamp) 0 2 4) 2 3 g slot ((pa + 0xF0) / 128) (wmaskOf (wordsOf (pa + 0xF0) 8)) 0 none

/-- The refusal of a spawned record before anything is read for it: QUEUE before the codes that take a read, which R90's order puts lower
(notes/assumptions 55). A PASID that is not the issuer's is QUEUE, one that has no valid context entry PASID (R110, R316). -/
def spawnRefusal (s : State) (q : Nat) (w : SpawnRec) (r : LRec) (b : List Byte) : Option Nat :=
  let x := s.queueD q
  if r.ty ≠ 1 ∧ r.ty ≠ 2 then some rType
  else match plainRefusal s r (b.take 0xF0 ++ leBytes 8 0 ++ b.drop 0xF8) w.issuer with
    | some n => if n = rPasid ∧ r.pasid ≠ w.issuer then some rQueue else some n
    | none => if w.dead || !x.en || x.pasid != w.issuer then some rQueue else none

/-- The parse of a queue's oldest spawned record: the one under way, if it has its pages; else one that begins. Under replay the record that
the log accepts next is taken from the log; one that differs from it was refused, or its turn has not come (R374, R375). -/
def spawnParse (s : State) (q : Nat) : Option (SpawnRec × Parse × State) :=
  let x := s.queueD q
  match x.parse with
  | some y => if y.waitPages == [] then y.spawn.map fun r => (r, y, s) else none
  | none => match x.spawned with
    | [] => none
    | r :: rest =>
      let go := fun (s : State) (b : List Byte) (h : Option Nat) =>
        (r, ({ spawn := some r, bytes := b, logged := h } : Parse), s.setQueue q { s.queueD q with spawned := rest })
      match loggedAccept s q 2 with
      | some l => if r.bytes = l.1 then some (go l.2.2 l.1 (some l.2.1)) else some (go s r.bytes none)
      | none => if r.bytes.length < 256 then none else some (go s r.bytes none)

/-- SPAWN_PARSE: a spawned record is validated, and accepted or refused (R90, R110). -/
def execSpawnParse (q slot : Nat) (s : State) : Out :=
  if !s.plat.linkUp || s.plat.failed || decide (q ≥ 128) then notEnabled "SPAWN_PARSE"
  else match spawnParse s q with
  | none => notEnabled "SPAWN_PARSE"
  | some (x, y, s1) =>
    let r := parseRec false y.bytes
    let begun := (s.queueD q).parse.isSome
    let ended := fun (s : State) => s.setQueue q { s.queueD q with parse := none }
    let seen := fun (s : State) => if y.logged.isSome then s else watchTables (watchHub s 1 3 agentNone 0 (wordsOf x.pa 256)) y
    let done := fun (s : State) (stamp : Nat) => ended (spawnStamp (seen s) x.grp x.pa stamp)
    let refuse := fun (n : Nat) => withStamp "SPAWN_PARSE" s1 q { y with code := some n } x.pa fun s => done s (stampWord 2 n 0)
    if r.stamp ≠ 0 then .next (wakeAll (ended s1))
    else match y.code.orElse fun _ => if begun then none else spawnRefusal s1 q x r y.bytes with
    | some n => refuse n
    | none =>
      match validate s1 q r with
      | .refuse n => refuse n
      | .wait ps => .next (askPages s1 q r.pasid y ps)
      | .good p =>
        let replayed := (partOfQueue s q).any fun p => decide ((rpart s p).mode ≥ 2)
        if !roomFor s1 slot r p || queueStalls s q || (replayed && !(y.logged.any fun h => h % 2 ^ 17 == slot)) then notEnabled "SPAWN_PARSE"
        else withStamp "SPAWN_PARSE" s1 q y x.pa fun s =>
          let s2 := acceptRecord s q slot 2 x.grp y.bytes r p
          done s2 (stampWord 1 0 (match s2.task? slot with | some t => t.handle | none => 0))

end Sys2Proof.Machine
end

