-- ==== Sys2Proof/Machine/Place.lean ====
section
/-! DEFINITION. Placement: what a gang needs and a cluster has, the arbiter's choice of task, GANG_PLACE and RANGE_REQUEST (R25, R94 to
R98, R102, R214). -/
namespace Sys2Proof.Machine
open Sys2Proof

/-! ### Resources (R95) -/

/-- The block's context is on its cluster. -/
def blockHere (s : State) (b : Block) : Bool :=
  !b.retired && !b.swapped && physClu s (lcluOf s b.id.gang) == some (cluOfCu b.cu)

/-- A group whose registers and slot are taken on its partition: it has not retired, and its block's context is there. -/
def Group.takes (s : State) (gr : Group) : Bool :=
  match gr.status with
  | .resident => true
  | .exited => (s.block? gr.block).any (blockHere s)
  | _ => false

def unitsUsed (s : State) (p : Nat) : Nat := ((s.groups.filter fun x => x.2.part == p && x.2.takes s).map fun x => x.2.vregs / 8).sum
def slotsUsed (s : State) (p : Nat) : Nat := (s.groups.filter fun x => x.2.part == p && x.2.takes s).length
def cuBlocks (s : State) (cu : Nat) : List Block := (s.blocks.filter fun b => b.2.cu == cu && blockHere s b.2).map (·.2)
def spadTaken (s : State) (cu : Nat) : Nat := ((cuBlocks s cu).map fun b => round2k b.spad).sum
def tilesTaken (s : State) (cu : Nat) : Nat := ((cuBlocks s cu).map (·.ntiles)).sum

/-- Groups of `units` register units that a partition can still take. -/
def partRoom (s : State) (p units : Nat) : Nat := min (16 - slotsUsed s p) ((85 - unitsUsed s p) / max 1 units)

/-- A CU can take one block of a task. -/
def cuFits (s : State) (r : LRec) (cu : Nat) : Bool :=
  decide (spadTaken s cu + round2k r.spad ≤ 786432) && decide (tilesTaken s cu + r.tiles ≤ 128)
    && decide (((List.range 4).map fun k => partRoom s (4 * cu + k) (r.vregs / 8)).sum ≥ r.groups)

/-- A block's swap reservation. -/
def swapBytes (r : LRec) : Nat := r.groups * (r.vregs * 384 + 4096) + r.spad
def swapTaken (s : State) : Nat :=
  (s.blocks.map fun b => match s.task? b.1.gang.slot with | some t => swapBytes t.lr | none => 0).sum

/-- Room for the `.l2` tiles of a block's stream inputs. -/
def l2Need (t : Task) : Nat := ((t.copies.filter fun d => d.cls == 1 && d.level == 2).map fun d => tileBytes d.rows d.cols d.shape.esz).sum

/-- The cluster takes work: its die is there, its clock runs, and it is not being frozen or restored. -/
def cluOpen (s : State) (c : Nat) : Bool :=
  let x := cluD s c
  decide (c < 112) && !s.disp.deadDies.contains (dieOfClu c) && !x.stopped && (match x.state with | .idle | .running => true | _ => false)

/-- Groups that were evicted from the CU come back before a gang of their class or a lower one is placed there (R104). -/
def evictedFirst (s : State) (t : Task) (cu : Nat) : Bool :=
  s.groups.any fun p => decide (p.2.status = .swapped) &&
    (match s.block? p.2.block with
     | some b => b.cu == cu && decide (b.why = .evicted) && decide (classOf s p.1 ≤ (s.queueD t.queue).cls)
     | none => false)

/-- The CU can take a block of the task now. -/
def cuTakes (s : State) (t : Task) (cu : Nat) : Bool := cuFits s t.lr cu && !evictedFirst s t cu

/-- A gang of a task fits a cluster (R95). -/
def gangFits (s : State) (t : Task) (c : Nat) : Bool :=
  cluOpen s c && decide (((List.range 8).filter fun k => cuTakes s t (8 * c + k)).length ≥ t.lr.blocks)
    && decide (swapTaken s + t.lr.blocks * swapBytes t.lr ≤ Config.swapPool)
    && decide (l2Used s (dieOfClu c) + t.lr.blocks * l2Need t ≤ s.m.l2pin * 2 ^ 20)

/-! ### The arbiter (R97) -/

/-- Gangs of the task are still to be placed. -/
def Task.unplaced (t : Task) : Bool :=
  t.live && t.lr.ty == 1 && t.failed.isNone && decide (t.st = .ready ∨ t.st = .running)
    && (decide (t.nextKid < t.lr.gangs) || t.returned != [] || t.granted != [] || t.relaunchPending != [])

/-- The clusters that are kept: for a task that still has a gang to place, on a surviving die (R97). -/
def kept (s : State) : List (Nat × Nat) :=
  s.disp.reserved.filter fun r => !s.disp.deadDies.contains (dieOfClu r.2) && (s.task? r.1).any Task.unplaced

/-- Where a task's next gang may go: a cluster kept for another task is not for it. -/
def mayUse (s : State) (t : Task) (c : Nat) : Bool := (replaying s t.slot).isSome || (kept s).all fun r => r.2 != c || r.1 == t.slot
/-- The task's next gang has a place; under replay its log names it, kept or not (R98). -/
def placeable (s : State) (t : Task) : Bool := t.unplaced && (List.range 112).any fun c => mayUse s t c && gangFits s t c

/-- The tasks of a queue, earliest accepted first. -/
def insertTask (t : Task) : List Task → List Task
  | [] => [t]
  | x :: l => if t.order ≤ x.order then t :: x :: l else x :: insertTask t l
def tasksOfQueue (s : State) (q : Nat) : List Task :=
  ((s.tasks.filter fun p => p.2.queue == q && p.2.live).map (·.2)).foldr insertTask []

/-- The task of a queue that is served: the earliest accepted of those placeable. -/
def queueTask (s : State) (q : Nat) : Option Task := (tasksOfQueue s q).find? (placeable s)
def classQueues (s : State) (c : Nat) : List Nat := (List.range 128).filter fun q => (s.queueD q).cls == c

/-- The next placeable queue of a class after the one whose turn came last. -/
def nextQueue (s : State) (c last : Nat) : Option Nat :=
  let qs := classQueues s c
  (qs.filter (· > last) ++ qs.filter (· ≤ last)).find? fun q => (queueTask s q).isSome

/-- The class has a task in READY or RUNNING with unplaced gangs. -/
def classBusy (s : State) (c : Nat) : Bool := (classQueues s c).any fun q => (tasksOfQueue s q).any Task.unplaced

/-- The arbiter as it enters a class. -/
def enterClass (s : State) (d : Disp) (c : Nat) : Disp :=
  let x := if classBusy s c then min (d.deficit.getD c 0 + d.clsw.getD c 1) (2 * d.clsw.getD c 1) else 0
  { d with deficit := d.deficit.set c x, turn := none }

/-- The next queue turn from a class on; each class is entered once. -/
def roundFrom (s : State) : List Nat → Disp → Option (Nat × Nat × Disp)
  | [], _ => none
  | c :: cs, d =>
    let d1 := enterClass s d c
    if d1.deficit.getD c 0 ≥ 1 then
      match nextQueue s c (d1.lastQ.getD c 127) with
      | some q => some (c, q, { d1 with turn := some (c, q, 0) })
      | none => roundFrom s cs d1
    else roundFrom s cs d1

/-- A kept cluster that its task's next gang fits, with an index that its die may place: that gang is placed there before any other, out of
turn (R97). -/
def keptFits (s : State) : Option (Nat × Nat) :=
  (kept s).find? fun r => (replaying s r.1).isNone && (s.task? r.1).any fun t =>
    gangFits s t r.2 && (t.relaunchPending != [] || t.granted.any fun x => x.1 == dieOfClu r.2)

/-- The class and queue that place the next gang, and the arbiter then. -/
def arbiter (s : State) : Option (Nat × Nat × Disp) :=
  let d := s.disp
  let later := fun (c : Nat) => ((List.range 4).map fun k => (c + 1 + k) % 4)
  match d.turn with
  | none => roundFrom s [0, 1, 2, 3, 0] d
  | some (c, q, n) =>
    if n < (s.queueD q).weight ∧ d.deficit.getD c 0 ≥ 1 ∧ (queueTask s q).isSome then some (c, q, d)
    else
      let d1 := { d with lastQ := d.lastQ.set c q }
      if d1.deficit.getD c 0 ≥ 1 then
        match nextQueue s c q with
        | some q' => some (c, q', { d1 with turn := some (c, q', 0) })
        | none => roundFrom s (later c) d1
      else roundFrom s (later c) d1

/-- A gang of a class's queue has been placed. -/
def countPlaced (d : Disp) (c : Nat) : Disp :=
  { d with deficit := d.deficit.set c (d.deficit.getD c 0 - 1), turn := d.turn.map fun t => (t.1, t.2.1, t.2.2 + 1) }

/-- The task at the head of a class. -/
def classHead (s : State) (c : Nat) : Option Task :=
  (((classQueues s c).flatMap (tasksOfQueue s)).filter Task.unplaced).foldl (fun m t =>
    match m with | none => some t | some x => if t.order < x.order then some t else some x) none

/-- Free register units of a cluster. -/
def freeUnits (s : State) (c : Nat) : Nat := ((List.range 32).map fun k => 85 - unitsUsed s (32 * c + k)).sum
/-- The cluster of a surviving die with the most free units; which of several with as many, the spec leaves open. -/
def emptiest (s : State) (ix : Nat) : Nat :=
  let cs := liveClusters s
  let top := cs.foldl (fun m c => max m (freeUnits s c)) 0
  let best := cs.filter fun c => freeUnits s c == top
  best.getD (Config.emptiestPick ix % max 1 best.length) 0

/-- A cluster is kept for a task whose age has reached 256. -/
def keepCluster (s : State) (slot : Nat) : State :=
  let f := freshFree s
  { f.2 with disp := { f.2.disp with reserved := f.2.disp.reserved ++ [(slot, emptiest s f.1)] } }

/-- The ages after a placement decision, and the clusters kept: one for each head of a class whose age reaches 256, until its task's next
gang is placed there (R97). A task ages by the decisions made while it heads its class: R97 keeps an age for the heads alone, and does not say
that earlier decisions count when a task comes to the head (DESIGN CHOICE, notes/assumptions/66). -/
def ageHeads (s : State) (placed clu : Nat) : State :=
  let heads := ((List.range 4).filterMap fun c => (classHead s c).map (·.slot)).filter (· != placed)
  let s1 := foldS (s.updTask placed fun t => { t with age := 0 }) heads fun s h => s.updTask h fun t => { t with age := t.age + 1 }
  let s2 : State := { s1 with disp := { s1.disp with reserved := (kept s1).filter (· != (placed, clu)) } }
  let old := heads.filter fun h => (s2.task? h).any (fun t => decide (t.age ≥ 256)) && !(s2.disp.reserved.any (·.1 == h))
  foldS s2 old keepCluster

/-! ### GANG_PLACE (R25, R96, R98, R214) -/

/-- Group numbers that are taken: held by a group, or kept for a gang to be relaunched (R25). -/
def numberTaken (s : State) (g : Nat) : Bool :=
  (s.group? g).isSome || s.tasks.any fun p => p.2.live && p.2.keptIds.any fun k => k.2.2.2 == g

/-- The number kept for a group of a gang to be relaunched. -/
def keptNumber (t : Task) (kid bid gix : Nat) : Option Nat :=
  (t.keptIds.find? fun k => k.1 == kid && k.2.1 == bid && k.2.2.1 == gix).map (·.2.2.2)

/-- Every group of a placement: block index, group index, partition within the CU, number. -/
def placedGroups (p : Placement) : List (Nat × Nat × BlockPlace × Nat × Nat) :=
  (p.blocks.zipIdx.map fun b => b.1.groups.zipIdx.map fun g => (b.2, g.2, b.1, g.1.1, g.1.2)).flatten

/-- The numbers of a placement: the kept ones of a relaunch, else distinct free ones. -/
def numbersOk (s : State) (t : Task) (p : Placement) : Bool :=
  let ns := (placedGroups p).map fun x => x.2.2.2.2
  ns.dedup.length == ns.length && (placedGroups p).all fun x =>
    decide (x.2.2.2.2 < 2 ^ 21) &&
      (match keptNumber t p.gang.kid x.1 x.2.1 with
       | some k => k == x.2.2.2.2
       | none => !numberTaken s x.2.2.2.2)

/-- The groups of each partition fit it. -/
def partsOk (s : State) (t : Task) (p : Placement) : Bool :=
  p.blocks.all fun b => (List.range 4).all fun k =>
    decide ((b.groups.filter fun g => g.1 == k).length ≤ partRoom s (4 * b.cu + k) (t.lr.vregs / 8))

/-- A placement that R95 and R96 allow. -/
def placementOk (s : State) (t : Task) (p : Placement) : Bool :=
  let cus := p.blocks.map (·.cu)
  gangFits s t p.cluster && mayUse s t p.cluster
    && cus.length == t.lr.blocks && cus.dedup.length == cus.length
    && (p.blocks.all fun b => cluOfCu b.cu == p.cluster && cuTakes s t b.cu && b.groups.length == t.lr.groups && b.groups.all fun g => decide (g.1 < 4))
    && partsOk s t p && numbersOk s t p
    && (match (cluD s p.cluster).lclu with
        | some l => l == p.lclu
        | none => decide (p.lclu < 65536) && !(s.frz.clus.any fun c => c.2.lclu == some p.lclu) && !(s.frz.images.any fun i => i.lclu == p.lclu)
            && !(s.gangs.any fun g => g.2.lclu == p.lclu))

/-- The gang index a die may place next for a task. -/
def nextIndex (t : Task) (die : Nat) : Option Nat :=
  (t.granted.filter fun x => x.1 == die).foldl (fun m x => match m with | none => some x.2 | some k => some (min k x.2)) none

/-- GID as CSRR reads it. -/
def gidWord (lgn gix : Nat) : Nat := lgn % 2 ^ 21 + gix * 2 ^ 24

/-- One PLACE record. -/
def placeRow (t : Task) (p : Placement) (x : Nat × Nat × BlockPlace × Nat × Nat) : List Byte :=
  let phys := 4 * x.2.2.1.cu + x.2.2.2.1
  rowBytes 7 0 0 0 (agentOfGroup x.2.2.2.2) (phys + p.lclu * 2 ^ 16) t.handle (gidWord x.2.2.2.2 x.2.1)

/-- Under replay the log gives the placement: each of its PLACE records leaves the log (R98, R375). -/
def replayPlace (s : State) (t : Task) (p : Placement) : Option State :=
  match replaying s t.slot with
  | none => some s
  | some q => (placedGroups p).foldl (fun o x => o.bind fun s =>
      let r := rpart s q
      match r.log.findIdx? fun b => b.take 16 == (placeRow t p x).take 16 && b.drop 24 == (placeRow t p x).drop 24 with
      | none => none
      | some k => some (setRpart s q { r with log := r.log.eraseIdx k })) (some s)

/-- A group of the gang starts (R96); its first chunk follows the last chunk of the number's previous holder (R365). -/
def startGroup (s : State) (t : Task) (p : Placement) (x : Nat × Nat × BlockPlace × Nat × Nat) : State :=
  let lgn := x.2.2.2.2
  let c := s.damask.chunkNext
  let g := freshGroup lgn ⟨p.gang, x.1⟩ x.2.1 (4 * x.2.2.1.cu + x.2.2.2.1) t.lr
  let deps := s.damask.lastChunk.get lgn []
  let g1 := g.updEnt 0 fun e => { e with chunk := { id := c, deps } }
  let s1 : State := { s with groups := s.groups.put lgn g1, damask := { s.damask with chunkNext := c + 1 } }
  match recording s t.slot with
  | some q => emit s1 q hubSrc (placeRow t p x) none
  | none => s1

/-- A block's stream inputs: their tiles are allocated, every chunk owned by the copy, and the instances start (R209, R214). -/
def startStreams (s : State) (t : Task) (b : BlockId) (clu : Nat) : Option State :=
  (t.indexed.filter fun x => x.2.cls == 1).foldl (fun o x => o.bind fun s =>
    let d := x.2
    match tileAlloc s b { free := false, h := d.tile, rows := d.rows, cols := d.cols, esz := d.shape.esz,
                          level := if d.level = 2 then .l2 else .cu } with
    | .error _ => none
    | .ok s1 =>
      let s2 := s1.updBlock b fun y => { y with tiles := y.tiles.upd d.tile fun z => { z with owned := List.range ((d.bytes + 2047) / 2048) } }
      some (addInst s2 t x.1 d b.gang.kid b.bid clu)) (some s)

/-- The gang takes its place. -/
def placeGang (s : State) (t : Task) (p : Placement) : Option State :=
  let bs := p.blocks.zipIdx
  let mkBlock := fun (b : BlockPlace × Nat) =>
    ((⟨p.gang, b.2⟩ : BlockId), ({ id := ⟨p.gang, b.2⟩, cu := b.1.cu, base := b.1.base, spad := t.lr.spad, ntiles := t.lr.tiles } : Block))
  let s1 : State := { s with
    gangs := s.gangs.put p.gang { id := p.gang, lclu := p.lclu }
    blocks := bs.foldl (fun m b => AList.put m (mkBlock b).1 (mkBlock b).2) s.blocks
    frz := { s.frz with clus := s.frz.clus.put p.cluster { cluD s p.cluster with lclu := some p.lclu, state := .running } } }
  let s2 := foldS s1 (placedGroups p) fun s x => startGroup s t p x
  let s3 := s2.updTask t.slot fun t => { t with
    st := .running, granted := t.granted.filter (·.2 != p.gang.kid), relaunchPending := t.relaunchPending.filter (· != p.gang.kid)
    keptIds := t.keptIds.filter (·.1 != p.gang.kid), retiredKids := t.retiredKids.filter (· != p.gang.kid) }
  bs.foldl (fun o b => o.bind fun s => startStreams s t ⟨p.gang, b.2⟩ p.cluster) (some s3)

/-- The gang that GANG_PLACE places next: the arbiter's choice, or that of a kept cluster (R97), and the dispatcher then. -/
def nextPlace (s : State) (t : Task) (p : Placement) : Option Disp :=
  match keptFits s with
  | some (slot, c) => if slot = t.slot ∧ c = p.cluster then some s.disp else none
  | none =>
    match arbiter s with
    | some (c, q, d) => if (queueTask s q).any fun x => x.slot == t.slot then some (countPlaced d c) else none
    | none => none

def execGangPlace (p : Placement) (s : State) : Out :=
  match s.task? p.gang.slot with
  | none => notEnabled "GANG_PLACE"
  | some t =>
    let index := t.relaunchPending.contains p.gang.kid || nextIndex t (dieOfClu p.cluster) == some p.gang.kid
    if s.plat.failed || s.plat.capHold || slotStalls s t.slot || !t.unplaced || !index || !placementOk s t p then notEnabled "GANG_PLACE"
    else match nextPlace s t p, replayPlace s t p with
    | some d, some s0 => match placeGang { s0 with disp := d } t p with
      | none => notEnabled "GANG_PLACE"
      | some s1 => .next (ageHeads s1 t.slot p.cluster)
    | _, _ => notEnabled "GANG_PLACE"

/-! ### RANGE_REQUEST (R102) -/

/-- The die has room for a gang of the task. -/
def dieRoom (s : State) (t : Task) (die : Nat) : Bool := (List.range 112).any fun c => dieOfClu c == die && mayUse s t c && gangFits s t c

/-- The consecutive indices from the least one returned by a failed die, at most `n`. -/
def returnedRun (t : Task) : Nat → List Nat
  | 0 => []
  | n + 1 =>
    let k := (sortNat t.returned).headD 0 + n
    if t.returned != [] && (List.range (n + 1)).all (fun i => t.returned.contains (k - i)) then returnedRun t n ++ [k] else returnedRun t n

/-- A die with room asks for up to 64 consecutive indices: those returned by a failed die first, then new ones. -/
def execRangeRequest (die slot n : Nat) (s : State) : Out :=
  match s.task? slot with
  | none => notEnabled "RANGE_REQUEST"
  | some t =>
    if s.plat.failed || decide (die ≥ 4) || s.disp.deadDies.contains die || n = 0 || n > 64 || !t.unplaced || !dieRoom s t die then notEnabled "RANGE_REQUEST"
    else if t.returned != [] then
      let l := returnedRun t n
      .next (s.updTask slot fun t => { t with returned := t.returned.filter (!l.contains ·), granted := t.granted ++ l.map fun k => (die, k) })
    else if t.nextKid + n ≤ t.lr.gangs then
      .next (s.updTask slot fun t =>
        { t with nextKid := t.nextKid + n, granted := t.granted ++ (List.range n).map fun k => (die, t.nextKid + k) })
    else notEnabled "RANGE_REQUEST"

end Sys2Proof.Machine
end

