-- ==== Sys2Proof/Machine/GroupBytes.lean ====
section
/-! DEFINITION. The bytes of a group's swap image (R116, R117), and their place in its block's swap reservation (R95, R104). -/
namespace Sys2Proof.Machine
open Sys2Proof

/-- Byte `k` of a little-endian number. -/
def nthByte (x k : Nat) : Byte := BitVec.ofNat 8 (x / 256 ^ k)

/-! ### A group (R116, R117) -/

/-- STATE of a split-table entry. -/
def FragState.code : FragState → Nat
  | .fetching => 0 | .waiting => 1 | .ready => 2 | .issuing => 3 | .parked => 4 | .joinWait => 5 | .halted => 6

/-- A split-table entry as 320 bits (R116). -/
def Entry.word (x : Entry) : Nat :=
  x.own.toNat * 2 ^ 224 + x.mask.toNat * 2 ^ 128 + x.rj / 8 % 2 ^ 54 * 2 ^ 74 + x.pc / 8 % 2 ^ 54 * 2 ^ 20
    + (b2n x.cc.e * 16 + b2n x.cc.v * 8 + b2n x.cc.c * 4 + b2n x.cc.n * 2 + b2n x.cc.z) * 2 ^ 15
    + x.sib % 16 * 2 ^ 11 + x.depth % 16 * 2 ^ 7 + x.waitk % 8 * 2 ^ 4 + x.st.code * 2 + b2n x.valid

/-- REGENT as CSRR reads it (R184). -/
def Ctl.regent (k : Ctl) : Nat := b2n k.seen * 2 ^ 63 + k.region

/-- Two writer tags in a byte, the first in bits 3:0. -/
def tagPair (a b : Nat) : Byte := BitVec.ofNat 8 (a % 16 + b % 16 * 16)

/-- Bytes 0x000 to 0x629 of the layout of R117. -/
def groupHead (gr : Group) : List Byte :=
  let k := gr.ctl
  ((List.range 64).flatMap fun n => leBytes 8 (if n < 60 then (gr.regs.s.get n 0).toNat else 0))
    ++ ((List.range 15).flatMap fun n => leBytes 16 (gr.regs.q.get n 0).toNat)
    ++ leBytes 16 0
    ++ ((List.range 16).flatMap fun e => leBytes 40 (gr.ent e).word)
    ++ ([b2n k.ftz, k.srseed.toNat, k.srctr.toNat, k.regent, k.sig.toNat, k.spncnt.toNat, k.flt.word.toNat].flatMap (leBytes 8))
    ++ leBytes 12 k.flt.m.toNat ++ leBytes 4 (b2n k.hintdrop)
    ++ ((List.range 30).map fun n => tagPair (gr.stag.get (2 * n) 0) (gr.stag.get (2 * n + 1) 0))
    ++ [tagPair k.tFmode k.tSrseed, tagPair k.tSrctr k.tSig]
    ++ ((List.range 8).flatMap fun n => leBytes 8 (((gr.perf.find? fun p => p.1 == n).map (·.2)).getD 0))
    ++ [tagPair k.tSpncnt k.tRegent, tagPair k.tFlt 0]

/-- Byte `b` of vector register `n`: lane i's word lies at 4 × i. -/
def vregByte (gr : Group) (n b : Nat) : Byte := nthByte (lane (gr.regs.getV n) (b / 4)).toNat (b % 4)

/-- A group's swap image (R117). -/
def swapImage (gr : Group) : List Byte :=
  groupHead gr ++ List.replicate 2518 0 ++ (List.range gr.vregs).flatMap fun n => (List.range 384).map (vregByte gr n)

/-- The bytes that a group takes of its block's swap reservation (R95). -/
def Group.share (gr : Group) : Nat := groupShare gr.vregs

/-- A group is written into its share of the reservation (R117). -/
def saveGroup (s : State) (g : Nat) : State :=
  match s.group? g with
  | some gr => engineWrite s (swapBase gr.block + gr.gix * gr.share) (swapImage gr)
  | none => s

/-- What has been saved of groups that return is read, and of their block's scratchpad where that was away too (R104, R415). -/
def readSaved (s : State) (b : BlockId) (gs : List Nat) : State :=
  let s1 := foldS s gs fun s g => match s.group? g with
    | some gr => watchHub s 1 3 agentNone 0 (wordsOf (swapBase gr.block + gr.gix * gr.share) gr.share)
    | none => s
  match s.block? b with
  | some bl => if bl.swapped then watchHub s1 1 3 agentNone 0 (wordsOf (spadBase s b) bl.spad) else s1
  | none => s1

/-- The scratchpad image of a block that leaves whole follows its groups (R224). -/
def saveSpad (s : State) (b : BlockId) : State :=
  match s.block? b with
  | some bl =>
    let f := freshId s
    engineWrite f.2 (spadBase s b) ((List.range bl.spad).map (spadByte s bl (Config.imageByte f.1 0)))
  | none => s

end Sys2Proof.Machine
end

