-- ==== Sys2Proof/Machine/DispatchEvents.lean ====
section
/-! DEFINITION. Reports, swap-out and swap-in, system calls, kills and part failures (R31 to R35, R43, R101 to R108, R192, R314, R327,
R334, R335, R353, R407). -/
namespace Sys2Proof.Machine
open Sys2Proof

/-! ### REPORT_WRITE (R31, R32, R107, R108) -/

/-- The key under which the releases of R353 for a task wait for their acknowledgements. -/
def reportKey (slot : Nat) : Nat := 2 ^ 22 + slot

/-- The task next to be reported on a queue: the earliest accepted one that is no node and has no report. -/
def reportNext (s : State) (q : Nat) : Option Task := (tasksOfQueue s q).find? fun t => t.parent.isNone

/-- The tasks a report stands for: the task itself, or an instance with its nodes. -/
def reportTasks (s : State) (t : Task) : List Task :=
  (s.tasks.filter fun p => p.1 == t.slot || (t.lr.ty == 2 && p.2.live && (match p.2.parent with | some (i, _) => i == t.slot | none => false))).map (·.2)

/-- The devices that groups of a task stored to and have not released at (R353), if they can be reached. -/
def owedDevices (s : State) (t : Task) : List Nat :=
  (((reportTasks s t).flatMap (·.fdevs)).map (· % 2 ^ 18)).dedup.filter fun d => (fabPort s.fab d).isSome

/-- Sends the release of R353 to a device: a FENCE that writes no flag. -/
def sendOwed (s : State) (slot dev : Nat) : State :=
  hubSend s (reportKey slot) 4 0 [] { blankPk 7 0 dev 0 with ord := 2, scope := 5 }

/-- The 32 bytes of a completion entry. -/
def reportEntry (s : State) (x : Queue) (t : Task) : List Byte :=
  let all := reportTasks s t
  let cause := t.failed.getD 0
  let phase := (x.written / 2 ^ (x.cmplog + 4) + x.pass0) % 2 == 0
  leBytes 8 (t.handle % 2 ^ 48) ++ leBytes 1 (if t.failed.isSome then 2 else 1) ++ leBytes 1 cause
    ++ leBytes 1 (min 255 (all.map (·.relaunchTotal)).sum)
    ++ leBytes 1 (b2n phase * 128 + b2n (all.any (·.tdepref)))
    ++ leBytes 4 (if t.lr.ty = 2 then t.failNode else 0xFFFFFFFF) ++ leBytes 8 t.lr.seq.toNat ++ leBytes 8 0

/-- The completion ring has room. -/
def reportRoom (x : Queue) : Bool := decide ((x.written + 2 ^ 32 - x.head) % 2 ^ 32 < 2 ^ (x.cmplog + 4))

/-- The entry is written, and the task gives its slot back. -/
def writeReport (s : State) (q : Nat) (x : Queue) (t : Task) : State :=
  let at_ := x.cmp + 32 * (x.written % 2 ^ (x.cmplog + 4))
  let s1 : State := { s with hostMem := s.hostMem.putN at_ (reportEntry s x t) }
  let s2 := s1.setQueue q { x with written := (x.written + 1) % 2 ^ 32 }
  let s3 := foldS s2 ((reportTasks s t).map (·.slot)) fun s k => s.updTask k fun y => { y with reported := true }
  let s4 := sweepVersions s3
  if x.irq then raiseMsi s4 q else s4

/-- The partition of a queue is halted: its tasks are not reported until firmware restores its clusters or fails them (R383). -/
def queueHalted (s : State) (q : Nat) (t : Task) : Bool := t.failed != some 0x0E && (partOfQueue s q).any fun p => (rpart s p).halted

/-- The report of a queue's next task. Once the requests of its killed groups have their answers (R358), the releases of R353 go out, and all
are acknowledged before the entry is written. -/
def execReportWrite (q : Nat) (s : State) : Out :=
  match reportNext s q with
  | none => notEnabled "REPORT_WRITE"
  | some t =>
    let x := s.queueD q
    if decide (t.st ≠ .done) || s.plat.failed || queueHalted s q t then notEnabled "REPORT_WRITE"
    else
      let owed := owedDevices s t
      let slots := (reportTasks s t).map (·.slot)
      if slots.any fun k => hubOwes s (killedKey k) then notEnabled "REPORT_WRITE"
      else if owed != [] then
        .next (foldS (foldS s owed fun s d => sendOwed s t.slot d) slots fun s k => s.updTask k fun y => { y with fdevs := [] })
      else if hubOwes s (reportKey t.slot) || !s.plat.linkUp || !reportRoom x then notEnabled "REPORT_WRITE"
      else .next (wakeAll (writeReport s q x t))

/-! ### SWAP_OUT (R43, R104, R105) -/

/-- A group that a swap takes stands at a clause boundary, or in a clause that can be abandoned, and no token of it is pending. -/
def swapReady (gr : Group) : Bool :=
  decide (gr.status = .resident)
    && (match gr.ctx with | some c => decide (c.slot < c.words.length) | none => true)
    && (gr.pend.all fun p => !p.committed)

/-- The group leaves for its swap reservation: STATE is kept, but for a clause under way, which is abandoned; a fragment does not age while it
is away (R43, R120). -/
def swapGroup (s : State) (g : Nat) : State :=
  (abandon s g).updGroup g fun gr => { gr with status := .swapped, ents := gr.ents.map fun x => { x with age := 0, forced := false } }

/-- The groups of a block that would leave, highest index first. -/
def residentDown (s : State) (b : BlockId) : List Nat :=
  let gs := (groupsOfBlock s b).filter fun g => match s.group? g with | some x => decide (x.status = .resident) | none => false
  let ix := fun (g : Nat) => match s.group? g with | some x => x.gix | none => 0
  ((List.range 16).reverse).filterMap fun k => gs.find? fun g => ix g == k

/-- Groups are away, as far as registers and slots go. -/
def without (s : State) (gs : List Nat) : State := foldS s gs fun s g => s.updGroup g fun gr => { gr with status := .swapped }

/-- The groups of a cluster that may leave for a task: resident ones of tasks of strictly lower classes, none of its own (R105). -/
def evictable (s : State) (t : Task) (c : Nat) : List Nat :=
  (s.groups.filter fun p => decide (p.2.status = .resident) && cluOfCu p.2.cu == c && p.2.block.gang.slot != t.slot
    && decide ((s.queueD t.queue).cls < classOf s p.1)).map (·.1)

/-- A task of a strictly higher class with a gang to place that does not fit the block's cluster, and would if groups left it. That the last
of `gs` leaves is what lets the block's CU take a block of it, or all the block's groups leave and others of the CU with them (R104,
R105). -/
def wantsRoom (s : State) (b : Block) (gs : List Nat) : Bool :=
  let c := cluOfCu b.cu
  let cls := match s.task? b.id.gang.slot with | some t => (s.queueD t.queue).cls | none => 0
  s.tasks.any fun p => p.2.unplaced && p.1 != b.id.gang.slot && decide ((s.queueD p.2.queue).cls < cls) && mayUse s p.2 c
    && !gangFits s p.2 c && gangFits (without s (evictable s p.2 c)) p.2 c
    && !cuFits (without s gs.dropLast) p.2.lr b.cu
    && (cuFits (without s gs) p.2.lr b.cu
      || (gs == residentDown s b.id && cuFits (without s (evictable s p.2 c)) p.2.lr b.cu))

/-- The gang is placed and not being killed (R407). -/
def liveGang (s : State) (g : GId) : Bool := match s.gang? g with | some x => x.killed.isNone | none => false

/-- Groups of a block, or the whole block, leave for the swap reservation, and IP writes reach the L2 (R104, R117, R285). `gs` names the
groups, highest index first. -/
def execSwapOut (b : BlockId) (gs : List Nat) (s : State) : Out :=
  match s.block? b with
  | none => notEnabled "SWAP_OUT"
  | some bl =>
    let here := residentDown s b
    let ready := gs.all fun g => match s.group? g with | some gr => swapReady gr | none => false
    let runs := clockRuns s (cluOfCu bl.cu) && blockHere s bl
    let left := foldS (writeBackAll (foldS s gs swapGroup) (· == bl.cu)) gs saveGroup
    if bl.retired || bl.swapped || gs = [] || !ready || !runs || !liveGang s b.gang then notEnabled "SWAP_OUT"
    else match bl.why with
    | .fault _ _ _ | .pgpark =>
      when "SWAP_OUT" (gs == here) ((saveSpad left b).updBlock b fun x => { x with swapped := true })
    | _ =>
      when "SWAP_OUT" (gs == here.take gs.length && wantsRoom s bl gs)
        (left.updBlock b fun x => { x with why := .evicted })

/-! ### SWAP_IN (R104, R105) -/

/-- A fragment of the group still waits for a page. -/
def awaitsPage (gr : Group) : Bool := gr.valids.any fun e => match (gr.ent e).park with | .pages _ => true | .pgreq _ _ => true | _ => false

/-- Every partition of a CU has room for the groups that come to it. -/
def swapRoom (s : State) (ps : List (Nat × Nat)) : Bool :=
  ps.all fun p => match s.group? p.1 with
    | some gr => decide ((ps.filter fun x => x.2 == p.2).length ≤ partRoom s p.2 (gr.vregs / 8))
    | none => false

/-- Groups return to partitions. Their fragments have been ready only from then on (R121, R122), and what STAY kept is kept where they were. -/
def swapBack (s : State) (ps : List (Nat × Nat)) : State :=
  foldS s ps fun s p =>
    let f := freshId s
    f.2.updGroup p.1 fun gr => { gr with
      status := .resident, part := p.2
      ents := gr.ents.map fun x => { x with since := if x.st = .ready then f.1 else x.since, stayed := x.stayed && gr.part == p.2 } }

/-- Swapped groups return to partitions of their block's CU. -/
def execSwapIn (b : BlockId) (gs : List (Nat × Nat)) (s : State) : Out :=
  match s.block? b with
  | none => notEnabled "SWAP_IN"
  | some bl =>
    let mine := (groupsOfBlock s b).filter fun g => match s.group? g with | some x => decide (x.status = .swapped) | none => false
    let names := gs.map (·.1)
    let fits := (names.all fun g => mine.contains g) && names.dedup.length == names.length && (gs.all fun p => cuOfPart p.2 == bl.cu) && swapRoom s gs
    let clu := cluOfCu bl.cu
    let here := physClu s (lcluOf s b.gang) == some clu && clockRuns s clu
    if bl.retired || !fits || gs = [] || !here || !liveGang s b.gang then notEnabled "SWAP_IN"
    else if bl.swapped then
      let free : Bool := match bl.why with
        | .none => true
        | .pgpark => !(mine.any fun g => match s.group? g with | some x => awaitsPage x | none => false)
        | _ => false
      let room := decide (spadTaken s bl.cu + round2k bl.spad ≤ 786432) && decide (tilesTaken s bl.cu + bl.ntiles ≤ 128)
      when "SWAP_IN" (free && room && names.length == mine.length)
        (wakeAll ((swapBack (readSaved s b names) gs).updBlock b fun x => { x with swapped := false, why := .none }))
    else
      let why : SwapCause := if names.length = mine.length ∧ bl.why = .evicted then .none else bl.why
      .next (wakeAll ((swapBack (readSaved s b names) gs).updBlock b fun x => { x with why }))

/-! ### System calls (R106) -/

/-- The enabled ring set of a PASID. -/
def setOfPasid (s : State) (pasid : Nat) : Option (Nat × ScSet) :=
  ((List.range 128).map fun n => (n, s.disp.sets.get n {})).find? fun p => p.2.en && p.2.pasid == pasid
def putSet (s : State) (n : Nat) (x : ScSet) : State := { s with disp := { s.disp with sets := s.disp.sets.put n x } }

/-- The system call a fragment is parked on, in a phase: `aux` 0 before its request is written. -/
def trapOf (gr : Group) (e : Nat) : Option POp :=
  match (gr.ent e).st, (gr.ent e).park with
  | .parked, .op p => match p.instr with | .trap _ => some p | _ => none
  | _, _ => none

/-- The immediate of a system call. -/
def trapImm (p : POp) : Nat := match p.instr with | .trap f => f.imm.toNat | _ => 0

/-- The 64 bytes of a request: number, task, agent, immediate, s0 to s4. -/
def scRequest (j handle g : Nat) (p : POp) : List Byte :=
  leBytes 8 j ++ leBytes 8 handle ++ leBytes 4 (agentOfGroup g) ++ leBytes 4 (trapImm p)
    ++ (List.range 5).flatMap fun k => leBytes 8 (((p.accs.find? fun a => a.va == k).map (·.b.toNat)).getD 0)

/-- The group's dispatcher can act on it: on its CU, or in its swap reservation. -/
def reachable (s : State) (gr : Group) : Bool := groupRuns s gr || decide (gr.status = .swapped)

/-- A system call of a group is written to the request ring, while that has room. -/
def execSyscallRequest (g : Nat) (s : State) : Out :=
  match s.group? g with
  | none => notEnabled "SYSCALL_REQUEST"
  | some gr =>
    match (gr.frags.find? fun e => match trapOf gr e with | some p => p.phase == 1 | none => false) with
    | none => notEnabled "SYSCALL_REQUEST"
    | some e =>
      match trapOf gr e, setOfPasid s (pasidOf s gr.block.gang.slot), taskOf s gr with
      | some p, some (n, x), some t =>
        let room := decide ((x.rqt + 2 ^ 32 - x.rqh % 2 ^ 32) % 2 ^ 32 < 2 ^ x.log)
        let j := x.rqt + 1
        let s1 : State := { s with hostMem := s.hostMem.putN (x.rqb + 64 * (x.rqt % 2 ^ x.log)) (scRequest j t.handle g p) }
        let s2 := putSet s1 n { x with rqt := j, waitingFor := x.waitingFor ++ [(j, g, e)] }
        let s3 := putEnt s2 g e fun y => { y with park := .op { p with phase := 2, aux := j } }
        when "SYSCALL_REQUEST" (room && s.plat.linkUp && !s.plat.failed && reachable s gr)
          (if (s.queueD t.queue).irq then raiseMsi s3 t.queue else s3)
      | _, _, _ => notEnabled "SYSCALL_REQUEST"

/-- The fragment resumes with s0 and s1 replaced; the reply is logged. -/
def syscallDone (s : State) (g e : Nat) (p : POp) (v0 v1 : Word) (log : Bool) : State :=
  let s0 := if log then valueRec s g e 5 v0.toNat 0 (leBytes 8 v0.toNat ++ leBytes 8 v1.toNat) else s
  let s1 := writeS (writeS s0 g e 0 v0) g e 1 v1
  wakeAll (settleRan g e p (.done s1))

/-- The logged reply to a fragment's system call: s0, s1, and the log without it (R375). -/
def loggedReply (s : State) (g e : Nat) : Option (Word × Word × State) :=
  match s.group? g with
  | none => none
  | some gr =>
    (replaying s gr.block.gang.slot).bind fun q =>
      let r := rpart s q
      match r.log.findIdx? (isValue gr g e 5) with
      | none => none
      | some k =>
        let d := (r.log.getD (k + 1) []).drop 4
        some (BitVec.ofNat 64 (fieldOf d 0 8), BitVec.ofNat 64 (fieldOf d 8 8),
              setRpart s q { r with log := r.log.take k ++ r.log.drop (k + 2) })

/-- A fragment of a ring set's PASID that is parked on a call whose reply the log holds. -/
def loggedCaller (s : State) (pasid : Nat) : Option (Nat × Nat × POp) :=
  (s.groups.flatMap fun x => x.2.frags.filterMap fun e =>
    if pasidOf s x.2.block.gang.slot = pasid ∧ groupRuns s x.2 ∧ (loggedReply s x.1 e).isSome then (trapOf x.2 e).map fun p => (x.1, e, p) else none).head?

/-- The next reply of a ring set is read, or, for a replayed task, taken from the log. -/
def execSyscallReply (n : Nat) (s : State) : Out :=
  let x := s.disp.sets.get n {}
  match loggedCaller s x.pasid with
  | some (g, e, p) =>
    match loggedReply s g e with
    | some (v0, v1, s1) => .next (syscallDone (putSet s1 n { x with waitingFor := x.waitingFor.filter fun w => !(w.2.1 == g && w.2.2 == e) }) g e p v0 v1 false)
    | none => notEnabled "SYSCALL_REPLY"
  | none =>
    if !x.en || !s.plat.linkUp || s.plat.failed || x.rph % 2 ^ 32 == x.rpt % 2 ^ 32 then notEnabled "SYSCALL_REPLY"
    else
      let b := s.hostMem.getN (x.rpb + 32 * (x.rph % 2 ^ x.log)) 32
      let j := fieldOf b 0 8
      let y := { x with rph := (x.rph + 1) % 2 ^ 32, waitingFor := x.waitingFor.filter fun w => w.1 != j }
      let lost : State := errLog { putSet s n y with disp := { (putSet s n y).disp with scDiscard := s.disp.scDiscard + 1 } } 6 0 0xFFFFFF 0 0
      match x.waitingFor.find? fun w => w.1 == j with
      | none => .next lost
      | some w =>
        match s.group? w.2.1 with
        | none => .next lost
        | some gr =>
          match trapOf gr w.2.2 with
          | none => .next lost
          | some p =>
            if p.aux ≠ j then .next lost
            else
              let v0 := BitVec.ofNat 64 (fieldOf b 8 8)
              let v1 := BitVec.ofNat 64 (fieldOf b 0x10 8)
              if slotStalls s gr.block.gang.slot then notEnabled "SYSCALL_REPLY"
              else .next ((parkForGroup (putSet s n y) w.2.1 0 (.reply w.2.1 w.2.2 v0 v1)).getD (syscallDone (putSet s n y) w.2.1 w.2.2 p v0 v1 true))

/-! ### Kills and failures (R34, R35, R103, R314, R334, R407) -/

/-- The causes for which a gang is killed (R107, R189). -/
def killCause (c : Nat) : Bool := decide (1 ≤ c) && decide (c ≤ 0x15) || c == 0x80 || c == 0x83

def execGangKill (g : GangId) (cause : Nat) (s : State) : Out :=
  when "GANG_KILL" ((s.gang? g).isSome && killCause cause) (wakeAll (killGang s g cause))

/-- A device failure (R35): every clock stops, copies and ports stop, and the entry is written. -/
def failDevice (s : State) : State :=
  let stop := fun (m : AList Nat Clu) (c : Nat) => AList.put m c { AList.get m c {} with stopped := true }
  let s1 : State := { s with
    cur := none
    frz := { s.frz with clus := (List.range 112).foldl stop s.frz.clus }
    insts := s.insts.map fun x => { x with stopped := true }
    fab := { s.fab with ports := (List.range 24).foldl (fun m p => AList.put m p { AList.get m p {} with up := false }) s.fab.ports } }
  let s2 := errLog s1 10 0 0xFFFFFF 0 0
  { s2 with plat := { s2.plat with failed := true } }

def execDeviceFailure (s : State) : Out := when "DEVICE_FAILURE" (!s.plat.failed) (failDevice s)

/-- What lies on a die's clusters goes: copies of lines, translations, invalidations, and the directories' bits (R314). -/
def clearDie (s : State) (die : Nat) : State :=
  let onCu := fun (cu : Nat) => dieOfClu (cluOfCu cu) == die
  { s with m := { s.m with
      l1 := s.m.l1.filter fun p => !onCu p.1.1
      inval := s.m.inval.filter fun i => !onCu i.cu
      tlb := s.m.tlb.filter fun p => !onCu p.1
      ttlb := s.m.ttlb.filter fun p => dieOfClu p.1 != die
      wcache := s.m.wcache.filter fun c => c.1 != die
      l2 := s.m.l2.filter fun p => p.1 / 512 != die
      dir := s.m.dir.map fun p => (p.1, { p.2 with shv := BitVec.ofNat 112 (maskFrom (fun c => p.2.shv.getLsbD c && dieOfClu c != die) 112) }) } }

/-- Requests to home L2 slices of a failed die go to the lines' new homes again (R314 steps 1, 3 and 4): one that the L3 has performed gets
its recorded values, and the others send again what they had sent. -/
def resend (old s : State) (die : Nat) : State :=
  let now := s.plat.time.toNat
  let kept := s.m.recent.filter fun r => decide (now ≤ r.2.1 + 20000)
  let again := fun (q : Req) =>
    if q.performed || !(q.lines.any fun l => l2Home old l / 512 == die) then q
    else match kept.find? fun r => r.1 == q.id with
      | some r => { q with performed := true, vals := r.2.2 }
      | none => { q with sent := false }
  { s with m := { s.m with recent := kept, reqs := s.m.reqs.map again } }

/-- Gate inputs of a failed die's copy engines go on at another. -/
def moveGates (s : State) : State :=
  let cs := liveClusters s
  { s with insts := s.insts.map fun x =>
      if x.desc.cls = 0 ∧ s.disp.deadDies.contains (dieOfClu x.clu) then { x with clu := cs.getD (Config.gateCluster x.startNo % max 1 cs.length) 0, walked := [], span := [] } else x }

/-- A compute die fails: it is fenced, its gangs are killed, and what was granted to it goes back. -/
def failDie (s : State) (die : Nat) : State :=
  let dead := die :: s.disp.deadDies
  let gone := s.gangs.filter fun p => match physClu s p.2.lclu with | some c => dieOfClu c == die | none => false
  let leader := (((List.range 4).filter fun d => !dead.contains d).head?).getD s.disp.leader
  let s1 : State := { s with disp := { s.disp with deadDies := dead, leader := leader } }
  let s2 := foldS s1 (gone.map (·.1)) fun s g => killGang s g 0x80
  let s3 : State := { s2 with tasks := s2.tasks.map fun p =>
    (p.1, { p.2 with returned := p.2.returned ++ (p.2.granted.filter fun x => x.1 == die).map (·.2)
                     granted := p.2.granted.filter fun x => x.1 != die }) }
  let lines := ((s3.m.inval.filter fun i => dieOfClu (cluOfCu i.cu) == die).map (·.line)).dedup
  let s4 := settleOver (resend s (foldS (clearDie s3 die) lines settlePend) die)
  wakeAll (moveGates { s4 with frz := { s4.frz with clus := s4.frz.clus.filter fun c => dieOfClu c.1 != die } })

def execDieFailure (die : Nat) (s : State) : Out :=
  when "DIE_FAILURE" (decide (die < 4) && !s.disp.deadDies.contains die && !s.plat.failed) (failDie s die)

/-- A pseudo-channel or a stack is declared failed; a second stack is a device failure. -/
def execHbmStackFailure (stack : Nat) (chan : Option Nat) (s : State) : Out :=
  match chan with
  | some c =>
    when "HBM_STACK_FAILURE" (decide (stack < 12) && decide (c < 192) && !s.m.failedChans.contains (stack, c) && !s.m.failedStacks.contains stack && !s.plat.failed)
      (memRecord { s with m := { s.m with failedChans := s.m.failedChans ++ [(stack, c)] } } 0 4 stack c)
  | none =>
    let s1 := memRecord { s with m := { s.m with failedStacks := s.m.failedStacks ++ [stack] } } 0 5 stack 0
    when "HBM_STACK_FAILURE" (decide (stack < 12) && !s.m.failedStacks.contains stack && !s.plat.failed)
      (if s.m.failedStacks = [] then s1 else failDevice s1)

def execHostLinkFault (s : State) : Out := when "HOST_LINK_FAULT" s.plat.linkUp { s with plat := { s.plat with linkUp := false } }
def execHostLinkRetrain (s : State) : Out :=
  when "HOST_LINK_RETRAIN" (!s.plat.linkUp && !s.plat.failed) { s with plat := { s.plat with linkUp := true } }

end Sys2Proof.Machine
end

