-- ==== Sys2Proof/Machine/MemoryEvents.lean ====
section
/-! DEFINITION. The homes: loads, stores, atomics, releases, seals, hold reservations, L1 invalidations and fills, evictions, the host,
HBM (R178 to R180, R262 to R283, R295 to R313, R331 to R335). -/
namespace Sys2Proof.Machine
open Sys2Proof

/-! ### What every request shares -/

/-- The task slot of an agent, for logs and watchpoints. -/
def slotOfAgent (s : State) (a : Nat) : Nat :=
  match agentKind a with
  | 0 => (match s.group? a with | some gr => gr.block.gang.slot | none => 2 ^ 17)
  | 1 => agentIndex a / 16
  | 2 => (match (s.mxD (agentIndex a)).owner with | some g => g.slot | none => 2 ^ 17)
  | _ => 2 ^ 17

/-- The words of device memory that a request names. -/
def Req.devWords (q : Req) : List Nat := wordsOfAccs (q.accs.filter fun a => isDev a.pa)

/-- After a request has been performed: waits are evaluated, and kills and retirements that waited for it go on (R17, R206, R407). -/
def afterPerform (s : State) : State := settleGangs (wakeAll s)

/-- Host memory is reached through the host link. -/
def Req.reach (s : State) (q : Req) : Bool := s.plat.linkUp || q.accs.all fun a => isDev a.pa

/-- A request's turn at the homes has come. -/
def reqTurn (s : State) (q : Req) : Bool := !q.performed && reqReady s q && !reqFrozen s q && q.reach s

/-- Where a watchpoint sees a cluster's request come from. -/
def Req.extra (s : State) (q : Req) : Nat :=
  match q.orig with
  | .grp _ _ => if q.cu < 896 then cluOfCu q.cu else (match s.group? q.agent with | some gr => cluOfCu gr.cu | none => 0)
  | .core l => (physClu s l).getD 0

/-- Watchpoints compare what a request performed in each of its lines (R416). -/
def watchReq (s : State) (q : Req) (what : Nat) (ws : List Nat) : State :=
  let grp := match q.orig with | .grp g e => some (g, e) | .core _ => none
  foldS s ((ws.map (· / 32)).dedup) fun s l =>
    watch s what 0 q.agent (slotOfAgent s q.agent) l (wmaskOf (ws.filter fun w => w / 32 == l)) (q.extra s) grp

/-- A performed request's accesses to SC words enter the access entries; `n` as in `splitChunk` (R363). -/
def scReq (s : State) (q : Req) (n : Nat) (ws : List Nat) : State :=
  match q.orig with
  | .grp g _ => foldS s (scWords s ws) fun s w => scAccess s g q.split n w
  | .core _ => if scWords s ws = [] then s else (eventFor s q.agent (scWords s ws)).2

/-- The instructions of a fragment's last clause. -/
def lastCount (s : State) (q : Req) : Nat := match q.orig with | .grp g _ => (chunkOf s g q.split).last | .core _ => 0

/-- An access to an SC word waits while its recorder waits for a free frame (R360, R363). -/
def scMay (s : State) (q : Req) : Bool := scWords s q.devWords == [] || !slotStalls s (slotOfAgent s q.agent)

/-- A CU keeps at most 512 mesh requests outstanding (R386). -/
def meshSent (s : State) (q : Req) : Bool :=
  decide (q.cu ≥ 896) || decide ((s.m.reqs.filter fun x => x.cu == q.cu && decide (x.id < q.id)).length < 512)

/-- The VC of a request's class (R389). -/
def reqVc (k : RKind) : Nat := match k with | .load | .atomic | .hostAtomic => 0 | .store => 2 | _ => 3

/-- The turn of a request among those of its CU and before its recorder. -/
def sentTurn (s : State) (q : Req) : Bool := pathClear s q && scMay s q && meshSent s q

/-- An open chunk without instructions that another has observed gets its stamp, and a new one follows it (R366). -/
def renewChunk (s : State) (g e : Nat) : State :=
  let ch := chunkOf s g e
  if ch.count ≠ 0 then endChunk s g e 1
  else
    let n := s.damask.chunkNext
    let s1 : State := settleStamps { s with damask := { s.damask with chunkNext := n + 1, ends := s.damask.ends ++ [(ch.id, ch.deps, ch.floor)] } }
    putEnt s1 g e fun x => { x with chunk := { ch with id := n, deps := [ch.id], floor := 0 } }

/-- A clause whose access would need its chunk both before and after another is abandoned (R366). -/
def abandonCycle (s : State) (g e w : Nat) : State :=
  let s1 := match s.damask.access.find? w with | some a => markObserved s a | none => s
  renewChunk (abandonOf s1 g e) g e

/-! ### LOAD_REQUEST, LOAD_RESPONSE (R178, R180, R269, R272, R295, R298, R312) -/

/-- The words of an access that held stores of its clause do not supply whole (R40 rule 5): memory is read there. -/
def Acc.readWords (a : Acc) : List Nat :=
  (wordsOf a.pa a.size).filter fun w => (List.range a.size).any fun k => (a.pa + k) / 4 == w && !a.fwd.testBit k

/-- One access of a load: its value, or why it is refused. -/
def loadOne (s : State) (agent cu : Nat) (a : Acc) : Except (Cause × Nat × Nat × Nat) (Nat × Word) :=
  match a.readWords.findSome? fun w => match judgeRead s agent (4 * w) 4 with | .refuse c h => some (c, h) | .ok => none with
  | some (c, h) => .error (c, a.lane, a.va, h)
  | none => .ok (a.lane, BitVec.ofNat 64 (mergeFwd a (leNat (if cu < 896 then readCu s cu a.pa a.size else physRead s a.pa a.size))))

/-- The request's values and refusals are fixed. -/
def loadPerform (s : State) (q : Req) : State :=
  let rs := q.accs.map (loadOne s q.agent q.cu)
  let vals := rs.filterMap fun r => match r with | .ok v => some v | .error _ => none
  let refused := rs.filterMap fun r => match r with | .ok _ => none | .error x => some x
  setReq s { q with performed := true, vals, refused }

/-- The frames of IP pages a request names that it would bind; each binding waits for its turn under replay (R284). -/
def bindsOf (s : State) (q : Req) : List Nat := unbound s q.devWords
def bindsMay (s : State) (q : Req) : Bool :=
  (bindsOf s q).all fun f => syncMay s (slotOfAgent s q.agent) (sliceSrc (f * 32)) 7 q.agent q.split

/-- The scope of a request's acquire, if it is one. -/
def Req.acq (q : Req) : Option Nat := if q.isAcquire then some q.scope else none

/-- The RC words of a request, which an acquire may promote (R272). -/
def rcWords (s : State) (q : Req) : List Nat := q.devWords.filter fun w => homeType s (4 * w) == 0

/-- The home serves a load, or the L1 does if it holds every word. -/
def execLoadRequest (r : Nat) (s : State) : Out :=
  match findReq s r with
  | none => notEnabled "LOAD_REQUEST"
  | some q =>
    if q.kind ≠ .load || !reqTurn s q || !sentTurn s q || !bindsMay s q || !promoteMay s q.agent q.split q.acq (rcWords s q) then
      notEnabled "LOAD_REQUEST"
    else if q.accs != [] && q.accs.all fun a => isDev a.pa && l1Hit s q.cu a.pa a.size then .next (loadPerform s q)
    else match readTurn s q.id q.devWords with
      | .wait => notEnabled "LOAD_REQUEST"
      | .clear ls => .next (foldS s ls sendBi)
      | .go =>
        match q.orig, (scWords s q.devWords).find? fun w => match q.orig with | .grp g _ => observesCycle s g q.split w | .core _ => false with
        | .grp g _, some w => .next (abandonCycle s g q.split w)
        | _, _ =>
          let s1 := foldS (bringAll s q.devWords) (bindsOf s q) fun s f => bindFrame s q.agent q.split f
          let s2 := promoteWords s1 q.agent q.split q.acq (rcWords s1 q)
          let s3 := loadPerform s2 q
          let bad : List Nat := match findReq s3 r with | some x => x.refused.map (fun (y : Cause × Nat × Nat × Nat) => y.2.1) | none => []
          let ws := ((q.accs.filter fun a => isDev a.pa && !bad.contains a.lane).flatMap fun a => wordsOf a.pa a.size).dedup
          .next (scReq (watchReq s3 q 1 ws) q 0 ws)

/-- A load's data reaches its fragment: values, or the fault of the slot. -/
def groupLoaded (s : State) (g : Nat) (q : Req) : State :=
  let s1 := (dropReq s q.id).updGroup g fun gr => { gr with
    pend := gr.pend.map fun p => if p.wait.contains q.id then { p with vals := p.vals ++ q.vals, wait := p.wait.filter (· != q.id) } else p
    ctx := gr.ctx.map fun c =>
      if c.wait.contains q.id then
        match refusedInfo q with
        | some info => { c with wait := c.wait.filter (· != q.id), faults := c.faults ++ [(q.seq % 16, info)], slot := c.words.length + 1 }
        | none => { c with wait := c.wait.filter (· != q.id) }
      else c }
  match (s1.group? g).bind (·.ctx) with
  | some c => recheck (if c.wait = [] ∧ c.faults ≠ [] then takeFaults s1 g else tryCommit s1 g) g
  | none => recheck s1 g

/-- A CLD's data reaches its core. -/
def coreLoaded (s : State) (l : Nat) (q : Req) : State :=
  let s1 := dropReq s q.id
  match refusedInfo q with
  | some info => coreFaultAt s1 l q.iaddr (q.seq % 16) info.cause.code info.holder info.daddr
  | none =>
    let m := s1.mxD l
    let v := match q.vals with | x :: _ => x.2 | [] => 0
    coreSettle (s1.setMx l { m.setC q.x v with clause := m.clause.map fun c => { c with wait := c.wait.filter (· != q.id) } }) l

/-- A load's data reaches its agent. -/
def loadedTo (s : State) (q : Req) : State :=
  match q.orig with | .grp g _ => groupLoaded s g q | .core l => coreLoaded s l q

def execLoadResponse (r : Nat) (s : State) : Out :=
  match findReq s r with
  | none => notEnabled "LOAD_RESPONSE"
  | some q =>
    if q.kind ≠ .load || !q.performed then notEnabled "LOAD_RESPONSE"
    else .next ((parkForReq s q.orig 0 (.load r)).getD (wakeAll (loadedTo s q)))

/-! ### STORE_REQUEST (R179, R180, R267 to R269, R278, R284, R295, R299, R312) -/

/-- A store to an IP page, in its block's L1 (R284, R285). -/
def l1Store (s : State) (cu pa : Nat) (bs : List Byte) : State :=
  let line := pa / 128
  let s := l1Take s cu line
  let old := (l1At s cu line).getD ⟨0, 0, []⟩
  let m := wmaskOf (wordsOf pa bs.length)
  let data := (List.range bs.length).foldl (fun (d : AList Nat Byte) k => d.put (pa % 128 + k) (bs.getD k 0)) old.data
  let s1 := setL1 s cu line { valid := old.valid ||| m, dirty := old.dirty ||| m, data }
  let d := dirAt s1 line
  setDir s1 line { d with shv := d.shv ||| (1#112 <<< cluOfCu cu) }

/-- One access of a store is performed. -/
def storeOne (s : State) (q : Req) (a : Acc) : State :=
  let bs := leBytes a.size a.b.toNat
  let ip := isDev a.pa && homeType s a.pa == 3
  let s1 := if ip && decide (q.cu < 896) && clockRuns s (cluOfCu q.cu) then l1Store (bindFrame s q.agent q.split (a.pa / 4096)) q.cu a.pa bs
    else homeWrite (if ip then bindFrame s q.agent q.split (a.pa / 4096) else s) q.agent q.cu a.pa bs 0 q.ord q.scope
  match q.orig with
  | .grp g _ => digestWrite s1 g q.chunk q.seq a.lane a.va a.size bs
  | .core _ => s1

/-- The words of device memory of one access. -/
def devWordsOf (a : Acc) : List Nat := if isDev a.pa then wordsOf a.pa a.size else []

/-- The accesses of a store up to the first that is refused: the state, those performed, and the refusal. Between two writes of one word
its waits are evaluated (R206). -/
def storeEach (q : Req) : List Acc → State → State × List Acc × Option (Cause × Nat × Nat × Nat)
  | [], s => (s, [], none)
  | a :: t, s =>
    match judgeWrite s q.agent a.pa a.size with
    | .refuse c h => (s, [], some (c, a.lane, a.va, h))
    | .ok =>
      let s1 := scReq (storeOne s q a) q (lastCount s q) (devWordsOf a)
      let r := storeEach q t (if t.any fun b => (devWordsOf b).any fun w => (devWordsOf a).contains w then wakeAll s1 else s1)
      (r.1, a :: r.2.1, r.2.2)

/-- After a refused store the rest of its clause's stores go (R180). -/
def dropLater (s : State) (q : Req) : State :=
  let gone := (s.m.reqs.filter fun x => decide (x.kind = .store) && x.agent == q.agent && x.seq / 16 == q.seq / 16 && decide (x.id > q.id) && !x.performed).map (·.id)
  let s1 := foldS s gone fun s i => match q.orig with | .grp g _ => unwait s g i | .core _ => s
  { s1 with m := { s1.m with reqs := s1.m.reqs.filter fun x => !gone.contains x.id } }

/-- The L3 keeps the tag and returned values of a request for 20 µs (R314). -/
def noteDone (s : State) (q : Req) (vals : List (Nat × Word)) : State :=
  let now := s.plat.time.toNat
  { s with m := { s.m with recent := (q.id, now, vals) :: s.m.recent.filter fun r => decide (now ≤ r.2.1 + 20000) } }

/-- A request is performed: its response reaches its agent, or is parked for a cluster that is stopped (R386). One that is refused stays
until that is reported. -/
def finishReq (s : State) (q : Req) (refused : List (Cause × Nat × Nat × Nat)) : State :=
  let s1 := setReq (noteDone s q q.vals) { q with performed := true, refused }
  if refused != [] then match q.orig with | .grp g _ => settleChunk s1 g q.split | .core _ => s1
  else (parkForReq s1 q.orig (reqVc q.kind) (.done q.id)).getD (answered s1 q)

/-- The store's release at its own scope comes first (R262, R268). -/
def storeRelease (s : State) (q : Req) : State := if q.ord = 2 then release s q.agent q.scope else s

/-- At fabric scope and wider, a release or an acquire fence waits for the agent's fabric accesses (R352). -/
def fabricDone (s : State) (q : Req) : Bool := !((q.isRelease || q.isFence) && decide (q.scope ≥ 5)) || fabQuiet s q.agent none

/-- The words of a request's lines have been asked for, and the request waits for the answers. -/
def sendClear (s : State) (q : Req) (ls : List Nat) : State := setReq (clearFor s q.devWords ls) { q with sent := true }

/-- A control core's store waits at its home for an entry and a record; a group's has reserved them, and a release to the device needs
none (R267, R270, R303). -/
def coreRoom (s : State) (q : Req) : Bool :=
  agentKind q.agent == 0 || (linesOfWords q.devWords).all fun l => storeRoom s q.agent l q.ord q.scope

def execStoreRequest (r : Nat) (s : State) : Out :=
  match findReq s r with
  | none => notEnabled "STORE_REQUEST"
  | some q =>
    if q.kind ≠ .store || !reqTurn s q || !sentTurn s q || !bindsMay s q || !fabricDone s q || !coreRoom s q then notEnabled "STORE_REQUEST"
    else match writeTurn s q.id q.sent q.devWords with
      | .wait => notEnabled "STORE_REQUEST"
      | .clear ls => .next (sendClear s q ls)
      | .go =>
        let r1 := storeEach q q.accs (storeRelease (bringAll s q.devWords) q)
        let s1 := unpoison (watchReq r1.1 q 2 ((r1.2.1.flatMap devWordsOf).dedup)) (r1.2.1.map fun a => (a.pa, a.size))
        .next (afterPerform (match r1.2.2 with
          | some x => finishReq (dropLater s1 q) q [x]
          | none => finishReq s1 q []))

/-! ### ATOMIC_REQUEST (R80, R306 to R308, R310) -/

/-- One lane's step: the word changed, and the value it returns. In a sub-request `half` is some true for the high halves. -/
def atomOne (half : Option Bool) (q : Req) (x : State × List (Nat × Word)) (a : Acc) : State × List (Nat × Word) :=
  let old := leNat (physRead x.1 a.pa a.size)
  let new := match half with
    | none => atomStep q.x q.ty old a.b.toNat a.c.toNat
    | some h => halfStep h q.ty old a.b.toNat
  let bs := leBytes a.size new
  let s1 := homeWrite x.1 q.agent 896 a.pa bs 1 0 0
  let s2 := match q.orig, half with
    | .grp g _, none | .grp g _, some true => digestWrite s1 g q.chunk q.seq a.lane a.va a.size bs
    | _, _ => s1
  (s2, x.2 ++ [(a.lane, BitVec.ofNat 64 old)])

/-- Old values of two sub-requests: the low half before the first, the high half before the second (R308). -/
def joinHalves (lo hi : List (Nat × Word)) : List (Nat × Word) :=
  lo.map fun v => (v.1, match hi.find? fun h => h.1 == v.1 with
    | some h => BitVec.ofNat 64 (v.2.toNat % 2 ^ 16 + h.2.toNat / 2 ^ 16 % 2 ^ 16 * 2 ^ 16)
    | none => v.2)

/-- The lanes that are refused, judged before anything changes. -/
def atomRefused (s : State) (q : Req) : List (Cause × Nat × Nat × Nat) :=
  q.accs.filterMap fun a => match judgeAtomic s q.agent a.pa a.size with | .refuse c h => some (c, a.lane, a.va, h) | .ok => none

/-- An atomic, or a sub-request of one, at its place in the slice's order; between the two others may come (R308). -/
def atomPerform (s : State) (q : Req) : Out :=
  let packed := q.ty.packed
  let refused := if q.half then q.refused else atomRefused s q
  let go := q.accs.filter fun a => !(refused.any fun x => x.2.1 == a.lane)
  let ws := (go.flatMap fun a => wordsOf a.pa a.size).dedup
  let half : Option Bool := if packed then some q.half else none
  let kind := if !packed then 1 else if q.half then 3 else 2
  let line := match q.accs with | a :: _ => a.pa / 128 | [] => 0
  let granted := if go = [] then some s else arbGrant s (slotOfAgent s q.agent) kind q.agent q.split line (wmaskOf ws)
  match granted with
  | none => notEnabled "ATOMIC_REQUEST"
  | some s0 =>
    let r := go.foldl (atomOne half q) (s0, [])
    let s1 := unpoison (scReq (watchReq r.1 q 3 ws) q (lastCount s q) ws) (go.map fun a => (a.pa, a.size))
    if packed && !q.half then .next (wakeAll (setReq s1 { q with half := true, sent := false, vals := r.2, refused }))
    else
      let vals := if packed then joinHalves q.vals r.2 else r.2
      .next (afterPerform (finishReq s1 { q with vals } refused))

def execAtomicRequest (r : Nat) (s : State) : Out :=
  match findReq s r with
  | none => notEnabled "ATOMIC_REQUEST"
  | some q =>
    if q.kind ≠ .atomic || !reqTurn s q || !sentTurn s q || !(q.half || promoteMay s q.agent q.split q.acq (rcWords s q)) then
      notEnabled "ATOMIC_REQUEST"
    else match writeTurn s q.id q.sent q.devWords with
      | .wait => notEnabled "ATOMIC_REQUEST"
      | .clear ls => .next (sendClear s q ls)
      | .go =>
        let s0 := bringAll s q.devWords
        let s1 := if q.half then s0 else promoteWords s0 q.agent q.split q.acq (rcWords s0 q)
        atomPerform s1 q

/-! ### RELEASE_WALK: releases, fences, SEAL and REUSE (R262, R268, R280, R281, R301, R303) -/

/-- A range request's ARB records, line by line. -/
def arbLines (s : State) (q : Req) (kind : Nat) : Option State :=
  ((q.accs.map fun a => a.pa / 128).dedup).foldl (fun o l => o.bind fun s =>
    arbGrant s (slotOfAgent s q.agent) kind q.agent q.split l (BitVec.allOnes 32)) (some s)

/-- The accesses of a range that lie on no WO page: refused. -/
def notWo (s : State) (q : Req) : List (Cause × Nat × Nat × Nat) :=
  (q.accs.filter fun a => homeType s a.pa != 2).map fun a => (.typeop, a.lane, a.va, 0)

/-- Every word of a line takes a write-once state. -/
def setWst (s : State) (line v : Nat) : State :=
  let s1 := foldS s (List.range 32) fun s k => setTag s (line * 32 + k) { tagAt s (line * 32 + k) with wst := v }
  { s1 with m := { s1.m with sealed := s1.m.sealed.filter (· != line) } }

/-- SEAL is performed (R280). -/
def sealPerform (s : State) (q : Req) : Out :=
  match arbLines s q 4 with
  | none => notEnabled "RELEASE_WALK"
  | some s0 =>
    let lines := (q.accs.map fun a => a.pa / 128).dedup
    let s1 := foldS (release (foldS s0 lines atHome) q.agent 4) lines fun s l => setWst s l 2
    .next (afterPerform (finishReq (watchReq s1 q 3 q.devWords) q []))

/-- A load of a line was in flight before a request. -/
def loadsOn (s : State) (id l : Nat) : Bool := s.m.reqs.any fun x => decide (x.id < id) && x.isLoad && !x.performed && x.lines.contains l

/-- REUSE (R281): cached copies are sent away first, without caching from then on; then the words are OPEN-unwritten again. -/
def reusePerform (s : State) (q : Req) : Out :=
  let lines := (q.accs.map fun a => a.pa / 128).dedup
  if !q.sent then
    .next (setReq (foldS (release s q.agent 4) lines fun s l =>
      let d := dirAt s l
      clearLine (setDir s l { d with noc := true }) l (BitVec.allOnes 32) true) { q with sent := true })
  else if lines.any fun l => !lineQuiet s l || loadsOn s q.id l || s.m.claims.any fun c => c.2 / 32 == l then notEnabled "RELEASE_WALK"
  -- what the host was granted meanwhile is asked back again (R313)
  else if lines.any fun l => (dirAt s l).host || (dirAt s l).hostx then
    .next (foldS s (lines.filter fun l => (dirAt s l).host || (dirAt s l).hostx) sendBi)
  else match arbLines s q 5 with
    | none => notEnabled "RELEASE_WALK"
    | some s0 =>
      let s1 := foldS (foldS s0 lines atHome) lines fun s l =>
        let d := dirAt s l
        setWst (setDir s l { d with noc := false }) l 0
      .next (afterPerform (finishReq (watchReq s1 q 3 q.devWords) q []))

def execReleaseWalk (r : Nat) (s : State) : Out :=
  match findReq s r with
  | none => notEnabled "RELEASE_WALK"
  | some q =>
    if !reqTurn s q || !fabricDone s q then notEnabled "RELEASE_WALK"
    else match q.kind with
    | .release => .next (afterPerform (finishReq (if q.ord ≥ 2 then release s q.agent q.scope else s) q []))
    | .seal | .reuse =>
      if notWo s q != [] then .next (afterPerform (finishReq s q (notWo s q)))
      else if wordsTaken s q.id false q.devWords || (linesOfWords q.devWords).any fun l => !l3Room s l then notEnabled "RELEASE_WALK"
      else if q.kind = .seal then sealPerform s q else reusePerform s q
    | _ => notEnabled "RELEASE_WALK"

/-! ### Hold reservations (R192, R303) -/

def findResv (s : State) (id : Nat) : Option Resv := s.m.resv.find? fun r => r.id == id
def setResv (s : State) (r : Resv) : State := { s with m := { s.m with resv := s.m.resv.map fun x => if x.id = r.id then r else x } }

/-- The clause of a group no longer waits for a reservation. -/
def resvAnswered (s : State) (r : Resv) (info : Option FaultInfo) : State :=
  let told := fun (c : Ctx) =>
    let c1 := { c with wait := c.wait.filter (· != r.id) }
    match info with | some i => { c1 with faults := c.faults ++ [(r.slot, i)], slot := c.words.length + 1 } | none => c1
  let s1 := s.updGroup r.lgn fun gr => { gr with ctx := gr.ctx.map fun c => if c.wait.contains r.id then told c else c }
  match (s1.group? r.lgn).bind (·.ctx) with
  | some c => if c.wait = [] ∧ c.faults ≠ [] then takeFaults s1 r.lgn else tryCommit s1 r.lgn
  | none => s1

/-- The slice's answer reaches a group's clause. -/
def resvGroup (s : State) (x : Resv) (ok : Bool) : State :=
  let info : FaultInfo := { cause := .holdcap, iaddr := x.iaddr, lanes := x.mask }
  resvAnswered s x (if ok then none else some info)

/-- An answer is already on its way to a stopped cluster. -/
def resvParked (s : State) (r : Nat) : Bool :=
  let has := fun (l : List Parked) => l.any fun p => match p.ev with | .resv i _ => i == r | _ => false
  (s.frz.clus.any fun c => has c.2.park) || s.frz.images.any fun im => has im.park

/-- A reservation reaches its slice: granted, or HOLDCAP; those that are queued there come first. -/
def execHoldReservation (r : Nat) (s : State) : Out :=
  match findResv s r with
  | none => notEnabled "HOLD_RESERVATION"
  | some x =>
    if x.granted || x.queued || resvParked s r then notEnabled "HOLD_RESERVATION"
    else
      let room := holdRoom s x.agent x.line && !(s.m.resv.any fun y => y.queued && Config.l3Slice y.line == Config.l3Slice x.line)
      let s1 := if room then setResv s { x with granted := true } else s
      match parkForGroup s1 x.lgn 3 (.resv r room) with
      | some s2 => .next s2
      | none => .next (wakeAll (resvGroup s1 x room))

/-- A fragment goes on once no reservation of its clause is queued. -/
def unparkHolds (s : State) (g e : Nat) : State :=
  if s.m.resv.any fun y => y.queued && y.lgn == g && y.e == e then s
  else recheck (putEnt s g e fun y => if y.park = .holdq then { y with park := .none } else y) g

/-- A queued reservation is granted, in arrival order at its slice. -/
def execReservationGrant (r : Nat) (s : State) : Out :=
  match findResv s r with
  | none => notEnabled "RESERVATION_GRANT"
  | some x =>
    let first := (s.m.resv.find? fun y => y.queued && Config.l3Slice y.line == Config.l3Slice x.line).map (·.id)
    if !x.queued || first != some r || !holdRoom s x.agent x.line then notEnabled "RESERVATION_GRANT"
    else
      let s1 := setResv s { x with granted := true, queued := false }
      .next ((parkForGroup s1 x.lgn 3 (.resv r true)).getD (wakeAll (unparkHolds s1 x.lgn x.e)))

/-! ### L1_INVALIDATION, L1_FILL (R297 to R300) -/

def execL1Invalidation (cu line : Nat) (s : State) : Out :=
  match s.m.inval.find? fun i => i.cu == cu && i.line == line with
  | none => notEnabled "L1_INVALIDATION"
  | some i =>
    if !l1Answers s cu then notEnabled "L1_INVALIDATION"
    else
      let s1 := dropWords (if i.whole then writeBackLine s cu line else s) cu line (if i.whole then BitVec.allOnes 32 else i.words)
      let s2 : State := { s1 with m := { s1.m with inval := s1.m.inval.erase i } }
      let left := s2.m.inval.any fun j => j.line == line
      let s3 := if i.whole && !left then setDir s2 line { dirAt s2 line with shv := 0 } else s2
      .next (wakeAll (settlePend s3 line))

/-- A load of the CU missed on the line; the line comes back with what the CU may hold. -/
def execL1Fill (cu line : Nat) (s : State) : Out :=
  let missed := s.m.reqs.any fun q => q.isLoad && q.cu == cu && q.performed && q.lines.contains line
  when "L1_FILL" (missed && decide (cu < 896) && isDev (line * 128) && clockRuns s (cluOfCu cu) && fillMay s line && lineQuiet s line)
    (fillL1 s cu line)

/-! ### Eviction and HBM (R301, R331 to R335) -/

/-- The line must not leave the L3: it has a hold-partition entry (HP) or a claimed word, or is a WO line partly written (R301). -/
def lineKept (s : State) (line : Nat) : Bool :=
  let ts := (List.range 32).map fun k => tagAt s (line * 32 + k)
  let wsts := (List.range 32).map fun k => wstOf s (line * 32 + k)
  hpOf s line || ts.any (fun t => t.hold || t.clm) || (homeType s (line * 128) == 2 && !(wsts.all (· == 2)) && !(wsts.all (· == 0)))

/-- The access entries of a line. -/
def entriesOf (s : State) (line : Nat) : List (Nat × AccEnt) := s.damask.access.filter fun p => p.1 / 32 == line

/-- The recording partitions that an agent's accesses concern: its task's; of an agent that belongs to no task, all. -/
def partsOfAgent (s : State) (a : Nat) : List Nat := match partOfTask s (slotOfAgent s a) with | some p => [p] | none => List.range 8

/-- The greatest stamp among entries that leave a slice, in the slice's E of each partition (R365). -/
def notesEvicted (s : State) (sl : Nat) (es : List (Nat × AccEnt)) : AList Nat Nat :=
  es.foldl (fun t x => (partsOfAgent s x.2.frag.agent).foldl (fun (t : AList Nat Nat) p =>
    t.put (evictKey p sl) (max (t.get (evictKey p sl) 0) ((s.damask.stamps.find? x.2.chunk).getD 0))) t) s.damask.evict

/-- A line leaves the L3: first every copy of it goes and every chunk its entries name is to end; then its dirty words are written. -/
def execL3Eviction (line : Nat) (s : State) : Out :=
  let pa := line * 128
  let d := dirAt s line
  let es := entriesOf s line
  let busy := s.m.reqs.any fun q => !q.performed && q.lines.contains line
  if !s.m.l3.contains line || lineKept s line || frozenByRetype s pa || busy || (es != [] && eventStalls s) then notEnabled "L3_EVICTION"
  else if !d.noc then
    let s1 := setDir s line { d with noc := true }
    .next (foldS (clearLine s1 line (BitVec.allOnes 32) true) (es.map (·.2)) markObserved)
  else if !lineQuiet s line || es.any fun x => (s.damask.stamps.find? x.2.chunk).isNone then notEnabled "L3_EVICTION"
  else if d.host || d.hostx || d.shv != 0 then .next (clearLine s line (BitVec.allOnes 32) true)
  else
    let dirty := (List.range 32).any fun k => (tagAt s (line * 32 + k)).dirty
    let shut := homeType s pa == 2 && wstOf s (line * 32) == 2
    let s1 := if dirty then hbmWrite s line (s.mem.getN pa 128) else s
    .next { s1 with
      m := { s1.m with
        tags := s1.m.tags.filter fun p => p.1 / 32 != line
        dir := s1.m.dir.filter fun p => p.1 != line
        l3 := s1.m.l3.filter (· != line), l2 := s1.m.l2.map fun p => (p.1, p.2.filter (· != line))
        sealed := if shut then line :: s1.m.sealed.filter (· != line) else s1.m.sealed.filter (· != line) }
      damask := { s1.damask with access := s1.damask.access.filter fun p => p.1 / 32 != line
                                 evict := notesEvicted s1 (Config.l3Slice line) es } }

/-- A line that is not in the L3 is read: corrected, rebuilt, or poisoned. -/
def execHbmRead (line : Nat) (c : HbmCond) (s : State) : Out :=
  when "HBM_READ" (isDev (line * 128) && !s.m.l3.contains line && l3Room s line && !s.plat.failed) (enterL3 (hbmFetch s line c) line)

/-- The lines that the next patrol scrub finds in error, and how: a free value, since soft errors come from outside. -/
def scrubFinds (s : State) : List (Nat × HbmCond) :=
  ((Config.scrubFound s.free).filter fun x => isDev (x.1 * 128)).map fun x => (x.1, match x.2 with | 0 => .corrected | 1 => .uncorrectable | _ => .double)

/-- A patrol scrub reads every line. Each line found in error is corrected, rebuilt or marked, with its record (R334, R335). -/
def execPatrolScrub (s : State) : Out :=
  when "PATROL_SCRUB" (!s.plat.failed) (foldS (freshFree s).2 (scrubFinds s) fun s x => hbmFetch s x.1 x.2)

/-! ### The host (R266, R274, R311 to R313) -/

/-- A host access names bytes of one line of device memory that its slice has room for (R294). In a frame that is being retyped it waits,
but for one to a line that the host is being asked for: that completes first (R291, R313). -/
def hostReach (s : State) (addr n : Nat) : Bool :=
  isDev addr && decide (1 ≤ n) && decide (n ≤ 64) && decide (addr % 128 + n ≤ 128) && s.plat.linkUp && !s.plat.failed && l3Room s (addr / 128)
    && (!frozenByRetype s addr || s.m.bi.contains (addr / 128))

/-- A held word that the host touches is counted, and becomes free (R274). -/
def hostFree (s : State) (addr n : Nat) : State :=
  let held := (wordsOf addr n).filter fun w => (tagAt s w).hold
  match held with
  | [] => s
  | w :: _ =>
    let s1 := errLog s 4 0 (tagAt s w).owner 0 addr
    foldS s1 held fun s w => setTag s w { tagAt s w with hold := false }

/-- The partitions that record. -/
def recordingParts (s : State) : List Nat := (List.range 8).filter fun p => (rpart s p).mode == 1

/-- The host's access to SC words (R276, R363). -/
def hostSc (s : State) (pasid : Nat) (ws : List Nat) : State :=
  if scWords s ws = [] then s else (eventFor s (agentHost pasid) (scWords s ws)).2

/-- The host may read the words under the page type. -/
def hostReadOk (s : State) (addr n : Nat) : Bool :=
  let ws := wordsOf addr n
  !s.m.poison.contains (addr / 128) &&
    (match homeType s addr with
     | 2 => ws.all fun w => wstOf s w == 2 || (wstOf s w == 1 && agentKind (tagAt s w).owner == 3)
     | 3 => false
     | _ => true)

/-- What the host is answered: the bytes, or, with the poison indication, zeros (R311). -/
def hostAnswer (s : State) (addr : Nat) (poison : Bool) (bs : List Byte) : State :=
  { s with m := { s.m with hostRd := some (addr, poison, if poison then List.replicate bs.length 0 else bs) } }

def execHostRead (addr n : Nat) (s : State) : Out :=
  if !isDev addr then .fault (.noMemory addr)
  else if !hostReach s addr n || (scWords s (wordsOf addr n) != [] && eventStalls s) then notEnabled "HOST_READ"
  else
    let ws := wordsOf addr n
    let s0 := bringIn s (addr / 128)
    let bs := s0.mem.getN addr n
    if !hostReadOk s0 addr n then
      .next (hostAnswer (if s0.m.poison.contains (addr / 128) && homeType s addr != 3 then s0 else errLog s0 5 0 0xFFFFFF 0 addr) addr true bs)
    else
      let s1 := if homeType s addr = 0 then hostFree s0 addr n else s0
      .next (wakeAll (hostAnswer (watch (hostSc s1 0 ws) 1 2 0xFFFFFF (2 ^ 17) (addr / 128) (wmaskOf ws) 0 none) addr false bs))

/-- HOSTW records of a write, 64 bytes at most, in every partition that records (R361, R369). -/
def hostwRec (s : State) (kind agent addr : Nat) (bs : List Byte) : State :=
  let e := eventFor s agent (scWords s (wordsOf addr bs.length))
  foldS e.2 (recordingParts s) fun s p =>
    emitData (emit s p hubSrc (rowBytes 0xA kind 0 ((bs.length + 27) / 28) agent bs.length 0 addr) (some e.1)) p hubSrc bs

/-- The first HOSTW record of a replayed log (R375). -/
def nextHostw (s : State) : Option (Nat × Nat) :=
  (List.range 8).findSome? fun p =>
    if (rpart s p).mode < 2 then none else ((rpart s p).log.findIdx? fun b => fieldOf b 0 1 == 0xA).map fun k => (p, k)

/-- Under replay a host write is the logged one, once the frontier has reached its stamp; it leaves the log. -/
def hostwReplay (s : State) (addr : Nat) (bs : List Byte) : Option State :=
  match nextHostw s with
  | none => some s
  | some (p, k) =>
    let r := rpart s p
    let b := r.log.getD k []
    let n := (bs.length + 27) / 28
    let data := (((r.log.drop (k + 1)).take n).flatMap fun x => x.drop 4).take bs.length
    if fieldOf b 0x18 8 = addr ∧ fieldOf b 8 4 = bs.length ∧ data = bs ∧ notAbove (fieldOf b 0x10 8) (frontierOf s p) then
      some (setRpart s p { r with log := r.log.take k ++ r.log.drop (k + 1 + n) })
    else none

/-- A host write is performed, or refused by the page type. -/
def hostPut (s : State) (pasid addr : Nat) (bs : List Byte) : State :=
  let n := bs.length
  let ws := wordsOf addr n
  let ty := homeType s addr
  let ok := match ty with
    | 2 => decide (n ≥ 4) && addr % 4 == 0 && n % 4 == 0 && ws.all fun w => wstOf s w == 0
    | 3 => false
    | _ => true
  if !ok then errLog s 5 0 0xFFFFFF 0 addr
  else
    let s1 := if ty = 0 then hostFree (bringIn s (addr / 128)) addr n else bringIn s (addr / 128)
    let s2 := homeWrite (dropEverywhere s1 ws) (agentHost pasid) 896 addr bs (if ty = 0 then 2 else 0) 0 0
    watch s2 2 2 0xFFFFFF (2 ^ 17) (addr / 128) (wmaskOf ws) 0 none

def execHostWrite (pasid addr : Nat) (bs : List Byte) (s : State) : Out :=
  if !isDev addr then .fault (.noMemory addr)
  else if !hostReach s addr bs.length || decide (pasid ≥ 2 ^ 20) || !copiesAnswer s (wordsOf addr bs.length) || eventStalls s then
    notEnabled "HOST_WRITE"
  else match hostwReplay s addr bs with
    | none => notEnabled "HOST_WRITE"
    | some s1 => .next (wakeAll (hostPut (hostwRec s1 1 (agentHost pasid) addr bs) pasid addr bs))

/-- What the host may cache of a line: shared, exclusive. -/
def hostShared (s : State) (line : Nat) : Bool :=
  match homeType s (line * 128) with
  | 2 => (List.range 32).all fun k => wstOf s (line * 32 + k) == 2
  | 3 => false
  | _ => true
def hostExcl (s : State) (line : Nat) : Bool :=
  match homeType s (line * 128) with
  | 0 => (List.range 32).all fun k => let t := tagAt s (line * 32 + k); !t.hold && !t.clm
  | 1 => true
  | _ => false

/-- The host asks for a line, shared or exclusive; one that it may not have exclusive is granted shared. -/
def execHostOwnershipRequest (line : Nat) (excl : Bool) (s : State) : Out :=
  let pa := line * 128
  let ws := (List.range 32).map fun k => line * 32 + k
  if !isDev pa then .fault (.noMemory pa)
  else if !hostReach s pa 64 then notEnabled "HOST_OWNERSHIP_REQUEST"
  else if !hostShared s line then .next (errLog s 5 0 0xFFFFFF 0 pa)
  else
    let x := excl && hostExcl s line
    if x && !copiesAnswer s ws then notEnabled "HOST_OWNERSHIP_REQUEST"
    else
      let s1 := if x then dropEverywhere (bringIn s line) ws else bringIn s line
      let d := dirAt s1 line
      let s2 := setDir s1 line { d with host := true, hostx := d.hostx || x }
      .next { s2 with m := { s2.m with biAgain := if s2.m.bi.contains line then line :: s2.m.biAgain else s2.m.biAgain } }

/-- The host's response to a back-invalidation, with its modified data if it held the line exclusive. What it was granted meanwhile
it keeps (R313). -/
def execBiResponse (line : Nat) (bs : List Byte) (s : State) : Out :=
  let d := dirAt s line
  let again := s.m.biAgain.contains line
  let ws := (List.range 32).map fun k => line * 32 + k
  if !s.m.bi.contains line || !(bs == [] || (bs.length == 128 && d.hostx && !eventStalls s && copiesAnswer s ws)) then notEnabled "BI_RESPONSE"
  else
    let part := fun (k : Nat) => (bs.drop (64 * k)).take 64
    let half := fun (s : State) (k : Nat) => hostwRec s 1 (agentHost 0) (line * 128 + 64 * k) (part k)
    let logged := if bs = [] then some s else (hostwReplay s (line * 128) (part 0)).bind fun s => hostwReplay s (line * 128 + 64) (part 1)
    match logged with
    | none => notEnabled "BI_RESPONSE"
    | some s =>
      let s1 := if bs = [] then s
        else watch (homeWrite (dropEverywhere (half (half s 0) 1) ws) (agentHost 0) 896 (line * 128) bs 2 0 0) 2 2 0xFFFFFF (2 ^ 17) line
          (BitVec.allOnes 32) 0 none
      let s2 := setDir s1 line (if again then dirAt s1 line else { dirAt s1 line with host := false, hostx := false })
      .next (wakeAll (settlePend { s2 with m := { s2.m with bi := s2.m.bi.filter (· != line), biAgain := s2.m.biAgain.filter (· != line) } } line))

end Sys2Proof.Machine
end

