-- ==== Sys2Proof/Machine/PageEvents.lean ====
section
/-! DEFINITION. Page walks, page requests and their answers, shootdowns, and the retype of frames (R289 to R292, R317 to R330). -/
namespace Sys2Proof.Machine
open Sys2Proof

/-! ### PAGE_WALK (R317, R321) -/

/-- A walk ends in the CU's TLB and its die's walk cache. -/
def execPageWalk (cu pasid va : Nat) (s : State) : Out :=
  when "PAGE_WALK" (decide (cu < 896) && decide (pasid < 2 ^ 20) && decide (va < 2 ^ 57) && !s.disp.deadDies.contains (dieOfClu (cluOfCu cu))
      && clockRuns s (cluOfCu cu))
    (translate s cu pasid va {}).1

/-! ### PAGE_REQUEST_SEND (R326, R327) -/

/-- Requests that wait to be sent, in arrival order. -/
def unsent (s : State) : List PReq := s.m.preqs.filter fun p => p.grp.isNone && !p.answered

/-- A page request group of the first `n` waiting requests of the PASID whose turn it is. -/
def execPageRequestSend (pasid n : Nat) (s : State) : Out :=
  let mine := ((unsent s).filter fun p => p.pasid == pasid).take n
  let turn := (unsent s).head?.map (·.pasid)
  let g := s.m.prgNext
  when "PAGE_REQUEST_SEND" (turn == some pasid && decide (1 ≤ n) && decide (n ≤ s.m.prgmax) && mine.length == n && !s.m.rf && s.plat.linkUp
      && decide (preqsSent s + n ≤ Config.pageAllowance))
    { s with m := { s.m with
        preqs := s.m.preqs.map fun p => if mine.contains p then { p with grp := some g } else p
        prgs := s.m.prgs ++ [(g, pasid)], prgNext := g + 1 } }

/-! ### PGPARK_TIMEOUT (R327) -/

/-- The pages a parked fragment waits for, and the word it names. -/
def parkedPages (x : Entry) : List (Nat × Nat × Bool) × Nat :=
  match x.park with
  | .pages ps => (ps, x.pc)
  | .pgreq ps p => (ps, p.iaddr)
  | _ => ([], x.pc)

/-- A page waits for allowance alone: no request for it has been sent, and one stands unsent. -/
def waitsUnsent (s : State) (p : Nat × Nat × Bool) : Bool :=
  let mine := s.m.preqs.filter fun r => !r.answered && r.pasid == p.1 && r.page == p.2.1 && (r.write || !p.2.2)
  mine != [] && mine.all fun r => r.grp.isNone

/-- A fragment has waited PGPTO for allowance, for one page at least: its block is to be swapped out. -/
def execPgparkTimeout (g e : Nat) (s : State) : Out :=
  match s.group? g with
  | none => notEnabled "PGPARK_TIMEOUT"
  | some gr =>
    let x := gr.ent e
    let ps := parkedPages x
    let waits := ps.1.any (waitsUnsent s)
    let free : Bool := match s.block? gr.block with | some b => decide (b.why = .none) | none => false
    when "PGPARK_TIMEOUT" (x.valid && decide (x.st = .parked) && waits && free && groupRuns s gr)
      (deliver s g e { cause := .pgpark, iaddr := ps.2, lanes := x.mask } true)

/-! ### PRG_RESPONSE (R325, R328 to R330) -/

/-- A waiting page is answered by a request of the group. -/
def answers (rs : List PReq) (p : Nat × Nat × Bool) : Bool := rs.any fun r => r.pasid == p.1 && r.page == p.2.1 && (r.write || !p.2.2)

/-- The lanes of a PGREQ that named refused pages; a collective's descriptor has none, and counts as lane 0. -/
def refusedLanes (p : POp) (ps : List (Nat × Nat × Bool)) : Nat :=
  let m := maskOf fun i => p.accs.any fun a => a.lane == i && ps.any fun q => q.2.1 == a.va / 4096
  if m = 0 then 1 else m.toNat

/-- A fragment that waits for pages learns of an answer. -/
def answerFrag (s : State) (g e : Nat) (rs : List PReq) (ok : Bool) : State :=
  match s.group? g with
  | none => s
  | some gr =>
    let x := gr.ent e
    match x.st, x.park with
    | .parked, .pages ps =>
      let left := ps.filter fun p => !answers rs p
      let hit := ps.filter (answers rs)
      if hit = [] then s
      else if ok then
        putEnt s g e fun y => if left = [] then { y with st := .fetching, waitk := 0, park := .none } else { y with park := .pages left }
      else
        let page := match hit with | p :: _ => p | [] => (0, 0, false)
        let exec := rs.any fun r => r.page == page.2.1 && r.exec
        let info : FaultInfo := { cause := .unmapped, iaddr := x.pc, lanes := x.mask, daddr := if exec then 0 else page.2.1 * 4096,
                                  sub := if exec then 2 + page.2.1 else b2n page.2.2 }
        let s1 := putEnt s g e fun y => { y with st := .fetching, waitk := 0, park := .none }
        settleLate (addLate s1 g e { seq := gr.seq, slot := 0, info }) g e
    | .parked, .pgreq ps p =>
      let left := ps.filter fun p => !answers rs p
      let hit := ps.filter (answers rs)
      if hit = [] then s
      else
        let p1 := if ok then p else { p with aux := (BitVec.ofNat 96 p.aux ||| BitVec.ofNat 96 (refusedLanes p hit)).toNat }
        if left != [] then putEnt s g e fun y => { y with park := .pgreq left p1 }
        else
          let isPgreq : Bool := match p.instr with | .pgreq _ => true | _ => false
          let r : Nat × State := if !isPgreq then (p1.aux, s) else match logValue s g e 6 with
            | some v => (v.1 % 2 ^ 96, v.2)
            | none => (p1.aux, valueRec s g e 6 (p1.aux % 2 ^ 64) (p1.aux / 2 ^ 64) [])
          let p2 := { p1 with aux := r.1 }
          settleRan g e p2 (runOp r.2 g e p2)
    | _, _ => s

/-- A group learns of an answer: its waiting fragments, its hints, the blocks that wait to return. -/
def answerGroup (s : State) (g : Nat) (rs : List PReq) (ok : Bool) : State :=
  let s1 := foldS s (List.range 16) fun s e => answerFrag s g e rs ok
  let s2 := if !ok && rs.any fun r => r.hints.contains g then
      s1.updGroup g fun gr => { gr with ctl := { gr.ctl with hintdrop := true } } else s1
  foldS s2 (((rs.flatMap (·.faulted)).filter fun f => f.1 == g).dedup) fun s f =>
    match s.group? g with
    | none => s
    | some gr =>
      if (gr.ent f.2).park ≠ .service then s
      else if ok then releaseFault (resumeFrag s g f.2) g f.2
      else
        let code := match s.block? gr.block with | some b => (match b.why with | .fault _ _ c => c | _ => 0x05) | none => 0x05
        fatal s g code

/-- The control core of a logical cluster learns of an answer. -/
def answerCore (s : State) (l : Nat) (rs : List PReq) (ok : Bool) : State :=
  let m := s.mxD l
  match m.waitPage with
  | none => s
  | some w =>
    if !answers rs (corePasid s m, w.1, w.2) then s
    else
      let s1 := s.setMx l { m with waitPage := none }
      if ok then s1
      else match m.clause with
        | some _ => coreFault s1 l 0x05 0 (w.1 * 4096)
        | none => coreFaultAt s1 l m.pc 0 0x05 0 0

/-- A copy learns of an answer. -/
def answerInst (s : State) (x : Inst) (rs : List PReq) (ok : Bool) : State :=
  match findInst s x.startNo with
  | none => s
  | some y =>
    match y.waitPage with
    | none => s
    | some w =>
      if !answers rs (y.pasid s, w.1, w.2) then s
      else if ok then setInst s { y with waitPage := none } else unloggedFault s y fun s => copyFault s y 0x05 0 (w.1 * 4096)

/-- A queue's parse learns of an answer. -/
def answerQueue (s : State) (q : Nat) (rs : List PReq) (ok : Bool) : State :=
  let x := s.queueD q
  match x.parse with
  | none => s
  | some y =>
  let hit := y.waitPages.filter fun p => answers rs (y.pasid, p, false)
  if hit = [] then s
  else
    let y' := { y with waitPages := y.waitPages.filter fun p => !hit.contains p, badPages := if ok then y.badPages else hit ++ y.badPages }
    s.setQueue q { x with parse := some y' }

/-- A group learns of answers now: its context's clock runs, or its block is swapped out. -/
def hears (s : State) (gr : Group) : Bool := decide (gr.status = .swapped) || groupRuns s gr

/-- A group waits for an answer: a fragment for a page or for the service of its fault, or the group for what its hint comes to. -/
def waitsFor (g : Nat) (gr : Group) (rs : List PReq) : Bool :=
  (List.range 16).any (fun e => (parkedPages (gr.ent e)).1.any (answers rs)) || rs.any fun r => r.hints.contains g || r.faulted.any fun f => f.1 == g

/-- What waits in a context whose clock is stopped: the logical clusters concerned. -/
def stoppedWaiters (s : State) (rs : List PReq) : List Nat :=
  let away := fun (p : Nat × Group) => waitsFor p.1 p.2 rs && !hears s p.2
  let ofGroup : List Nat := (s.groups.filter away).map fun p => lcluOf s p.2.block.gang
  let core := fun (p : Nat × Mx) =>
    (match p.2.waitPage with | some w => answers rs (corePasid s p.2, w.1, w.2) | none => false) && !((physClu s p.1).any (clockRuns s))
  let ofCore : List Nat := (s.mx.filter core).map (·.1)
  (ofGroup ++ ofCore).dedup

/-- A group's answer reaches its waiters; those in a context whose clock is stopped learn of it when it is restored, and the requests are
kept for them till then (R386). -/
def answerAll (s : State) (grp : Nat) (c : PrgCode) : State :=
  let rs := s.m.preqs.filter fun p => p.grp == some grp
  let ok : Bool := match c with | .success => true | _ => false
  let away := stoppedWaiters s rs
  let here := (s.groups.filter fun p => hears s p.2).map (·.1)
  let kept := fun (p : PReq) =>
    { p with answered := true, faulted := p.faulted.filter (fun f => !here.contains f.1), hints := p.hints.filter fun g => !here.contains g }
  let s0 : State := { s with m := { s.m with
    preqs := if away = [] then s.m.preqs.filter fun p => p.grp != some grp else s.m.preqs.map fun p => if p.grp = some grp then kept p else p } }
  let s1 := foldS s0 away fun s l => (parkAt s l 5 (.prg grp c)).getD s
  let s2 := foldS s1 here fun s g => answerGroup s g rs ok
  let cores := (s.mx.filter fun p => (physClu s p.1).any (clockRuns s)).map (·.1)
  let s3 := foldS s2 cores fun s l => answerCore s l rs ok
  let s4 := foldS s3 s.insts fun s x => answerInst s x rs ok
  wakeAll (foldS s4 (List.range 128) fun s q => answerQueue s q rs ok)

/-- The host's answer to a page request group; one that names no group outstanding is discarded and counted. -/
def execPrgResponse (grp : Nat) (c : PrgCode) (s : State) : Out :=
  let fails : Bool := match c with | .failure => true | _ => false
  if !s.plat.linkUp then notEnabled "PRG_RESPONSE"
  else if !s.m.prgs.any fun p => p.1 == grp then .next (errLog s 6 0 0xFFFFFF 0 0)
  else
    let s0 : State := { s with m := { s.m with prgs := s.m.prgs.filter fun p => p.1 != grp, rf := s.m.rf || fails } }
    .next (answerAll s0 grp c)

/-! ### Shootdowns (R322) -/

/-- A command in progress: what is in its scope is dropped everywhere; requests that may have used it are noted. -/
def tlbiStart (s : State) (op pasid va n : Nat) (hit : Nat → Nat → Nat → Bool) : State :=
  let s1 := dropTlb s (fun e => hit e.pasid e.va e.size) fun p lvl ix => hit p (ix * 2 ^ (12 + 9 * lvl)) (2 ^ (12 + 9 * lvl))
  let pas := fun (a : Nat) => match agentKind a with
    | 0 => (match s.group? a with | some gr => pasidOf s gr.block.gang.slot | none => 0)
    | _ => corePasid s (s.mxD (agentIndex a))
  let owed := (s.m.reqs.filter fun q => !q.performed && q.accs.any fun a => hit (pas q.agent) a.va a.size).map (·.id)
  { s1 with m := { s1.m with tlbi := { s1.m.tlbi with op, pasid, va, cmdVa := va, count := n, busy := true, pendingReqs := owed } } }

/-- A range of a PASID overlaps a page or a table. -/
def inRange (pasid va n : Nat) (p a size : Nat) : Bool := p == pasid && decide (a < va + n * 4096) && decide (va < a + size)

def execTlbiRange (pasid va n : Nat) (s : State) : Out :=
  let base := va / 4096 * 4096
  when "TLBI_RANGE" (!s.m.tlbi.busy && decide (1 ≤ n) && decide (n < 2 ^ 28) && decide (va < 2 ^ 57) && decide (pasid < 2 ^ 20))
    (tlbiStart s 1 pasid base n (inRange pasid base n))
def execTlbiPasid (pasid : Nat) (s : State) : Out :=
  when "TLBI_PASID" (!s.m.tlbi.busy && decide (pasid < 2 ^ 20)) (tlbiStart s 2 pasid s.m.tlbi.va 0 fun p _ _ => p == pasid)
def execTlbiAll (s : State) : Out := when "TLBI_ALL" (!s.m.tlbi.busy) (tlbiStart s 3 0 s.m.tlbi.va 0 fun _ _ _ => true)

/-- The command under way covers an address of a PASID. -/
def tlbiCovers (t : Tlbi) (p a size : Nat) : Bool :=
  match t.op with
  | 1 => inRange t.pasid t.cmdVa t.count p a size
  | 2 => p == t.pasid
  | _ => true

/-- The accesses of a committed operation that it has still to make; a wait's, made anew at every evaluation, and an access of another
device's memory hold no entry of a TLB. -/
def POp.owes (p : POp) : List Acc :=
  match p.instr with
  | .waita _ | .waitat _ | .fld _ | .fst _ | .fatom _ => []
  | _ => p.accs

/-- A clause under way, a parked operation, a core's clause or a collective in progress still holds a translation that the command covers. A stopped cluster's clauses
do not count: its mesh stop answers, and the restored cluster translates again (R386, 16_freeze.md). -/
def tlbiHeld (s : State) : Bool :=
  let covers := fun (pas : Nat) (l : List Acc) => l.any fun a => tlbiCovers s.m.tlbi pas a.va a.size
  let ofEnt := fun (x : Entry) => match x.park with | .op p => p.owes | _ => []
  let ofCtx := fun (c : Ctx) => c.stores.flatMap (·.accs) ++ (match c.tail with | .commitOp p | .jump p => p.owes | .none => [])
  (s.groups.any fun p => groupRuns s p.2 && covers (pasidOf s p.2.block.gang.slot)
      ((match p.2.ctx with | some c => ofCtx c | none => []) ++ p.2.ents.flatMap ofEnt))
    || (s.fab.colls.any fun c => tlbiCovers s.m.tlbi c.pasid c.dstb (c.count * (c.ty.width / 8)))
    || s.mx.any fun p => (physClu s p.1).any (clockRuns s) && (p.2.clause.any fun c => covers (corePasid s p.2) c.stores)

/-- Every access that used a dropped entry is over. -/
def execTlbiDone (s : State) : Out :=
  let t := s.m.tlbi
  let owed := t.pendingReqs.any fun i => match findReq s i with | some q => !q.performed | none => false
  when "TLBI_DONE" (t.busy && !owed && !tlbiHeld s)
    { s with m := { s.m with tlbi := { t with busy := false, done := (t.done + 1) % 2 ^ 32, pendingReqs := [] } } }

/-! ### Retype (R289 to R292) -/

/-- The range of the command under way: from BEGIN on. -/
def Retype.has (x : Retype) (frame : Nat) : Bool := decide (x.cmdBase / 4096 ≤ frame) && decide (frame < x.cmdBase / 4096 + x.cmdCount)
def retypeFrames (s : State) : List Nat := (List.range s.m.retype.cmdCount).map fun k => s.m.retype.cmdBase / 4096 + k
def setRetype (s : State) (x : Retype) : State := { s with m := { s.m with retype := x } }

/-- A command that is not valid now: STATE and every frame stay. -/
def retypeOrder (s : State) (op : Nat) : State := setRetype s { s.m.retype with op, reason := 3 }

/-- Fragments that waited for a frame go on when its retype is over. -/
def wakeRetype (s : State) : State :=
  foldS s (s.groups.map (·.1)) fun s g => s.updGroup g fun gr => { gr with ents := gr.ents.map fun x =>
    match x.st, x.park with
    | _, .retype f => if (frameAt s f).rt then x else { x with park := .none }
    | _, _ => x }

/-- BEGIN sets RT on the range, or is refused. -/
def execRetypeBegin (n : Nat) (ct : BitVec 2) (s : State) : Out :=
  let x := { s.m.retype with count := n, newct := ct }
  let valid := x.state == 0 || x.state == 3 || (x.state == 4 && !x.rtSet)
  if n ≥ 2 ^ 28 then notEnabled "RETYPE_BEGIN"
  else if !valid then .next (retypeOrder (setRetype s x) 1)
  else if n = 0 || !isDev (x.base + n * 4096 - 1) then .next (setRetype s { x with op := 1, state := 4, reason := 2 })
  else
    let s1 := setRetype s { x with op := 1, state := 1, reason := 0, done := 0, cmdBase := x.base, cmdCount := n, rtSet := true }
    .next (foldS s1 (retypeFrames s1) fun s f => setFrame s f { frameAt s f with rt := true })

/-- Lines of the range that something caches or has a tag. -/
def retypeLines (s : State) : List Nat := ((s.m.l1.map (·.1.2) ++ s.m.dir.map (·.1)).filter fun l => s.m.retype.has (l / 32)).dedup

/-- The words of the range that have a tag. -/
def retypeWords (s : State) : List Nat := (s.m.tags.filter fun p => s.m.retype.has (p.1 / 1024)).map (·.1)

/-- A request names a word of the range. -/
def retypeOn (s : State) (q : Req) : Bool := q.accs.any fun a => isDev a.pa && s.m.retype.has (a.pa / 4096)

/-- Accesses admitted before step 1 are still to be performed. -/
def retypeOwed (s : State) : Bool := s.m.reqs.any fun q => !q.performed && decide (q.id < s.m.retype.since) && retypeOn s q

/-- What the old type's clean rule waits for (step 4): the source claims on WO pages. -/
def retypeClaims (s : State) : Bool := s.m.claims.any fun c => s.m.retype.has (c.2 / 1024) && homeType s (4 * c.2) == 2

/-- The address space and the translations that a request goes by. -/
def Req.pasid (s : State) (q : Req) : Nat :=
  match q.orig with
  | .grp _ _ => (match s.group? q.agent with | some gr => pasidOf s gr.block.gang.slot | none => 0)
  | .core l => corePasid s (s.mxD l)
def Req.leaf (s : State) (q : Req) (a : Acc) : XR :=
  let need : Need := { r := q.isLoad, w := !q.isLoad }
  match q.orig with
  | .grp _ _ => (translateIn s false (match s.group? q.agent with | some gr => gr.cu | none => 0) (q.pasid s) a.va need).2
  | .core l => (translateIn s true (coreClu s l) (q.pasid s) a.va need).2

/-- A request that waited at step 1 with a CT that is not the new type (R292). A load restarts its clause. What a committed clause or a core
asked for translates again itself, and is judged: a leaf that names another type still refuses it with TYPEMIS. -/
def retypeRetry (s : State) (q : Req) : State :=
  let restarts := match q.orig with
    | .grp g e => if q.isLoad && (((s.group? g).bind Group.ctx).any fun c => c.entry == e % 16) then some (g, e % 16) else none
    | .core _ => none
  match restarts with
  | some (g, e) => syncRec (abandonOf s g e) (slotOfAgent s g) (sliceSrc (q.lines.headD 0)) 9 g e 0 (q.lines.headD 0 * 128)
  | none =>
    let bad := q.accs.filter fun a => match q.leaf s a with | .fault _ => true | _ => false
    if bad = [] then setReq s { q with ct := s.m.retype.cmdCt } else finishReq s q (bad.map fun (a : Acc) => (Cause.typemis, a.lane, a.va, 0))

/-- The slice logger of the range's first line logs step 6, in its node's order; under replay the logged record is consumed (R291, R369, R375). -/
def retypeSrc (s : State) : Src4 := sliceSrc (s.m.retype.cmdBase / 128)
def retypeNode (s : State) : Nat := s.damask.syncSeq.get (syncKey (retypeSrc s) 9) 0
def retypeSync (s : State) : State :=
  let x := s.m.retype
  let src := retypeSrc s
  let n := retypeNode s
  let s1 := foldS s (recordingParts s) fun s p => emit s p src (rowBytes 8 9 0 0 0xFFFFFF x.cmdCount n x.cmdBase) none
  let s2 : State := foldS s1 (List.range 8) fun s p =>
    match (rpart s p).log.findIdx? (isSync src n 9 0xFFFFFF 0) with
    | some k => setRpart s p { rpart s p with log := (rpart s p).log.eraseIdx k }
    | none => s
  { s2 with damask := { s2.damask with syncSeq := s2.damask.syncSeq.put (syncKey src 9) (n + 1) } }

/-- Step 6 waits for a free frame (R360) and, where a replayed log has retypes of this slice, for its turn among its node's events. -/
def retypeMay (s : State) : Bool :=
  let src := retypeSrc s
  !eventStalls s && (List.range 8).all fun p =>
    let l := (rpart s p).log
    (rpart s p).mode < 2 || !(l.any fun b => isSync src (fieldOf b 0x10 8) 9 (fieldOf b 4 4) (fieldOf b 2 1) b) || l.any (isSync src (retypeNode s) 9 0xFFFFFF 0)

/-- The type change itself (steps 4 to 6), and what becomes of the accesses that waited. -/
def retypeFinish (s : State) : State :=
  let x := s.m.retype
  let ls := retypeLines s
  let s1 := foldS s (s.m.l1.filter fun p => ls.contains p.1.2) fun s p => writeBackLine s p.1.1 p.1.2
  let s2 : State := { s1 with m := { s1.m with l1 := s1.m.l1.filter fun p => !ls.contains p.1.2 } }
  let s3 := foldS s2 (retypeWords s2) fun s w => setTag s w { tagAt s w with wst := 0, hold := false }
  let s4 := foldS s3 (retypeFrames s) fun s f => setFrame s f { ty := x.cmdCt, tgen := ((frameAt s f).tgen + 1) % 4096 }
  let s5 := dropTlb s4 (fun e => decide (e.pa < x.cmdBase + x.cmdCount * 4096) && decide (x.cmdBase < e.pa + e.size)) fun _ _ _ => false
  let s6 : State := { s5 with m := { s5.m with
    sealed := s5.m.sealed.filter fun l => !x.has (l / 32)
    dir := s5.m.dir.map fun d => if ls.contains d.1 then (d.1, { d.2 with noc := false, shv := 0 }) else d } }
  let s7 := setRetype s6 { x with state := 3, reason := 0, done := x.cmdCount, rtSet := false }
  let s8 := foldS s7 (s7.m.reqs.filter fun q => !q.performed && q.ct != x.cmdCt && retypeOn s7 q) retypeRetry
  wakeRetype (retypeSync s8)

/-- APPLY: admission stops and cached copies are sent away; when all is quiet, the same step again finds a held word, or changes the
types. What the host was granted meanwhile is asked back again (R313). While the steps cannot go on, an APPLY is a command that is not
valid then, and is refused (R289). -/
def execRetypeApply (s : State) : Out :=
  let x := s.m.retype
  let valid := x.state == 1 || (x.state == 4 && x.rtSet)
  if x.state = 2 then
    let back := (retypeLines s).filter fun l => (dirAt s l).host || (dirAt s l).hostx
    if retypeOwed s || (retypeLines s).any fun l => !lineQuiet s l then .next (retypeOrder s 2)
    else if back != [] then .next (foldS s back sendBi)
    else if (retypeWords s).any fun w => homeType s (4 * w) == 0 && (tagAt s w).hold then
      let s1 := foldS s (retypeLines s) fun s l => setDir s l { dirAt s l with noc := false }
      .next (wakeAll (setRetype s1 { x with state := 4, reason := 1 }))
    else if retypeClaims s || !retypeMay s then .next (retypeOrder s 2)
    else .next (wakeAll (retypeFinish s))
  else if !valid then .next (retypeOrder s 2)
  else
    let s1 := setRetype s { x with op := 2, state := 2, reason := 0, cmdCt := x.newct, since := s.ids }
    .next (foldS s1 (retypeLines s1) fun s l =>
      let d := dirAt s l
      clearLine (setDir s l { d with noc := true }) l (BitVec.allOnes 32) true)

/-- CANCEL clears RT; what waited for the retype goes on under the old type. -/
def execRetypeCancel (s : State) : Out :=
  let x := s.m.retype
  if x.state == 1 || (x.state == 4 && x.rtSet) then
    let s1 := foldS s (retypeFrames s) fun s f => setFrame s f { frameAt s f with rt := false }
    .next (wakeAll (wakeRetype (setRetype s1 { x with op := 3, state := 0, reason := 0, rtSet := false })))
  else .next (retypeOrder s 3)

end Sys2Proof.Machine
end

