-- ==== Sys2Proof/Machine/RecorderEvents.lean ====
section
/-! DEFINITION. The recorder's frames and their decoding, the stream to a Gingham twin, and the starts and stops of replay (R360,
R370, R371, R374 to R379, R382, R383). -/
namespace Sys2Proof.Machine
open Sys2Proof

/-! ### The body of a frame (R371) -/

/-- Extension bytes of a length: each adds its value, and 255 is followed by another. -/
def extLen : List Byte → Nat → Nat × List Byte
  | [], n => (n, [])
  | b :: t, n => if b = 255 then extLen t (n + 255) else (n + b.toNat, t)

/-- Bytes copied one at a time from `d` back. -/
def copyBack (d : Nat) : Nat → List Byte → List Byte
  | 0, out => out
  | n + 1, out => copyBack d n (out ++ [out.getD (out.length - d) 0])

/-- The tokens of a body, decoded; none where they are no body. -/
def decodeTokens : Nat → List Byte → List Byte → Option (List Byte)
  | _, [], out => some out
  | 0, _, _ => none
  | n + 1, t :: rest, out =>
    let l := t.toNat / 16
    let m := t.toNat % 16
    let a : Nat × List Byte := if l = 15 then extLen rest 15 else (l, rest)
    let out1 := out ++ a.2.take a.1
    if a.2.length < a.1 then none
    else if m = 0 then decodeTokens n (a.2.drop a.1) out1
    else
      match a.2.drop a.1 with
      | d0 :: d1 :: r =>
        let d := d0.toNat + 256 * d1.toNat
        let b : Nat × List Byte := if m = 15 then extLen r 15 else (m, r)
        if d = 0 ∨ d > 16384 ∨ d > out1.length then none else decodeTokens n b.2 (copyBack d (b.1 + 3) out1)
      | _ => none

/-- Records of 32 bytes. -/
def rowsOf : Nat → List Byte → List (List Byte)
  | 0, _ => []
  | n + 1, bs => if bs = [] then [] else takeZ 32 bs :: rowsOf n (bs.drop 32)

/-- Delta coding undone: `prev` holds the last record of each TYPE. -/
def undelta : AList Nat (List Byte) → List (List Byte) → List (List Byte)
  | _, [] => []
  | prev, r :: t =>
    let ty := (r.headD 0).toNat
    let old := AList.get prev ty (List.replicate 32 0)
    let full := r.headD 0 :: (List.range 31).map fun k => r.getD (k + 1) 0 ^^^ old.getD (k + 1) 0
    full :: undelta (AList.put prev ty full) t

/-- The records of a body. -/
def decodeBody (ulen : Nat) (body : List Byte) : Option (List (List Byte)) :=
  match decodeTokens (body.length + 1) body [] with
  | some out => if out.length = ulen ∧ ulen % 32 = 0 ∧ ulen ≤ 16384 then some (undelta [] (rowsOf (ulen / 32) out)) else none
  | none => none

/-! ### Frames (R370) -/

/-- The least stamp of a frame's records that hold one. -/
def leastStamp (rows : List (List Byte)) : Nat :=
  (((rows.filter fun r => [1, 3, 4, 5, 9, 0xA, 0xB, 0xC].contains (fieldOf r 0 1)).map fun r => fieldOf r 0x10 8).min?).getD 0

/-- A frame of 4 KiB. -/
def frameBytes (s : State) (r : RPart) (kind num fseq : Nat) (rows : List (List Byte)) (body : List Byte) (time : Word) : List Byte :=
  let head := leBytes 4 0x44464D44 ++ leBytes 1 kind ++ leBytes 1 1 ++ leBytes 2 num ++ leBytes 8 fseq ++ leBytes 8 r.id.toNat
    ++ leBytes 4 (32 * rows.length) ++ leBytes 4 body.length ++ leBytes 8 (leastStamp rows) ++ leBytes 8 time.toNat ++ leBytes 4 s.fab.devno
  takeZ 4096 (head ++ leBytes 4 (crc32c (head ++ body)).toNat ++ leBytes 8 0 ++ body)

/-- The records of a frame that reads right; none for one that fails its CRC or holds a reserved TYPE (R377). -/
def parseFrame (f : List Byte) : Option (List (List Byte)) :=
  let clen := fieldOf f 0x1C 4
  let body := (f.drop 0x40).take clen
  let ok := fieldOf f 0 4 == 0x44464D44 && fieldOf f 5 1 == 1 && decide (clen ≤ 4032)
    && fieldOf f 0x34 4 == (crc32c (f.take 0x34 ++ body)).toNat
  if !ok then none
  else match decodeBody (fieldOf f 0x18 4) body with
  | some rows => if rows.all fun r => decide (1 ≤ fieldOf r 0 1) && decide (fieldOf r 0 1 ≤ 0xC) then some rows else none
  | none => none

/-! ### FRAME_WRITE (R360, R382) -/

/-- A record as it is written: its chunk's stamp, and the digest of its writes once they are all performed (R381); none while these are not
known. -/
def finalRow (s : State) (x : RecRow) : Option (List Byte) :=
  match x.chunk with
  | none => some x.bytes
  | some c => (s.damask.stamps.find? c).bind fun st0 =>
      -- a pre-emption point or a kill carries the largest stamp that was ended, one less than its own (R369)
      let st := if fieldOf x.bytes 0 1 = 4 ∧ (fieldOf x.bytes 1 1 = 4 ∨ fieldOf x.bytes 1 1 = 8) then st0 - 1 else st0
      let b := x.bytes.take 0x10 ++ leBytes 8 st ++ x.bytes.drop 0x18
      if !(fieldOf b 0 1 == 1 && bitAt (fieldOf b 3 1) 0) then some b
      else if chunkOwes s c then none
      else some (b.take 0x0C ++ leBytes 4 (digestOf s c (BitVec.ofNat 32 (fieldOf b 0x0C 4)) st) ++ b.drop 0x10)

/-- The writes of chunks whose records have been framed are kept no longer. -/
def dropWrites (s : State) (rows : List RecRow) : State :=
  let gone := rows.filterMap fun x => if fieldOf x.bytes 0 1 = 1 then x.chunk else none
  { s with damask := { s.damask with writes := s.damask.writes.filter fun w => !gone.contains w.1 } }

/-- The key under which a partition's log frames wait for their acknowledgements. -/
def logKey (part : Nat) : Nat := 2 ^ 23 + part

/-- Pieces of a list. -/
def piecesOf {α : Type} (k : Nat) : Nat → List α → List (List α)
  | 0, _ => []
  | n + 1, l => if l.isEmpty then [] else l.take k :: piecesOf k n (l.drop k)

/-- A frame goes to the twin, in LOGFRM packets of 160 bytes (notes/assumptions/7). -/
def streamFrame (s : State) (part : Nat) (f : List Byte) : State :=
  let r := rpart s part
  let ps := piecesOf 160 26 f
  let s1 := foldS s (List.range ps.length) fun s k =>
    hubSend s (logKey part) 6 0 [] { blankPk 0xB 0 r.twin 0 with addr := 4096 * r.streamed + 160 * k, flag := r.id, raw := ps.getD k [] }
  setRpart s1 part { rpart s1 part with streamed := r.streamed + 1 }

/-- The cluster that a recorder's source belongs to is running, or has no context left. -/
def sourceRuns (s : State) (src : Src4) : Bool :=
  src.kind != 1 || ctxRuns s src.num

/-- Removes the first `n` records of a source. -/
def dropRows (src : Src4) : Nat → List RecRow → List RecRow
  | 0, l => l
  | _, [] => []
  | n + 1, x :: t => if x.src = src then dropRows src n t else x :: dropRows src (n + 1) t

/-- Firmware is interrupted when less than an eighth of a ring is free (R360). -/
def ringWarn (s : State) (part : Nat) : State :=
  let r := rpart s part
  let size := r.size * 2 ^ 30
  if 8 * ((r.tail + size - r.head - 1) % size + 1) < size then setRpart s part { r with irqs := r.irqs + 1 } else s

/-- A frame of the records that a source emitted first; `body` is what an encoder made of them. `src` is its kind and number. -/
def execFrameWrite (part src : Nat) (body : List Byte) (s : State) : Out :=
  let r := rpart s part
  let sc : Src4 := ⟨src / 65536, src % 65536⟩
  let mine := r.unwritten.filter fun x => x.src == sc
  let rows := match decodeTokens (body.length + 1) body [] with
    | some out => decodeBody out.length body
    | none => none
  match rows with
  | none => notEnabled "FRAME_WRITE"
  | some rs =>
    let want := (mine.take rs.length).map (finalRow s)
    if part ≥ 8 ∨ r.mode > 1 ∨ rs = [] ∨ body.length > 4032 ∨ want ≠ rs.map some ∨ sourceRuns s sc = false then notEnabled "FRAME_WRITE"
    else if !r.full && ringFull r then notEnabled "FRAME_WRITE"
    else
      let size := r.size * 2 ^ 30
      let t := readTime s
      let n := r.fseq.get (sc.kind, sc.num) 0
      let f := frameBytes s r sc.kind sc.num n rs body t.1
      let s1 := engineWrite t.2 (r.base + r.head) f
      let s2 := ringWarn (setRpart (dropWrites s1 (mine.take rs.length)) part { r with
        unwritten := dropRows sc rs.length r.unwritten, fseq := r.fseq.put (sc.kind, sc.num) (n + 1)
        head := (r.head + 4096) % size, tail := if ringFull r then (r.tail + 4096) % size else r.tail }) part
      .next (afterPerform (if r.pair && !r.unpaired then streamFrame s2 part f else s2))

/-! ### The log of a replay (R374) -/

/-- The frames of a ring from TAIL to HEAD. -/
def ringFrames (s : State) (r : RPart) : List (List Byte) :=
  let size := r.size * 2 ^ 30
  (List.range ((r.head + size - r.tail) % size / 4096)).map fun k => s.mem.getN (r.base + (r.tail + 4096 * k) % size) 4096

/-- Frames of one source in the order of their FSEQ. -/
def insertFrame (f : List Byte) : List (List Byte) → List (List Byte)
  | [] => [f]
  | g :: t => if fieldOf f 8 8 < fieldOf g 8 8 then f :: g :: t else g :: insertFrame f t
def frameSource (f : List Byte) : Nat := fieldOf f 4 1 * 65536 + fieldOf f 6 2

/-- The records of frames: source by source, each in its order; none if a frame does not read right. -/
def framesLog (fs : List (List Byte)) : Option (List (List Byte)) :=
  let ordered := ((fs.map frameSource).dedup).flatMap fun k => (fs.filter fun f => frameSource f == k).foldr insertFrame []
  let rows := ordered.map parseFrame
  if rows.any (·.isNone) then none else some (rows.filterMap id).flatten

/-- The PAIR bit of the first ORIGIN record. -/
def originPair (rows : List (List Byte)) : Option Bool := (rows.find? fun r => fieldOf r 0 1 == 0xC).map fun r => bitAt (fieldOf r 3 1) 0

/-- Records join the log of a replay; an ORIGIN record says what RECMODE returns, and leaves. -/
def addLog (r : RPart) (rows : List (List Byte)) : RPart :=
  { r with log := r.log ++ rows.filter fun x => fieldOf x 0 1 != 0xC, origPair := (originPair rows).getD r.origPair }

/-! ### Gingham (R382, R383) -/

/-- The twin's count of compared chunks: on the twin, what can be compared is, and the count is sent; it reaches the primary (R382). No kind
of R340 carries it (DESIGN CHOICE, notes/assumptions/7). -/
def execTwinProgress (part n : Nat) (s : State) : Out :=
  let r := rpart s part
  if r.mode = 1 && r.pair && !r.unpaired && decide (r.compared ≤ n) && decide (n ≤ r.ended) then
    .next (wakeAll (setRpart s part { r with compared := n }))
  else
    let s1 := compareDigests s part
    when "TWIN_PROGRESS" (r.mode == 3 && n == (rpart s1 part).compared) (wakeAll s1)

/-- The primary goes on unpaired, and firmware reports the loss. -/
def loseTwin (s : State) (part : Nat) : State :=
  let s1 := setRpart s part { rpart s part with unpaired := true }
  let keep := fun (q : FReq) => q.lgn != logKey part
  errLog { s1 with fab := { s1.fab with outstanding := s1.fab.outstanding.filter keep, unsent := s1.fab.unsent.filter keep } } 8 0 0xFFFFFF 0 0
def execTwinLoss (part : Nat) (s : State) : Out :=
  let r := rpart s part
  when "TWIN_LOSS" (r.mode == 1 && r.pair && !r.unpaired) (wakeAll (loseTwin s part))

/-! ### Replay (R376 to R379) -/

/-- The next logged chunk of a fragment. -/
def nextChunk (s : State) (p g e : Nat) : Option (List Byte) :=
  (rpart s p).log.find? fun b => fieldOf b 0 1 == 1 && fieldOf b 2 1 == e && fieldOf b 4 4 == g

/-- The frontier admits a stamp: nothing logged with a lower one is left. -/
def admitted (s : State) (p st : Nat) : Bool := notAbove st (frontierOf s p) && notAbove st (eventFront s p)

def rbkD (s : State) (p k : Nat) : Rbk := s.damask.rbk.get (16 * p + k) {}

/-- A breakpoint names a chunk. -/
def Rbk.names (x : Rbk) (g e st : Nat) : Bool := x.v && st == x.stamp.toNat && (x.any || (x.agent == g && x.split == e))

/-- A breakpoint holds a fragment at the header of a chunk. -/
def chunkHeld (s : State) (p g e st : Nat) : Bool :=
  (List.range 16).any fun k => let x := rbkD s p k; x.names g e st || (x.v && x.all && decide (st ≥ x.stamp.toNat))

/-- A fragment of a replayed partition stands before a chunk: its partition. -/
def atChunk (s : State) (g e : Nat) : Option Nat :=
  match s.group? g with
  | none => none
  | some gr =>
    let x := gr.ent e
    (replaying s gr.block.gang.slot).bind fun p =>
      if x.valid && x.chunk.replay.isNone && !(rpart s p).halted && decide (x.st ≠ .joinWait) then some p else none

/-- A held fragment begins its next chunk; one for which the log has none diverges, unless its log is still to come. -/
def execReplayChunkStart (g e : Nat) (s : State) : Out :=
  match atChunk s g e with
  | none => notEnabled "REPLAY_CHUNK_START"
  | some p =>
    match nextChunk s p g e with
    | none => if (rpart s p).mode = 3 then notEnabled "REPLAY_CHUNK_START" else .next (haltPart s p 5 g e 0 [])
    | some b =>
      let st := fieldOf b 0x10 8
      let r := rpart s p
      let runs : Bool := match s.group? g with | some gr => groupRuns s gr | none => false
      when "REPLAY_CHUNK_START" (admitted s p st && !chunkHeld s p g e st && runs)
        (wakeAll (setRpart (putEnt s g e fun x => { x with chunk := { x.chunk with replay := some b } }) p { r with log := r.log.erase b }))

/-- The fragments of a partition that a breakpoint stops now. -/
def breaksAt (s : State) (p : Nat) (x : Rbk) : List Nat :=
  s.groups.filterMap fun y => if (List.range 16).any fun e =>
      atChunk s y.1 e == some p && (match nextChunk s p y.1 e with
        | some b => x.names y.1 e (fieldOf b 0x10 8) && admitted s p (fieldOf b 0x10 8)
        | none => false) then some y.1 else none

/-- An armed breakpoint's chunk would begin: the cluster is frozen; with ALL, every cluster of the partition, once no chunk with a lower
stamp is left. -/
def execReplayBreakpoint (part k : Nat) (s : State) : Out :=
  let x := rbkD s part k
  let gs := breaksAt s part x
  let clu := fun (g : Nat) => match s.group? g with | some gr => physClu s (lcluOf s gr.block.gang) | none => none
  let all := x.all && admitted s part x.stamp.toNat
  let cs := if all then partClusters s part else (gs.filterMap clu).dedup
  let live := cs.filter fun c => decide ((cluD s c).state = .running) && clockRuns s c
  when "REPLAY_BREAKPOINT" (decide (part < 8) && decide (k < 16) && x.v && decide ((rpart s part).mode ≥ 2) && live != [])
    (foldS s live fun s c => deviceFreeze s c 2)

/-- What the log still holds does not come, or the log has ended before the tasks have. -/
def execReplayEventTimeout (part : Nat) (s : State) : Out :=
  let r := rpart s part
  let tasks := s.tasks.any fun t => t.2.live && partOfTask s t.1 == some part
  let first := r.log.headD []
  when "REPLAY_EVENT_TIMEOUT" (decide (part < 8) && decide (r.mode ≥ 2) && !r.halted && (r.log != [] || tasks))
    (haltPart s part 3 (fieldOf first 4 4) (fieldOf first 2 1) (fieldOf first 0x10 8) [])

end Sys2Proof.Machine
end

