-- ==== Sys2Proof/Machine/FabricEvents.lean ====
section
/-! DEFINITION. The fabric's events: packets that arrive, the target's side of a remote access, responses at the source, collectives,
links, arbitration, timeouts (R336 to R358, R380). A packet arrives whole, and is served at once or waits in the
receive buffer it came into. -/
namespace Sys2Proof.Machine
open Sys2Proof

/-! ### Ports (R342, R343) -/

/-- Flits of a VC's receive buffer. -/
def bufSize (v : Nat) : Nat := match v with | 1 => 128 | 2 => 256 | _ => 64

/-- STOP for a VC, given how much of its buffer is taken and what it was. -/
def stopNext (m v used : Nat) (was : Bool) : Bool :=
  let c := bufSize v
  let free := c - used
  if free ≤ m then true else if was then decide (free < min c (m + c / 4)) else false

/-- The receive buffer of a port changes; its STOP bits follow. -/
def setBuf (s : State) (port : Nat) (f : List Nat → List Nat) : State :=
  let p := s.fab.portD port
  let rbuf := f p.rbuf
  let stopOut := (List.range 4).foldl (fun (b : BitVec 4) v =>
    if stopNext p.m v (rbuf.getD v 0) (p.stopOut.getLsbD v) then b ||| (1#4 <<< v) else b) 0
  setPort s port { p with rbuf, stopOut }

/-- A packet enters, or leaves, the receive buffer of the port it came by. -/
def bufIn (s : State) (port : Nat) (pk : Packet) : State :=
  if port < 24 then setBuf s port fun l => l.modify (vcOf pk.kind) (· + flitsOf pk) else s
def bufOut (s : State) (port : Nat) (pk : Packet) : State :=
  if port < 24 then setBuf s port fun l => l.modify (vcOf pk.kind) (· - flitsOf pk) else s

/-! ### Arrival (R338 to R341, R346, R357, R380) -/

/-- A packet of a kind that R339 to R341 let a flit stream carry. -/
def pkFits (kind : Nat) (pk : Packet) : Bool :=
  pk.kind == kind && decide (pk.src < 2 ^ 18) && decide (pk.dst < 2 ^ 18) && decide (pk.tag < 65536) && decide (pk.addr < 2 ^ 64)
    && decide (pk.npart ≤ 16) && decide (pk.part < pk.npart) && decide (flitsOf pk ≤ 3)
    && (if kind ≤ 3 then pk.addr % 128 == 0 && (kind == 2 || pk.ty.isSome) && pk.ents.length ≤ 7 else true)
    && (pk.ents.all fun x => decide (x.word < 32) && decide (x.lane < 96))
    && (if kind = 3 then pk.words.length == ((List.range 32).filter fun k => pk.wmask.getLsbD k).length else true)

/-- The first packet of a packet's VC in a list. -/
def firstVc (pk : Packet) (l : List Packet) : Option Packet := l.find? fun x => vcOf x.kind == vcOf pk.kind

/-- The packet stands in the port's receive buffer, or came too early in a replay. -/
def holdsPk (s : State) (port : Nat) (pk : Packet) : Bool :=
  let p := s.fab.portD port
  firstVc pk p.rq == some pk || p.early.contains pk

/-- The packet is there to be taken: it waits here already, is the first of its VC in the loopback, or comes over a live port whose receive
buffer has room for it (R338, R342). -/
def comes (s : State) (port : Nat) (pk : Packet) : Bool :=
  let p := s.fab.portD port
  if port = 24 then s.fab.en && (p.early.contains pk || firstVc pk (p.outq.map (·.pk)) == some pk)
  else decide (port < 24) && portLive s.fab port
    && (holdsPk s port pk || decide (p.rbuf.getD (vcOf pk.kind) 0 + flitsOf pk ≤ bufSize (vcOf pk.kind)))

/-- Others of its VC stand before it in the receive buffer. -/
def behind (s : State) (port : Nat) (pk : Packet) : Bool :=
  decide (port < 24) && !holdsPk s port pk && (firstVc pk (s.fab.portD port).rq).isSome

/-- Removes the first packet of a queue that is this one. -/
def dropPk (pk : Packet) : List QPkt → List QPkt
  | [] => []
  | q :: t => if q.pk = pk then t else q :: dropPk pk t

/-- A packet comes off the link: the next LSEQ that the port expects moves on, and no request to resend is due (R343). -/
def offLink (s : State) (port : Nat) (pk : Packet) : State :=
  let p := s.fab.portD port
  if port = 24 then setPort s 24 { p with outq := dropPk pk p.outq }
  else setPort s port { p with expect := (p.expect + flitsOf pk) % 4096, nak := none }

/-- The hub takes a packet from where it stands. -/
def takePk (s : State) (port : Nat) (pk : Packet) : State :=
  let p := s.fab.portD port
  if p.early.contains pk then setPort s port { p with early := p.early.erase pk }
  else if p.rq.contains pk then bufOut (setPort s port { p with rq := p.rq.erase pk }) port pk
  else offLink s port pk

/-- A packet that cannot be served yet stands in the receive buffer; one of the loopback stays where it is. -/
def waitPk (s : State) (port : Nat) (pk : Packet) : State :=
  let s1 := offLink s port pk
  bufIn (setPort s1 port { s1.fab.portD port with rq := (s1.fab.portD port).rq ++ [pk] }) port pk

/-- A packet that comes before its turn in a replay is kept in the port's replay buffer, which spills into the last sixteenth of the ring;
when that is full the replay diverges (R380). -/
def earlyPk (s : State) (p port : Nat) (pk : Packet) : State :=
  let s1 := takePk s port pk
  let x := s1.fab.portD port
  let s2 := setPort s1 port { x with early := x.early ++ [pk] }
  let used := ((x.early ++ [pk]).map fun q => 64 * flitsOf q).sum
  if used > Config.replayBuffer + (rpart s p).size * 2 ^ 26 then haltPart s2 p 3 (agentRemote pk.src) 0 0 [] else s2

/-- A packet for another device waits for its output port, in the receive buffer it came into. -/
def passOn (s : State) (port : Nat) (pk : Packet) : State :=
  match fabPort s.fab pk.dst with
  | some q => bufIn (enqueue s pk q port) port pk
  | none => s

/-- The 16 bytes of a descriptor; a response's byte 0x0C is its STATUS. -/
def descBytes (pk : Packet) : List Byte :=
  leBytes 8 pk.addr ++ leBytes 4 pk.wmask.toNat
    ++ leBytes 1 (if vcOf pk.kind = 1 then pk.status else match pk.ty with | some t => WF.codeOfTy t | none => 0)
    ++ leBytes 1 (pk.x.toNat + 16 * pk.ord.toNat) ++ leBytes 1 pk.scope.toNat ++ leBytes 1 (pk.part + 16 * (pk.npart - 1))

/-- The payload that the port logger records (R357). -/
def loggedPayload (pk : Packet) : List Byte :=
  match pk.kind with
  | 4 => descBytes pk ++ pk.words.flatMap fun w => leBytes 4 w.toNat
  | 5 => descBytes pk ++ pk.ents.flatMap fun x => leBytes 1 x.status ++ leBytes 7 0 ++ leBytes 8 x.old.toNat
  | 9 => descBytes pk ++ pk.raw
  | _ => []

/-- The kind of packet that answers a kind of request. -/
def answerKind (k : Nat) : Nat := match k with | 1 => 4 | 2 => 5 | 3 | 4 => 8 | _ => 6

/-- The request that a response answers. -/
def answersReq (s : State) (pk : Packet) : Option FReq :=
  s.fab.outstanding.find? fun r => r.dst == pk.src && r.tag == pk.tag && pk.kind == answerKind r.kind

/-- The task whose request a response answers. -/
def rspSlot (s : State) (pk : Packet) : Option Nat := (answersReq s pk).bind fun r => (s.group? r.lgn).map fun g => g.block.gang.slot

/-- The replaying partitions that an arrival concerns: all for a request, its task's for a response. -/
def replayParts (s : State) (pk : Packet) : List Nat :=
  (List.range 8).filter fun p => decide ((rpart s p).mode ≥ 2) &&
    (decide (vcOf pk.kind ≠ 1) || (match rspSlot s pk with | some t => partOfTask s t == some p | none => false))

/-- Under replay an arrival is the next that the log gives its port, once the frontier admits its stamp; it leaves the log. -/
def replayArrival (s : State) (p port : Nat) (pk : Packet) : Option State :=
  let r := rpart s p
  let pay := loggedPayload pk
  match r.log.findIdx? fun b => fieldOf b 0 1 == 3 && fieldOf b 0x0A 2 == port with
  | none => none
  | some k =>
    let b := r.log.getD k []
    let n := fieldOf b 3 1
    let data := (((r.log.drop (k + 1)).take n).flatMap fun x => x.drop 4).take pay.length
    if fieldOf b 1 1 = pk.kind ∧ fieldOf b 4 4 = pk.src ∧ fieldOf b 8 2 = pk.tag ∧ fieldOf b 0x18 8 = pk.addr ∧ data = pay
        ∧ notAbove (fieldOf b 0x10 8) (frontierOf s p) = true then
      some (setRpart s p { r with log := r.log.take k ++ r.log.drop (k + 1 + n) })
    else none

/-- A packet of the pairing's own stream, or an answer to one: it belongs to no partition's tasks, and is neither logged nor ordered by a log
(DESIGN CHOICE, notes/assumptions/7). -/
def pairing (s : State) (pk : Packet) : Bool := pk.kind == 0xB || (answersReq s pk).any fun r => r.kind == 6

/-- The replayed partition whose log gives the port another packet first (R357, R380). -/
def tooEarly (s : State) (port : Nat) (pk : Packet) : Option Nat :=
  if pairing s pk then none else (replayParts s pk).find? fun p => (replayArrival s p port pk).isNone

/-- The ARRIVAL record of an accepted packet, in every partition that records (R357, R361); none while a ring stalls its port, or replay
has another packet to come first. `ws`: the words it names. -/
def logArrival (s : State) (port : Nat) (pk : Packet) (ws : List Nat) : Option State :=
  let ps := recordingParts s
  if pairing s pk then some s
  else if ps.any fun p => ringStalls (rpart s p) then none
  else
    let e := eventFor s (agentRemote pk.src) (scWords s ws)
    let pay := loggedPayload pk
    let n := (pay.length + 27) / 28
    let s1 := foldS e.2 ps fun s p =>
      emitData (emit s p (portSrc port)
        (leBytes 1 3 ++ leBytes 1 pk.kind ++ leBytes 1 0 ++ leBytes 1 n ++ leBytes 4 pk.src ++ leBytes 2 pk.tag ++ leBytes 2 port ++ leBytes 4 0
          ++ leBytes 8 0 ++ leBytes 8 pk.addr) (some e.1)) p (portSrc port) pay
    (replayParts s pk).foldl (fun (o : Option State) p => o.bind fun x => replayArrival x p port pk) (some s1)

/-- A response leaves; with no route it is lost, and the source's timeout decides. -/
def sendRsp (s : State) (rsp : Packet) : State :=
  match fabPort s.fab rsp.dst with
  | some p => enqueue s rsp p 25
  | none => s

/-- The recorded outcome of a request that arrives again inside 2 × FTO. -/
def pastRsp (s : State) (pk : Packet) : Option (Nat × Packet) :=
  (s.fab.done.find? fun d => d.1 == pk.src && d.2.1 == pk.tag && d.2.2.2.part == pk.part).map fun d => d.2.2

def findGather (s : State) (pk : Packet) : Option Gather := s.fab.gather.find? fun g => g.src == pk.src && g.tag == pk.tag

/-- The packets of a FATOM gathered before its last one stay as they are: a copy of one is dropped. -/
def gathered (s : State) (pk : Packet) : Bool :=
  (findGather s pk).any fun g => g.got.any (fun p => p.part == pk.part) && decide (g.got.length < pk.npart)

/-- A packet that has been dealt with already (R346): what it gets. A request has its recorded response, a packet of a FATOM is gathered, and
a response answers no request. Such a packet is not logged (R357). -/
def again (s : State) (port : Nat) (pk : Packet) : Option State :=
  if vcOf pk.kind = 1 then
    if (answersReq s pk).any fun r => !(pk.kind == 5 && r.parts.contains pk.part) then none else some (takePk s port pk)
  else match pastRsp s pk with
  | some (t, rsp) =>
    let now := readTime s
    if now.1.toNat ≤ t + 2000 * s.fab.fto then some (sendRsp (takePk now.2 port pk) rsp) else none
  | none => if gathered s pk then some (takePk s port pk) else none

/-- What serving a packet comes to. -/
inductive Served where
  | done (s : State)
  /-- it waits for what has been asked for -/
  | asked (s : State)
  | wait

/-- Recorded outcomes older than the window are forgotten when a request brings their tag again. -/
def forgetRsp (s : State) (pk : Packet) : State :=
  if vcOf pk.kind = 1 || (pastRsp s pk).isNone then s
  else { s with fab := { s.fab with done := s.fab.done.filter fun d => !(d.1 == pk.src && d.2.1 == pk.tag) } }

/-- A packet of a kind arrives: it goes on to its destination, or is accepted and served, or stands in the receive buffer, where it is
presented again. `serve` gets the state before and after the acceptance. -/
def arrive (name : String) (kind port : Nat) (pk : Packet) (ws : List Nat) (s : State) (serve : State → State → Served) : Out :=
  let fresh := decide (port < 24) && !holdsPk s port pk
  let stay := if fresh then Host.Outcome.next (waitPk s port pk) else notEnabled name
  if !pkFits kind pk || !comes s port pk then notEnabled name
  else if pk.dst ≠ s.fab.devno then .next (passOn (takePk s port pk) port pk)
  else if behind s port pk then .next (waitPk s port pk)
  else match again s port pk with
  | some s1 => .next s1
  | none =>
    match tooEarly s port pk with
    | some p => if (s.fab.portD port).early.contains pk then notEnabled name else .next (earlyPk s p port pk)
    | none =>
      match logArrival s port pk ws with
      | none => stay
      | some s1 =>
        match serve (forgetRsp s pk) (takePk (forgetRsp s1 pk) port pk) with
        | .done t => .next t
        | .asked t => .next (if fresh then waitPk t port pk else t)
        | .wait => stay

/-! ### The target (R345, R346, R348 to R351) -/

/-- A word lies in a valid window that allows the access. -/
def winOk (s : State) (rd w : Bool) (word : Nat) : Bool :=
  isDev (4 * word) && (List.range 16).any fun k =>
    let x := s.fab.wins.get k {}
    x.v && (x.rd || !rd) && (x.w || !w) && decide (x.base * 65536 ≤ 4 * word) && decide (4 * word < x.base * 65536 + x.size * 65536)

/-- A response to a packet. -/
def rspTo (s : State) (pk : Packet) (kind status holder : Nat) : Packet :=
  { pk with kind, src := s.fab.devno, dst := pk.src, status, holder, words := [], ents := [], raw := [], ty := none, flag := 0 }

/-- The outcome is kept, and sent. -/
def respond (s : State) (rsp : Packet) : State :=
  let t := readTime s
  sendRsp { t.2 with fab := { t.2.fab with done := (rsp.dst, rsp.tag, t.1.toNat, rsp) :: t.2.fab.done } } rsp

/-- The words of a line that a mask names, ascending. -/
def pkWords (pk : Packet) : List Nat := ((List.range 32).filter fun k => pk.wmask.getLsbD k).map fun k => pk.addr / 4 + k

/-- Of refusals, the first in rank, with its holder: a STATUS (R190). -/
def rankStatus (l : List (Cause × Nat)) : Nat × Nat :=
  match l.foldl (fun m x => Cause.first m (some x.1)) none with
  | none => (0, 0xFFFFFF)
  | some c => (c.code, if c = .race then ((l.find? fun x => x.1 == c).map (·.2)).getD 0xFFFFFF else 0xFFFFFF)

/-- LDREQ: one load of the source's agent. The response's descriptor is the request's (R341); which of its words were refused stands beside them
(DESIGN CHOICE, notes/assumptions/31). -/
def serveLoad (pk : Packet) (port : Nat) (s s1 : State) : Served :=
  let ws := pkWords pk
  let a := agentRemote pk.src
  let acq := if pk.ord = 1 then some pk.scope.toNat else none
  let rc := ws.filter fun w => homeType s1 (4 * w) == 0
  let answer := fun (s' : State) (bad : List (Nat × Cause × Nat)) =>
    let st := rankStatus (bad.map (·.2))
    let word := fun (w : Nat) => if bad.any fun x => x.1 == w then 0 else BitVec.ofNat 32 (leNat (physRead s' (4 * w) 4))
    { rspTo s pk 4 st.1 st.2 with words := ws.map word,
                                  ents := bad.map fun x => { word := x.1 % 32, lane := 0, b := 0, c := 0, status := x.2.1.code, old := 0 } }
  if !(ws.all (winOk s true false)) then .done (wakeAll (respond s1 (answer s1 (ws.map fun w => (w, .prot, 0xFFFFFF)))))
  else match engineRead s ws with
  | .wait => .wait
  | .clear ls => .asked (foldS s ls sendBi)
  | .go =>
    if !promoteMay s1 a 0 acq rc then .wait
    else
      let s2 := promoteWords (bringAll s1 ws) a 0 acq rc
      let bad : List (Nat × Cause × Nat) := ws.filterMap fun w => match judgeRead s2 a (4 * w) 4 with | .refuse c h => some (w, c, h) | .ok => none
      let go := ws.filter fun w => !(bad.any fun x => x.1 == w)
      .done (wakeAll (respond (watch s2 1 1 a (2 ^ 17) (pk.addr / 128) (wmaskOf go) port none) (answer s2 bad)))

def execLdreq (port : Nat) (pk : Packet) (s : State) : Out :=
  arrive "LDREQ" 1 port pk (pkWords pk) s (serveLoad pk port)

/-- STREQ: one store of the source's agent, all of it or nothing (R348). It waits for room in the hold partition (R270). -/
def serveStore (pk : Packet) (port : Nat) (s s1 : State) : Served :=
  let ws := pkWords pk
  let a := agentRemote pk.src
  if !(ws.all (winOk s false true)) then .done (wakeAll (respond s1 (rspTo s pk 6 Cause.prot.code 0xFFFFFF)))
  else if !storeRoom s a (pk.addr / 128) pk.ord.toNat pk.scope.toNat then .wait
  else match engineTurn s ws with
  | .wait => .wait
  | .clear ls => .asked (askFor s ws ls)
  | .go =>
    let s0 := bringAll s1 ws
    let s2 := if pk.ord = 2 then release s0 a pk.scope.toNat else s0
    let bad := ws.filterMap fun w => match judgeWrite s2 a (4 * w) 4 with | .refuse c h => some (c, h) | .ok => none
    if bad != [] then
      let st := rankStatus bad
      .done (wakeAll (respond s2 (rspTo s pk 6 st.1 st.2)))
    else
      let s3 := foldS s2 (List.zip ws pk.words) fun s x => homeWrite s a 896 (4 * x.1) (leBytes 4 x.2.toNat) 0 pk.ord.toNat pk.scope.toNat
      let s3 := unpoison s3 (ws.map fun w => (4 * w, 4))
      .done (wakeAll (respond (watch s3 2 1 a (2 ^ 17) (pk.addr / 128) (wmaskOf ws) port none) (rspTo s pk 6 0 0xFFFFFF)))

def execStreq (port : Nat) (pk : Packet) (s : State) : Out :=
  arrive "STREQ" 3 port pk (pkWords pk) s (serveStore pk port)

/-- The accesses of a gathered FATOM, lanes ascending within a word (R350). -/
def atomAccs (esz : Nat) (pks : List Packet) : List Acc :=
  pks.flatMap fun p => p.ents.map fun x => { lane := x.lane, va := p.addr + 4 * x.word, pa := p.addr + 4 * x.word, size := esz, b := x.b, c := x.c }

/-- The place of a remote FATOM in the slice's order, for every partition that records or replays (R350, R361). -/
def arbRemote (s : State) (agent line : Nat) (wmask : BitVec 32) : Option State :=
  let n := s.damask.rseq.get agent 0 % 2 ^ 32
  let one := fun (s : State) (p : Nat) =>
    let r := rpart s p
    if r.mode = 0 then some s
    else if r.mode = 1 then
      if ringStalls r then none else some (emit s p (sliceSrc line) (rowBytes 2 6 0 0 agent n (line * 128) wmask.toNat) none)
    else match r.log.findIdx? fun b => fieldOf b 0 1 == 2 && Config.l3Slice (fieldOf b 0x10 8 / 128) == Config.l3Slice line with
      | none => none
      | some k =>
        let b := r.log.getD k []
        if fieldOf b 1 1 = 6 ∧ fieldOf b 4 4 = agent ∧ fieldOf b 8 4 = n ∧ fieldOf b 0x10 8 = line * 128 then
          some (setRpart s p { r with log := r.log.eraseIdx k }) else none
  ((List.range 8).foldl (fun (o : Option State) p => o.bind fun x => one x p) (some s)).map fun x => countArb x agent

def putGather (s : State) (g : Gather) : State :=
  { s with fab := { s.fab with gather := g :: s.fab.gather.filter fun x => !(x.src == g.src && x.tag == g.tag) } }
def dropGather (s : State) (pk : Packet) : State :=
  { s with fab := { s.fab with gather := s.fab.gather.filter fun x => !(x.src == pk.src && x.tag == pk.tag) } }

/-- The answers to the packets of a gathered FATOM. -/
def atomRsps (s : State) (pks : List Packet) (vals : List (Nat × Word)) (bad : List (Nat × Cause × Nat)) : List Packet :=
  pks.map fun p =>
    let mine := bad.filter fun x => p.ents.any fun e => e.lane == x.1
    let st := rankStatus (mine.map (·.2))
    { rspTo s p 5 st.1 st.2 with ents := p.ents.map fun e =>
        { e with status := ((mine.find? fun x => x.1 == e.lane).map fun x => x.2.1.code).getD 0
                 old := ((vals.find? fun v => v.1 == e.lane).map (·.2)).getD 0, b := 0, c := 0 } }

/-- All packets of a FATOM have come: it is performed at the home slice, a packed one in two sub-requests. -/
def performAtom (pk : Packet) (port : Nat) (g : Gather) (pks : List Packet) (ty : Ty) (s s1 : State) : Served :=
  let lo := g.lo
  let a := agentRemote pk.src
  let accs := atomAccs (ty.width / 8) pks
  let ws := (accs.flatMap fun x => wordsOf x.pa x.size).dedup
  let line := pk.addr / 128
  if !(ws.all (winOk s true true)) then
    let all : List (Nat × Cause × Nat) := accs.map fun x => (x.lane, .prot, 0)
    .done (wakeAll (foldS (dropGather s1 pk) (atomRsps s pks [] all) respond))
  else match engineTurn s ws with
  | .wait => .wait
  | .clear ls => .asked (askFor s ws ls)
  | .go =>
    let acq := if pk.ord = 1 ∨ pk.ord = 3 then some pk.scope.toNat else none
    if lo.isNone && !promoteMay s a 0 acq (ws.filter fun w => homeType s (4 * w) == 0) then .wait else
    let s := bringAll s ws
    let s1 := bringAll s1 ws
    -- the lanes are judged once, before the first sub-request (R306, R308)
    let judged := if lo.isSome then s else promoteWords s1 a 0 acq (ws.filter fun w => homeType s (4 * w) == 0)
    let bad : List (Nat × Cause × Nat) := if lo.isSome then g.bad
      else accs.filterMap fun x => match judgeAtomic judged a x.pa x.size with | .refuse c h => some (x.lane, c, h) | .ok => none
    let go := accs.filter fun x => !(bad.any fun y => y.1 == x.lane)
    let q : Req := { id := 0, kind := .atomic, agent := a, orig := .core 0, seq := 0, ty, x := pk.x.toNat, accs := go }
    let first := ty.packed && lo.isNone
    let half : Option Bool := if ty.packed then some lo.isSome else none
    let base := if first then promoteWords s a 0 acq (ws.filter fun w => homeType s (4 * w) == 0) else if lo.isSome then s1 else judged
    match (if go = [] then some base else arbRemote base a line (wmaskOf (go.flatMap fun x => wordsOf x.pa x.size))) with
    | none => .wait
    | some s2 =>
      let r := go.foldl (atomOne half q) (s2, [])
      if first && go != [] then .asked (wakeAll (putGather r.1 { src := pk.src, tag := pk.tag, got := pks, lo := some r.2, bad }))
      else
        let vals := match lo with | some l => joinHalves l r.2 | none => r.2
        let s3 := watch r.1 3 1 a (2 ^ 17) line (wmaskOf (go.flatMap fun x => wordsOf x.pa x.size)) port none
        .done (wakeAll (foldS (dropGather s3 pk) (atomRsps s pks vals bad) respond))

/-- ATREQ: the hub gathers a request's packets, and performs it with the last. -/
def serveAtom (pk : Packet) (port : Nat) (s s1 : State) : Served :=
  let g : Gather := (findGather s pk).getD { src := pk.src, tag := pk.tag, got := [] }
  let pks := (g.got.filter fun p => p.part != pk.part) ++ [pk]
  let inOrder := (List.range 16).filterMap fun k => pks.find? fun p => p.part == k
  if pks.length < pk.npart then .done (putGather s1 { g with got := pks })
  else match pk.ty with
  | some ty => performAtom pk port g inOrder ty s s1
  | none => .wait

def execAtreq (port : Nat) (pk : Packet) (s : State) : Out :=
  arrive "ATREQ" 2 port pk ((pk.ents.map fun x => pk.addr / 4 + x.word).dedup) s (serveAtom pk port)

/-- FENCE: every hold of the source's agent becomes free, then the flag, if there is one, is written as a release store (R351, R353). -/
def serveFence (pk : Packet) (port : Nat) (s s1 : State) : Served :=
  let a := agentRemote pk.src
  let s2 := release s1 a 5
  match pk.ty with
  | none => .done (wakeAll (respond s2 (rspTo s pk 8 0 0xFFFFFF)))
  | some ty =>
    let n := ty.width / 8
    let ws := wordsOf pk.addr n
    let answer := fun (s' : State) (st : Nat × Nat) => Served.done (wakeAll (respond s' (rspTo s pk 8 st.1 st.2)))
    if !(ws.all (winOk s false true)) then answer s2 (Cause.prot.code, 0xFFFFFF)
    else if wordsFrozen s ws then .wait
    else if homeType s pk.addr ≥ 2 then answer s2 (Cause.typeop.code, 0xFFFFFF)
    else match engineTurn s ws with
    | .wait => .wait
    | .clear ls => .asked (askFor s ws ls)
    | .go =>
    match judgeWrite s2 a pk.addr n with
    | .refuse c h => answer s2 (rankStatus [(c, h)])
    | .ok =>
      let s3 := homeWrite (bringAll s2 ws) a 896 pk.addr (leBytes n pk.flag.toNat) 0 2 (max 5 pk.scope.toNat)
      answer (watch s3 2 1 a (2 ^ 17) (pk.addr / 128) (wmaskOf ws) port none) (0, 0xFFFFFF)

def execFencePacket (port : Nat) (pk : Packet) (s : State) : Out :=
  arrive "FENCE_PACKET" 7 port pk (match pk.ty with | some ty => wordsOf pk.addr (ty.width / 8) | none => []) s (serveFence pk port)

/-! ### Responses at the source (R346, R348 to R353) -/

/-- The cause that a STATUS names. -/
def causeOf (code : Nat) : Cause :=
  match code with
  | 0x03 => .align | 0x04 => .prot | 0x05 => .unmapped | 0x06 => .typemis | 0x07 => .typeop | 0x08 => .race | 0x0F => .uncorr | _ => .fabric

/-- A request is over, and those that waited for its room may go (R346). -/
def dropFab (s : State) (id : Nat) : State := flowFab { s with fab := { s.fab with outstanding := s.fab.outstanding.filter fun r => r.id != id } }

/-- Lanes of a request are refused: a late fault of its fragment. -/
def fabLate (s : State) (r : FReq) (cause : Cause) (bad : List Acc) (holder : Nat) : State :=
  let info : FaultInfo := { cause, iaddr := r.iaddr, lanes := maskOf fun i => bad.any fun a => a.lane == i,
                            holder, daddr := (bad.map (·.va)).headD 0, sub := b2n (r.kind != 1) }
  reportLate s r.lgn r.e { seq := r.seq / 16, slot := r.seq % 16, info }

/-- Values reach the token that waits for a request; `last`: nothing more comes. -/
def fabGive (s : State) (r : FReq) (vals : List (Nat × Word)) (last : Bool) : State :=
  let one := fun (p : Pend) =>
    let left := if last then p.wait.filter (· != r.id) else p.wait
    if p.wait.contains r.id then { p with vals := p.vals ++ vals, wait := left } else p
  s.updGroup r.lgn fun gr => { gr with pend := gr.pend.map one }

/-- The word an index names in a response. -/
def rspWord (pk : Packet) (k : Nat) : Option Nat :=
  let ks := (List.range 32).filter fun j => pk.wmask.getLsbD j
  (List.zip ks pk.words).find? (fun x => x.1 == k) |>.map fun x => x.2.toNat

/-- A lane's value in an LDRSP; none where a word of it has been refused. -/
def laneVal (pk : Packet) (a : Acc) : Option (Nat × Word) :=
  let k := a.pa / 4 % 32
  if pk.ents.any fun x => x.word == k || (a.size == 8 && x.word == k + 1) then none
  else if a.size = 8 then
    match rspWord pk k, rspWord pk (k + 1) with
    | some lo, some hi => some (a.lane, BitVec.ofNat 64 (lo + hi * 2 ^ 32))
    | _, _ => none
  else (rspWord pk k).map fun v => (a.lane, BitVec.ofNat 64 v)

/-- The writes of a request that has been performed elsewhere enter its chunk's digest (R381). -/
def fabDigest (s : State) (r : FReq) (accs : List Acc) (bytes : Acc → List Byte) : State :=
  foldS s accs fun s a => digestWrite s r.lgn r.chunk r.seq a.lane a.va a.size (bytes a)

/-- What a lane of an FATOM has written, by the old value it got. -/
def fatomBytes (r : FReq) (vals : List (Nat × Word)) (a : Acc) : List Byte :=
  let old := ((vals.find? fun v => v.1 == a.lane).map fun v => v.2.toNat).getD 0
  match r.pk with
  | p :: _ => (match p.ty with | some ty => leBytes a.size (atomStep p.x.toNat ty old a.b.toNat a.c.toNat) | none => [])
  | [] => []

/-- LDRSP, ATRSP, STACK or FENACK reaches its group. -/
def groupRsp (s : State) (r : FReq) (pk : Packet) : State :=
  match pk.kind with
  | 4 =>
    let bad := r.accs.filter fun a => (laneVal pk a).isNone
    let s1 := fabGive (dropFab s r.id) r (r.accs.filterMap (laneVal pk)) true
    if bad = [] then s1 else fabLate s1 r (causeOf pk.status) bad pk.holder
  | 5 =>
    let parts := if r.parts.contains pk.part then r.parts else pk.part :: r.parts
    let whole := decide (parts.length ≥ pk.npart)
    let vals := (pk.ents.filter fun x => x.status == 0).map fun x => (x.lane, x.old)
    let bad := r.accs.filter fun a => pk.ents.any fun x => x.lane == a.lane && x.status != 0
    let fresh := !r.parts.contains pk.part
    let s0 : State := { s with fab := { s.fab with outstanding := s.fab.outstanding.map fun x => if x.id = r.id then { x with parts } else x } }
    let written := r.accs.filter fun a => vals.any fun v => v.1 == a.lane
    let s1 := fabGive (if whole then dropFab s0 r.id else s0) r (if fresh then vals else []) whole
    let s1 := if fresh then fabDigest s1 r written (fatomBytes r vals) else s1
    if bad = [] ∨ fresh = false then s1 else fabLate s1 r (causeOf pk.status) bad pk.holder
  | _ =>
    let s1 := fabGive (dropFab s r.id) r [] true
    if pk.status = 0 then fabDigest s1 r r.accs fun a => leBytes a.size a.b.toNat
    else fabLate s1 r (causeOf pk.status) r.accs pk.holder

/-- The collective that a request's key names. -/
def keyColl (s : State) (key : Nat) : Option Coll := s.fab.colls.find? fun c => collKey c.slot c.n == key

/-- A response is dealt with, whatever made the request. -/
def fabDeliver (s : State) (pk : Packet) : State :=
  match answersReq s pk with
  | none => s
  | some r =>
    match r.kind with
    | 0 | 1 | 2 | 3 => groupRsp s r pk
    | 5 =>
      let s1 := dropFab s r.id
      if pk.status = 0 then s1 else match keyColl s1 r.lgn with | some c => failColl s1 c true 3 | none => s1
    | 6 =>
      let s1 := dropFab s r.id
      if pk.status = 0 then s1 else haltPart s1 (r.lgn - 2 ^ 23) 7 0 0 0 []
    | _ => dropFab s r.id

/-- A response arrives: it is parked while its cluster is stopped (R386). -/
def serveRsp (pk : Packet) (port : Nat) (s s1 : State) : Served :=
  match (answersReq s pk).bind fun r => if r.kind < 4 then parkForGroup s1 r.lgn 4 (.fabric port pk) else none with
  | some s2 => .done s2
  | none => .done (wakeAll (fabDeliver s1 pk))

def execLdrsp (port : Nat) (pk : Packet) (s : State) : Out := arrive "LDRSP" 4 port pk [] s (serveRsp pk port)
def execAtrsp (port : Nat) (pk : Packet) (s : State) : Out := arrive "ATRSP" 5 port pk [] s (serveRsp pk port)
def execStack (port : Nat) (pk : Packet) (s : State) : Out := arrive "STACK" 6 port pk [] s (serveRsp pk port)
def execFenack (port : Nat) (pk : Packet) (s : State) : Out := arrive "FENACK" 8 port pk [] s (serveRsp pk port)

/-! ### Collectives (R356); CDATA and CCTL are acknowledged by STACK (notes/assumptions/7) -/

/-- The collective in progress that a packet belongs to. -/
def pkColl (s : State) (pk : Packet) : Option Coll := s.fab.colls.find? fun c => collTag c == pk.flag && c.devs.contains pk.src

/-- One element of a participant's data. -/
def serveCdata (pk : Packet) (s s1 : State) : Served :=
  match pkColl s pk with
  | none => .wait
  | some c =>
    let rank := c.devs.findIdx (· == pk.src)
    let s2 := updColl s1 c.slot c.n fun c => { c with got := c.got ++ [(rank, pk.addr, BitVec.ofNat 64 (leNat pk.raw))] }
    .done (respond s2 (rspTo s pk 6 0 0xFFFFFF))
def execCdata (port : Nat) (pk : Packet) (s : State) : Out := arrive "CDATA" 9 port pk [] s (serveCdata pk)

/-- A participant's first packet, or the news that it has failed (X = 1). -/
def serveCctl (pk : Packet) (s s1 : State) : Served :=
  match pkColl s pk with
  | none => if pk.x = 1 then .done (respond s1 (rspTo s pk 6 0 0xFFFFFF)) else .wait
  | some c =>
    let s2 := respond s1 (rspTo s pk 6 0 0xFFFFFF)
    let rank := c.devs.findIdx (· == pk.src)
    if pk.x = 1 then .done (wakeAll (failColl s2 c false 3))
    else if pk.raw = collParams c then
      .done (wakeAll (updColl s2 c.slot c.n fun c => { c with agreed := if c.agreed.contains rank then c.agreed else rank :: c.agreed }))
    else .done (wakeAll (failColl s2 c true 3))
def execCctl (port : Nat) (pk : Packet) (s : State) : Out := arrive "CCTL" 0xA port pk [] s (serveCctl pk)

/-- DSTB is written; claims and holds go. -/
def execCollectiveComplete (slot n : Nat) (s : State) : Out :=
  match findColl s slot n with
  | none => notEnabled "COLLECTIVE_COMPLETE"
  | some c =>
    let esz := c.ty.width / 8
    let rank := collRank s c
    let ws := (c.dpas.flatMap fun pa => wordsOf pa esz).dedup
    if !collReady s c then notEnabled "COLLECTIVE_COMPLETE"
    else match engineTurn s ws with
    | .wait => notEnabled "COLLECTIVE_COMPLETE"
    | .clear ls => .next (askFor s ws ls)
    | .go =>
      let s1 := bringAll s ws
      let a := agentRemote s.fab.devno
      let s2 := foldS s1 (List.range c.dpas.length) fun s j =>
        homeWrite s a 896 (c.dpas.getD j 0) (leBytes esz ((collValue c rank j).getD 0)) 2 0 0
      let s3 := foldS s2 ((ws.map (· / 32)).dedup) fun s l => watch s 2 3 a c.slot l (wmaskOf (ws.filter fun w => w / 32 == l)) 0 none
      .next (wakeAll (endColl s3 c 2))

/-! ### Log frames and checkpoint data (R382, R402) -/

/-- The partition of a twin that a log frame belongs to. -/
def twinPart (s : State) (pk : Packet) : Option Nat :=
  (List.range 8).find? fun p => let r := rpart s p; r.mode == 3 && r.twin == pk.src && r.id == pk.flag

/-- The bytes of the twin's next frame, once they are all there. -/
def nextFrame (r : RPart) : Option (List Byte) :=
  let mine := r.inbox.filter fun x => x.1 / 4096 == r.streamed
  if (mine.map fun x => x.2.length).sum < 4096 then none
  else some ((List.range 26).flatMap fun k => ((mine.find? fun x => x.1 % 4096 == 160 * k).map (·.2)).getD [])

/-- A piece of a log frame arrives at the twin; a whole frame joins the log it replays. A halted twin says so (notes/assumptions/7). -/
def serveLog (pk : Packet) (s s1 : State) : Served :=
  match twinPart s pk with
  | none => .done s1
  | some p =>
    let r := rpart s1 p
    if r.halted then .done (respond s1 (rspTo s pk 6 Cause.sigmis.code 0xFFFFFF))
    else
      let r1 := { r with inbox := r.inbox ++ [(pk.addr, pk.raw)] }
      let s2 := match nextFrame r1 with
        | none => setRpart s1 p r1
        | some f =>
          let r2 := { r1 with streamed := r.streamed + 1, inbox := r1.inbox.filter fun x => decide (x.1 / 4096 > r.streamed) }
          match parseFrame f with
          | some rows => setRpart s1 p (addLog r2 rows)
          | none => haltPart (setRpart s1 p r2) p 4 0 0 0 []
      .done (wakeAll (respond s2 (rspTo s pk 6 0 0xFFFFFF)))
def execLogfrm (port : Nat) (pk : Packet) (s : State) : Out := arrive "LOGFRM" 0xB port pk [] s (serveLog pk)

/-- A write of the checkpoint path: it sets no mark (R398). -/
def ckWrite (s : State) (pa : Nat) (bs : List Byte) : State := engineWrite s pa bs

/-- Shard data for a pool target that lies in this device's memory: bytes at ADDR; they set no mark (R398, R402). -/
def serveCkpt (port : Nat) (pk : Packet) (s s1 : State) : Served :=
  let ws := wordsOf pk.addr pk.raw.length
  if !(ws.all (winOk s false true)) then .done (respond s1 (rspTo s pk 6 Cause.prot.code 0xFFFFFF))
  else .done (wakeAll (respond (watchHub (engineStore s1 pk.addr pk.raw) 2 1 (agentRemote pk.src) port ws) (rspTo s pk 6 0 0xFFFFFF)))
def execCkpt (port : Nat) (pk : Packet) (s : State) : Out := arrive "CKPT" 0xC port pk [] s (serveCkpt port pk)

/-! ### Links (R342, R343) -/

/-- Flits up to LACK are acknowledged. -/
def ackFlits (p : Port) (lack : Nat) : Port :=
  match p.retry.findIdx? fun f => f.seq == lack with
  | some k => { p with lack, retry := p.retry.drop (k + 1), resends := 0 }
  | none => { p with lack }

def execIdleFlit (port lack : Nat) (stop : BitVec 4) (s : State) : Out :=
  when "IDLE_FLIT" (decide (port < 24) && portLive s.fab port && decide (lack < 4096))
    (setPort s port { ackFlits (s.fab.portD port) lack with stopIn := stop })

/-- Packets are given to the ports that remain; those without a route are left to the end-to-end rules (R346). -/
def reroute (s : State) (pks : List Packet) : State :=
  foldS s pks fun s pk => match fabPort s.fab pk.dst with | some q => enqueue s pk q 25 | none => s

/-- A port is declared failed: its unacknowledged packets, and the requests sent on it that have no response, are sent again. -/
def failPort (s : State) (port : Nat) : State :=
  let p := s.fab.portD port
  let s1 := foldS s p.outq fun s q => bufOut s q.inp q.pk
  let s2 := setPort s1 port { p with failed := true, up := false, retry := [], outq := [], rq := [], nak := none, rbuf := [0, 0, 0, 0] }
  let mine := s.fab.outstanding.filter fun r => r.port == port
  let pks := (p.retry.map (·.pk) ++ p.outq.map (·.pk) ++ mine.flatMap (·.pk)).reverse.dedup.reverse
  let s3 := reroute s2 pks
  let s4 : State := { s3 with fab := { s3.fab with outstanding := s3.fab.outstanding.map fun r =>
    if r.port = port then { r with port := (fabPort s3.fab r.dst).getD port } else r } }
  wakeAll (failCut s4)

/-- Flits are sent again; after 16 times without progress the port has failed. -/
def resendFlits (s : State) (port : Nat) : State :=
  let p := s.fab.portD port
  if p.resends ≥ 16 then failPort s port else setPort s port { p with resends := p.resends + 1 }

/-- The other side names the flit it expects: what stands before it has been accepted. -/
def execResendRequest (port seq : Nat) (s : State) : Out :=
  when "RESEND_REQUEST" (decide (port < 24) && portLive s.fab port && decide (seq < 4096))
    (resendFlits (setPort s port (ackFlits (s.fab.portD port) ((seq + 4095) % 4096))) port)

/-- A flit that is out of order, fails its CRC or breaks R339 is discarded, and a request to resend is due that names the flit expected. -/
def execBadFlit (port : Nat) (s : State) : Out :=
  let p := s.fab.portD port
  when "BAD_FLIT" (decide (port < 24) && portLive s.fab port) (setPort s port { p with nak := some p.expect })

def execRetryTimeout (port : Nat) (s : State) : Out :=
  when "RETRY_TIMEOUT" (decide (port < 24) && portLive s.fab port && (s.fab.portD port).retry != []) (resendFlits s port)

/-- The round trip has been measured: the port comes up, unless M exceeds 48. -/
def execLinkTraining (port m : Nat) (s : State) : Out :=
  let p := s.fab.portD port
  when "LINK_TRAINING" (decide (port < 24) && s.fab.en && !p.up && !p.failed)
    (if m > 48 then s else setPort s port { p with up := true, m, lseq := 0, expect := 0, nak := none, lack := 4095, retry := [], resends := 0, stopIn := 0, stopOut := 0 })

/-! ### Arbitration (R344) -/

/-- The head packets of a port: for each input and VC the first that waits, with its place in the queue. -/
def headPkts (p : Port) : List (Nat × QPkt) :=
  ((List.range p.outq.length).filterMap fun k => (p.outq[k]?).map fun q => (k, q)).filter fun x =>
    !((p.outq.take x.1).any fun y => y.inp == x.2.inp && vcOf y.pk.kind == vcOf x.2.pk.kind)

/-- Those whose downstream STOP is clear. -/
def eligible (p : Port) : List (Nat × QPkt) := (headPkts p).filter fun x => !p.stopIn.getLsbD (vcOf x.2.pk.kind)

/-- The packet promoted first. -/
def promoted (l : List (Nat × QPkt)) : Option (Nat × QPkt) :=
  l.foldl (fun (m : Option (Nat × QPkt)) x => match x.2.promo, m with
    | some a, some y => if (y.2.promo.getD 0) ≤ a then m else some x
    | some _, none => some x
    | none, _ => m) none

/-- The VC whose turn it is, and the packets sent in it so far. -/
def turnVc (f : Fab) (p : Port) (l : List (Nat × QPkt)) : Option (Nat × Nat) :=
  let has := fun (v : Nat) => l.any fun x => vcOf x.2.pk.kind == v
  if has p.pass && decide (p.sentTurn < f.vcw.getD p.pass 1) then some (p.pass, p.sentTurn)
  else (((List.range 4).map fun k => (p.pass + 1 + k) % 4).find? has).map fun v => (v, 0)

/-- Within a VC the inputs come round-robin, after the one served last. -/
def nextInput (p : Port) (v : Nat) (l : List (Nat × QPkt)) : Option (Nat × QPkt) :=
  let mine := l.filter fun x => vcOf x.2.pk.kind == v
  ((List.range 26).map fun k => (p.rr.getD v 0 + 1 + k) % 26).findSome? fun i => mine.find? fun x => x.2.inp == i

/-- The decision: the packet, whether it used the VC's turn, the VC and the count of its turn. -/
def decideGrant (f : Fab) (p : Port) : Option ((Nat × QPkt) × Port) :=
  let l := eligible p
  match promoted l with
  | some x => some (x, p)
  | none =>
    match turnVc f p l with
    | none => none
    | some (v, n) => (nextInput p v l).map fun x => (x, { p with pass := v, sentTurn := n + 1, rr := p.rr.set v x.2.inp })

/-- The losers age, and are promoted in the order in which they reach AGE. -/
def ageLosers (f : Fab) (p : Port) (won : Nat) : Port :=
  (eligible p).foldl (fun (p : Port) x =>
    if x.1 = won then p
    else
      let n := x.2.age + 1
      let now := decide (n ≥ f.age) && x.2.promo.isNone
      { p with
        outq := p.outq.modify x.1 fun q => { q with age := n, promo := if now then some p.promoNext else q.promo }
        promoNext := if now then p.promoNext + 1 else p.promoNext }) p

def execArbitrationDecision (port : Nat) (s : State) : Out :=
  let p := s.fab.portD port
  match decideGrant s.fab p with
  | none => notEnabled "ARBITRATION_DECISION"
  | some (x, p1) =>
    if port ≥ 24 ∨ portLive s.fab port = false ∨ p.retry.length + x.2.flits > 1024 then notEnabled "ARBITRATION_DECISION"
    else
      let p2 := ageLosers s.fab p1 x.1
      let flits := (List.range x.2.flits).map fun k => RFlit.mk ((p.lseq + k) % 4096) x.2.pk
      let s1 := setPort s port { p2 with outq := p2.outq.eraseIdx x.1, lseq := (p.lseq + x.2.flits) % 4096, retry := p2.retry ++ flits }
      .next (bufOut s1 x.2.inp x.2.pk)

/-! ### FTO_TIMEOUT (R346) -/

/-- A group's request ends without a response: its lanes meet FABRIC, late. -/
def fabLost (s : State) (r : FReq) : State := fabLate (fabGive (dropFab s r.id) r [] true) r .fabric r.accs 0xFFFFFF

/-- A request completes with FABRIC, which is parked while its cluster is stopped (R395). After a port's failure its gang follows R33 (R34). -/
def fabFail (s : State) (r : FReq) : State :=
  let s1 := errLog s 7 Cause.fabric.code (if r.kind < 4 then r.lgn else 0xFFFFFF) 0 0
  let lost := lostByPart s r.dst
  match r.kind with
  | 0 | 1 | 2 | 3 =>
    match s1.group? r.lgn with
    | some gr => if lost then killGang (fabGive (dropFab s1 r.id) r [] true) gr.block.gang 0x80
                 else (parkForGroup s1 r.lgn 4 (.lost r.id)).getD (fabLost s1 r)
    | none => dropFab s1 r.id
  | 5 => (match keyColl s1 r.lgn with | some c => failColl (dropFab s1 r.id) c true (if lost then 4 else 3) | none => dropFab s1 r.id)
  | 6 => loseTwin (dropFab s1 r.id) (r.lgn - 2 ^ 23)
  | _ => dropFab s1 r.id

/-- The response of a request stands parked, whole, or its end does: FTO no longer runs (R393). -/
def rspParked (s : State) (r : FReq) : Bool :=
  match s.group? r.lgn with
  | none => false
  | some gr =>
    let l := parkedAt s (lcluOf s gr.block.gang)
    let mine := l.filterMap fun p => match p.ev with
      | .fabric _ pk => if pk.src == r.dst && pk.tag == r.tag && pk.kind == answerKind r.kind then some pk else none
      | _ => none
    (l.any fun p => decide (p.ev = .lost r.id)) || mine.any fun pk => decide (pk.npart ≤ mine.length + r.parts.length)

/-- No response has come within FTO: once more, or the end. -/
def execFtoTimeout (r : Nat) (s : State) : Out :=
  match s.fab.outstanding.find? fun x => x.id == r with
  | none => notEnabled "FTO_TIMEOUT"
  | some x =>
    if rspParked s x then notEnabled "FTO_TIMEOUT"
    else match fabPort s.fab x.dst with
    | some q =>
      if x.resent then .next (wakeAll (fabFail s x))
      else
        let s1 := foldS s x.pk fun s pk => enqueue s pk q 25
        .next { s1 with fab := { s1.fab with outstanding := s1.fab.outstanding.map fun y => if y.id = r then { y with resent := true, port := q } else y } }
    | none => .next (wakeAll (fabFail s x))

end Sys2Proof.Machine
end

