-- ==== Sys2Proof/Machine/ImageBytes.lean ====
section
/-! DEFINITION. The bytes of the sections of a cluster's image (R390). Sections whose inner layout the spec does not give are free bytes
(notes/assumptions/35). -/
namespace Sys2Proof.Machine
open Sys2Proof

/-! ### The sections of a cluster's image (R390) -/

/-- The groups that stand in the cluster, by group slot. -/
def imageGroup (s : State) (im : Image) (k : Nat) : Option Group :=
  match im.groups[k]? with
  | none => none
  | some g => match s.group? g.1 with
    | some gr => (match gr.status with | .swapped | .retired => none | _ => some gr)
    | none => none

/-- A byte that the spec leaves open. -/
def freeSection (im : Image) (id k : Nat) : Byte := Config.imageByte im.stopIx id k

/-- VRF: partition, allocation unit, register of the unit, byte. -/
def vrfByte (s : State) (im : Image) (k : Nat) : Byte :=
  let p := k / 262144
  let r := k % 262144
  let u := r / 3072
  let grs := (List.range im.groups.length).filterMap (imageGroup s im)
  match grs.find? fun gr => gr.part % 32 == p && decide (Config.firstUnit gr.lgn ≤ u ∧ u < Config.firstUnit gr.lgn + gr.vregs / 8) with
  | some gr => vregByte gr (8 * (u - Config.firstUnit gr.lgn) + r % 3072 / 384) (r % 384)
  | none => freeSection im 1 k

/-- ACC: array, accumulator, element. -/
def accByte (s : State) (im : Image) (k : Nat) : Byte :=
  let a := ((s.mxD im.lclu).arrD (k / 262144)).mcD (k / 32768 % 8)
  let r := k % 32768
  if a.wide then nthByte (a.els.get (r / 8) 0).toNat (r % 8) else nthByte (a.els.get (r / 4) 0).toNat (r % 4)

/-- A byte of an A register, or of a latch that holds it. -/
def maByte (a : MaReg) (k : Nat) : Byte := nthByte (a.words.get (k / 4) 0).toNat (k % 4)

/-- AREG: for each array its A registers, its A scales, and its latch. -/
def aregByte (s : State) (im : Image) (k : Nat) : Byte :=
  let a := (s.mxD im.lclu).arrD (k / 38912)
  let r := k % 38912
  if r < 32768 then maByte (a.maD (r / 4096)) (r % 4096)
  else if r < 34816 then (a.maD ((r - 32768) / 256)).scales.get ((r - 32768) % 256) 0x7F
  else match a.latch with
    | some n => maByte (a.maD n) (r - 34816)
    | none => freeSection im 4 k

/-- GRP: a slot holds its group's bytes, then the group's first unit in VRF. -/
def grpByte (s : State) (im : Image) (k : Nat) : Byte :=
  let r := k % 1600
  match imageGroup s im (k / 1600) with
  | some gr => (groupHead gr ++ leBytes 2 0 ++ leBytes 4 (Config.firstUnit gr.lgn)).getD r 0
  | none => if 0x62C ≤ r ∧ r < 0x630 then 0xFF else 0

/-- SPAD: CU `k` at k × 768 KiB, where the scratchpads of its blocks begin at a place that the spec leaves open. -/
def spadSection (s : State) (im : Image) (k : Nat) : Byte :=
  let cu := k / 786432
  let r := k % 786432
  let here := s.blocks.filter fun b => im.gangs.contains b.1.gang && b.2.cu % 8 == cu && !b.2.retired && !b.2.swapped
  match here.find? fun b => decide (spadAt b.2 ≤ r ∧ r < spadAt b.2 + b.2.spad) with
  | some b => spadByte s b.2 (fun off => freeSection im 2 (k - r + spadAt b.2 + off)) (r - spadAt b.2)
  | none => freeSection im 2 k

/-- Byte `k` of section `id`. -/
def sectionByte (s : State) (im : Image) (id k : Nat) : Byte :=
  match id with
  | 1 => vrfByte s im k
  | 2 => spadSection s im k
  | 3 => accByte s im k
  | 4 => aregByte s im k
  | 5 => grpByte s im k
  | _ => freeSection im id k

/-- CRC-32C of a section. -/
def sectionCrc (s : State) (im : Image) (id : Nat) : Nat :=
  (crc32c ((List.range (sectionLen im.parkCount id)).map (sectionByte s im id))).toNat

/-- An entry of the section table. -/
def sectionEntry (s : State) (im : Image) (id : Nat) : List Byte :=
  leBytes 4 id ++ leBytes 4 0 ++ leBytes 8 (sectionOfs id) ++ leBytes 8 (sectionLen im.parkCount id) ++ leBytes 4 (sectionCrc s im id) ++ leBytes 4 0

/-- The section table. -/
def sectionTable (s : State) (im : Image) : List Byte := (List.range 13).flatMap fun i => sectionEntry s im (i + 1)

/-- Bytes of an image, header included: the sections, each on a 4 KiB boundary. -/
def imageLen (parked : Nat) : Nat := sectionOfs 13 + (144 * parked + 4095) / 4096 * 4096

/-- The section that byte `k` of an image belongs to. -/
def sectionAt (parked k : Nat) : Option Nat :=
  ((List.range 13).map (· + 1)).find? fun id => decide (sectionOfs id ≤ k ∧ k < sectionOfs id + sectionLen parked id)

end Sys2Proof.Machine
end

