-- ==== Sys2Proof/Machine/FreezeEvents.lean ====
section
/-! DEFINITION. Freezing and restoring a cluster (R384 to R397). The context stays where it is in the state, under its logical numbers;
an image holds what its header says, and whether it is staged and stored; a stored image's bytes lie in its slot. -/
namespace Sys2Proof.Machine
open Sys2Proof

/-! ### Commands (R384) -/

/-- An image has its slot: one whose scan-out still waits for a declared one has none (R384). -/
def hasSlot (s : State) (im : Image) : Bool := im.staged || !(cluD s im.srcClu).noSlot

/-- The base names a declared slot that no image, and no other cluster's stop, occupies. -/
def slotFreeFor (s : State) (c base : Nat) : Bool :=
  s.frz.slots.contains base && !(s.frz.images.any fun im => im.base == base && hasSlot s im)
    && !(s.frz.restoring.any fun r => r.2.base == base)
    && !(s.frz.clus.any fun x => x.1 != c && x.2.imgbase == base && !x.2.noSlot && (match x.2.state with | .stopping | .scanning => true | _ => false))

/-- A refused command changes nothing but REASON. -/
def fzRefuse (s : State) (c reason : Nat) : State := setClu s c { cluD s c with reason }

/-- FREEZE. -/
def fzFreeze (s : State) (c src base : Nat) : State :=
  let x := cluD s c
  match x.state with
  | .stopping | .scanning => s
  | .running => if slotFreeFor s c base then setClu s c { x with imgbase := base, src, imgSrc := src, op := 1, state := .stopping } else fzRefuse s c 6
  | _ => fzRefuse s c 1

/-- A cluster of a die in service. -/
def cluAlive (s : State) (c : Nat) : Bool := decide (c < 112) && !s.disp.deadDies.contains (dieOfClu c)

def execFreeze (c src base : Nat) (s : State) : Out :=
  when "FREEZE" (cluAlive s c && decide (src < 4) && base % 4096 == 0) (fzFreeze s c src base)

/-- FREEZE to every running cluster, each into its own IMGBASE. -/
def execFzdevWrite (v : Word) (s : State) : Out :=
  if v.getLsbD 0 then
    .next (foldS s ((List.range 112).filter fun c => decide ((cluD s c).state = .running)) fun s c => fzFreeze s c (cluD s c).src (cluD s c).imgbase)
  else .next s

/-- A free slot for a scan-out that waits; otherwise OP 0 only writes IMGBASE. OP reads as the last command (R384). -/
def execFzctlSlotWrite (c base : Nat) (s : State) : Out :=
  let x := cluD s c
  let ok := x.noSlot && slotFreeFor s c base
  let s1 := setClu s c { x with imgbase := base, noSlot := x.noSlot && !ok }
  when "FZCTL_SLOT_WRITE" (cluAlive s c && base % 4096 == 0)
    (if ok then { s1 with frz := { s1.frz with images := s1.frz.images.map fun im => if im.srcClu = c ∧ im.staged = false then { im with base } else im } } else s1)

/-! ### The stop (R385, R386) -/

/-- The gangs and groups of a logical cluster. -/
def gangsOfLclu (s : State) (l : Nat) : List GId := (s.gangs.filter fun g => g.2.lclu == l).map (·.1)
def groupsOfLclu (s : State) (l : Nat) : List (Nat × GId) :=
  (s.groups.filter fun g => lcluOf s g.2.block.gang == l).map fun g => (g.1, g.2.block.gang)

/-- Under which number the data of an MLDB is owed: its slot's. -/
def mldbId (bs : Nat) : Nat := 2 ^ 40 + bs

/-- The requests that a context has sent and that have no response, with their VCs. Evaluations, MDONE records and L1 write-backs are
answered in the step that sends them. -/
def owedBy (s : State) (l : Nat) : List (Nat × Nat) :=
  let ours := fun (a : Nat) => ((groupsOfLclu s l).any fun g => g.1 == a) || a == agentOfCore l
  (s.m.reqs.filter fun q => ours q.agent && meshSent s q).map (fun q => (q.id, reqVc q.kind))
    ++ (((s.mxD l).jobs.filter (·.mem)).map fun j => (mldbId j.bs, 0))
    ++ (s.m.resv.filter fun r => ours r.agent && !r.granted && !r.queued).map fun r => (r.id, 3)

/-- Counts by VC. -/
def byVc (l : List (Nat × Nat)) : List Nat := (List.range 4).map fun v => (l.filter fun x => x.2 == v).length

/-- The partitions that record a context. -/
def contextParts (s : State) (l : Nat) : List Nat := ((gangsOfLclu s l).filterMap fun g => recording s g.slot).dedup

/-- DELIVERY kind 4 in each of them. -/
def stopRec (s : State) (l : Nat) : State :=
  foldS s (contextParts s l) fun s p =>
    let e := eventChunk s ((groupsOfLclu s l).flatMap fun g => s.damask.lastChunk.get g.1 []) 0
    emit e.2 p ⟨1, l⟩ (rowBytes 4 4 0 0 (agentOfCore l) 0 0 0) (some e.1)

/-- A gang that is being killed has no place in an image (R407). -/
def imageGangs (s : State) (l : Nat) : List GId := (gangsOfLclu s l).filter fun g => (s.gang? g).any fun x => x.killed.isNone

/-- The clock stops: nothing of the context moves any more. -/
def execClockStop (c : Nat) (s : State) : Out :=
  let x := cluD s c
  match x.lclu with
  | none => notEnabled "CLOCK_STOP"
  | some l =>
    let ok := slotFreeFor s c x.imgbase
    let t := readTime (stopRec s l)
    let ix := freshFree t.2
    let owed := owedBy s l
    let im : Image := { base := x.imgbase, lclu := l, rev := Config.revid, srcClu := c, src := x.imgSrc, time := t.1.toNat,
                        gangs := imageGangs s l, groups := (groupsOfLclu s l).filter fun g => (imageGangs s l).contains g.2, stopIx := ix.1, outreq := byVc owed, owed }
    let here : Bool := match s.cur with
      | some (.grp g) => (groupsOfLclu s l).any fun y => y.1 == g
      | some (.core k) => k == l
      | none => false
    let m := ix.2.mxD l
    let s0 := if m.owner.isSome then ix.2.setMx l { m with stamp := { m.stamp with stopped := true } } else ix.2
    let s1 := setClu s0 c { x with state := .scanning, stopped := true, drained := false, stg := false, sto := false, lcluField := l, park := [],
                                     noSlot := !ok, reason := if ok then x.reason else 6 }
    when "CLOCK_STOP" (decide (x.state = .stopping) && !x.stopped)
      { s1 with cur := if here then none else s1.cur, frz := { s1.frz with images := s1.frz.images ++ [im] } }

/-! ### Scan-out (R387, R388) -/

/-- The image that a cluster is being scanned into. -/
def scanImage (s : State) (c : Nat) : Option Image := s.frz.images.find? fun im => im.srcClu == c && decide ((cluD s c).lclu = some im.lclu)
def updImage (s : State) (im : Image) : State :=
  { s with frz := { s.frz with images := s.frz.images.map fun x => if x.lclu = im.lclu then im else x } }

/-! ### The header (R389) -/

/-- Bits of a list, as little-endian bytes. -/
def flagBytes (l : List Bool) (n : Nat) : List Byte := leBytes n ((List.range l.length).foldl (fun m k => m + (if l.getD k false then 2 ^ k else 0)) 0)

def imageHeader (s : State) (im : Image) : List Byte :=
  let gs := im.groups.filterMap fun g => s.group? g.1
  let halt := gs.any fun g => g.valids.any fun e => decide ((g.ent e).st = .halted)
  let flags := b2n halt + 2 * b2n (s.mxD im.lclu).owner.isSome + 4 * b2n (im.gangs.any fun g => (recording s g.slot).isSome) + 16 * im.src
  let fabn := (s.fab.outstanding.filter fun r => im.groups.any fun g => g.1 == r.lgn).length
  let fpark := ((im.park.take im.parkCount).filter fun p => match p.ev with | .fabric _ _ => true | _ => false).length
  let kill := im.groups.map fun g => im.kill.contains g.2
  let h := leBytes 4 0x47465A49 ++ leBytes 2 1 ++ leBytes 2 im.lclu ++ leBytes 4 im.rev ++ leBytes 4 flags ++ leBytes 16 Config.smdig
    ++ leBytes 8 im.time ++ leBytes 8 (Config.stopCycles im.stopIx).toNat ++ leBytes 8 (imageLen im.parkCount) ++ leBytes 4 13 ++ leBytes 4 0x100
    ++ ((im.outreq ++ List.replicate 12 0).flatMap fun n => leBytes 4 n) ++ (im.parkn.flatMap fun n => leBytes 4 n)
    ++ leBytes 4 fabn ++ leBytes 4 fpark ++ leBytes 4 im.kill.length ++ leBytes 4 0 ++ flagBytes kill 64 ++ leBytes 28 0
  h ++ leBytes 4 (crc32c h).toNat

/-- Byte `k` of an image (R389, R390): header, section table, sections; what lies between them is zero. -/
def imageAt (s : State) (im : Image) (k : Nat) : Byte :=
  if k < 256 then (imageHeader s im).getD k 0
  else if k < 4096 then (sectionTable s im).getD (k - 256) 0
  else match sectionAt im.parkCount k with
    | some id => sectionByte s im id (k - sectionOfs id)
    | none => 0

/-- The bytes of an image. -/
def clusterImage (s : State) (im : Image) : List Byte := (List.range (imageLen im.parkCount)).map (imageAt s im)

/-- The last byte of an image reaches its slot. -/
def storeImage (s : State) (im : Image) : State :=
  let last := ((s.frz.images.filter fun x => x.srcClu == im.srcClu).getLast?).any fun x => x.lclu == im.lclu
  let s1 := engineWrite (updImage s { im with stored := true }) im.base (clusterImage s im)
  if last then setClu s1 im.srcClu { cluD s1 im.srcClu with sto := true } else s1

/-! ### Staging (R387) -/

/-- A request that an image owes has its response: it is parked, or the request is over. -/
def owedAnswered (s : State) (park : List Parked) (id : Nat) : Bool :=
  (park.any fun p => match p.ev with | .load r | .done r | .late r | .resv r _ => r == id | .mldb _ bs => mldbId bs == id | _ => false)
    || (decide (id < mldbId 0) && (findReq s id).isNone && (findResv s id).all fun r => r.granted || r.queued)

/-- Staged and drained, the cluster is free for another context. A cluster that drains on after its context was restored elsewhere or
its image discarded is free once it is drained. -/
def reuseClu (s : State) (c : Nat) : State :=
  let x := cluD s c
  match scanImage s c with
  | none => if x.lclu.isNone && x.state = .scanning && x.drained then setClu s c { x with state := .idle, stopped := false, drained := false } else s
  | some im =>
    if !im.staged || !x.drained then s
    else
      let mine := im.gangs
      let s1 := updImage s { im with park := x.park }
      let s2 := setClu s1 c { x with state := .idle, stg := true, stopped := false, drained := false, lclu := none, park := [] }
      { s2 with groups := s2.groups.map fun g =>
          if mine.contains g.2.block.gang ∧ g.2.status = .resident then (g.1, { g.2 with status := .frozen }) else g }

/-- Every section is in the staging partition, or in the slot. -/
def execImageStaged (c : Nat) (s : State) : Out :=
  let x := cluD s c
  match scanImage s c with
  | none => notEnabled "IMAGE_STAGED"
  | some im =>
    let n := byVc (im.owed.filter fun o => owedAnswered s x.park o.1)
    let im1 := { im with staged := true, parkn := n, park := x.park, parkCount := x.park.length }
    let s1 := updImage s im1
    -- the staging partition holds three images: another goes to its slot directly
    let full := decide ((s.frz.images.filter fun y => y.staged && !y.stored).length ≥ 3)
    when "IMAGE_STAGED" (decide (x.state = .scanning) && x.stopped && !x.noSlot && !im.staged)
      (reuseClu (if full then storeImage s1 im1 else s1) c)

/-- The L1s of a cluster write their dirty words back and are emptied; its translations go. -/
def emptyCaches (s : State) (c : Nat) : State :=
  let ours := fun (cu : Nat) => cluOfCu cu == c
  let s1 := invalidateAll (writeBackAll s ours) ours
  { s1 with m := { s1.m with tlb := s1.m.tlb.filter fun p => !ours p.1, ttlb := s1.m.ttlb.filter fun p => p.1 != c } }

def execL1Drain (c : Nat) (s : State) : Out :=
  let x := cluD s c
  let s2 := emptyCaches s c
  when "L1_DRAIN" (decide (x.state = .scanning) && x.stopped && !x.drained) (wakeAll (settleOver (reuseClu (setClu s2 c { x with drained := true }) c)))

/-- The image's last byte reaches its slot. -/
def execImageStored (c : Nat) (s : State) : Out :=
  match s.frz.images.find? fun im => im.srcClu == c && im.staged && !im.stored with
  | none => notEnabled "IMAGE_STORED"
  | some im => .next (storeImage s im)

/-! ### Restore (R391 to R394) -/

/-- A section of the image in a slot whose CRC does not match its table entry (R390, R391). -/
def sectionBad (s : State) (base id : Nat) : Bool :=
  let ent := s.mem.getN (base + 256 + 32 * (id - 1)) 32
  fieldOf ent 24 4 != (crc32c (s.mem.getN (base + fieldOf ent 8 8) (fieldOf ent 16 8))).toNat

/-- Why a cluster refuses an image by its header and sections: 4 FORMAT, 2 REV, 3 SCANMAP, 5 INUSE. -/
def headerRefused (s : State) (h : List Byte) (bad : Bool) : Option Nat :=
  if fieldOf h 0 4 ≠ 0x47465A49 ∨ fieldOf h 4 2 ≠ 1 ∨ fieldOf h 0xFC 4 ≠ (crc32c (h.take 0xFC)).toNat ∨ bad = true then some 4
  else if fieldOf h 8 4 ≠ Config.revid % 2 ^ 32 then some 2
  else if h.drop 0x10 |>.take 16 |> (· ≠ leBytes 16 Config.smdig) then some 3
  else if s.frz.clus.any fun x => x.2.lclu == some (fieldOf h 6 2) && decide (x.2.state = .running ∨ x.2.state = .restoring) then some 5
  else none

/-- The bytes in a slot judged so. -/
def slotRefused (s : State) (base : Nat) : Option Nat :=
  headerRefused s (s.mem.getN base 256) (((List.range 13).map (· + 1)).any fun id => sectionBad s base id)

/-- An image judged so: by the bytes in its slot once it is stored. -/
def imageRefused (s : State) (im : Image) : Option Nat :=
  if im.stored then slotRefused s im.base else headerRefused s (imageHeader s im) false

/-- A cluster that is scanned loses its context, restored elsewhere or discarded; its L1 drain goes on. -/
def leaveScan (s : State) (c : Nat) (staged : Bool) : State :=
  let x := cluD s c
  reuseClu (setClu s c { x with lclu := none, park := [], noSlot := false, stg := staged }) c

/-- The context names another cluster: its groups, blocks and copies. -/
def moveContext (s : State) (im : Image) (c : Nat) : State :=
  { s with
    groups := s.groups.map fun g => if im.gangs.contains g.2.block.gang then (g.1, { g.2 with part := c * 32 + g.2.part % 32 }) else g
    blocks := s.blocks.map fun b => if im.gangs.contains b.1.gang then (b.1, { b.2 with cu := c * 8 + b.2.cu % 8 }) else b
    insts := s.insts.map fun i => if im.gangs.contains ⟨i.slot, i.kid⟩ ∧ i.clu = im.srcClu then { i with clu := c } else i }

/-- RESTORE: checks, then the sections, the maps and the parked entries; the clock is still stopped, and L1s and TLBs are empty (R386). Bytes in
a declared slot that are no waiting image are judged by what they say, and refused with FORMAT at the last (notes/assumptions/53). -/
def fzRestore (s : State) (c base : Nat) : State :=
  let x := cluD s c
  if x.state ≠ .idle then fzRefuse s c 1
  else if !s.frz.slots.contains base then fzRefuse s c 6
  else match s.frz.images.find? fun im => im.base == base && im.staged with
  | none => fzRefuse s c ((slotRefused s base).getD 4)
  | some im =>
    match imageRefused s im with
    | some r => fzRefuse s c r
    | none =>
      let y := cluD s im.srcClu
      let held := y.lclu == some im.lclu
      let s0 := if im.stored then watchHub s 1 3 agentNone 0 (wordsOf base (imageLen im.parkCount)) else s
      let s1 := moveContext (if held then leaveScan s0 im.srcClu true else s0) im c
      let s2 : State := { s1 with frz := { s1.frz with
        images := s1.frz.images.filter fun y => y.lclu != im.lclu, restoring := s1.frz.restoring ++ [(c, im)] } }
      setClu (emptyCaches s2 c) c { x with
        imgbase := base, op := 2, state := .restoring, lclu := some im.lclu, stopped := true, drained := true
        park := if held then y.park else im.park }
def execRestore (c base : Nat) (s : State) : Out := when "RESTORE" (cluAlive s c && base % 4096 == 0) (fzRestore s c base)

/-- A B slot has its bytes, and the MLDB is over. -/
def mldbDone (s : State) (l bs : Nat) : State :=
  let m := s.mxD l
  s.setMx l { m with jobs := m.jobs.eraseP fun j => !j.mma && j.bs == bs, b := m.b.put bs { m.bD bs with loaded := true } }

/-- A parked fragment whose operation stands parked: what is to be done with it. -/
def ofParked (s : State) (g e : Nat) (k : POp → State) : State :=
  match s.group? g with
  | none => s
  | some gr => match (gr.ent e).st, (gr.ent e).park with
    | .parked, .op p => k p
    | _, _ => s

/-- A parked entry reaches the restored cluster. -/
def deliverParked (s : State) (p : Parked) : State :=
  match p.ev with
  | .load r => match findReq s r with | some q => loadedTo s q | none => s
  | .done r => match findReq s r with | some q => answered s q | none => s
  | .late r =>
    match (findReq s r).bind (lateWhole s) with
    | some (s1, q) => match refusedInfo q with | some i => lateTo s1 q i | none => s
    | none => s
  | .resv r ok => match findResv s r with | some x => unparkHolds (resvGroup s x ok) x.lgn x.e | none => s
  | .prg grp c => answerAll s grp c
  | .fabric _ pk => fabDeliver s pk
  | .lost r => match s.fab.outstanding.find? fun x => x.id == r with | some x => fabLost s x | none => s
  | .fault g e l => ofParked s g e fun p => settleRan g e p (.late s l.info)
  | .mldb l bs => mldbDone s l bs
  | .reply g e v0 v1 => ofParked s g e fun p => syscallDone s g e p v0 v1 true
  | .wake g e => ofParked s g e fun p => if p.wakes = 1 then putEnt s g e fun x => { x with park := .op { p with phase := 3 } } else s

/-- The halted partitions whose clusters all run again: firmware has restored them, and their tasks may be reported (R383). -/
def liftHalts (s : State) : State :=
  foldS s (List.range 8) fun s p =>
    let r := rpart s p
    let live := s.gangs.filter fun g => partOfTask s g.1.slot == some p
    if r.halted && live.all fun g => ctxRuns s g.2.lclu then setRpart s p { r with halted := false } else s

/-- Every response that the image still expects is in hand: the clock starts, and the parked entries come in their order. -/
def execRestoreClockStart (c : Nat) (s : State) : Out :=
  match s.frz.restoring.find? fun r => r.1 == c with
  | none => notEnabled "RESTORE_CLOCK_START"
  | some (_, im) =>
    let x := cluD s c
    if im.owed.any fun o => !owedAnswered s x.park o.1 then notEnabled "RESTORE_CLOCK_START"
    else
      let s1 := setClu s c { x with state := .running, stopped := false, drained := false, park := [] }
      let s2 : State := { s1 with
        frz := { s1.frz with restoring := s1.frz.restoring.filter fun r => r.1 != c }
        groups := s1.groups.map fun g => if im.gangs.contains g.2.block.gang ∧ g.2.status = .frozen then (g.1, { g.2 with status := .resident }) else g }
      .next (wakeAll (liftHalts (settleOver (freeCluster (foldS s2 x.park deliverParked) im.lclu))))

/-- DISCARD: the gangs of the image's context are killed, and its slot is free. -/
def fzDiscard (s : State) (c base : Nat) : State :=
  if !s.frz.slots.contains base then fzRefuse s c 6
  else
    let s0 := setClu s c { cluD s c with imgbase := base, op := 3 }
    match s0.frz.images.find? fun im => im.base == base with
    | none => s0
    | some im =>
      let s1 := foldS s0 im.gangs fun s g => killGang s g 0x83
      let s2 : State := { s1 with frz := { s1.frz with images := s1.frz.images.filter fun y => y.lclu != im.lclu } }
      let y := cluD s2 im.srcClu
      if y.lclu = some im.lclu ∧ y.state = .scanning then
        leaveScan s2 im.srcClu false
      else s2
def execDiscard (c base : Nat) (s : State) : Out := when "DISCARD" (cluAlive s c && base % 4096 == 0) (wakeAll (fzDiscard s c base))

end Sys2Proof.Machine
end

