-- ==== Sys2Proof/Machine/Checkpoint.lean ====
section
/-! DEFINITION. Checkpoints: the tensor table, the command block, pool targets and shards, TAKE and LOAD (R398 to R405). A command is
one step. -/
namespace Sys2Proof.Machine
open Sys2Proof

/-- A tensor-table entry (R399). Lists of extents have one number for each of four dimensions. -/
structure Tensor where
  id : Nat
  pa : Nat
  ety : Nat
  rank : Nat
  gext : List Nat
  sorg : List Nat
  sext : List Nat
  zero : Bool
  deriving DecidableEq, Repr

/-- A command block (R400). -/
structure CkCmd where
  op : Nat
  npool : Nat
  ntens : Nat
  step : Nat
  ttab : Nat
  pool : Nat
  result : Nat
  pasid : Nat
  zero : Bool
  deriving DecidableEq, Repr

/-- A pool target (R400): kind, device, base, size. -/
structure Target where
  kind : Nat
  dev : Nat
  base : Nat
  size : Nat
  zero : Bool
  deriving DecidableEq, Repr

/-- A shard found in a pool (R402): its header's fields and its payload. -/
structure Shard where
  kind : Nat
  ety : Nat
  rank : Nat
  tensor : Nat
  step : Nat
  prev : Nat
  gext : List Nat
  sorg : List Nat
  sext : List Nat
  dev : Nat
  payload : List Byte
  deriving DecidableEq, Repr

/-! ### What the tables say -/

def four (bs : List Byte) (ofs : Nat) : List Nat := (List.range 4).map fun k => fieldOf bs (ofs + 4 * k) 4

def readTensor (s : State) (pa : Nat) : Tensor :=
  let b := s.mem.getN pa 96
  { id := fieldOf b 0 8, pa := fieldOf b 8 8, ety := fieldOf b 0x10 1, rank := fieldOf b 0x11 1, gext := four b 0x18, sorg := four b 0x28, sext := four b 0x38,
    zero := allZero ((b.drop 0x12).take 6) && allZero (b.drop 0x48) }

def readCmd (s : State) (pa : Nat) : CkCmd :=
  let b := s.mem.getN pa 64
  { op := fieldOf b 0 1, npool := fieldOf b 1 1, ntens := fieldOf b 4 4, step := fieldOf b 8 8, ttab := fieldOf b 0x10 8, pool := fieldOf b 0x18 8,
    result := fieldOf b 0x20 8, pasid := fieldOf b 0x28 4, zero := fieldOf b 2 2 == 0 && allZero (b.drop 0x2C) }

def readTarget (s : State) (pa : Nat) : Target :=
  let b := s.mem.getN pa 32
  { kind := fieldOf b 0 1, dev := fieldOf b 4 4, base := fieldOf b 8 8, size := fieldOf b 0x10 8, zero := allZero ((b.drop 1).take 3) && allZero (b.drop 0x18) }

/-- Bytes of an element. -/
def etyBytes (c : Nat) : Nat := match WF.tyOfCode c with | some t => t.width / 8 | none => 0

/-- A type that a tile may have (R182). -/
def etyOk (c : Nat) : Bool := match WF.tyOfCode c with | some .e2m1 => false | some _ => true | none => false

/-- Elements of a region of some rank. -/
def regionSize (rank : Nat) (ext : List Nat) : Nat := (ext.take rank).foldl (· * ·) 1

/-- An entry's fields are in range. -/
def Tensor.ok (t : Tensor) : Bool :=
  etyOk t.ety && decide (1 ≤ t.rank) && decide (t.rank ≤ 4) && t.zero && t.pa % 128 == 0
    && (List.range 4).all (fun k => if k < t.rank then decide (1 ≤ t.sext.getD k 0) && decide (t.sorg.getD k 0 + t.sext.getD k 0 ≤ t.gext.getD k 0)
        else t.gext.getD k 0 == 0 && t.sorg.getD k 0 == 0 && t.sext.getD k 0 == 0)
    && isDev (t.pa + regionSize t.rank t.sext * etyBytes t.ety - 1)

def Tensor.bytes (t : Tensor) : Nat := regionSize t.rank t.sext * etyBytes t.ety

/-! ### Pools (R403) -/

/-- Bytes of a target, by offset from its base. What lies in this device's memory is read there. -/
def poolRead (s : State) (t : Target) (ofs n : Nat) : List Byte :=
  if t.kind = 1 ∧ t.dev = s.fab.devno then s.mem.getN (t.base + ofs) n
  else Memory.getN (s.ck.pools.get (t.kind, t.dev, t.base) []) ofs n
def poolWrite (s : State) (t : Target) (ofs : Nat) (bs : List Byte) : State :=
  if t.kind = 1 ∧ t.dev = s.fab.devno then ckWrite s (t.base + ofs) bs
  else
    let m : Memory := s.ck.pools.get (t.kind, t.dev, t.base) []
    { s with ck := { s.ck with pools := s.ck.pools.put (t.kind, t.dev, t.base) (m.putN ofs bs) } }

/-- The key under which shard data waits for its acknowledgements. -/
def ckKey : Nat := 2 ^ 26

/-- Shard data that is written to another device goes there in CKPT packets of 160 bytes (R402; the cut is the model's, notes/assumptions/7). -/
def poolShip (s : State) (t : Target) (ofs : Nat) (bs : List Byte) : State :=
  if t.kind = 1 ∧ t.dev ≠ s.fab.devno then
    let ps := piecesOf 160 (bs.length / 160 + 1) bs
    foldS s (List.range ps.length) fun s k =>
      hubSend s ckKey 8 0 [] { blankPk 0xC 0 t.dev 0 with addr := t.base + ofs + 160 * k, raw := ps.getD k [] }
  else s

/-- A shard, or a directory entry, is written. -/
def poolPut (s : State) (t : Target) (ofs : Nat) (bs : List Byte) : State := poolShip (poolWrite s t ofs bs) t ofs bs

def poolField (s : State) (t : Target) (ofs n : Nat) : Nat := leNat (poolRead s t ofs n)

/-- A target that a command may use: MAGIC, and NEXT on a 4 KiB boundary; one of this device lies in its memory. -/
def targetOk (s : State) (t : Target) : Bool :=
  (t.kind == 1 || t.kind == 2) && t.zero && (t.kind == 2 || t.dev != s.fab.devno || decide (t.base + t.size ≤ devSize))
    && decide (t.dev < 2 ^ 18) && poolField s t 0 4 == 0x4C4F4F50 && poolField s t 8 8 % 4096 == 0

/-- A shard's 128-byte header. -/
def shardHeader (s : State) (t : Tensor) (kind step prev nlines : Nat) (payload : List Byte) : List Byte :=
  let list := fun (l : List Nat) => l.flatMap fun n => leBytes 4 n
  let h := leBytes 4 0x4B435053 ++ leBytes 1 kind ++ leBytes 1 t.ety ++ leBytes 1 t.rank ++ leBytes 1 0 ++ leBytes 8 t.id ++ leBytes 8 step ++ leBytes 8 prev
    ++ list t.gext ++ list t.sorg ++ list t.sext ++ leBytes 8 nlines ++ leBytes 4 s.fab.devno ++ leBytes 4 (crc32c payload).toNat ++ leBytes 28 0
  h ++ leBytes 4 (crc32c h).toNat

/-- The payload's length, by a shard's header. -/
def payloadLen (h : List Byte) : Nat :=
  if fieldOf h 4 1 = 2 then 136 * fieldOf h 0x50 8
  else (regionSize (fieldOf h 6 1) (four h 0x40) * etyBytes (fieldOf h 5 1) + 127) / 128 * 128

/-- The shard of a directory entry: some none where the entry is not in use or of another tensor; none where it is to be refused, which is
checked for a LOAD. -/
def readShard (s : State) (t : Target) (tensor : Nat) (checks : Bool) (e : Nat) : Option (Option Shard) :=
  let d := poolRead s t (32 * e) 32
  if fieldOf d 0x1C 1 ≠ 1 ∨ fieldOf d 0 8 ≠ tensor then some none
  else
    let h := poolRead s t (fieldOf d 0x10 8) 128
    let p := poolRead s t (fieldOf d 0x10 8 + 128) (payloadLen h)
    let agree := fieldOf h 0 4 == 0x4B435053 && fieldOf h 8 8 == tensor && fieldOf h 0x10 8 == fieldOf d 8 8 && fieldOf h 4 1 == fieldOf d 0x1D 1
      && fieldOf h 0x7C 4 == (crc32c (h.take 0x7C)).toNat && fieldOf h 0x5C 4 == (crc32c p).toNat
    if checks && !agree then none
    else some (some { kind := fieldOf h 4 1, ety := fieldOf h 5 1, rank := fieldOf h 6 1, tensor, step := fieldOf h 0x10 8, prev := fieldOf h 0x18 8,
                      gext := four h 0x20, sorg := four h 0x30, sext := four h 0x40, dev := fieldOf h 0x58 4, payload := p })

/-- Every shard of a tensor in the targets; none where one is to be refused. -/
def findShards (s : State) (ts : List Target) (tensor : Nat) (checks : Bool) : Option (List Shard) :=
  let all := ts.flatMap fun t => (List.range (min 2047 (poolField s t 4 4))).map fun k => readShard s t tensor checks (k + 1)
  if all.any (·.isNone) then none else some ((all.filterMap id).filterMap id)

/-! ### What both commands require -/

/-- A tensor's process has a gang placed, frozen or swapped out (R401). -/
def ckBusy (s : State) (pasid : Nat) : Bool := s.gangs.any fun g => pasidOf s g.1.slot == pasid

def cmdTensors (s : State) (c : CkCmd) : List Tensor := (List.range c.ntens).map fun k => readTensor s (c.ttab + 96 * k)
def cmdTargets (s : State) (c : CkCmd) : List Target := (List.range c.npool).map fun k => readTarget s (c.pool + 32 * k)

def cmdOk (c : CkCmd) : Bool :=
  (c.op == 1 || c.op == 2) && decide (1 ≤ c.npool) && decide (c.npool ≤ 16) && decide (1 ≤ c.ntens) && decide (c.ntens ≤ 65535) && c.zero
    && isDev (c.ttab + 96 * c.ntens - 1) && isDev (c.pool + 32 * c.npool - 1) && isDev c.result && decide (c.pasid < 2 ^ 20) && (c.op == 2 || c.step != 0)

/-- The command ends. -/
def ckEnd (s : State) (state reason n : Nat) : State := { s with ck := { s.ck with go := false, state, reason, nshard := n } }

/-- BUSY and FIELD, before anything else. -/
def ckRefusal (s : State) (c : CkCmd) : Option Nat :=
  if !cmdOk c then some 6
  else if ckBusy s c.pasid then some 1
  else if !((cmdTensors s c).all Tensor.ok) || !((cmdTargets s c).all (targetOk s)) then some 6
  else none

/-! ### TAKE (R401 to R403) -/

/-- A shard is placed in the first target with room; a reservation that does not fit leaves a hole. -/
def placeShard (len : Nat) : List Target → State → State × Option (Target × Nat × Nat)
  | [], s => (s, none)
  | t :: ts, s =>
    let next := poolField s t 8 8
    let nent := poolField s t 4 4
    let s1 := poolWrite (poolWrite s t 8 (leBytes 8 (next + 4096 * len))) t 4 (leBytes 4 (nent + 1))
    if next + 4096 * len ≤ t.size ∧ nent + 1 ≤ 2047 then (s1, some (t, next, nent + 1)) else placeShard len ts s1

/-- The summary bit of a frame: some line of it is marked (R398). -/
def frameMarked (s : State) (frame : Nat) : Bool := s.ck.marks.any fun l => l / 32 == frame

/-- A line is marked: looked up under its frame's summary bit. -/
def lineMarked (s : State) (line : Nat) : Bool := frameMarked s (line / 32) && s.ck.marks.contains line

/-- The lines of a slice. -/
def sliceLines (t : Tensor) : List Nat := (List.range ((t.bytes + 127) / 128)).map fun k => t.pa / 128 + k

/-- Shards placed so far in a TAKE: the entries to be made valid, and the lines written. -/
abbrev Placed := List (Nat × Nat × Nat × Nat) × List Nat

/-- One tensor's shard (R401 to R403): the state, or none where no target has room. The entry is written with V clear. -/
def takeOne (ts : List Target) (step : Nat) (t : Tensor) (s : State) (done_ : Placed) : State × Option Placed :=
  let all := (findShards s ts t.id false).getD []
  let mine := all.filter fun x => x.sorg == t.sorg && x.sext == t.sext
  let base := mine.isEmpty
  let lines := if base then sliceLines t else (sliceLines t).filter (lineMarked s)
  let payload := if base then takeZ ((t.bytes + 127) / 128 * 128) (s.mem.getN t.pa t.bytes)
    else lines.flatMap fun l => leBytes 8 (l * 128 - t.pa) ++ s.mem.getN (l * 128) 128
  let prev := if base then step else (mine.map (·.step)).foldl max 0
  let kind := if base then 1 else 2
  let h := shardHeader s t kind step prev lines.length payload
  let len := (128 + payload.length + 4095) / 4096
  let r := placeShard len ts s
  match r.2 with
  | none => (r.1, none)
  | some (tg, ofs, e) =>
    let s1 := poolPut r.1 tg ofs (h ++ payload)
    (poolPut s1 tg (32 * e) (leBytes 8 t.id ++ leBytes 8 step ++ leBytes 8 ofs ++ leBytes 4 len ++ leBytes 1 0 ++ leBytes 1 kind ++ leBytes 2 0),
      some (done_.1 ++ [(tg.kind, tg.dev, tg.base, e)], done_.2 ++ lines))

/-- Every tensor's shard, in the table's order; with the number written where one finds no room. -/
def takeAll (ts : List Target) (step : Nat) : List Tensor → State → Placed → State × Except Nat Placed
  | [], s, done_ => (s, .ok done_)
  | t :: rest, s, done_ =>
    match takeOne ts step t s done_ with
    | (s1, none) => (s1, .error done_.1.length)
    | (s1, some d) => takeAll ts step rest s1 d

/-- What an agent's accesses have left is a partition's own: that of its task, or, where no other partition records, of an agent outside every
task. -/
def ownedBy (s : State) (p agent : Nat) : Bool :=
  match partOfTask s (slotOfAgent s agent) with
  | some q => p == q
  | none => !((recordingParts s).any (· != p))

/-- What an origin empties: the partition's access entries, clocks and E, and its request and node sequences (R363, R365, R369). -/
def startAfresh (s : State) (p : Nat) : State :=
  let d := s.damask
  { s with damask := { d with
    access := d.access.filter fun x => !ownedBy s p x.2.frag.agent
    shared := d.shared.filter fun x => !ownedBy s p x.1.1
    evict := d.evict.filter fun x => x.1 / 2048 != p
    lastChunk := d.lastChunk.filter fun x => !ownedBy s p x.1
    rseq := d.rseq.filter fun x => !ownedBy s p x.1
    syncSeq := if (recordingParts s).any (· != p) then d.syncSeq else [] } }

/-- An origin: its record, after which everything that R363 and R365 count begins again. -/
def origin (s : State) (p kind ident : Nat) : State :=
  let t := readTime s
  let s2 := startAfresh t.2 p
  emit s2 p hubSrc (rowBytes 0xC kind 0 (b2n (rpart s2 p).pair) 0 ident 0 t.1.toNat) none

/-- The recording partitions that a process's queues belong to. -/
def partsOfPasid (s : State) (pasid : Nat) : List Nat :=
  (recordingParts s).filter fun p => s.disp.queues.any fun q => (rpart s p).qm.getLsbD q.1 && q.2.pasid == pasid

/-- Every shard is written: the entries become valid, V last, the marks of the lines go, and recorded partitions have an origin (R401, R403). -/
def takeEnd (s : State) (c : CkCmd) (d : Placed) : State :=
  let valid := fun (s : State) (x : Nat × Nat × Nat × Nat) =>
    poolPut s { kind := x.1, dev := x.2.1, base := x.2.2.1, size := 0, zero := true } (32 * x.2.2.2 + 0x1C) [1]
  let s1 := foldS s d.1 valid
  let s2 : State := { s1 with ck := { s1.ck with marks := s1.ck.marks.filter fun l => !d.2.contains l, pending := none } }
  ckEnd (foldS s2 (partsOfPasid s2 c.pasid) fun s p => origin s p 2 c.step) 2 0 d.1.length

/-- A TAKE. One that writes to other devices ends once they have acknowledged every write. -/
def execTake (s : State) : Out :=
  let c := readCmd s s.ck.cmd
  if !s.ck.go || c.op == 2 then notEnabled "TAKE"
  else match s.ck.pending with
  | some d => if hubOwes s ckKey then notEnabled "TAKE" else .next (takeEnd s c d)
  | none =>
    match ckRefusal s c with
    | some r => .next (ckEnd s 3 r 0)
    | none =>
      match takeAll (cmdTargets s c) c.step (cmdTensors s c) s ([], []) with
      | (s1, .error n) => .next (ckEnd s1 3 5 n)
      | (s1, .ok d) =>
        if hubOwes s1 ckKey then .next { s1 with ck := { s1.ck with state := 1, pending := some d } } else .next (takeEnd s1 c d)

/-! ### LOAD (R404, R405) -/

/-- The regions that the shards of a tensor have. -/
def regionsOf (l : List Shard) : List (List Nat × List Nat) := (l.map fun x => (x.sorg, x.sext)).dedup

/-- A region meets a slice. -/
def meets (t : Tensor) (r : List Nat × List Nat) : Bool :=
  (List.range t.rank).all fun k =>
    decide (r.1.getD k 0 < t.sorg.getD k 0 + t.sext.getD k 0) && decide (t.sorg.getD k 0 < r.1.getD k 0 + r.2.getD k 0)

/-- A region's bytes at a step: the base shard and its chain of deltas, back along PREV; and the shards read. -/
def chainBytes (l : List Shard) : Nat → Nat → Option (List Byte × Nat)
  | 0, _ => none
  | n + 1, step =>
    match l.find? fun x => x.step == step with
    | none => none
    | some x =>
      if x.kind = 1 then some (x.payload, 1)
      else (chainBytes l n x.prev).map fun r =>
        ((piecesOf 136 (x.payload.length / 136 + 1) x.payload).foldl (fun (bs : List Byte) e =>
          let o := fieldOf e 0 8
          bs.take o ++ e.drop 8 ++ bs.drop (o + 128)) r.1, r.2 + 1)

/-- Coordinates of an element, dimension 0 fastest, and its place in a region. -/
def coordOf : List Nat → Nat → List Nat
  | [], _ => []
  | e :: t, i => i % e :: coordOf t (i / e)
def indexIn : List Nat → List Nat → List Nat → Option Nat
  | o :: os, e :: es, c :: cs => if o ≤ c ∧ c < o + e then (indexIn os es cs).map fun r => (c - o) + e * r else none
  | _, _, _ => some 0

/-- An element of a slice, from the regions that hold it. -/
def elemFrom (t : Tensor) (rs : List ((List Nat × List Nat) × List Byte)) (i : Nat) : Option (List Byte) :=
  let esz := etyBytes t.ety
  let at_ := List.zipWith (· + ·) (t.sorg.take t.rank) (coordOf (t.sext.take t.rank) i)
  rs.findSome? fun r => (indexIn (r.1.1.take t.rank) (r.1.2.take t.rank) at_).map fun k => (r.2.drop (k * esz)).take esz

/-- What loading one tensor comes to: the bytes of its slice and the shards read, or a refusal. -/
def loadOneTensor (s : State) (ts : List Target) (step : Nat) (t : Tensor) : Except Nat (List Byte × Nat) :=
  match findShards s ts t.id true with
  | none => .error 6
  | some all =>
    if all.any fun x => x.ety != t.ety || x.gext != t.gext then .error 4
    else
      let rs := (regionsOf all).filter (meets t)
      let vals := rs.filterMap fun r =>
        let mine := all.filter fun x => x.sorg == r.1 && x.sext == r.2
        (chainBytes mine (mine.length + 1) step).map fun b => (r, b)
      let els := (List.range (regionSize t.rank t.sext)).map (elemFrom t (vals.map fun v => (v.1, v.2.1)))
      if els.any (·.isNone) then .error 3 else .ok ((els.filterMap id).flatten, (vals.map fun v => v.2.2).sum)

/-- The newest step of each covering region. -/
def newestSteps (s : State) (ts : List Target) (t : Tensor) : List (Shard × Nat) :=
  match findShards s ts t.id true with
  | none => []
  | some all => ((regionsOf all).filter (meets t)).filterMap fun r =>
      let mine := all.filter fun x => x.sorg == r.1 && x.sext == r.2
      let top := (mine.map (·.step)).foldl max 0
      (mine.find? fun x => x.step == top).map fun x => (x, top)

/-- The result table of R405. -/
def resultTable (l : List (Shard × Nat)) : List Byte :=
  l.flatMap fun x => leBytes 8 x.1.tensor ++ leBytes 4 (x.1.sorg.getD 0 0) ++ leBytes 4 (x.1.sorg.getD 1 0) ++ leBytes 8 x.2 ++ leBytes 4 x.1.dev ++ leBytes 4 0

def execLoad (s : State) : Out :=
  let c := readCmd s s.ck.cmd
  if !s.ck.go || c.op != 2 then notEnabled "LOAD"
  else match ckRefusal s c with
  | some r => .next (ckEnd s 3 r 0)
  | none =>
    let ts := cmdTargets s c
    let tens := cmdTensors s c
    let news := tens.flatMap (newestSteps s ts)
    let steps := (news.map (·.2)).dedup
    if c.step = 0 && decide (steps.length > 1) then
      .next (ckEnd (ckWrite s c.result (resultTable news)) 3 2 0)
    else
      let step := if c.step = 0 then steps.headD 0 else c.step
      let rs := tens.map fun t => loadOneTensor s ts step t
      match rs.findSome? fun r => match r with | .error e => some e | .ok _ => none with
      | some e => .next (ckEnd s 3 e 0)
      | none =>
        let got := (List.zip tens rs).filterMap fun x => match x.2 with | .ok y => some (x.1, y) | .error _ => none
        let ws := got.flatMap fun x => wordsOf x.1.pa x.2.1.length
        if !copiesAnswer s ws then notEnabled "LOAD"
        else
          let s1 := foldS (dropEverywhere s ws) got fun s x => ckWrite s x.1.pa x.2.1
          .next (wakeAll (ckEnd s1 2 0 ((got.map fun x => x.2.2).sum)))

end Sys2Proof.Machine
end

