-- ==== Sys2Proof/Machine/DebugEvents.lean ====
section
/-! DEFINITION. Debug capabilities, samples, watchpoint reports, operating points, reset, power-on and firmware (R409 to R433). -/
namespace Sys2Proof.Machine
open Sys2Proof

/-! ### Capabilities (R409 to R411) -/

def setCap (s : State) (i : Nat) (c : Cap) : State := { s with dbg := { s.dbg with caps := s.dbg.caps.put i c } }

/-- The lowest entry that is free. -/
def freeCap (s : State) : Option Nat := (List.range 256).find? fun i => !(capD s i).v

/-- An entry and those it was delegated from, down to its ROOT. -/
def capChain (s : State) : Nat → Nat → List Nat
  | 0, _ => []
  | n + 1, i => if (capD s i).root then [i] else i :: capChain s n (capD s i).parent

/-- The chain of an entry: at most eight entries. -/
def chainOf (s : State) (i : Nat) : List Nat := capChain s 8 i

/-- GRANT (R410); a refused command changes nothing. -/
def execGrant (pasid : Nat) (s : State) : Out :=
  if pasid ≥ 2 ^ 20 then notEnabled "GRANT"
  else match freeCap s with
  | none => .next s
  | some i =>
    if (List.range 256).any fun k => (capD s k).v && (capD s k).root && (capD s k).subject == pasid then .next s
    else .next (setCap s i { v := true, root := true, rights := BitVec.allOnes 7, parent := 0, holder := pasid, subject := pasid })

/-- DELEGATE (R410), asked for by `req`. -/
def execDelegate (req e h : Nat) (rights : BitVec 7) (s : State) : Out :=
  let c := capD s e
  if e ≥ 256 ∨ h ≥ 2 ^ 20 then notEnabled "DELEGATE"
  else match freeCap s with
  | none => .next s
  | some i =>
    if !c.v || c.holder != req || !c.has 6 || rights &&& ~~~c.rights != 0 || decide ((chainOf s e).length ≥ 8) then .next s
    else .next (setCap s i { v := true, root := false, rights, parent := e, holder := h, subject := c.subject })

/-- The entries that a REVOKE of `e` takes. -/
def descendants (s : State) (e : Nat) : List Nat := (List.range 256).filter fun i => (capD s i).v && (chainOf s i).contains e

/-- Step 1 and 2 of R411: the entries go, reports not yet written are discarded, and what was armed under them is disarmed. A match whose
watchpoint halts under an entry that stays is kept for its halt: its session takes no record any more. -/
def disarm (s : State) (es : List Nat) : State :=
  let s1 := foldS s es fun s i => setCap s i { capD s i with v := false }
  let gone := fun (m : Match) => es.contains (watchD s m.wp).cap || (!(watchD s m.wp).act && es.contains (sessD s (watchD s m.wp).sess).cap)
  let sess := s1.dbg.sess.map fun p => if es.contains p.2.cap then (p.1, { p.2 with en := false }) else p
  let wps := s1.dbg.wps.map fun p => if es.contains p.2.cap then (p.1, { p.2 with lines := 0 }) else p
  let rbk := s1.damask.rbk.map fun p => if es.contains p.2.cap then (p.1, { p.2 with v := false }) else p
  let mx := s1.mx.map fun p => match p.2.watched with | some c => if es.contains c then (p.1, { p.2 with watched := none }) else p | none => p
  { s1 with dbg := { s1.dbg with sess, wps, pending := s1.dbg.pending.filter fun m => !gone m }, damask := { s1.damask with rbk }, mx }

/-- A halt that was asked for under a revoked entry and has not been made is not made. -/
def dropHalts (s : State) (es : List Nat) : State :=
  let quiet := fun (x : Entry) => if x.haltReq && x.haltOn.any (fun c => es.contains c) then { x with haltReq := false, haltOn := none } else x
  { s with groups := s.groups.map fun p => (p.1, { p.2 with ents := p.2.ents.map quiet }) }

/-- Step 3 of R411 for one fragment whose task keeps no HALT right: a halt by debug or BRK ends; a fault is taken as fatal. -/
def loseDebugger (s : State) (es : List Nat) (g e : Nat) : State :=
  match s.group? g with
  | none => s
  | some gr =>
    let x := gr.ent e
    if !x.valid || debugged s g then s
    else if x.st = .halted && x.haltOn.any (fun c => c == 256 || es.contains c) then
      if x.haltCode = 0 || x.haltCode = Cause.brk.code then releaseFault (resumeFrag s g e) g e else fatal s g x.haltCode
    else if awaitsDebugger s gr x then
      match s.block? gr.block with
      | some b => (match b.why with
        | .fault fg fe code => if fg = g ∧ fe = e then fatal s g code else s
        | _ => s)
      | none => s
    else s

/-- REVOKE (R411): the holder of the entry or of one on its chain, or the subject, may ask for it. -/
def execRevoke (req e : Nat) (s : State) : Out :=
  let c := capD s e
  if e ≥ 256 then notEnabled "REVOKE"
  else if !c.v || !(c.subject == req || (chainOf s e).any fun i => (capD s i).holder == req) then .next s
  else
    let es := descendants s e
    let s1 := dropHalts (disarm s es) es
    .next (wakeAll (foldS s1 (s.groups.map (·.1)) fun s g => foldS s (List.range 16) fun s k => loseDebugger s es g k))

/-! ### TRACE_SAMPLE (R413) -/

/-- STATE as an entry reads it (R116). -/
def FragState.num : FragState → Nat
  | .fetching => 0 | .waiting => 1 | .ready => 2 | .issuing => 3 | .parked => 4 | .joinWait => 5 | .halted => 6

/-- A session takes records of a task. -/
def sessTakes (s : State) (i slot : Nat) : Bool :=
  let x := sessD s i
  match s.task? slot with
  | some t => (capD s x.cap).has 3 && (capD s x.cap).subject == t.lr.pasid && (x.task == 0 || x.task == t.handle)
  | none => false

/-- The groups of a partition that a session samples. -/
def sampled (s : State) (i p : Nat) : List (Nat × Group) :=
  s.groups.filter fun x => x.2.part == p && groupRuns s x.2 && sessTakes s i x.2.block.gang.slot

/-- The fragment that a sample takes: the one issuing, the one ready longest, or the lowest entry of the lowest group. -/
def sampleFrag (s : State) (i p : Nat) : Option (Nat × Nat) :=
  let gs := sampled s i p
  let all := gs.flatMap fun x => x.2.valids.map fun e => (x.1, e, x.2.ent e)
  match gs.find? fun x => x.2.ctx.isSome with
  | some x => x.2.ctx.map fun c => (x.1, c.entry)
  | none =>
    match earliest (all.filter fun x => decide (x.2.2.st = .ready)) with
    | some x => some (x.1, x.2.1)
    | none => (all.foldl (fun (b : Option (Nat × Nat)) x => match b with
        | some y => if x.1 < y.1 then some (x.1, x.2.1) else b
        | none => some (x.1, x.2.1)) none)

def execTraceSample (i p : Nat) (s : State) : Out :=
  let x := sessD s i
  if !(decide (i < 8) && decide (p < 3584) && x.en && x.sper != 0 && x.kinds.getLsbD 3 && (capD s x.cap).has 3
      && clockRuns s (cluOfCu (cuOfPart p))) then notEnabled "TRACE_SAMPLE"
  else match sampleFrag s i p with
  | none => .next s
  | some (g, e) =>
    match s.group? g with
    | none => .next s
    | some gr =>
      let y := gr.ent e
      let h := match taskOf s gr with | some t => t.handle | none => 0
      .next (tracePut s i (leBytes 1 4 ++ leBytes 1 y.st.num ++ leBytes 1 e ++ leBytes 1 0 ++ leBytes 4 (agentOfGroup g) ++ leBytes 8 (y.pc / 8)
        ++ leBytes 12 y.mask.toNat ++ leBytes 4 y.waitk ++ leBytes 8 s.plat.time.toNat ++ leBytes 8 h))

/-! ### WATCHPOINT_REPORT (R416, R417) -/

/-- The lowest word of a word mask. -/
def lowestWord (m : BitVec 32) : Nat := ((List.range 32).find? fun k => m.getLsbD k).getD 0

/-- The KIND 6 record of a match. -/
def watchRecord (m : Match) (time : Nat) : List Byte :=
  leBytes 1 6 ++ leBytes 1 (m.what + m.srcKind * 16) ++ leBytes 1 (match m.grp with | some (_, e) => e % 16 | none => 0) ++ leBytes 1 m.wp
    ++ leBytes 4 m.agent ++ leBytes 8 (m.line * 128 + 4 * lowestWord m.words) ++ leBytes 12 m.words.toNat ++ leBytes 4 m.extra
    ++ leBytes 8 time ++ leBytes 8 m.task

/-- A fragment is asked to halt at its next clause boundary. -/
def askHalt (s : State) (cap g e : Nat) : State :=
  match s.group? g with
  | none => s
  | some gr =>
    let x := gr.ent e
    if !(mayHalt s cap g && x.valid && decide (x.st ≠ .joinWait) && decide (x.st ≠ .halted)) then s
    else putEnt s g e fun x => { x with haltReq := true, haltOn := some cap }

/-- Whom a halting watchpoint halts: the group's fragment, the groups of a copy's block, or those that meet the core later. -/
def watchHalts (s : State) (cap : Nat) (m : Match) : State :=
  match m.grp, m.blk with
  | some (g, e), _ => askHalt s cap g e
  | none, some b => foldS s (groupsOfBlock s b) fun s g => foldS s (List.range 16) fun s e => askHalt s cap g e
  | none, none =>
    if agentKind m.agent ≠ 2 then s
    else
      let l := agentIndex m.agent
      let mx := s.mxD l
      match mx.owner with
      | some g => if (capD s cap).has 0 && (capD s cap).subject == pasidOf s g.slot then s.setMx l { mx with watched := some cap, met := [] } else s
      | none => s

def execWatchpointReport (i : Nat) (s : State) : Out :=
  match s.dbg.pending.find? fun m => m == s.dbg.pending.getD i m && decide (i < s.dbg.pending.length) with
  | none => notEnabled "WATCHPOINT_REPORT"
  | some m =>
    let w := watchD s m.wp
    let s1 : State := { s with dbg := { s.dbg with pending := s.dbg.pending.eraseIdx i } }
    let x := sessD s w.sess
    let s2 := if x.en && x.kinds.getLsbD 5 && (capD s x.cap).has 3 then tracePut s1 w.sess (watchRecord m s.plat.time.toNat) else s1
    .next (if w.act then watchHalts s2 w.cap m else s2)

/-! ### Operating points (R420 to R422) -/

/-- A point within the policy; no other change is under way. -/
def execOperatingPointChange (p : Nat) (s : State) : Out :=
  when "OPERATING_POINT_CHANGE" (decide (p ≤ 3) && decide (s.plat.ptop ≤ p) && p != s.plat.pnow && s.plat.changing.isNone && !s.plat.failed)
    { s with plat := { s.plat with changing := some p } }

/-- The new frequency applies. -/
def execChangeOfPointComplete (s : State) : Out :=
  match s.plat.changing with
  | none => notEnabled "CHANGE_OF_POINT_COMPLETE"
  | some p => .next { s with plat := { s.plat with pnow := p, changing := none } }

/-- The clock is lowered by one point from the slowest that applies or is under way; at P3 it stays. -/
def lowerPoint (s : State) : State :=
  let p := max s.plat.pnow (s.plat.changing.getD 0)
  if p ≥ 3 then s else { s with plat := { s.plat with changing := some (p + 1) } }

/-- A limit is reached. A cap that P3 cannot meet holds back new gangs until the average is below it. -/
def execPowerLimit (e : PowerEvent) (s : State) : Out :=
  match e with
  | .railCurrent | .temperature => .next (lowerPoint s)
  | .averageCap => .next (if s.plat.pnow = 3 then { s with plat := { s.plat with capHold := true } } else lowerPoint s)
  | .belowCap => .next { s with plat := { s.plat with capHold := false } }

/-! ### Reset and power (R429, R430) -/

/-- What HBM holds after a reset is free (notes/assumptions 3); its parity is that of the data. -/
def memAfter (i : Nat) : Memory := (Config.memAfterReset i).foldl (fun m x => if isDev x.1 then m.put x.1 x.2 else m) []
def parityOf (m : Memory) : Memory :=
  m.foldl (fun p x => p.put (x.1 / 128 / 11 * 128 + x.1 % 128) (p.get (x.1 / 128 / 11 * 128 + x.1 % 128) ^^^ x.2)) []

/-- The device after bring-up: everything as at State.reset, but for what lies outside it, HBM's bytes, and the fuses and image. -/
def afterReset (s : State) (p : Plat) : State :=
  let f := freshFree s
  let m := memAfter f.1
  { State.reset with agenda := s.agenda, free := f.2.free, ids := s.ids, hostMem := s.hostMem, mem := m, hbm := m, parity := parityOf m
                     ck := { pools := s.ck.pools }, plat := p }

/-- The header and body of an image (R431). -/
def imageWhole (i : PoxisImage) : List Byte :=
  i.signed.take 0xA8 ++ i.sig ++ List.replicate 212 0 ++ i.signed.drop 0xA8

/-- The fields are those of the signed bytes; of the reserved ones those before the signature lie there. -/
def imageConsistent (i : PoxisImage) : Bool :=
  (!i.reservedZero || (fieldOf i.signed 0x18 8 == 0 && fieldOf i.signed 0xA5 3 == 0)) && fieldOf i.signed 0 4 == i.magic && fieldOf i.signed 4 2 == i.fmt && fieldOf i.signed 6 2 == i.svn && fieldOf i.signed 8 8 == i.version.toNat
    && fieldOf i.signed 0x10 4 == i.bodyLen && fieldOf i.signed 0x14 4 == i.entry && (i.signed.drop 0x20).take 133 == i.pubkey
    && i.sig.length == 132 && i.pubkey.length == 133 && i.signed.length == 0xA8 + i.bodyLen

/-- The checks of R431 and R432. -/
def imageAccepted (i : PoxisImage) (minSvn : Nat) : Bool :=
  i.magic == 0x53495850 && i.fmt == 1 && decide (i.svn ≤ 63) && i.bodyLen % 4096 == 0 && decide (i.bodyLen ≤ 2 ^ 24) && decide (i.entry < i.bodyLen)
    && i.reservedZero && Config.keyDigests.contains (Config.sha512 i.pubkey) && Config.ecdsaOk i.pubkey (Config.sha512 i.signed) i.sig
    && decide (minSvn ≤ i.svn)

/-- The platform after step 7 with an image running. -/
def platWith (minSvn : Nat) (measured : List (Nat × List Byte × List Byte)) (i : PoxisImage) : Plat :=
  { svn := i.svn, version := i.version, minSvn := max minSvn i.svn, bodyLen := i.bodyLen, imgDigest := some (Config.sha512 (imageWhole i)), measured }

/-- RESET (R429): the image in flash runs, which is an accepted update where there is one. -/
def execReset (s : State) : Out :=
  let p := s.plat
  match p.staged with
  | some i => .next (afterReset s (platWith p.minSvn p.measured i))
  | none =>
    .next (afterReset s { svn := p.svn, version := p.version, minSvn := max p.minSvn p.svn, bodyLen := p.bodyLen, imgDigest := p.imgDigest,
                          measured := p.measured, recovery := p.recovery })

/-- POWER_ON (R430): a step that fails, or an image that is refused, leaves the device in recovery. -/
def execPowerOn (fail : Option Nat) (img : PoxisImage) (s : State) : Out :=
  let p := s.plat
  if !imageConsistent img || fail.any (fun n => n = 0 ∨ n > 7) then notEnabled "POWER_ON"
  else if fail.isSome || !imageAccepted img p.minSvn then
    .next (afterReset s { svn := 0, version := 0, minSvn := p.minSvn, measured := p.measured, recovery := true })
  else .next (afterReset s (platWith p.minSvn p.measured img))

/-- FIRMWARE_UPDATE (R432): an accepted image runs from the next reset; a refused one changes nothing. -/
def execFirmwareUpdate (img : PoxisImage) (s : State) : Out :=
  if !imageConsistent img then notEnabled "FIRMWARE_UPDATE"
  else .next (if imageAccepted img s.plat.minSvn then { s with plat := { s.plat with staged := some img } } else s)

end Sys2Proof.Machine
end

