-- ==== Sys2Proof/Machine/Registers.lean ====
section
/-! DEFINITION. Writes of the hub's registers by firmware and the host, and the measurement of the policy they hold (R36, R85, R86, R106,
R222, R289, R322, R326, R336 to R346, R359, R378, R384, R400, R412, R415, R422, R433 to R435). A write with a field outside its limit leaves
the whole register as it was. -/
namespace Sys2Proof.Machine
open Sys2Proof

/-- Bits hi:lo of a word that is written. -/
def wbits (v : Word) (hi lo : Nat) : Nat := bits v.toNat hi lo
def wbit (v : Word) (k : Nat) : Bool := bitAt v.toNat k

/-- A register of four byte fields, each from `lo` to `hi`. -/
def fourFields (v : Word) (lo hi : Nat) : Option (List Nat) :=
  let l := (List.range 4).map fun k => wbits v (8 * k + 7) (8 * k)
  if l.all fun x => decide (lo ≤ x) && decide (x ≤ hi) then some l else none

/-! ### Queues (R85) -/

/-- PEND: some task accepted on the queue is not yet reported. -/
def queuePending (s : State) (q : Nat) : Bool := s.tasks.any fun t => t.2.queue == q && t.2.live

/-- QCTL as it reads. -/
def qctlWord (s : State) (q : Nat) : Word :=
  let x := s.queueD q
  BitVec.ofNat 64 (x.pasid * 2 ^ 44 + x.slotlog * 2 ^ 40 + x.cmplog * 2 ^ 36 + x.weight * 2 ^ 32 + x.cls * 2 ^ 30 + b2n (queuePending s q) * 4
    + b2n x.irq * 2 + b2n x.en)

/-- The queue is disabled: what awaits parse is refused with QUEUE, when its turn comes. -/
def disableQueue (s : State) (q : Nat) : State :=
  let x := s.queueD q
  s.setQueue q { x with en := false, spawned := x.spawned.map fun r => { r with dead := true } }

def execQctlWrite (q : Nat) (v : Word) (s : State) : Out :=
  let x := s.queueD q
  let sl := wbits v 43 40
  let cl := wbits v 39 36
  let w := wbits v 35 32
  let en := wbit v 0
  if q ≥ 128 then notEnabled "QCTL_WRITE"
  else if x.en then
    let s1 := s.setQueue q { x with irq := wbit v 1 }
    .next (wakeAll (if en then s1 else disableQueue s1 q))
  else if sl < 4 ∨ sl > 12 ∨ cl > 10 ∨ w = 0 then .next s
  else
    let p := queuePending s q
    let cmplog := if p then x.cmplog else cl
    let y := { x with pasid := if p then x.pasid else wbits v 63 44, slotlog := sl, cmplog, weight := w, cls := wbits v 31 30, irq := wbit v 1, en }
    .next (wakeAll (s.setQueue q (if en then
      { y with seqExp := 1, pass0 := x.written / 2 ^ (cmplog + 4) % 2, parse := y.parse.map fun p => { p with old := true } } else y)))

/-! ### System-call ring sets (R106) -/

def execScctlWrite (n : Nat) (v : Word) (s : State) : Out :=
  let x := s.disp.sets.get n {}
  let k := wbits v 43 40
  let en := wbit v 0
  let put := fun (y : ScSet) => ({ s with disp := { s.disp with sets := s.disp.sets.put n y } } : State)
  if n ≥ 128 then notEnabled "SCCTL_WRITE"
  else if (x.en && en) || decide (k < 4) || decide (k > 12) then .next s
  else
    let y := { x with pasid := wbits v 63 44, log := k, en }
    .next (wakeAll (put (if en then { y with rqt := 0, rph := 0, rqh := 0, rpt := 0 } else y)))

/-! ### PGCTL (R327, R328), ELRING (R435) -/

def execPgctlWrite (v : Word) (s : State) : Out :=
  let t := wbits v 31 16
  let n := wbits v 5 0
  .next (if t < 10 ∨ t > 1000 ∨ n = 0 ∨ n > 32 then s
         else { s with m := { s.m with pgpto := t, prgmax := n, rf := s.m.rf && !wbit v 15 } })

def execElringWrite (v : Word) (s : State) : Out :=
  let k := wbits v 3 0
  .next (if k > 13 then s
         else { s with plat := { s.plat with elBase := wbits v 56 12 * 4096, elLog := k, elHead := 0, elTail := 0 } })

/-! ### FCFG (R337) -/

/-- Every port goes down, with what it held. -/
def portsDown (s : State) : State :=
  let down := fun (p : Port) => { p with up := false, retry := [], outq := [], rq := [], nak := none, rbuf := [0, 0, 0, 0] }
  { s with fab := { s.fab with ports := s.fab.ports.map fun p => (p.1, down p.2) } }

def execFcfgWrite (v : Word) (s : State) : Out :=
  let en := wbit v 30
  let f := { s.fab with mesh := wbit v 31, en, devno := if s.fab.en then s.fab.devno else wbits v 17 0 }
  let s1 : State := { s with fab := f }
  .next (wakeAll (failCut (if s.fab.en && !en then portsDown s1 else s1)))

/-! ### Recording partitions (R359) -/

def ringsMeet (b n b' n' : Nat) : Bool := decide (b < b' + n' * 2 ^ 30) && decide (b' < b + n * 2 ^ 30)

/-- The ring lies in usable HBM and meets no ring of another partition that is on. -/
def ringOk (s : State) (p base size : Nat) : Bool :=
  decide (base + size * 2 ^ 30 ≤ devSize)
    && (List.range 8).all fun k => let r := rpart s k; k == p || r.mode == 0 || !ringsMeet base size r.base r.size

/-- No queue of a mask is named by another partition. -/
def queuesFree (s : State) (p : Nat) (qm : BitVec 128) : Bool := (List.range 8).all fun k => k == p || (rpart s k).qm &&& qm == 0

/-- A partition that is switched on: recording begins at an origin, and so do a replay, which reads its log from the ring, and a twin's, whose log
will arrive (R374). -/
def startPart (s : State) (p : Nat) : State :=
  let r := rpart s p
  let y := { r with halted := false, divergence := [], log := [], compared := 0, ended := 0, unpaired := false, inbox := [], streamed := 0,
                    origPair := false }
  let s0 := setRpart s p y
  let s1 := if r.mode = 1 then s0 else startAfresh s0 p
  match r.mode with
  | 1 => origin s1 p 1 0
  | 2 => match framesLog (ringFrames s1 y) with
    | some rows => setRpart s1 p (addLog y rows)
    | none => haltPart s1 p 4 0xFFFFFF 0 0 []
  | _ => s1

def execRctlWrite (p : Nat) (v : Word) (s : State) : Out :=
  let r := rpart s p
  let mode := wbits v 1 0
  let size := wbits v 55 48
  if p ≥ 8 then notEnabled "RCTL_WRITE"
  else if r.mode ≠ 0 then .next (if mode = 0 then wakeAll (setRpart s p { r with mode := 0 }) else s)
  else if size < 4 ∨ size > 128 then .next s
  else if mode ≠ 0 ∧ (ringOk s p r.base size = false ∨ queuesFree s p r.qm = false) then .next s
  else
    let s1 := setRpart s p { r with size, twin := wbits v 35 18, pair := wbit v 17, full := wbit v 16, mode }
    .next (wakeAll (if mode = 0 then s1 else startPart s1 p))

/-- TAIL moves forward to a frame boundary, at most to HEAD. -/
def execRrtailWrite (p : Nat) (v : Word) (s : State) : Out :=
  let r := rpart s p
  let size := r.size * 2 ^ 30
  let t := wbits v 36 12 * 4096
  let ahead := fun (x : Nat) => (x + size - r.tail) % size
  if p ≥ 8 then notEnabled "RRTAIL_WRITE"
  else .next (if t < size ∧ ahead t ≤ ahead r.head then wakeAll (setRpart s p { r with tail := t }) else s)

/-- A chunk breakpoint of a partition (R378): number 16 × partition + pair. -/
def execRbkaWrite (i : Nat) (v : Word) (s : State) : Out :=
  let p := i / 16
  let r := rpart s p
  let cap := wbits v 35 28
  let c := capD s cap
  let mine := c.has 5 && (List.range 128).all fun q => !r.qm.getLsbD q || (s.queueD q).pasid == c.subject
  let x := s.damask.rbk.get i {}
  let y := { x with v := wbit v 63, all := wbit v 62, any := wbit v 61, cap, split := wbits v 27 24, agent := wbits v 23 0 }
  if i ≥ 128 ∨ r.mode < 2 then notEnabled "RBKA_WRITE"
  else .next (wakeAll (if wbit v 63 && !mine then s else { s with damask := { s.damask with rbk := s.damask.rbk.put i y } }))

/-! ### The other registers -/

/-- A queue's or ring set's register changes. -/
def putQueue (s : State) (q : Nat) (ok : Bool) (x : Queue) : State := if ok then s.setQueue q x else s
def putScSet (s : State) (n : Nat) (ok : Bool) (x : ScSet) : State :=
  if ok then { s with disp := { s.disp with sets := s.disp.sets.put n x } } else s

/-- Some tile stands at the level `.l2`. -/
def anyL2 (s : State) : Bool := (List.range 4).any fun d => decide (l2Used s d > 0)

/-- The frames of a trace ring are reserved to the device. -/
def traceRingOk (s : State) (base k : Nat) : Bool :=
  decide (16 ≤ k) && decide (k ≤ 34) && (List.range (2 ^ (k - 12))).all fun j => s.m.reservedFrames.contains (base / 4096 + j)

/-- A watchpoint's range lies in device memory. -/
def watchRangeOk (base lines : Nat) : Bool := decide (base + 128 * lines ≤ devSize)

/-- A partition's register, which keeps its value while MODE is not 0. -/
def putPart (s : State) (p : Nat) (ok : Bool) (f : RPart → RPart) : State :=
  let r := rpart s p
  if ok && r.mode == 0 then setRpart s p (f r) else s

def setQm (r : RPart) (hi : Bool) (v : Word) : RPart :=
  { r with qm := if hi then v ++ r.qm.extractLsb' 0 64 else r.qm.extractLsb' 64 64 ++ v }

/-- How many registers of a kind there are. -/
def regCount : HubReg → Nat
  | .qwin | .qcmp | .qhead | .scrqb | .scrpb | .scrqh | .scrpt | .rbks => 128
  | .devrt => 1024
  | .domrt => 256
  | .fwin => 16
  | .rqmlo | .rqmhi | .rpart | .rrbase | .rfront | .tsctl | .tstask | .tsring => 8
  | .wpbase | .wpctl => 32
  | .pasidEntry => 2 ^ 20
  | .scstat | .qctl | .scctl | .rbka => 128
  | .tsstat | .rrhead | .rctl | .rrtail => 8
  | .fzstat | .fzctl => 112
  | _ => 1

/-- An action of its own writes the register. -/
def ownRow : HubReg → Bool
  | .qctl | .scctl | .pgctl | .elring | .fcfg | .rctl | .rrtail | .rbka | .fzctl | .fzdev => true
  | _ => false

/-- The lines that the pool for tiles takes cache nothing else (R434): a new SIZE empties the L2 slices, whose lines the L3 holds too. -/
def setL2pin (s : State) (n : Nat) : State := { s with m := { s.m with l2pin := n, l2 := if n = s.m.l2pin then s.m.l2 else [] } }

/-- Registers of the dispatch engine, the memory engine and the copy engines. -/
def writeHub (s : State) (r : HubReg) (i : Nat) (v : Word) : State :=
  let q := s.queueD i
  let c := s.disp.sets.get i {}
  match r with
  | .qwin => putQueue s i (!q.en) { q with win := wbits v 56 8 * 256 }
  | .qcmp => putQueue s i (!q.en && !queuePending s i) { q with cmp := wbits v 56 12 * 4096 }
  | .qhead => putQueue s i true { q with head := wbits v 31 0 }
  | .clsw => (match fourFields v 1 64 with | some l => { s with disp := { s.disp with clsw := l } } | none => s)
  | .dpol => { s with disp := { s.disp with relim := wbits v 1 0 } }
  | .scrqb => putScSet s i (!c.en) { c with rqb := wbits v 56 12 * 4096 }
  | .scrpb => putScSet s i (!c.en) { c with rpb := wbits v 56 12 * 4096 }
  | .scrqh => putScSet s i true { c with rqh := wbits v 31 0 }
  | .scrpt => putScSet s i true { c with rpt := wbits v 31 0 }
  | .l2pin => if wbits v 7 0 > 64 || anyL2 s then s else setL2pin s (wbits v 7 0)
  | .cqnt => (match fourFields v 1 32 with | some l => { s with cqnt := l } | none => s)
  | .rtbase => { s with m := { s.m with retype := { s.m.retype with base := wbits v 56 12 * 4096 } } }
  | .tlbia => { s with m := { s.m with tlbi := { s.m.tlbi with va := wbits v 56 12 * 4096 } } }
  | .rtctl =>
    let x := { s.m.retype with newct := BitVec.ofNat 2 (wbits v 63 62), count := wbits v 27 0 }
    if wbits v 61 60 = 0 then { s with m := { s.m with retype := x } } else s
  | .tlbic =>
    let t := { s.m.tlbi with pasid := wbits v 63 44, count := wbits v 27 0, op := 0 }
    if wbits v 43 42 = 0 && !s.m.tlbi.busy then { s with m := { s.m with tlbi := t } } else s
  | .pasidEntry =>
    let e : PasidEnt := { root := wbits v 56 12 * 4096, lv5 := wbit v 1, en := wbit v 0 }
    { s with m := { s.m with pasids := s.m.pasids.put i e } }
  | _ => s

/-- Registers of the fabric. -/
def writeFab (s : State) (r : HubReg) (i : Nat) (v : Word) : State :=
  let f := s.fab
  let age := wbits v 39 32
  let fto := wbits v 15 0
  match r with
  | .fmesh => failCut { s with fab := { f with dir := BitVec.ofNat 48 v.toNat } }
  | .devrt => if v.toNat ≥ 2 ^ 24 then s else failCut { s with fab := { f with devrt := f.devrt.put i (BitVec.ofNat 24 v.toNat) } }
  | .domrt => if v.toNat ≥ 2 ^ 24 then s else failCut { s with fab := { f with domrt := f.domrt.put i (BitVec.ofNat 24 v.toNat) } }
  | .farb => (match fourFields v 1 63 with | some l => if age < 8 then s else { s with fab := { f with age, vcw := l } } | none => s)
  | .ftime => if fto < 10 ∨ fto > 10000 then s else { s with fab := { f with fto } }
  | .fwin =>
    let x : FWin := { v := wbit v 63, w := wbit v 62, rd := wbit v 61, size := wbits v 47 24, base := wbits v 23 0 }
    { s with fab := { f with wins := f.wins.put i x } }
  | _ => s

/-- Registers of the recorder and of checkpoints. -/
def writeRec (s : State) (r : HubReg) (i : Nat) (v : Word) : State :=
  let x := rpart s i
  let base := wbits v 56 30 * 2 ^ 30
  match r with
  | .rqmlo => putPart s i (queuesFree s i (setQm x false v).qm) fun x => setQm x false v
  | .rqmhi => putPart s i (queuesFree s i (setQm x true v).qm) fun x => setQm x true v
  | .rpart => putPart s i true fun x => { x with id := v }
  | .rrbase => putPart s i (ringOk s i base x.size) fun y => { y with base := base }
  | .rbks =>
    let b : Rbk := s.damask.rbk.get i {}
    let table := s.damask.rbk.put i { b with stamp := v }
    { s with damask := { s.damask with rbk := table } }
  | .ckctl =>
    if s.ck.go then s
    else
      let c := { s.ck with cmd := wbits v 56 6 * 64 }
      { s with ck := if wbit v 0 then { c with go := true, state := 1, reason := 0, nshard := 0 } else c }
  | _ => s

/-- The change of point under way once PTOP is written: a point faster than it gives way to it (R422). -/
def withinPolicy (p : Plat) (ptop : Nat) : Option Nat := if p.changing.getD p.pnow < ptop then some ptop else p.changing

/-- Registers of trace sessions, watchpoints, the error log and power. -/
def writeDbg (s : State) (r : HubReg) (i : Nat) (v : Word) : State :=
  let cap := wbits v 63 56
  let x := sessD s i
  let w := watchD s i
  let putW := fun (ok : Bool) (y : Watch) => if ok then ({ s with dbg := { s.dbg with wps := s.dbg.wps.put i y } } : State) else s
  match r with
  | .tsctl => if (capD s cap).has 3 then setSess s i { x with cap, kinds := BitVec.ofNat 8 (wbits v 47 40), sper := wbits v 39 24, en := wbit v 0 } else s
  | .tstask => setSess s i { x with task := wbits v 47 0 }
  | .tsring => if traceRingOk s (wbits v 56 12 * 4096) (wbits v 5 0) then setSess s i { x with base := wbits v 56 12 * 4096, sizelog := wbits v 5 0 } else s
  | .wpbase => putW (watchRangeOk (wbits v 56 7 * 128) w.lines) { w with base := wbits v 56 7 * 128 }
  | .wpctl =>
    putW ((capD s cap).has 4 && (!wbit v 49 || (capD s cap).has 0) && watchRangeOk w.base (wbits v 31 0))
      { w with cap, sess := wbits v 55 53, act := wbit v 49, atm := wbit v 48, wr := wbit v 47, rd := wbit v 46, lines := wbits v 31 0 }
  | .elhead => { s with plat := { s.plat with elHead := wbits v 31 0 } }
  | .pwrctl => if wbits v 43 32 > 4000 ∨ wbits v 7 4 > 3 then s
    else { s with plat := { s.plat with cap := wbits v 43 32, ptop := wbits v 7 4, changing := withinPolicy s.plat (wbits v 7 4) } }
  | _ => s

/-- The engine that a register belongs to. A write of a read-only register changes nothing (R3). -/
def writeReg (s : State) (r : HubReg) (i : Nat) (v : Word) : State :=
  match r with
  | .fmesh | .devrt | .domrt | .farb | .ftime | .fwin => writeFab s r i v
  | .rqmlo | .rqmhi | .rpart | .rrbase | .rbks | .ckctl => writeRec s r i v
  | .tsctl | .tstask | .tsring | .wpbase | .wpctl | .elhead | .pwrctl => writeDbg s r i v
  | _ => writeHub s r i v

def execRegisterWrite (r : HubReg) (i : Nat) (v : Word) (s : State) : Out :=
  when "REGISTER_WRITE" (!ownRow r && decide (i < regCount r)) (wakeAll (writeReg s r i v))

/-! ### SPDM_MEASUREMENT_REQUEST (R433) -/

def packFour (l : List Nat) : Nat := leNat (l.map fun x => BitVec.ofNat 8 x)
def rctlWord (s : State) (p : Nat) : Word :=
  let r := rpart s p
  BitVec.ofNat 64 (r.size * 2 ^ 48 + r.twin * 2 ^ 18 + b2n r.pair * 2 ^ 17 + b2n r.full * 2 ^ 16 + r.mode)

/-- The policy registers, in the order R433 lists them. -/
def policyWords (s : State) : List Word :=
  [BitVec.ofNat 64 (s.plat.cap * 2 ^ 32 + s.plat.ptop * 16 + s.plat.pnow), BitVec.ofNat 64 (packFour s.disp.clsw), BitVec.ofNat 64 (packFour s.cqnt),
   BitVec.ofNat 64 (s.fab.age * 2 ^ 32 + packFour s.fab.vcw), BitVec.ofNat 64 (s.m.pgpto * 2 ^ 16 + b2n s.m.rf * 2 ^ 15 + s.m.prgmax),
   BitVec.ofNat 64 s.fab.fto, BitVec.ofNat 64 (b2n s.fab.mesh * 2 ^ 31 + b2n s.fab.en * 2 ^ 30 + s.fab.devno), BitVec.ofNat 64 s.m.l2pin]
    ++ (List.range 8).map (rctlWord s)

/-- A measurement. -/
def measurement (s : State) (idx : Nat) : List Byte :=
  match idx with
  | 1 => Config.bootRomDigest
  | 2 => s.plat.imgDigest.getD Config.runningDigest
  | 3 => leBytes 2 s.plat.svn ++ leBytes 8 s.plat.minSvn
  | 4 => Config.sha512 (Config.policyBytes (policyWords s))
  | _ => leBytes 8 Config.smdig

def execSpdmMeasurementRequest (idx : Nat) (nonce : List Byte) (s : State) : Out :=
  when "SPDM_MEASUREMENT_REQUEST" (decide (1 ≤ idx) && decide (idx ≤ 5))
    { s with plat := { s.plat with measured := (idx, nonce, measurement s idx) :: s.plat.measured } }

end Sys2Proof.Machine
end

