-- ==== Sys2Proof/Machine/Completions.lean ====
section
/-! DEFINITION. Completions that come from outside a group: WAITA on host memory, PCIe AtomicOps, and the ends of an MMA and an MLDB
(R206, R242, R245, R309). -/
namespace Sys2Proof.Machine
open Sys2Proof

/-! ### HOST_MEMORY_WAITA_EVALUATION (R206) -/

/-- The WAITA on host memory that a fragment is parked on. -/
def hostWait (gr : Group) (e : Nat) : Option POp :=
  let x := gr.ent e
  match x.park with
  | .op p =>
    match p.instr, p.accs with
    | .waita _, a :: _ => if x.valid && decide (x.st = .parked) && !isDev a.pa then some { p with phase := 0 } else none
    | _, _ => none
  | _ => none

/-- The word is read once more. -/
def execHostMemoryWaitaEvaluation (g e : Nat) (s : State) : Out :=
  match s.group? g with
  | none => notEnabled "HOST_MEMORY_WAITA_EVALUATION"
  | some gr =>
    match hostWait gr e with
    | none => notEnabled "HOST_MEMORY_WAITA_EVALUATION"
    | some p =>
      if decide (gr.status ≠ .swapped) && s.plat.linkUp then .next (wakeAll (wakeFrag s g e gr p)) else notEnabled "HOST_MEMORY_WAITA_EVALUATION"

/-! ### PCIE_COMPLETION (R309) -/

/-- No lane before it is still to be sent. -/
def pcieNext (s : State) (q : Req) : Bool :=
  !(s.m.reqs.any fun x => x.kind == .hostAtomic && x.agent == q.agent && x.seq == q.seq && decide (x.id < q.id) && !x.performed)

/-- The host has performed a lane's AtomicOp and returns the old value; under replay, the logged one. -/
def execPcieCompletion (r : Nat) (data : Word) (s : State) : Out :=
  match findReq s r with
  | none => notEnabled "PCIE_COMPLETION"
  | some q =>
    match q.accs, q.orig with
    | a :: _, .grp g _ =>
      if q.kind ≠ .hostAtomic || !reqTurn s q || !s.plat.linkUp || !pcieNext s q || slotStalls s (slotOfAgent s g) then notEnabled "PCIE_COMPLETION"
      else
        let live := data.toNat % 2 ^ (8 * a.size)
        let v : Nat × State := match logValue s g q.split 8 with
          | some x => (x.1 % 2 ^ (8 * a.size), x.2)
          | none => (live, valueRec s g q.split 8 live 0 [])
        let bs := leBytes a.size (atomStep q.x q.ty v.1 a.b.toNat a.c.toNat)
        let s1 := digestWrite (physWrite v.2 a.pa bs) g q.chunk q.seq a.lane a.va a.size bs
        .next (afterPerform (finishReq s1 { q with vals := [(a.lane, BitVec.ofNat 64 v.1)] } []))
    | _, _ => notEnabled "PCIE_COMPLETION"

/-! ### MMA_COMPLETION and MLDB_COMPLETION (R242, R245) -/

/-- The first job of a kind, and the jobs without it. -/
def takeJob (mma : Bool) : List MxJob → Option (MxJob × List MxJob)
  | [] => none
  | j :: t => if j.mma == mma then some (j, t) else (takeJob mma t).map fun r => (r.1, j :: r.2)

/-- The cluster that holds a logical cluster's context runs. -/
def coreRuns (s : State) (l : Nat) : Bool := (physClu s l).any (clockRuns s)

def execMmaCompletion (l : Nat) (s : State) : Out :=
  let m := s.mxD l
  match takeJob true m.jobs with
  | none => notEnabled "MMA_COMPLETION"
  | some (_, rest) => when "MMA_COMPLETION" (coreRuns s l) (wakeAll (s.setMx l { m with jobs := rest }))

def execMldbCompletion (l : Nat) (s : State) : Out :=
  let m := s.mxD l
  let came := fun (j : MxJob) => (parkedAt s l).any fun p => decide (p.ev = .mldb l j.bs)
  match m.jobs.find? fun j => !j.mma && !came j with
  | none => notEnabled "MLDB_COMPLETION"
  | some j =>
    if coreRuns s l then .next (wakeAll (mldbDone s l j.bs))
    else if j.mem then match parkAt s l 0 (.mldb l j.bs) with
      | some s1 => .next s1
      | none => notEnabled "MLDB_COMPLETION"
    else notEnabled "MLDB_COMPLETION"

end Sys2Proof.Machine
end

