-- ==== Sys2Proof/Machine/Dispatch.lean ====
section
/-! DEFINITION. The dispatcher: one arm for each constructor of `Instr`. -/
namespace Sys2Proof.Machine
open Sys2Proof

/-- Carries out an instruction or an operation. -/
def exec (i : Instr) (s : State) : Host.Outcome State Fault Refusal :=
  match i with
  | .add x => Sys2Proof.Machine.execAdd x s
  | .sub x => Sys2Proof.Machine.execSub x s
  | .mul x => Sys2Proof.Machine.execMul x s
  | .mulhi x => Sys2Proof.Machine.execMulhi x s
  | .mad x => Sys2Proof.Machine.execMad x s
  | .min x => Sys2Proof.Machine.execMin x s
  | .max x => Sys2Proof.Machine.execMax x s
  | .adif x => Sys2Proof.Machine.execAdif x s
  | .and x => Sys2Proof.Machine.execAnd x s
  | .or x => Sys2Proof.Machine.execOr x s
  | .xor x => Sys2Proof.Machine.execXor x s
  | .not x => Sys2Proof.Machine.execNot x s
  | .shl x => Sys2Proof.Machine.execShl x s
  | .shr x => Sys2Proof.Machine.execShr x s
  | .rot x => Sys2Proof.Machine.execRot x s
  | .sel x => Sys2Proof.Machine.execSel x s
  | .cmp x => Sys2Proof.Machine.execCmp x s
  | .clz x => Sys2Proof.Machine.execClz x s
  | .popc x => Sys2Proof.Machine.execPopc x s
  | .brev x => Sys2Proof.Machine.execBrev x s
  | .bfe x => Sys2Proof.Machine.execBfe x s
  | .bfi x => Sys2Proof.Machine.execBfi x s
  | .lane x => Sys2Proof.Machine.execLane x s
  | .mov x => Sys2Proof.Machine.execMov x s
  | .addi x => Sys2Proof.Machine.execAddi x s
  | .andi x => Sys2Proof.Machine.execAndi x s
  | .ori x => Sys2Proof.Machine.execOri x s
  | .xori x => Sys2Proof.Machine.execXori x s
  | .movi x => Sys2Proof.Machine.execMovi x s
  | .muli x => Sys2Proof.Machine.execMuli x s
  | .sadd x => Sys2Proof.Machine.execSadd x s
  | .ssub x => Sys2Proof.Machine.execSsub x s
  | .smul x => Sys2Proof.Machine.execSmul x s
  | .smulhi x => Sys2Proof.Machine.execSmulhi x s
  | .smin x => Sys2Proof.Machine.execSmin x s
  | .smax x => Sys2Proof.Machine.execSmax x s
  | .sand x => Sys2Proof.Machine.execSand x s
  | .sor x => Sys2Proof.Machine.execSor x s
  | .sxor x => Sys2Proof.Machine.execSxor x s
  | .sshl x => Sys2Proof.Machine.execSshl x s
  | .sshr x => Sys2Proof.Machine.execSshr x s
  | .scmp x => Sys2Proof.Machine.execScmp x s
  | .smov x => Sys2Proof.Machine.execSmov x s
  | .sclz x => Sys2Proof.Machine.execSclz x s
  | .spopc x => Sys2Proof.Machine.execSpopc x s
  | .saddi x => Sys2Proof.Machine.execSaddi x s
  | .sandi x => Sys2Proof.Machine.execSandi x s
  | .sori x => Sys2Proof.Machine.execSori x s
  | .sxori x => Sys2Proof.Machine.execSxori x s
  | .smovi x => Sys2Proof.Machine.execSmovi x s
  | .scmpi x => Sys2Proof.Machine.execScmpi x s
  | .qop x => Sys2Proof.Machine.execQop x s
  | .qtest x => Sys2Proof.Machine.execQtest x s
  | .lea x => Sys2Proof.Machine.execLea x s
  | .slea x => Sys2Proof.Machine.execSlea x s
  | .fadd x => Sys2Proof.Machine.execFadd x s
  | .fsub x => Sys2Proof.Machine.execFsub x s
  | .fmul x => Sys2Proof.Machine.execFmul x s
  | .fma x => Sys2Proof.Machine.execFma x s
  | .fmin x => Sys2Proof.Machine.execFmin x s
  | .fmax x => Sys2Proof.Machine.execFmax x s
  | .fsgn x => Sys2Proof.Machine.execFsgn x s
  | .fcmp x => Sys2Proof.Machine.execFcmp x s
  | .fclass x => Sys2Proof.Machine.execFclass x s
  | .frnd x => Sys2Proof.Machine.execFrnd x s
  | .sfadd x => Sys2Proof.Machine.execSfadd x s
  | .sfmul x => Sys2Proof.Machine.execSfmul x s
  | .sfma x => Sys2Proof.Machine.execSfma x s
  | .sfcmp x => Sys2Proof.Machine.execSfcmp x s
  | .cvt x => Sys2Proof.Machine.execCvt x s
  | .scvt x => Sys2Proof.Machine.execScvt x s
  | .pack2 x => Sys2Proof.Machine.execPack2 x s
  | .unpack x => Sys2Proof.Machine.execUnpack x s
  | .scale x => Sys2Proof.Machine.execScale x s
  | .fdot2 x => Sys2Proof.Machine.execFdot2 x s
  | .exp2 x => Sys2Proof.Machine.execExp2 x s
  | .log2 x => Sys2Proof.Machine.execLog2 x s
  | .rcp x => Sys2Proof.Machine.execRcp x s
  | .rsq x => Sys2Proof.Machine.execRsq x s
  | .sqrt x => Sys2Proof.Machine.execSqrt x s
  | .sin x => Sys2Proof.Machine.execSin x s
  | .cos x => Sys2Proof.Machine.execCos x s
  | .tanh x => Sys2Proof.Machine.execTanh x s
  | .sfn x => Sys2Proof.Machine.execSfn x s
  | .shfl x => Sys2Proof.Machine.execShfl x s
  | .shflup x => Sys2Proof.Machine.execShflup x s
  | .shfldn x => Sys2Proof.Machine.execShfldn x s
  | .shflx x => Sys2Proof.Machine.execShflx x s
  | .bcast x => Sys2Proof.Machine.execBcast x s
  | .red x => Sys2Proof.Machine.execRed x s
  | .scan x => Sys2Proof.Machine.execScan x s
  | .ballot x => Sys2Proof.Machine.execBallot x s
  | .vote x => Sys2Proof.Machine.execVote x s
  | .popl x => Sys2Proof.Machine.execPopl x s
  | .first x => Sys2Proof.Machine.execFirst x s
  | .rdlane x => Sys2Proof.Machine.execRdlane x s
  | .wrlane x => Sys2Proof.Machine.execWrlane x s
  | .ldN8 x => Sys2Proof.Machine.execLdN8 x s
  | .ldI8 x => Sys2Proof.Machine.execLdI8 x s
  | .ldN16 x => Sys2Proof.Machine.execLdN16 x s
  | .ldI16 x => Sys2Proof.Machine.execLdI16 x s
  | .ldB32 x => Sys2Proof.Machine.execLdB32 x s
  | .ldB64 x => Sys2Proof.Machine.execLdB64 x s
  | .stN8 x => Sys2Proof.Machine.execStN8 x s
  | .stN16 x => Sys2Proof.Machine.execStN16 x s
  | .stB32 x => Sys2Proof.Machine.execStB32 x s
  | .stB64 x => Sys2Proof.Machine.execStB64 x s
  | .sldB32 x => Sys2Proof.Machine.execSldB32 x s
  | .sldB64 x => Sys2Proof.Machine.execSldB64 x s
  | .sstB32 x => Sys2Proof.Machine.execSstB32 x s
  | .sstB64 x => Sys2Proof.Machine.execSstB64 x s
  | .fence x => Sys2Proof.Machine.execFence x s
  | .pref x => Sys2Proof.Machine.execPref x s
  | .pgreq x => Sys2Proof.Machine.execPgreq x s
  | .talloc x => Sys2Proof.Machine.execTalloc x s
  | .tfree x => Sys2Proof.Machine.execTfree x s
  | .tld x => Sys2Proof.Machine.execTld x s
  | .tldXp8 x => Sys2Proof.Machine.execTldXp8 x s
  | .tldXp16 x => Sys2Proof.Machine.execTldXp16 x s
  | .tst x => Sys2Proof.Machine.execTst x s
  | .seal x => Sys2Proof.Machine.execSeal x s
  | .reuse x => Sys2Proof.Machine.execReuse x s
  | .flush x => Sys2Proof.Machine.execFlush x s
  | .reshint x => Sys2Proof.Machine.execReshint x s
  | .atom x => Sys2Proof.Machine.execAtom x s
  | .satom x => Sys2Proof.Machine.execSatom x s
  | .redM x => Sys2Proof.Machine.execRedM x s
  | .barv x => Sys2Proof.Machine.execBarv x s
  | .bwait x => Sys2Proof.Machine.execBwait x s
  | .barw x => Sys2Proof.Machine.execBarw x s
  | .bgrp x => Sys2Proof.Machine.execBgrp x s
  | .gjoin x => Sys2Proof.Machine.execGjoin x s
  | .gleave x => Sys2Proof.Machine.execGleave x s
  | .waita x => Sys2Proof.Machine.execWaita x s
  | .waitat x => Sys2Proof.Machine.execWaitat x s
  | .rdv x => Sys2Proof.Machine.execRdv x s
  | .fst x => Sys2Proof.Machine.execFst x s
  | .fld x => Sys2Proof.Machine.execFld x s
  | .fatom x => Sys2Proof.Machine.execFatom x s
  | .ffence x => Sys2Proof.Machine.execFfence x s
  | .coll x => Sys2Proof.Machine.execColl x s
  | .fwaitc x => Sys2Proof.Machine.execFwaitc x s
  | .br x => Sys2Proof.Machine.execBr x s
  | .brany x => Sys2Proof.Machine.execBrany x s
  | .brnone x => Sys2Proof.Machine.execBrnone x s
  | .call x => Sys2Proof.Machine.execCall x s
  | .calli x => Sys2Proof.Machine.execCalli x s
  | .jmpi x => Sys2Proof.Machine.execJmpi x s
  | .ret x => Sys2Proof.Machine.execRet x s
  | .mark x => Sys2Proof.Machine.execMark x s
  | .forkm x => Sys2Proof.Machine.execForkm x s
  | .join x => Sys2Proof.Machine.execJoin x s
  | .exit x => Sys2Proof.Machine.execExit x s
  | .mfeed x => Sys2Proof.Machine.execMfeed x s
  | .mfeedt x => Sys2Proof.Machine.execMfeedt x s
  | .mdrain x => Sys2Proof.Machine.execMdrain x s
  | .mdrainTl x => Sys2Proof.Machine.execMdrainTl x s
  | .fork x => Sys2Proof.Machine.execFork x s
  | .csrr x => Sys2Proof.Machine.execCsrr x s
  | .csrw x => Sys2Proof.Machine.execCsrw x s
  | .sigchk x => Sys2Proof.Machine.execSigchk x s
  | .trap x => Sys2Proof.Machine.execTrap x s
  | .trapAbort x => Sys2Proof.Machine.execTrapAbort x s
  | .brk x => Sys2Proof.Machine.execBrk x s
  | .time x => Sys2Proof.Machine.execTime x s
  | .perf x => Sys2Proof.Machine.execPerf x s
  | .nop x => Sys2Proof.Machine.execNop x s
  | .recmark x => Sys2Proof.Machine.execRecmark x s
  | .recmode x => Sys2Proof.Machine.execRecmode x s
  | .spawn x => Sys2Proof.Machine.execSpawn x s
  | .tdep x => Sys2Proof.Machine.execTdep x s
  | .cadd x => Sys2Proof.Machine.execCadd x s
  | .csub x => Sys2Proof.Machine.execCsub x s
  | .cmul x => Sys2Proof.Machine.execCmul x s
  | .cand x => Sys2Proof.Machine.execCand x s
  | .cor x => Sys2Proof.Machine.execCor x s
  | .cxor x => Sys2Proof.Machine.execCxor x s
  | .cshl x => Sys2Proof.Machine.execCshl x s
  | .cshr x => Sys2Proof.Machine.execCshr x s
  | .cmovi x => Sys2Proof.Machine.execCmovi x s
  | .cmoviHi x => Sys2Proof.Machine.execCmoviHi x s
  | .ccmp x => Sys2Proof.Machine.execCcmp x s
  | .cld x => Sys2Proof.Machine.execCld x s
  | .cst x => Sys2Proof.Machine.execCst x s
  | .cbr x => Sys2Proof.Machine.execCbr x s
  | .cloop x => Sys2Proof.Machine.execCloop x s
  | .cjmp x => Sys2Proof.Machine.execCjmp x s
  | .cexit x => Sys2Proof.Machine.execCexit x s
  | .crdv x => Sys2Proof.Machine.execCrdv x s
  | .mzero x => Sys2Proof.Machine.execMzero x s
  | .mma x => Sys2Proof.Machine.execMma x s
  | .mscaleA x => Sys2Proof.Machine.execMscaleA x s
  | .mscaleB x => Sys2Proof.Machine.execMscaleB x s
  | .mldb x => Sys2Proof.Machine.execMldb x s
  | .mldbM x => Sys2Proof.Machine.execMldbM x s
  | .mpub x => Sys2Proof.Machine.execMpub x s
  | .mdone x => Sys2Proof.Machine.execMdone x s
  | .mstamp x => Sys2Proof.Machine.execMstamp x s
  | .mwaitPub x => Sys2Proof.Machine.execMwaitPub x s
  | .mwaitA x => Sys2Proof.Machine.execMwaitA x s
  | .clauseFetch x0 x1 => Sys2Proof.Machine.execClauseFetch x0 x1 s
  | .fragmentSelect x => Sys2Proof.Machine.execFragmentSelect x s
  | .ageingForce x0 x1 => Sys2Proof.Machine.execAgeingForce x0 x1 s
  | .clauseCommit x => Sys2Proof.Machine.execClauseCommit x s
  | .tokenClear x0 x1 => Sys2Proof.Machine.execTokenClear x0 x1 s
  | .lateFaultReport x => Sys2Proof.Machine.execLateFaultReport x s
  | .debugHalt x0 x1 x2 => Sys2Proof.Machine.execDebugHalt x0 x1 x2 s
  | .debugResume x0 x1 x2 => Sys2Proof.Machine.execDebugResume x0 x1 x2 s
  | .groupRetire x => Sys2Proof.Machine.execGroupRetire x s
  | .blockRetire x => Sys2Proof.Machine.execBlockRetire x s
  | .task x0 x1 => Sys2Proof.Machine.execTask x0 x1 s
  | .graph x0 x1 => Sys2Proof.Machine.execGraph x0 x1 s
  | .gdef x0 x1 => Sys2Proof.Machine.execGdef x0 x1 s
  | .gdrop x0 x1 => Sys2Proof.Machine.execGdrop x0 x1 s
  | .spawnParse x0 x1 => Sys2Proof.Machine.execSpawnParse x0 x1 s
  | .gangPlace x => Sys2Proof.Machine.execGangPlace x s
  | .rangeRequest x0 x1 x2 => Sys2Proof.Machine.execRangeRequest x0 x1 x2 s
  | .reportWrite x => Sys2Proof.Machine.execReportWrite x s
  | .swapOut x0 x1 => Sys2Proof.Machine.execSwapOut x0 x1 s
  | .swapIn x0 x1 => Sys2Proof.Machine.execSwapIn x0 x1 s
  | .syscallRequest x => Sys2Proof.Machine.execSyscallRequest x s
  | .syscallReply x => Sys2Proof.Machine.execSyscallReply x s
  | .gangKill x0 x1 => Sys2Proof.Machine.execGangKill x0 x1 s
  | .dieFailure x => Sys2Proof.Machine.execDieFailure x s
  | .hbmStackFailure x0 x1 => Sys2Proof.Machine.execHbmStackFailure x0 x1 s
  | .hostLinkFault => Sys2Proof.Machine.execHostLinkFault s
  | .hostLinkRetrain => Sys2Proof.Machine.execHostLinkRetrain s
  | .deviceFailure => Sys2Proof.Machine.execDeviceFailure s
  | .loadRequest x => Sys2Proof.Machine.execLoadRequest x s
  | .loadResponse x => Sys2Proof.Machine.execLoadResponse x s
  | .storeRequest x => Sys2Proof.Machine.execStoreRequest x s
  | .atomicRequest x => Sys2Proof.Machine.execAtomicRequest x s
  | .releaseWalk x => Sys2Proof.Machine.execReleaseWalk x s
  | .holdReservation x => Sys2Proof.Machine.execHoldReservation x s
  | .reservationGrant x => Sys2Proof.Machine.execReservationGrant x s
  | .l1Invalidation x0 x1 => Sys2Proof.Machine.execL1Invalidation x0 x1 s
  | .l1Fill x0 x1 => Sys2Proof.Machine.execL1Fill x0 x1 s
  | .l3Eviction x => Sys2Proof.Machine.execL3Eviction x s
  | .hostRead x0 x1 => Sys2Proof.Machine.execHostRead x0 x1 s
  | .hostWrite x0 x1 x2 => Sys2Proof.Machine.execHostWrite x0 x1 x2 s
  | .hostOwnershipRequest x0 x1 => Sys2Proof.Machine.execHostOwnershipRequest x0 x1 s
  | .biResponse x0 x1 => Sys2Proof.Machine.execBiResponse x0 x1 s
  | .hbmRead x0 x1 => Sys2Proof.Machine.execHbmRead x0 x1 s
  | .patrolScrub => Sys2Proof.Machine.execPatrolScrub s
  | .pageWalk x0 x1 x2 => Sys2Proof.Machine.execPageWalk x0 x1 x2 s
  | .pageRequestSend x0 x1 => Sys2Proof.Machine.execPageRequestSend x0 x1 s
  | .pgparkTimeout x0 x1 => Sys2Proof.Machine.execPgparkTimeout x0 x1 s
  | .prgResponse x0 x1 => Sys2Proof.Machine.execPrgResponse x0 x1 s
  | .tlbiRange x0 x1 x2 => Sys2Proof.Machine.execTlbiRange x0 x1 x2 s
  | .tlbiPasid x => Sys2Proof.Machine.execTlbiPasid x s
  | .tlbiAll => Sys2Proof.Machine.execTlbiAll s
  | .tlbiDone => Sys2Proof.Machine.execTlbiDone s
  | .retypeBegin x0 x1 => Sys2Proof.Machine.execRetypeBegin x0 x1 s
  | .retypeApply => Sys2Proof.Machine.execRetypeApply s
  | .retypeCancel => Sys2Proof.Machine.execRetypeCancel s
  | .copyChunk x => Sys2Proof.Machine.execCopyChunk x s
  | .copyFlagWrite x => Sys2Proof.Machine.execCopyFlagWrite x s
  | .ttuTranslate x0 x1 => Sys2Proof.Machine.execTtuTranslate x0 x1 s
  | .ldreq x0 x1 => Sys2Proof.Machine.execLdreq x0 x1 s
  | .atreq x0 x1 => Sys2Proof.Machine.execAtreq x0 x1 s
  | .streq x0 x1 => Sys2Proof.Machine.execStreq x0 x1 s
  | .ldrsp x0 x1 => Sys2Proof.Machine.execLdrsp x0 x1 s
  | .atrsp x0 x1 => Sys2Proof.Machine.execAtrsp x0 x1 s
  | .stack x0 x1 => Sys2Proof.Machine.execStack x0 x1 s
  | .fencePacket x0 x1 => Sys2Proof.Machine.execFencePacket x0 x1 s
  | .fenack x0 x1 => Sys2Proof.Machine.execFenack x0 x1 s
  | .cdata x0 x1 => Sys2Proof.Machine.execCdata x0 x1 s
  | .cctl x0 x1 => Sys2Proof.Machine.execCctl x0 x1 s
  | .collectiveComplete x0 x1 => Sys2Proof.Machine.execCollectiveComplete x0 x1 s
  | .logfrm x0 x1 => Sys2Proof.Machine.execLogfrm x0 x1 s
  | .ckpt x0 x1 => Sys2Proof.Machine.execCkpt x0 x1 s
  | .idleFlit x0 x1 x2 => Sys2Proof.Machine.execIdleFlit x0 x1 x2 s
  | .resendRequest x0 x1 => Sys2Proof.Machine.execResendRequest x0 x1 s
  | .badFlit x => Sys2Proof.Machine.execBadFlit x s
  | .retryTimeout x => Sys2Proof.Machine.execRetryTimeout x s
  | .arbitrationDecision x => Sys2Proof.Machine.execArbitrationDecision x s
  | .ftoTimeout x => Sys2Proof.Machine.execFtoTimeout x s
  | .frameWrite x0 x1 x2 => Sys2Proof.Machine.execFrameWrite x0 x1 x2 s
  | .twinProgress x0 x1 => Sys2Proof.Machine.execTwinProgress x0 x1 s
  | .replayChunkStart x0 x1 => Sys2Proof.Machine.execReplayChunkStart x0 x1 s
  | .replayBreakpoint x0 x1 => Sys2Proof.Machine.execReplayBreakpoint x0 x1 s
  | .replayEventTimeout x => Sys2Proof.Machine.execReplayEventTimeout x s
  | .freeze x0 x1 x2 => Sys2Proof.Machine.execFreeze x0 x1 x2 s
  | .restore x0 x1 => Sys2Proof.Machine.execRestore x0 x1 s
  | .discard x0 x1 => Sys2Proof.Machine.execDiscard x0 x1 s
  | .fzctlSlotWrite x0 x1 => Sys2Proof.Machine.execFzctlSlotWrite x0 x1 s
  | .fzdevWrite x => Sys2Proof.Machine.execFzdevWrite x s
  | .clockStop x => Sys2Proof.Machine.execClockStop x s
  | .imageStaged x => Sys2Proof.Machine.execImageStaged x s
  | .imageStored x => Sys2Proof.Machine.execImageStored x s
  | .l1Drain x => Sys2Proof.Machine.execL1Drain x s
  | .restoreClockStart x => Sys2Proof.Machine.execRestoreClockStart x s
  | .take => Sys2Proof.Machine.execTake s
  | .load => Sys2Proof.Machine.execLoad s
  | .grant x => Sys2Proof.Machine.execGrant x s
  | .delegate x0 x1 x2 x3 => Sys2Proof.Machine.execDelegate x0 x1 x2 x3 s
  | .revoke x0 x1 => Sys2Proof.Machine.execRevoke x0 x1 s
  | .traceSample x0 x1 => Sys2Proof.Machine.execTraceSample x0 x1 s
  | .watchpointReport x => Sys2Proof.Machine.execWatchpointReport x s
  | .operatingPointChange x => Sys2Proof.Machine.execOperatingPointChange x s
  | .powerLimit x => Sys2Proof.Machine.execPowerLimit x s
  | .reset => Sys2Proof.Machine.execReset s
  | .powerOn x0 x1 => Sys2Proof.Machine.execPowerOn x0 x1 s
  | .firmwareUpdate x => Sys2Proof.Machine.execFirmwareUpdate x s
  | .spdmMeasurementRequest x0 x1 => Sys2Proof.Machine.execSpdmMeasurementRequest x0 x1 s
  | .qctlWrite x0 x1 => Sys2Proof.Machine.execQctlWrite x0 x1 s
  | .scctlWrite x0 x1 => Sys2Proof.Machine.execScctlWrite x0 x1 s
  | .pgctlWrite x => Sys2Proof.Machine.execPgctlWrite x s
  | .fcfgWrite x => Sys2Proof.Machine.execFcfgWrite x s
  | .rctlWrite x0 x1 => Sys2Proof.Machine.execRctlWrite x0 x1 s
  | .rrtailWrite x0 x1 => Sys2Proof.Machine.execRrtailWrite x0 x1 s
  | .rbkaWrite x0 x1 => Sys2Proof.Machine.execRbkaWrite x0 x1 s
  | .elringWrite x => Sys2Proof.Machine.execElringWrite x s
  | .registerWrite x0 x1 x2 => Sys2Proof.Machine.execRegisterWrite x0 x1 x2 s
  | .linkTraining x0 x1 => Sys2Proof.Machine.execLinkTraining x0 x1 s
  | .hostMemoryWaitaEvaluation x0 x1 => Sys2Proof.Machine.execHostMemoryWaitaEvaluation x0 x1 s
  | .twinLoss x => Sys2Proof.Machine.execTwinLoss x s
  | .pcieCompletion x0 x1 => Sys2Proof.Machine.execPcieCompletion x0 x1 s
  | .mmaCompletion x => Sys2Proof.Machine.execMmaCompletion x s
  | .mldbCompletion x => Sys2Proof.Machine.execMldbCompletion x s
  | .changeOfPointComplete => Sys2Proof.Machine.execChangeOfPointComplete s

end Sys2Proof.Machine
end

