-- ==== Sys2Proof/Machine/Step.lean ====
section
/-! DEFINITION. One step of the machine. -/
namespace Sys2Proof.Machine
open Sys2Proof

/-- The agenda's head, or the next word of the agent that issues (Issue.lean says what that is). -/
def step (s : State) : Host.Outcome State Fault Refusal :=
  match nextTodo s with
  | .run i t => exec i t
  | .out o => o

/-- The state with a word where the next step fetches it: in a clause of a group or of a control core. -/
def State.withFetchWord (s : State) (nbits w : Nat) : State := if nbits ≤ 64 then placeWord s (BitVec.ofNat 64 (w % 2 ^ nbits)) else s

end Sys2Proof.Machine
end

