-- ==== Sys2Proof/Machine/Readings.lean ====
section
/-! DEFINITION. What a register of the hub reads as (R3), and the words in which the device shows its tables: word tags, directory and
frame-type entries (R85, R86, R106, R222, R266, R289, R296, R297, R316, R322, R327, R336 to R345, R359, R378, R384, R400, R412, R415, R422,
R434, R435). Reserved bits read as zero. -/
namespace Sys2Proof.Machine
open Sys2Proof

/-- A word from its fields, each with the place of its lowest bit. -/
def fields (l : List (Nat × Nat)) : Word := BitVec.ofNat 64 (l.map fun x => x.2 * 2 ^ x.1).sum

/-- Four byte fields, the first lowest. -/
def bytesWord (l : List Nat) : Nat := leNat (l.map fun x => BitVec.ofNat 8 x)

/-- Registers of the dispatch engine and the system-call rings. -/
def readQueue (s : State) (r : HubReg) (i : Nat) : Word :=
  let q := s.queueD i
  let c := s.disp.sets.get i {}
  match r with
  | .qctl => qctlWord s i
  | .qwin => fields [(0, q.win)]
  | .qcmp => fields [(0, q.cmp)]
  | .qhead => fields [(0, q.head)]
  | .clsw => fields [(0, bytesWord s.disp.clsw)]
  | .dpol => fields [(0, s.disp.relim)]
  | .scctl => fields [(44, c.pasid), (40, c.log), (0, b2n c.en)]
  | .scrqb => fields [(0, c.rqb)]
  | .scrpb => fields [(0, c.rpb)]
  | .scrqh => fields [(0, c.rqh)]
  | .scrpt => fields [(0, c.rpt)]
  | .scstat => fields [(32, c.rqt % 2 ^ 32), (0, c.rph % 2 ^ 32)]
  | _ => 0

/-- Registers of the memory and copy engines. -/
def readMem (s : State) (r : HubReg) (i : Nat) : Word :=
  let m := s.m
  match r with
  | .l2pin => fields [(0, m.l2pin)]
  | .cqnt => fields [(0, bytesWord s.cqnt)]
  | .rtbase => fields [(0, m.retype.base)]
  | .rtctl => fields [(62, m.retype.newct.toNat), (60, m.retype.op), (0, m.retype.count)]
  | .rtstat => fields [(61, m.retype.state), (56, m.retype.reason), (0, m.retype.done)]
  | .tlbia => fields [(0, m.tlbi.va)]
  | .tlbic => fields [(44, m.tlbi.pasid), (42, m.tlbi.op), (0, m.tlbi.count)]
  | .tlbis => fields [(63, b2n m.tlbi.busy), (0, m.tlbi.done)]
  | .pgctl => fields [(16, m.pgpto), (15, b2n m.rf), (0, m.prgmax)]
  | .pasidEntry => (match m.pasids.find? i with | some p => fields [(0, p.root), (1, b2n p.lv5), (0, b2n p.en)] | none => 0)
  | _ => 0

/-- Registers of the fabric. -/
def readFab (s : State) (r : HubReg) (i : Nat) : Word :=
  let f := s.fab
  let w := f.wins.get i {}
  match r with
  | .fcfg => fields [(31, b2n f.mesh), (30, b2n f.en), (0, f.devno)]
  | .fmesh => fields [(0, f.dir.toNat)]
  | .devrt => fields [(0, (f.devrt.get i 0).toNat)]
  | .domrt => fields [(0, (f.domrt.get i 0).toNat)]
  | .farb => fields [(32, f.age), (0, bytesWord f.vcw)]
  | .ftime => fields [(0, f.fto)]
  | .fwin => fields [(63, b2n w.v), (62, b2n w.w), (61, b2n w.rd), (24, w.size), (0, w.base)]
  | _ => 0

/-- Registers of the recorder, of freezes and of checkpoints. -/
def readRec (s : State) (r : HubReg) (i : Nat) : Word :=
  let p := rpart s i
  let b : Rbk := s.damask.rbk.get i {}
  let x := cluD s i
  let st := match x.state with | .idle => 0 | .running => 1 | .stopping => 2 | .scanning => 3 | .restoring => 4
  match r with
  | .rctl => rctlWord s i
  | .rqmlo => p.qm.extractLsb' 0 64
  | .rqmhi => p.qm.extractLsb' 64 64
  | .rpart => p.id
  | .rrbase => fields [(0, p.base)]
  | .rrhead => fields [(0, p.head)]
  | .rrtail => fields [(0, p.tail)]
  | .rbks => b.stamp
  | .rbka => fields [(63, b2n b.v), (62, b2n b.all), (61, b2n b.any), (28, b.cap), (24, b.split), (0, b.agent)]
  | .fzctl => fields [(0, x.imgbase), (2, x.src), (0, x.op)]
  | .fzstat => fields [(61, st), (60, b2n x.stg), (59, b2n x.sto), (48, x.reason), (16, x.lclu.getD x.lcluField)]
  | .ckctl => fields [(0, s.ck.cmd), (0, b2n s.ck.go)]
  | .rfront => (match frontierOf s i with | some n => BitVec.ofNat 64 n | none => Config.unstatedReading 0)
  | .fzdev => Config.unstatedReading 1
  | .ckstat => fields [(61, s.ck.state), (56, s.ck.reason), (0, s.ck.nshard)]
  | _ => 0

/-- Registers of trace sessions, watchpoints, the error log and power. -/
def readDbg (s : State) (r : HubReg) (i : Nat) : Word :=
  let x := sessD s i
  let w := watchD s i
  match r with
  | .tsctl => fields [(56, x.cap), (40, x.kinds.toNat), (24, x.sper), (0, b2n x.en)]
  | .tstask => fields [(0, x.task)]
  | .tsring => fields [(0, x.base), (0, x.sizelog)]
  | .tsstat => fields [(32, x.head), (0, min x.lost (2 ^ 32 - 1))]
  | .wpbase => fields [(0, w.base)]
  | .wpctl => fields [(56, w.cap), (53, w.sess), (49, b2n w.act), (48, b2n w.atm), (47, b2n w.wr), (46, b2n w.rd), (0, w.lines)]
  | .elring => fields [(0, s.plat.elBase), (0, s.plat.elLog)]
  | .elhead => fields [(0, s.plat.elHead)]
  | .eltail => fields [(0, s.plat.elTail)]
  | .pwrctl => fields [(32, s.plat.cap), (4, s.plat.ptop), (0, s.plat.pnow)]
  | _ => 0

/-- What a register reads as. -/
def readReg (s : State) (r : HubReg) (i : Nat) : Word :=
  match r with
  | .qctl | .qwin | .qcmp | .qhead | .clsw | .dpol | .scctl | .scrqb | .scrpb | .scrqh | .scrpt | .scstat => readQueue s r i
  | .l2pin | .cqnt | .rtbase | .rtctl | .rtstat | .tlbia | .tlbic | .tlbis | .pgctl | .pasidEntry => readMem s r i
  | .fcfg | .fmesh | .devrt | .domrt | .farb | .ftime | .fwin => readFab s r i
  | .rctl | .rqmlo | .rqmhi | .rpart | .rrbase | .rrhead | .rrtail | .rbks | .rbka | .fzctl | .fzstat | .ckctl | .ckstat | .rfront | .fzdev => readRec s r i
  | .tsctl | .tstask | .tsring | .tsstat | .wpbase | .wpctl | .elring | .elhead | .eltail | .pwrctl => readDbg s r i

/-- The 36 bits of the tag of word `w`, in a line that the L3 holds (R296). -/
def tagBits (s : State) (w : Nat) : BitVec 36 :=
  let t := tagAt s w
  BitVec.ofNat 36 (t.stamp * 2 ^ 33 + b2n t.hold * 2 ^ 32 + b2n t.clm * 2 ^ 31 + wstOf s w * 2 ^ 29 + b2n t.valid * 2 ^ 25 + b2n t.dirty * 2 ^ 24
    + t.owner % 2 ^ 24)

/-- A directory entry (R297). -/
def dirBits (s : State) (line : Nat) : BitVec 128 :=
  let d := dirAt s line
  BitVec.ofNat 128 (d.shv.toNat * 2 ^ 16 + b2n d.host * 2 ^ 15 + b2n d.hostx * 2 ^ 14 + b2n (hpOf s line) * 2 ^ 13 + b2n d.noc * 2 ^ 12
    + b2n d.pend * 2 ^ 11)

/-- An entry of the frame-type table (R266). -/
def Frame.bits (f : Frame) : Word :=
  fields [(62, f.ty.toNat), (61, b2n f.rt), (60, b2n f.ob), (48, f.tgen), (27, f.oslot), (3, f.okid), (0, f.obid)]

/-! ### Debug (R409)

What the READ right gives: fault records, images, registers and memory of the subject. Nothing is read through an entry that is not valid, lacks
READ, or names another subject. The spec has no action that reads, so these are readings only (notes/assumptions/32). -/

/-- An entry of the capability table, as firmware reads it through its mailbox. -/
def Cap.bits (c : Cap) : Word :=
  fields [(63, b2n c.v), (62, b2n c.root), (55, c.rights.toNat), (47, c.parent), (20, c.holder), (0, c.subject)]

/-- Entry `i` lets its holder read what belongs to a process. -/
def mayRead (s : State) (i pasid : Nat) : Bool := (capD s i).has 1 && (capD s i).subject == pasid

/-- The fault record of a group (R191). -/
def debugRecord (s : State) (i : Nat) (g : Nat) : Option (List Byte) :=
  match s.group? g with
  | some gr => if mayRead s i (pasidOf s gr.block.gang.slot) then some gr.frec else none
  | none => none

/-- The matrix fault record of a cluster whose context a gang owns (R256). -/
def debugMatrixRecord (s : State) (i l : Nat) : Option (List Byte) :=
  match (s.mxD l).owner with
  | some g => if mayRead s i (pasidOf s g.slot) then some (s.mxD l).frec else none
  | none => none

/-- A vector register of a group, lane by lane; a scalar; the PC and mask of a fragment. -/
def debugRegister (s : State) (i : Nat) (g : Nat) (r : Nat) : Option VReg :=
  match s.group? g with
  | some gr => if mayRead s i (pasidOf s gr.block.gang.slot) then some (gr.regs.getV r) else none
  | none => none
def debugScalar (s : State) (i : Nat) (g : Nat) (n : Nat) : Option Word :=
  match s.group? g with
  | some gr => if mayRead s i (pasidOf s gr.block.gang.slot) then some (gr.regs.getS n) else none
  | none => none
def debugFragment (s : State) (i : Nat) (g e : Nat) : Option (Nat × Mask) :=
  match s.group? g with
  | some gr => if mayRead s i (pasidOf s gr.block.gang.slot) then some ((gr.ent e).pc, (gr.ent e).mask) else none
  | none => none

/-- The bytes of a cluster image, every gang of which is the subject's. -/
def debugImage (s : State) (i : Nat) (im : Image) : Option (List Byte) :=
  if im.gangs.all fun g => mayRead s i (pasidOf s g.slot) then some (clusterImage s im) else none

/-- A byte of a process's memory, by virtual address. -/
def debugMemory (s : State) (i pasid va : Nat) : Option Byte :=
  match (walk s pasid va).1 with
  | .leaf e => if mayRead s i pasid && e.r then (physRead s (e.pa + va % e.size) 1).head? else none
  | _ => none

end Sys2Proof.Machine
end

