-- ==== Sys2Proof/Safety.lean ====
section
/-! DEFINITION. The terms in which claims about runs are stated: the canonical form of every memory, the slot of a clause at which an
instruction executes, what a slot leaves as it was, and the results each kind of instruction leaves. -/
namespace Sys2Proof.Safety
open Sys2Proof Sys2Proof.Machine

/-! ### The whole machine -/

/-- Every memory of the state is in its canonical form. -/
def MemoriesCanonical (s : State) : Prop :=
  s.mem.wf = true ∧ s.hostMem.wf = true ∧ s.hbm.wf = true ∧ s.parity.wf = true

/-- No byte of any memory differs. -/
def MemoryKept (s t : State) : Prop :=
  ∀ a, t.mem.get a = s.mem.get a ∧ t.hostMem.get a = s.hostMem.get a ∧ t.hbm.get a = s.hbm.get a ∧ t.parity.get a = s.parity.get a

/-- Nothing differs but the memory engine's own records (caches, requests, reservations) and the counter of new numbers: no byte of
memory, no group, no register. -/
def OnlyEngine (s t : State) : Prop := t = { s with m := t.m, ids := t.ids }

/-! ### A slot of a vector clause -/

/-- Group `g` stands at a slot of its clause where `i` executes: no latch it may not read, no register above its budget (R45,
R50). -/
def Ready (s : State) (g : Nat) (gr : Group) (c : Ctx) (i : Instr) : Prop :=
  issuing? s = some (g, gr, c) ∧ operandFault gr.vregs c.kinds i = none

/-- What every slot leaves as it was in the clause-local view, besides registers, condition codes and latches; the slot, its opcode,
its beats and its .rs draw are counted (R71, R129, R185). -/
def SlotKept (i : Instr) (c c' : Ctx) : Prop :=
  c'.slot = c.slot + 1 ∧ c'.ops = c.ops ++ [i.opcode] ∧ c'.entry = c.entry ∧ c'.addr = c.addr ∧ c'.hdr = c.hdr ∧ c'.words = c.words
    ∧ c'.mask = c.mask ∧ c'.marks = c.marks ∧ c'.faults = c.faults ∧ c'.tail = c.tail
    ∧ c'.beats = c.beats + (if i.shape.per then beatsOf c.mask else 0)
    ∧ c'.skipped = c.skipped + (if i.shape.per then 3 - beatsOf c.mask else 0)
    ∧ c'.rs = c.rs + (if i.isRs then 1 else 0)

/-- The held stores, tile operations and control-register writes of the clause are as they were. -/
def HeldKept (c c' : Ctx) : Prop :=
  c'.stores = c.stores ∧ c'.tsts = c.tsts ∧ c'.tops = c.tops ∧ c'.csrw = c.csrw ∧ c'.wait = c.wait ∧ c'.outs = c.outs

def VectorsKept (c c' : Ctx) : Prop := ∀ n, c'.view.getV n = c.view.getV n
/-- Scalar registers as an instruction reads them, the mask registers s60 to s62 among them. -/
def ScalarsKept (c c' : Ctx) : Prop := ∀ n, c'.getS n = c.getS n
def PredicatesKept (c c' : Ctx) : Prop := ∀ n, c'.view.getQ n = c.view.getQ n
def FlagsKept (c c' : Ctx) : Prop := c'.cc = c.cc ∧ c'.ccSlot = c.ccSlot

/-- The lanes of a vector register after a write: the lanes of `m` have the new value, the others keep theirs. -/
def LanesAre (v' v : VReg) (m : Mask) (f : Nat → BitVec 32) : Prop :=
  ∀ k, k < 96 → lane v' k = if m.getLsbD k then f k else lane v k

/-! ### Results -/

/-- A result on the lanes `m` of vD, or in the pair vD and vD+1 for a 64-bit type; NW keeps the register. The latch shows the result either
way (R45, R51, R52, R113). Nothing else changes. -/
def WritesLanesOf (i : Instr) (m : Ctx → Mask) (d : BitVec 7) (nw wide : Bool) (fn : Group → Ctx → Nat → Nat) : Prop :=
  ∀ s g gr c, Ready s g gr c i → ∃ c' l, exec i s = .next (s.setCtx g (some c'))
    ∧ SlotKept i c c' ∧ HeldKept c c' ∧ ScalarsKept c c' ∧ PredicatesKept c c' ∧ FlagsKept c c'
    ∧ (if nw then VectorsKept c c'
       else LanesAre (c'.view.getV d.toNat) (c.view.getV d.toNat) (m c) (fun k => BitVec.ofNat 32 (fn gr c k))
         ∧ (wide = true → LanesAre (c'.view.getV (d.toNat + 1)) (c.view.getV (d.toNat + 1)) (m c)
             (fun k => BitVec.ofNat 32 (fn gr c k / 2 ^ 32)))
         ∧ ∀ n, n ≠ d.toNat → (wide = true → n ≠ d.toNat + 1) → c'.view.getV n = c.view.getV n)
    ∧ c'.latch (c.slot % 8) = some l ∧ l.kind = (if wide then .v64 else .v32)
    ∧ LanesAre l.v (c.view.getV d.toNat) (m c) (fun k => BitVec.ofNat 32 (fn gr c k))
    ∧ (wide = true → LanesAre l.hi (c.view.getV (d.toNat + 1)) (m c) (fun k => BitVec.ofNat 32 (fn gr c k / 2 ^ 32)))

/-- A per-lane result on the lanes that execute (R52). -/
def WritesLanes (i : Instr) (p : Pred) (d : BitVec 7) (nw wide : Bool) (fn : Group → Ctx → Nat → Nat) : Prop :=
  WritesLanesOf i (fun c => c.exec p) d nw wide fn

/-- A uniform result in sD; s63 discards it, s60 to s62 take its low 32 bits ANDed with the fragment's OWN (R112, R114); NW keeps the
register. The latch shows the result (R45, R51). Nothing else changes. -/
def WritesScalar (i : Instr) (d : BitVec 7) (nw : Bool) (fn : Group → Ctx → Word) : Prop :=
  ∀ s g gr c, Ready s g gr c i → d.toNat < 64 → ∃ c' l, exec i s = .next (s.setCtx g (some c'))
    ∧ SlotKept i c c' ∧ HeldKept c c' ∧ VectorsKept c c' ∧ PredicatesKept c c' ∧ FlagsKept c c'
    ∧ (∀ n, c'.getS n =
        if n = d.toNat ∧ nw = false ∧ n ≠ 63 then
          (if 60 ≤ n ∧ n < 63 then (BitVec.setWidth 64 (BitVec.setWidth 32 (fn gr c) &&& maskWord (gr.ent c.entry).own (n - 60))) else fn gr c)
        else c.getS n)
    ∧ c'.latch (c.slot % 8) = some l ∧ l.kind = .s64 ∧ l.s = fn gr c

/-- What a slot that writes `v` to scalar `d` leaves: s63 discards it, s60 to s62 take its low 32 bits ANDed with the fragment's OWN (R112, R114); the
latch shows it (R45). Stores, tile operations and control-register writes held, vectors, predicates and flags are as they were. -/
def ScalarWritten (i : Instr) (d : Nat) (v : Word) (gr : Group) (c c' : Ctx) : Prop :=
  SlotKept i c c' ∧ VectorsKept c c' ∧ PredicatesKept c c' ∧ FlagsKept c c'
    ∧ c'.stores = c.stores ∧ c'.tsts = c.tsts ∧ c'.tops = c.tops ∧ c'.csrw = c.csrw ∧ c'.wait = c.wait
    ∧ (∀ n, c'.getS n =
        if n = d ∧ n ≠ 63 then
          (if 60 ≤ n ∧ n < 63 then BitVec.setWidth 64 (BitVec.setWidth 32 v &&& maskWord (gr.ent c.entry).own (n - 60)) else v)
        else c.getS n)
    ∧ ∃ l, c'.latch (c.slot % 8) = some l ∧ l.kind = .s64 ∧ l.s = v

/-- A per-lane result in the predicate qD, below q15: the executing lanes have the new bit, the others keep theirs (R115, R134). -/
def WritesPredicate (i : Instr) (p : Pred) (d : BitVec 7) (nw : Bool) (fn : Group → Ctx → Nat → Bool) : Prop :=
  ∀ s g gr c, Ready s g gr c i → d.toNat ≠ 15 → ∃ c' l, exec i s = .next (s.setCtx g (some c'))
    ∧ SlotKept i c c' ∧ HeldKept c c' ∧ VectorsKept c c' ∧ ScalarsKept c c' ∧ FlagsKept c c'
    ∧ (∀ k, k < 96 → (c'.view.getQ d.toNat).getLsbD k =
        if nw = false ∧ (c.exec p).getLsbD k = true then fn gr c k else (c.view.getQ d.toNat).getLsbD k)
    ∧ (∀ n, n ≠ d.toNat → c'.view.getQ n = c.view.getQ n)
    ∧ c'.latch (c.slot % 8) = some l ∧ l.kind = .q96
    ∧ (∀ k, k < 96 → l.q.getLsbD k = if (c.exec p).getLsbD k then fn gr c k else (c.view.getQ d.toNat).getLsbD k)

/-- New condition codes and nothing else; the latch stays unwritten (R45, R142, R167). -/
def WritesFlags (i : Instr) (fn : Group → Ctx → CC) : Prop :=
  ∀ s g gr c, Ready s g gr c i → ∃ c', exec i s = .next (s.setCtx g (some c'))
    ∧ SlotKept i c c' ∧ HeldKept c c' ∧ VectorsKept c c' ∧ ScalarsKept c c' ∧ PredicatesKept c c'
    ∧ c'.cc = fn gr c ∧ c'.ccSlot = c.slot + 1 ∧ c'.latch (c.slot % 8) = none

/-- A result that lands with a token (R47): the slot queues its writes and changes no register; the latch stays unwritten. -/
def QueuesResult (i : Instr) (m : Ctx → Mask) (cc : Ctx → CC) (land : Group → Ctx → Land) : Prop :=
  ∀ s g gr c, Ready s g gr c i → ∃ c' p,
    exec i s = .next ((s.updGroup g fun x => { x with pend := x.pend ++ [p] }).setCtx g (some c'))
    ∧ p.tok = i.tok ∧ p.frag = c.entry ∧ p.instr = i ∧ p.mask = m c ∧ p.wait = [] ∧ p.land = land gr c
    ∧ SlotKept i c c' ∧ HeldKept c c' ∧ VectorsKept c c' ∧ ScalarsKept c c' ∧ PredicatesKept c c' ∧ c'.cc = cc c
    ∧ c'.latch (c.slot % 8) = none

/-! ### The last slot of a clause -/

/-- The slot is the last of its clause, and nothing that the commit waits for is outstanding. -/
def LastSlot (c : Ctx) : Prop := c.slot + 1 = c.words.length ∧ c.wait = [] ∧ c.faults = []

/-- What the slot of a commit-class or transfer instruction records: the instruction, where it stands, and the next header. -/
def opRecord (i : Instr) (gr : Group) (c : Ctx) : POp :=
  { instr := i, iaddr := c.addr + 8 * (c.slot + 1), nextHdr := c.addr + 8 * (c.words.length + 1), hdr := c.addr, mask := 0
    seq := gr.seq * 16 + c.slot, slot := c.slot }

/-- The view once the slot is done, with what it leaves to commit. -/
def finished (i : Instr) (gr : Group) (c : Ctx) (t : Tail) : Ctx := { (c.noting gr i).finish i none with tail := t }

/-- The state after commit steps 1 and 2 (R41) of the clause whose last slot has recorded `t`, from a state `s`. -/
def heldDone (i : Instr) (s : State) (g : Nat) (gr : Group) (c : Ctx) (t : Tail) : State :=
  commitHeld (s.setCtx g (some (finished i gr c t))) g { gr with ctx := some (finished i gr c t) } (finished i gr c t)

/-- Nothing outside the clause stands in the way of its commit: the recorder has a free frame and no entry it may take waits to end a chunk (R360,
R364), the chunks it stores to are at hand (R104), no frame it is to access has been retyped since its translation (R292), and the tile operations
and stores it holds can still be done (R182, R201). -/
def CommitOpen (i : Instr) (s0 : State) (g : Nat) (gr : Group) (c : Ctx) (t : Tail) : Prop :=
  let x := finished i gr c t
  let s1 := s0.setCtx g (some x)
  let gr1 : Group := { gr with ctx := some x }
  commitMay s1 gr1 x = true ∧ staleFrame s1 x = none ∧ judgeTiles s1 gr1 x 16 0 = none

/-- From its last slot the instruction commits its clause, which then carries out the operation `p` on what steps 1 and 2 left (R41
step 3). The state `s0` is that of the slot after its checks. -/
def CommitsOp (i : Instr) (s s0 : State) (g : Nat) (gr : Group) (c : Ctx) (p : POp) : Prop :=
  let s1 := dueChunk (heldDone i s0 g gr c (.commitOp p)) g c.entry (commitCode (finished i gr c (.commitOp p))) true
  CommitOpen i s0 g gr c (.commitOp p) → exec i s = .next (commitEnd (settleRan g c.entry p (runOp s1 g c.entry p)) g c.entry)

/-- The same for a control transfer (R41 step 4). -/
def CommitsJump (i : Instr) (s : State) (g : Nat) (gr : Group) (c : Ctx) (p : POp) : Prop :=
  let s1 := dueChunk (heldDone i s g gr c (.jump p)) g c.entry (commitCode (finished i gr c (.jump p))) false
  CommitOpen i s g gr c (.jump p) → exec i s = .next (commitEnd (traceJump (doJump s1 g c.entry p) g c.entry p) g c.entry)

/-! ### A slot of a control core -/

/-- The core of a cluster stands at a slot of its clause and waits for nothing. -/
def CoreReady (s : State) (l : Nat) (m : Mx) (c : CoreClause) : Prop := coreIssuing? s = some (l, m, c) ∧ c.wait = []

/-- The state with the slot of a core done and its context `m'`: on to the next slot; after the last the clause commits (R232). -/
def coreAfter (s : State) (l : Nat) (c : CoreClause) (m' : Mx) : State :=
  coreSettle (s.setMx l { m' with clause := some { c with slot := c.slot + 1 }, waitPage := none }) l

/-- The registers of the core, one of which has a new value; c31 reads zero (R230). -/
def WritesCore (m m' : Mx) (d : Nat) (v : Word) : Prop :=
  (∀ n, m'.getC n = if n = d ∧ n ≠ 31 then v else m.getC n) ∧ m' = { m with c := m'.c }

/-! ### Packets -/

/-- A packet for this device whose turn it is at its port (R338, R342, R346, R357, R380): it is there, none of its VC stands before it, it has not
been dealt with already, no log gives the port another one first, and no partition has an entry to make of it. -/
def Accepted (s : State) (port : Nat) (pk : Packet) : Prop :=
  comes s port pk = true ∧ pk.dst = s.fab.devno ∧ behind s port pk = false ∧ again s port pk = none ∧ tooEarly s port pk = none
    ∧ ∀ ws, logArrival s port pk ws = some s

/-! ### The numbers that operands stand for -/

/-- A lane's operand, and a uniform operand, as the number its TYPE makes of it (R130). -/
def laneInt (f : F3) (c : Ctx) (x : Src) (k : Nat) : Int := extInt f.ty (c.srcT f.ty x k)
def uniInt (f : F3) (c : Ctx) (x : Src) : Int := extInt f.ty (c.uniT f.ty x)

/-- An exact result, reduced modulo 2^width or clamped first (R66, R131). -/
def narrow (t : Ty) (sat : Bool) (x : Int) : Nat := wrapInt t.width (if sat then clampInt t x else x)

/-- A scalar result of a TYPE, extended to 64 bits as the TYPE extends (R130 rule 4). -/
def extended (t : Ty) (x : Nat) : Word := BitVec.ofNat 64 (widen t 64 x)

/-- The operand and the immediate of an FI instruction at its width (R140, R143). -/
def fiLane (f : FI) (c : Ctx) (k : Nat) : Nat := if f.sz = 0 then (c.src32 f.a k).toNat else (c.src64 f.a k).toNat
def fiUni (f : FI) (c : Ctx) : Nat := if f.sz = 0 then (c.uni f.a).toNat % 2 ^ 32 else (c.uni f.a).toNat
def fiWidth (f : FI) : Nat := if f.sz = 0 then 32 else 64
def fiImm (f : FI) : Nat :=
  if f.sz = 0 then f.imm.toNat else if f.sz = 1 then (f.imm.signExtend 64).toNat else if f.sz = 2 then f.imm.toNat
  else f.imm.toNat * 2 ^ 32

end Sys2Proof.Safety
end

