-- ==== Sys2Proof/Certificates/Slice0/Obligations.lean ====
section
/-! DEFINITION. The statements for the provers. Each says something the spec's rules say of an instruction or of the machine;
OBLIGATIONS.json lists them. -/
open Sys2Proof Sys2Proof.Machine Sys2Proof.Safety

/-! ### Encoding and decoding -/

/-- Words that the spec writes out decode to the instructions it gives them. -/
def Obligations.DecodeWrittenWords : Prop :=
  decodeVec 0x0018780006028A00 = .ok (.add ⟨0, none, .i32, 0, ⟨15, false⟩, .v 0, .v 3, .v 2, 10, true⟩)
  ∧ decodeVec 0x0068781006020843 = .ok (.fma ⟨0, none, .f32, 0, ⟨15, false⟩, .v 4, .v 3, .v 2, 8, false⟩)
  ∧ decodeVec 0x5FFFFFFFF0840430 = .ok (.saddi ⟨1, ⟨15, false⟩, 0xFFFFFFF8, .s 4, 4, false⟩)
  ∧ decodeVec 0xF00081F812800196 = .ok (.stN8 ⟨15, none, 0, 0, ⟨2, false⟩, 126, .v 9, .s 0, 1, false⟩)
  ∧ decodeVec 0x080090000E0204B0 = .ok (.atom ⟨0, some 0, 0, 0, .bf16x2, .v 0, .v 7, .v 2, 4, false⟩)
  ∧ decodeVec 0x0000FFFFFFFA01D1 = .ok (.brany ⟨0xFFFFFFFA, 1⟩)
  ∧ decodeVec 0x00000085000003C0 = .ok (.barv ⟨0, .s 5, 3⟩)
  ∧ decodeCore 0x0004FFFFFFF30011 = .ok (.cloop ⟨4, 0xFFFFFFF3, 0⟩)
  ∧ decodeCore 0x100B00000C400023 = .ok (.mldbM ⟨1, false, some .f16, 0, 0, 3, 2, 0, 0, 0⟩)

/-- No bit of an encoding is dropped: the word of a well-formed instruction, of a vector clause or of the control core, decodes to it, whatever its
operands. -/
def Obligations.EncodeDecodeRoundTrip : Prop :=
  (∀ (i : Instr) (w : Word), i.wellFormed = true → i.isCore = false → encode i = some w → decodeVec w = .ok i)
  ∧ (∀ (i : Instr) (w : Word), i.wellFormed = true → i.isCore = true → encode i = some w → decodeCore w = .ok i)

/-- A word that decodes is the encoding of what it decodes to: no bit of it is ignored, and its fields are legal. -/
def Obligations.DecodedWordIsEncoding : Prop :=
  ∀ (i : Instr) (w : Word), (decodeVec w = .ok i → encode i = some w ∧ i.wellFormed = true ∧ i.isCore = false)
    ∧ (decodeCore w = .ok i → encode i = some w ∧ i.wellFormed = true ∧ i.isCore = true)

/-- A word with a nonzero reserved bit, in each format that has one, does not decode, and the decoder answers ILLOP for its slot; neither does such a
header or entry word (R37, R54, R55, R56, R231). -/
def Obligations.ReservedBitsAreIllop : Prop :=
  (∀ w : Word, (w.extractLsb' 0 8).toNat ∈ [0xB0, 0xB1, 0xB2, 0xC4, 0xC5, 0xC8, 0xC9, 0xCA, 0xCB] → w.extractLsb' 48 3 ≠ 0 →
    ∀ vregs k seen t, wordsCheck vregs k seen (w :: t) = some (k, .illop))
  ∧ (∀ w : Word, (w.extractLsb' 0 8).toNat ∈ [0xD0, 0xD1, 0xD2, 0xD3, 0xD7, 0xD8] →
    w.extractLsb' 48 16 ≠ 0 ∨ w.extractLsb' 12 4 ≠ 0 → ∀ vregs k seen t, wordsCheck vregs k seen (w :: t) = some (k, .illop))
  ∧ (∀ w : Word, (w.extractLsb' 0 8).toNat ∈
      [0xC0, 0xC1, 0xC2, 0xC3, 0xC6, 0xCC, 0xCD, 0xE3, 0xF0, 0xF1, 0xF3, 0xF4, 0xF5, 0xF6, 0xF7, 0xF8, 0xF9, 0xFA, 0xFB] →
    w.extractLsb' 41 19 ≠ 0 → ∀ vregs k seen t, wordsCheck vregs k seen (w :: t) = some (k, .illop))
  ∧ (∀ w : Word, (w.extractLsb' 0 8).toNat ∈ [0, 1, 2, 3, 4, 5, 6, 7, 8, 9, 0xA, 0xB, 0x12, 0x13, 0x14] → w.extractLsb' 23 4 ≠ 0 →
    ∀ k t, coreCheck k (w :: t) = some (k, .illop))
  ∧ (∀ w : Word, (w.extractLsb' 0 8).toNat ∈ [0x10, 0x11] → w.extractLsb' 53 11 ≠ 0 ∨ w.extractLsb' 12 4 ≠ 0 →
    ∀ k t, coreCheck k (w :: t) = some (k, .illop))
  ∧ (∀ w : Word, (w.extractLsb' 0 8).toNat ∈ [0x20, 0x21, 0x22, 0x23, 0x24, 0x25, 0x26, 0x27] →
    w.extractLsb' 53 6 ≠ 0 ∨ w.extractLsb' 44 4 ≠ 0 ∨ w.extractLsb' 18 3 ≠ 0 ∨ w.extractLsb' 15 1 ≠ 0 ∨ w.extractLsb' 11 1 ≠ 0 →
    ∀ k t, coreCheck k (w :: t) = some (k, .illop))
  ∧ (∀ w : Word, w.extractLsb' 18 46 ≠ 0 → decodeHeader w = none)
  ∧ (∀ w : Word, w.extractLsb' 22 42 ≠ 0 → decodeEntry w = none)

/-! ### A step -/

/-- The word of the slot that a group or a control core stands at runs as the instruction it decodes to; an engine operation at the head of the agenda
runs in the state without it. -/
def Obligations.StepRunsDecoded : Prop :=
  (∀ s g gr c i, s.agenda = [] → s.cur = some (.grp g) → s.group? g = some gr → gr.ctx = some c → c.slot < c.words.length →
    groupRuns s gr = true → decodeVec (c.words.getD c.slot 0) = .ok i → step s = exec i s)
  ∧ (∀ s t g gr c i, s.agenda = .issue (.grp g) :: t → s.group? g = some gr → gr.ctx = some c → c.slot < c.words.length →
    groupRuns s gr = true → decodeVec (c.words.getD c.slot 0) = .ok i → step s = exec i { s with agenda := t, cur := some (.grp g) })
  ∧ (∀ s l c i, s.agenda = [] → s.cur = some (.core l) → (s.mxD l).clause = some c → c.slot < c.words.length →
    (physClu s l).any (clockRuns s) = true → decodeCore (c.words.getD c.slot 0) = .ok i → step s = exec i s)
  ∧ (∀ s t i, s.agenda = .event i :: t → Instr.isWord i = false → s.plat.failed = false → s.plat.recovery = false →
    step s = exec i { s with agenda := t })

/-! ### Integer work of vector clauses -/

/-- SEL takes each executing lane from A where the predicate that C names, read as stored, is set, and from B elsewhere; it takes TYPE .b32 or .b64,
MOD 0, and a predicate number in C (R133). -/
def Obligations.SelectByPredicate : Prop :=
  ∀ f : F3,
    WritesLanes (.sel f) f.p f.d f.nw f.ty.wide (fun _ c k =>
      if (c.view.getQ (f.c.field % 16)).getLsbD k then c.srcT f.ty f.a k else c.srcT f.ty f.b k)
    ∧ ((Instr.sel f).wellFormed = true → (f.ty = .b32 ∨ f.ty = .b64) ∧ f.md = 0 ∧ f.c.field < 16)
    ∧ (∀ w, encode (.sel f) = some w → w.extractLsb' 0 8 = 0x0F)

/-- LANE writes each executing lane its number; MOV copies A with its bits unchanged. Their unused fields are zero (R139). -/
def Obligations.LaneAndMove : Prop :=
  ∀ f : F3,
    WritesLanes (.lane f) f.p f.d f.nw false (fun _ _ k => k)
    ∧ WritesLanes (.mov f) f.p f.d f.nw f.ty.wide (fun _ c k => c.srcT f.ty f.a k)
    ∧ ((Instr.lane f).wellFormed = true → f.a = .v 0 ∧ f.b = .v 0 ∧ f.c = .v 0)
    ∧ ((Instr.mov f).wellFormed = true → (f.ty = .b32 ∨ f.ty = .b64) ∧ f.md = 0 ∧ f.b = .v 0 ∧ f.c = .v 0)
    ∧ (∀ w, encode (.lane f) = some w → w.extractLsb' 0 8 = 0x16) ∧ (∀ w, encode (.mov f) = some w → w.extractLsb' 0 8 = 0x17)

/-- The vector arithmetic instructions: the exact result on the operands as numbers of TYPE, wrapped, or clamped first under .sat (R131). The logical
and shift instructions, on bits; a shift by the width or more gives zeros, or the sign of a signed operand (R132). The vector immediates, at 32 bits
or, for SZ 1 to 3, at 64 (R140); and LEA, which scales a 32-bit index and adds a 64-bit base (R144); and WRLANE, which writes one lane (R169). CLZ,
POPC, BREV, BFE and BFI (R137, R138). -/
def Obligations.LaneIntegers : Prop :=
  (∀ f : F3,
     WritesLanes (.add f) f.p f.d f.nw f.ty.wide (fun _ c k => narrow f.ty (f.md == 1) (laneInt f c f.a k + laneInt f c f.b k))
     ∧ WritesLanes (.sub f) f.p f.d f.nw f.ty.wide (fun _ c k => narrow f.ty (f.md == 1) (laneInt f c f.a k - laneInt f c f.b k))
     ∧ WritesLanes (.mul f) f.p f.d f.nw f.ty.wide (fun _ c k => narrow f.ty (f.md == 1) (laneInt f c f.a k * laneInt f c f.b k))
     ∧ WritesLanes (.mulhi f) f.p f.d f.nw f.ty.wide
         (fun _ c k => narrow f.ty false (laneInt f c f.a k * laneInt f c f.b k / (2 ^ f.ty.width : Nat)))
     ∧ WritesLanes (.mad f) f.p f.d f.nw f.ty.wide
         (fun _ c k => narrow f.ty (f.md == 1) (laneInt f c f.a k * laneInt f c f.b k + laneInt f c f.c k))
     ∧ WritesLanes (.min f) f.p f.d f.nw f.ty.wide (fun _ c k => narrow f.ty false (min (laneInt f c f.a k) (laneInt f c f.b k)))
     ∧ WritesLanes (.max f) f.p f.d f.nw f.ty.wide (fun _ c k => narrow f.ty false (max (laneInt f c f.a k) (laneInt f c f.b k)))
     ∧ WritesLanes (.adif f) f.p f.d f.nw f.ty.wide (fun _ c k => narrow f.ty false |laneInt f c f.a k - laneInt f c f.b k|))
  ∧ (∀ f : F3,
       WritesLanes (.and f) f.p f.d f.nw f.ty.wide (fun _ c k => c.srcT f.ty f.a k &&& c.srcT f.ty f.b k)
       ∧ WritesLanes (.or f) f.p f.d f.nw f.ty.wide (fun _ c k => c.srcT f.ty f.a k ||| c.srcT f.ty f.b k)
       ∧ WritesLanes (.xor f) f.p f.d f.nw f.ty.wide (fun _ c k => c.srcT f.ty f.a k ^^^ c.srcT f.ty f.b k)
       ∧ WritesLanes (.not f) f.p f.d f.nw f.ty.wide (fun _ c k => 2 ^ f.ty.width - 1 - c.srcT f.ty f.a k % 2 ^ f.ty.width)
       ∧ WritesLanes (.shl f) f.p f.d f.nw f.ty.wide (fun _ c k =>
           if (c.src32 f.b k).toNat ≥ f.ty.width then 0 else c.srcT f.ty f.a k * 2 ^ (c.src32 f.b k).toNat % 2 ^ f.ty.width)
       ∧ WritesLanes (.shr f) f.p f.d f.nw f.ty.wide (fun _ c k => wrapInt f.ty.width
           (if (c.src32 f.b k).toNat ≥ f.ty.width then (if laneInt f c f.a k < 0 then -1 else 0)
            else laneInt f c f.a k / (2 ^ (c.src32 f.b k).toNat : Nat)))
       ∧ WritesLanes (.rot f) f.p f.d f.nw f.ty.wide (fun _ c k =>
           (c.srcT f.ty f.a k * 2 ^ ((c.src32 f.b k).toNat % f.ty.width)
             + c.srcT f.ty f.a k / 2 ^ (f.ty.width - (c.src32 f.b k).toNat % f.ty.width)) % 2 ^ f.ty.width))
  ∧ ((∀ f : FI,
       WritesLanes (.addi f) f.p f.d f.nw (f.sz != 0) (fun _ c k => (fiLane f c k + fiImm f) % 2 ^ fiWidth f)
       ∧ WritesLanes (.andi f) f.p f.d f.nw (f.sz != 0) (fun _ c k => (fiLane f c k &&& fiImm f) % 2 ^ fiWidth f)
       ∧ WritesLanes (.ori f) f.p f.d f.nw (f.sz != 0) (fun _ c k => (fiLane f c k ||| fiImm f) % 2 ^ fiWidth f)
       ∧ WritesLanes (.xori f) f.p f.d f.nw (f.sz != 0) (fun _ c k => (fiLane f c k ^^^ fiImm f) % 2 ^ fiWidth f)
       ∧ WritesLanes (.movi f) f.p f.d f.nw (f.sz != 0) (fun _ _ _ => fiImm f % 2 ^ fiWidth f)
       ∧ WritesLanes (.muli f) f.p f.d f.nw (f.sz != 0) (fun _ c k => fiLane f c k * fiImm f % 2 ^ fiWidth f))
     ∧ (∀ f : F3,
       WritesLanes (.lea f) f.p f.d f.nw true (fun _ c k =>
         wrapInt 64 (((c.src64 f.a k).toNat : Int) + extInt f.ty (c.src32 f.b k).toNat * (2 ^ f.x.toNat : Nat)))
       ∧ WritesLanesOf (.wrlane f) (fun c => c.exec f.p &&& maskOf fun k => k == (c.uni f.b).toNat % 2 ^ 32) f.d f.nw f.ty.wide
           (fun _ c _ => c.uniT f.ty f.a)))
  ∧ (∀ f : F3,
       WritesLanes (.clz f) f.p f.d f.nw f.ty.wide (fun _ c k => f.ty.width - bitLen (c.srcT f.ty f.a k % 2 ^ f.ty.width))
       ∧ WritesLanes (.popc f) f.p f.d f.nw f.ty.wide (fun _ c k =>
           ((List.range f.ty.width).filter fun j => (c.srcT f.ty f.a k).testBit j).length)
       ∧ WritesLanes (.brev f) f.p f.d f.nw f.ty.wide (fun _ c k =>
           ((List.range f.ty.width).map fun j => if (c.srcT f.ty f.a k).testBit (f.ty.width - 1 - j) then 2 ^ j else 0).sum)
       ∧ WritesLanes (.bfe f) f.p f.d f.nw f.ty.wide (fun _ c k =>
           let ctl := (c.src32 f.b k).toNat
           let w := if ctl % 256 ≥ f.ty.width then 0 else min (ctl / 256 % 256) (f.ty.width - ctl % 256)
           let x := c.srcT f.ty f.a k / 2 ^ (ctl % 256) % 2 ^ w
           if w > 0 ∧ f.ty.signed = true ∧ x.testBit (w - 1) = true then wrapInt f.ty.width ((x : Int) - (2 ^ w : Nat)) else x)
       ∧ WritesLanes (.bfi f) f.p f.d f.nw f.ty.wide (fun _ c k =>
           let ctl := (c.src32 f.c k).toNat
           let w := if ctl % 256 ≥ f.ty.width then 0 else min (ctl / 256 % 256) (f.ty.width - ctl % 256)
           let m := (2 ^ w - 1) * 2 ^ (ctl % 256)
           (c.srcT f.ty f.b k &&& (2 ^ f.ty.width - 1 - m % 2 ^ f.ty.width)) ||| (c.srcT f.ty f.a k * 2 ^ (ctl % 256) &&& m)))

/-- QTEST sets the bit of an executing lane exactly when A and B share a one bit. It has opcode 0x37, takes TYPE .b32 or .b64 with MOD 0, and requires
C and X to be zero (R135). -/
def Obligations.QtestAndsOperands : Prop :=
  ∀ f : F3,
    WritesPredicate (.qtest f) f.p f.d f.nw (fun _ c k => decide (c.srcT f.ty f.a k &&& c.srcT f.ty f.b k ≠ 0))
    ∧ ((Instr.qtest f).wellFormed = true → (f.ty = .b32 ∨ f.ty = .b64) ∧ f.md = 0 ∧ f.c = .v 0 ∧ f.x = 0 ∧ f.d.toNat < 15)
    ∧ (∀ w, encode (.qtest f) = some w → w.extractLsb' 0 8 = 0x37)

/-- The scalar instructions compute once what their per-lane counterparts compute, and extend the result to 64 bits (R141, R143, R144). A write to s63
is discarded and one to s60 to s62 never enables a lane that the fragment does not own (`WritesScalar`). -/
def Obligations.ScalarResults : Prop :=
  (∀ f : F3,
    WritesScalar (.sadd f) f.d f.nw (fun _ c => extended f.ty (narrow f.ty (f.md == 1) (uniInt f c f.a + uniInt f c f.b)))
    ∧ WritesScalar (.ssub f) f.d f.nw (fun _ c => extended f.ty (narrow f.ty (f.md == 1) (uniInt f c f.a - uniInt f c f.b)))
    ∧ WritesScalar (.smul f) f.d f.nw (fun _ c => extended f.ty (narrow f.ty (f.md == 1) (uniInt f c f.a * uniInt f c f.b)))
    ∧ WritesScalar (.smulhi f) f.d f.nw (fun _ c =>
        extended f.ty (narrow f.ty false (uniInt f c f.a * uniInt f c f.b / (2 ^ f.ty.width : Nat))))
    ∧ WritesScalar (.smin f) f.d f.nw (fun _ c => extended f.ty (narrow f.ty false (min (uniInt f c f.a) (uniInt f c f.b))))
    ∧ WritesScalar (.smax f) f.d f.nw (fun _ c => extended f.ty (narrow f.ty false (max (uniInt f c f.a) (uniInt f c f.b))))
    ∧ WritesScalar (.sand f) f.d f.nw (fun _ c => extended f.ty (c.uniT f.ty f.a &&& c.uniT f.ty f.b))
    ∧ WritesScalar (.sor f) f.d f.nw (fun _ c => extended f.ty (c.uniT f.ty f.a ||| c.uniT f.ty f.b))
    ∧ WritesScalar (.sxor f) f.d f.nw (fun _ c => extended f.ty (c.uniT f.ty f.a ^^^ c.uniT f.ty f.b))
    ∧ WritesScalar (.sshl f) f.d f.nw (fun _ c =>
        let k := (c.uni f.b).toNat % 2 ^ 32
        extended f.ty (if k ≥ f.ty.width then 0 else c.uniT f.ty f.a * 2 ^ k % 2 ^ f.ty.width))
    ∧ WritesScalar (.sshr f) f.d f.nw (fun _ c =>
        let k := (c.uni f.b).toNat % 2 ^ 32
        extended f.ty (wrapInt f.ty.width
          (if k ≥ f.ty.width then (if uniInt f c f.a < 0 then -1 else 0) else uniInt f c f.a / (2 ^ k : Nat))))
    ∧ WritesScalar (.smov f) f.d f.nw (fun _ c => extended f.ty (c.uniT f.ty f.a))
    ∧ WritesScalar (.sclz f) f.d f.nw (fun _ c => extended f.ty (f.ty.width - bitLen (c.uniT f.ty f.a % 2 ^ f.ty.width)))
    ∧ WritesScalar (.spopc f) f.d f.nw (fun _ c =>
        extended f.ty ((List.range f.ty.width).filter fun j => (c.uniT f.ty f.a).testBit j).length)
    ∧ WritesScalar (.slea f) f.d f.nw (fun _ c =>
        BitVec.ofNat 64 (wrapInt 64 (((c.uni f.a).toNat : Int) + extInt f.ty ((c.uni f.b).toNat % 2 ^ 32) * (2 ^ f.x.toNat : Nat)))))
  ∧ (∀ f : FI,
    WritesScalar (.saddi f) f.d f.nw (fun _ c => BitVec.ofNat 64 ((fiUni f c + fiImm f) % 2 ^ fiWidth f))
    ∧ WritesScalar (.sandi f) f.d f.nw (fun _ c => BitVec.ofNat 64 ((fiUni f c &&& fiImm f) % 2 ^ fiWidth f))
    ∧ WritesScalar (.sori f) f.d f.nw (fun _ c => BitVec.ofNat 64 ((fiUni f c ||| fiImm f) % 2 ^ fiWidth f))
    ∧ WritesScalar (.sxori f) f.d f.nw (fun _ c => BitVec.ofNat 64 ((fiUni f c ^^^ fiImm f) % 2 ^ fiWidth f))
    ∧ WritesScalar (.smovi f) f.d f.nw (fun _ _ => BitVec.ofNat 64 (fiImm f % 2 ^ fiWidth f)))

/-- CMP, QOP and FCMP write the executing lanes' bits of a predicate and no other bit (R134, R136, R150). SCMP, SCMPI and SFCMP set Z, N, C and V from
their operands and leave E and every register unchanged; VOTE sets Z and E only (R142, R143, R154, R167). The flags of a comparison, with bit vectors:
Z equality, N the sign of the difference, C unsigned not below, V signed overflow; E is kept (R142). -/
def Obligations.PredicatesAndFlags : Prop :=
  (∀ f : F3,
     WritesPredicate (.cmp f) f.p f.d f.nw (fun _ c k =>
       let a := laneInt f c f.a k
       let b := laneInt f c f.b k
       if f.x = 0 then decide (a = b) else if f.x = 1 then decide (a ≠ b) else if f.x = 2 then decide (a < b)
       else if f.x = 3 then decide (a ≤ b) else if f.x = 4 then decide (a > b) else decide (a ≥ b))
     ∧ WritesPredicate (.qop f) f.p f.d f.nw (fun _ c k =>
       let a := (c.view.getQ (f.a.field % 16)).getLsbD k
       let b := (c.view.getQ (f.b.field % 16)).getLsbD k
       if f.x = 0 then a && b else if f.x = 1 then a || b else if f.x = 2 then a ^^ b
       else if f.x = 3 then a && !b else if f.x = 4 then !a else a)
     ∧ WritesPredicate (.fcmp f) f.p f.d f.nw (fun gr c k =>
       fpRel f.x.toNat f.ty gr.ctl.ftz (c.srcT f.ty f.a k) (c.srcT f.ty f.b k)))
  ∧ (((∀ f : F3,
         WritesFlags (.scmp f) (fun _ c => cmpFlags f.ty.width (c.uniT f.ty f.a) (c.uniT f.ty f.b) c.cc)
         ∧ WritesFlags (.sfcmp f) (fun gr c =>
             match fvCmp (fpDecode f.ty (flushBits f.ty gr.ctl.ftz (c.uniT f.ty f.a)))
                 (fpDecode f.ty (flushBits f.ty gr.ctl.ftz (c.uniT f.ty f.b))) with
             | some .lt => { c.cc with z := false, n := true, c := false, v := false }
             | some .eq => { c.cc with z := true, n := false, c := true, v := false }
             | some .gt => { c.cc with z := false, n := false, c := true, v := false }
             | none => { c.cc with z := false, n := false, c := true, v := true })
         ∧ WritesFlags (.vote f) (fun _ c =>
             let take := c.exec f.p
             let hit := take &&& c.view.getQ (f.a.field % 16)
             { c.cc with
               z := (if f.x = 0 then hit == take else if f.x = 1 then hit != 0 else hit == 0 || hit == take)
               e := take == 0 }))
       ∧ (∀ f : FI, WritesFlags (.scmpi f) (fun _ c => cmpFlags (fiWidth f) (fiUni f c) (fiImm f) c.cc)))
     ∧ ((∀ (a b : BitVec 32) (cc : CC), cmpFlags 32 a.toNat b.toNat cc =
           { cc with z := a == b, n := (a - b).msb, c := !a.ult b, v := BitVec.ssubOverflow a b })
       ∧ (∀ (a b : BitVec 64) (cc : CC), cmpFlags 64 a.toNat b.toNat cc =
           { cc with z := a == b, n := (a - b).msb, c := !a.ult b, v := BitVec.ssubOverflow a b })))

/-! ### Floating point, conversions, special functions, cross-lane work -/

/-- The per-lane floating-point instructions: one element at a time, rounded in the direction of MOD, with FTZ as FMODE has it (R147 to R152, R158,
R159). The conversions, and the scalar floating-point instructions (R153, R155 to R157). -/
def Obligations.FloatingPoint : Prop :=
  (∀ f : F3,
      let src := fun (c : Ctx) (x : Src) (k : Nat) => c.srcT f.ty x k
      let r := rndOf f.md.toNat 0
      WritesLanes (.fadd f) f.p f.d f.nw f.ty.wide (fun gr c k =>
        eachElem f.ty (fun a b _ => fpAdd f.ty r gr.ctl.ftz a b) (src c f.a k) (src c f.b k) (src c f.c k))
      ∧ WritesLanes (.fsub f) f.p f.d f.nw f.ty.wide (fun gr c k =>
        eachElem f.ty (fun a b _ => fpSub f.ty r gr.ctl.ftz a b) (src c f.a k) (src c f.b k) (src c f.c k))
      ∧ WritesLanes (.fmul f) f.p f.d f.nw f.ty.wide (fun gr c k =>
        eachElem f.ty (fun a b _ => fpMul f.ty r gr.ctl.ftz a b) (src c f.a k) (src c f.b k) (src c f.c k))
      ∧ WritesLanes (.fma f) f.p f.d f.nw f.ty.wide (fun gr c k =>
        eachElem f.ty (fun a b x => fpFma f.ty r gr.ctl.ftz a b x) (src c f.a k) (src c f.b k) (src c f.c k))
      ∧ WritesLanes (.fmin f) f.p f.d f.nw f.ty.wide (fun gr c k =>
        eachElem f.ty (fun a b _ => flushBits f.ty gr.ctl.ftz (fpMinMax false f.ty gr.ctl.ftz a b)) (src c f.a k) (src c f.b k) (src c f.c k))
      ∧ WritesLanes (.fmax f) f.p f.d f.nw f.ty.wide (fun gr c k =>
        eachElem f.ty (fun a b _ => flushBits f.ty gr.ctl.ftz (fpMinMax true f.ty gr.ctl.ftz a b)) (src c f.a k) (src c f.b k) (src c f.c k))
      ∧ WritesLanes (.fsgn f) f.p f.d f.nw f.ty.wide (fun _ c k =>
        eachElem f.ty (fun a b _ => fpSgn f.ty f.x.toNat a b) (src c f.a k) (src c f.b k) (src c f.c k))
      ∧ WritesLanes (.fclass f) f.p f.d f.nw false (fun _ c k => 2 ^ fpClass f.ty (src c f.a k))
      ∧ WritesLanes (.frnd f) f.p f.d f.nw f.ty.wide (fun gr c k =>
        eachElem f.ty (fun a _ _ => flushBits f.ty gr.ctl.ftz (fpRnd f.ty r gr.ctl.ftz a)) (src c f.a k) (src c f.b k) (src c f.c k))
      ∧ WritesLanes (.scale f) f.p f.d f.nw f.ty.wide (fun _ c k =>
        eachElem f.ty (fun a _ _ => fpScale f.ty r a (c.src32 f.b k).toInt) (src c f.a k) 0 0)
      ∧ WritesLanes (.fdot2 f) f.p f.d f.nw false (fun gr c k =>
        fdot2Bits f.ty r gr.ctl.ftz (src c f.a k) (src c f.b k) (c.srcT .f32 f.c k)))
  ∧ (∀ f : F3,
      let st := (WF.tyOfCode (f.c.field % 32)).getD .f32
      let r := rndOf f.md.toNat 0
      WritesLanes (.cvt f) f.p f.d f.nw f.ty.wide (fun gr c k =>
        widen f.ty (if f.ty.wide then 64 else 32)
          (cvtBits f.ty st f.md.toNat (drawOf gr c k 0) (f.x.getLsbD 0) (c.srcT st f.a k)))
      ∧ WritesScalar (.scvt f) f.d f.nw (fun gr c =>
        extended f.ty (cvtBits f.ty st f.md.toNat (drawOf gr c 384 0) (f.x.getLsbD 0) (c.uniT st f.a)))
      ∧ WritesLanes (.pack2 f) f.p f.d f.nw false (fun gr c k =>
        pack2Bits f.ty f.md.toNat (drawOf gr c k 0) (drawOf gr c k 1) (c.srcT .f32 f.a k) (c.srcT .f32 f.b k) (c.src32 f.c k).toNat)
      ∧ WritesLanes (.unpack f) f.p f.d f.nw false (fun _ c k => unpackBits f.ty (unpackSrc c f k) (c.src32 f.b k).toNat)
      ∧ WritesScalar (.sfadd f) f.d f.nw (fun gr c => BitVec.ofNat 64 (fpAdd f.ty r gr.ctl.ftz (c.uniT f.ty f.a) (c.uniT f.ty f.b)))
      ∧ WritesScalar (.sfmul f) f.d f.nw (fun gr c => BitVec.ofNat 64 (fpMul f.ty r gr.ctl.ftz (c.uniT f.ty f.a) (c.uniT f.ty f.b)))
      ∧ WritesScalar (.sfma f) f.d f.nw (fun gr c =>
        BitVec.ofNat 64 (fpFma f.ty r gr.ctl.ftz (c.uniT f.ty f.a) (c.uniT f.ty f.b) (c.uniT f.ty f.c))))

/-- The special functions and the shuffles queue one value for each executing lane, under their token. A shuffle reads a lane that its fragment owns,
whether or not it executes, and takes C for any other source lane. RED and SCAN queue their result and set E exactly when no lane takes part; RDLANE
and SFN queue a scalar (R47, R160 to R165, R169). -/
def Obligations.TokenedResults : Prop :=
  (∀ f : F3,
      (∀ p ∈ [(Instr.exp2 f, 0), (.log2 f, 1), (.rcp f, 2), (.rsq f, 3), (.sqrt f, 4), (.sin f, 5), (.cos f, 6), (.tanh f, 7)],
        QueuesResult p.1 (fun c => c.exec f.p) (fun c => c.cc) (fun gr c =>
          { v := [(f.d.toNat, c.exec f.p, vec fun k => BitVec.ofNat 32 (specialFn p.2 f.ty gr.ctl.ftz (c.srcT f.ty f.a k)))] }))
      ∧ (∀ p ∈ [(Instr.shfl f, fun (x _ : Nat) => some x), (.shflup f, fun x k => if x ≤ k then some (k - x) else none),
            (.shfldn f, fun x k => some (k + x)), (.shflx f, fun x k => some (k ^^^ x)), (.bcast f, fun x _ => some x)],
        QueuesResult p.1 (fun c => c.exec f.p) (fun c => c.cc) (fun gr c =>
          landV f.d (c.exec f.p) f.ty.wide fun k =>
            match p.2 (c.src32 f.b k).toNat k with
            | some j => if j < 96 ∧ (gr.ent c.entry).own.getLsbD j = true then c.srcT f.ty f.a j else c.srcT f.ty f.c k
            | none => c.srcT f.ty f.c k)))
  ∧ (∀ f : F3,
      QueuesResult (.red f) (fun c => c.exec f.p) (fun c => { c.cc with e := c.exec f.p == 0 }) (fun gr c =>
        { s := [(f.d.toNat, extended f.ty (redBits f gr.ctl.ftz (c.exec f.p) fun k => c.srcT f.ty f.a k))] })
      ∧ QueuesResult (.scan f) (fun c => c.exec f.p) (fun c => { c.cc with e := c.exec f.p == 0 }) (fun gr c =>
        landV f.d (c.exec f.p) f.ty.wide fun k =>
          AList.get (scanBits f gr.ctl.ftz (c.exec f.p) fun j => c.srcT f.ty f.a j) k 0)
      ∧ QueuesResult (.rdlane f) (fun c => c.mask) (fun c => c.cc) (fun gr c =>
        let j := (c.uni f.b).toNat % 2 ^ 32
        { s := [(f.d.toNat, BitVec.ofNat 64
          (if j < 96 ∧ (gr.ent c.entry).own.getLsbD j = true then c.srcT f.ty f.a j else c.uniT f.ty f.c))] })
      ∧ QueuesResult (.sfn f) (fun c => c.mask) (fun c => c.cc) (fun gr c =>
        { s := [(f.d.toNat, BitVec.ofNat 64 (specialFn f.x.toNat f.ty gr.ctl.ftz (c.uniT f.ty f.a)))] }))

/-- An integer RED by addition over any lanes is the sum of their operands modulo 2^width, whatever the order of the tree: the lanes that take no part
contribute nothing (R78, R164). BALLOT writes, as three scalar registers, the taking-part lanes that have the predicate set; it changes no other
register (R166). -/
def Obligations.CollectedLanes : Prop :=
  (∀ (f : F3) (z : Bool) (m : Mask) (src : Nat → Nat), f.x = 0 → f.md = 0 → f.ty = .n32 → (∀ k, src k < 2 ^ 32) →
     redBits f z m src = ((lanesOf m).map src).sum % 2 ^ 32)
  ∧ (∀ (f : F3) s g gr c, Ready s g gr c (.ballot f) → f.d.toNat ≤ 57 → ∃ c', exec (.ballot f) s = .next (s.setCtx g (some c'))
       ∧ SlotKept (.ballot f) c c' ∧ HeldKept c c' ∧ VectorsKept c c' ∧ PredicatesKept c c' ∧ FlagsKept c c'
       ∧ (∀ b, b < 3 → c'.getS (f.d.toNat + b) = (maskWord (c.exec f.p &&& c.view.getQ (f.a.field % 16)) b).setWidth 64)
       ∧ (∀ n, n < f.d.toNat ∨ n > f.d.toNat + 2 → c'.getS n = c.getS n)
       ∧ c'.latch (c.slot % 8) = none)

/-- POPL writes the number of taking-part lanes with the predicate set; FIRST the lowest such lane, or 96. Their other operand fields are zero, and
neither changes CC (R168). BALLOT into s0 to s57 completes: it writes those lanes, 32 to a register, into three registers, and leaves CC and
predicates as they were (R166). -/
def Obligations.PopulationAndFirst : Prop :=
  ∀ f : F3,
    WritesScalar (.popl f) f.d f.nw (fun _ c =>
      BitVec.ofNat 64 ((List.range 96).filter fun k => (c.exec f.p &&& c.view.getQ (f.a.field % 16)).getLsbD k).length)
    ∧ WritesScalar (.first f) f.d f.nw (fun _ c =>
      BitVec.ofNat 64 (((List.range 96).find? fun k => (c.exec f.p &&& c.view.getQ (f.a.field % 16)).getLsbD k).getD 96))
    ∧ ((Instr.popl f).wellFormed = true → f.a.field < 16 ∧ f.b = .v 0 ∧ f.c = .v 0 ∧ f.d.toNat < 64)
    ∧ ((Instr.first f).wellFormed = true → f.a.field < 16 ∧ f.b = .v 0 ∧ f.c = .v 0 ∧ f.d.toNat < 64)
    ∧ (∀ w, encode (.popl f) = some w → w.extractLsb' 0 8 = 0x89) ∧ (∀ w, encode (.first f) = some w → w.extractLsb' 0 8 = 0x8A)
    ∧ (∀ s g gr c, Ready s g gr c (.ballot f) → f.d.toNat ≤ 57 → ∃ c', exec (.ballot f) s = .next (s.setCtx g (some c'))
        ∧ VectorsKept c c' ∧ PredicatesKept c c' ∧ FlagsKept c c'
        ∧ ∀ b, b < 3 → c'.getS (f.d.toNat + b) = (maskWord (c.exec f.p &&& c.view.getQ (f.a.field % 16)) b).setWidth 64)

/-! ### Memory and tiles at their slots -/

/-- The address of a lane's access is A + B × size + SExt(OFS), modulo 2^64. A load whose lanes are all aligned, mapped and resident, outside replay,
asks each line's home once and queues its result; no register and no byte of memory changes at the slot (R177, R178). A store whose lanes are all
aligned, mapped and resident is held in its clause, with the data its registers have at the slot; it changes no byte of memory before its clause
commits (R40 rule 5, R177, R179). -/
def Obligations.MemorySlots : Prop :=
  ((∀ (c : Ctx) (f : FM) (size k : Nat), size < 2 ^ 64 →
       (fmAddr c f size k : Int) =
         (((c.src64 f.a k).toNat : Int) + (c.src32 f.b k).toInt * size + f.ofs.toInt) % 2 ^ 64)
   ∧ (∀ (f : FM), ∀ x ∈ [(Instr.ldN8 f, 1, false), (.ldI8 f, 1, false), (.ldN16 f, 2, false), (.ldI16 f, 2, false), (.ldB32 f, 4, false),
         (.ldB64 f, 8, false), (.sldB32 f, 4, true), (.sldB64 f, 8, true)],
     ∀ s g gr c s0 l, Ready s g gr c x.1 → replaying s gr.block.gang.slot = none → replaying s0 gr.block.gang.slot = none →
       checkAccs s gr.cu (groupPasid s gr) true { r := true }
         (if x.2.2 then [mkAcc 96 (fmAddr c f x.2.1 0) x.2.1 0 0]
          else (lanesOf (c.exec f.p)).map fun k => mkAcc k (fmAddr c f x.2.1 k) x.2.1 0 0) = (s0, .ok l []) →
       ∃ t c' gr', exec x.1 s = .next t ∧ t.group? g = some gr' ∧ gr'.ctx = some c' ∧ MemoryKept s t
         ∧ (∃ p, gr'.pend = gr.pend ++ [p] ∧ p.tok = x.1.tok ∧ p.instr = x.1 ∧ p.frag = c.entry ∧ p.nres = 0
             ∧ p.mask = (if x.2.2 then c.mask else c.exec f.p) ∧ p.wait.length = (linesOf l).length ∧ c'.wait = c.wait ++ p.wait)
         ∧ gr'.regs = gr.regs ∧ gr'.ents = gr.ents ∧ c'.stores = c.stores
         ∧ SlotKept x.1 c c' ∧ VectorsKept c c' ∧ ScalarsKept c c' ∧ PredicatesKept c c' ∧ FlagsKept c c'))
  ∧ (∀ (f : FM), ∀ x ∈ [(Instr.stN8 f, 1, false), (.stN16 f, 2, false), (.stB32 f, 4, false), (.stB64 f, 8, false), (.sstB32 f, 4, true),
         (.sstB64 f, 8, true)],
     ∀ s g gr c s0 l, Ready s g gr c x.1 →
       checkAccs s gr.cu (groupPasid s gr) true { w := true }
         (if x.2.2 then [mkAcc 96 (fmAddr c f x.2.1 0) x.2.1 (c.getS f.d.toNat) 0]
          else (lanesOf (c.exec f.p)).map fun k => mkAcc k (fmAddr c f x.2.1 k) x.2.1
            (if x.2.1 = 8 then c.src64 (.v f.d) k else (lane (c.view.getV f.d.toNat) k).setWidth 64) 0) = (s0, .ok l []) →
       ∃ t c' gr', exec x.1 s = .next t ∧ t.group? g = some gr' ∧ gr'.ctx = some c' ∧ MemoryKept s t
         ∧ c'.stores = c.stores ++ [{ slot := c.slot, tok := x.1.tok, ord := f.ord.toNat, scope := f.scope.toNat, accs := l }]
         ∧ gr'.regs = gr.regs ∧ gr'.ents = gr.ents
         ∧ SlotKept x.1 c c' ∧ VectorsKept c c' ∧ ScalarsKept c c' ∧ PredicatesKept c c' ∧ FlagsKept c c')

/-- PREF and RESHINT change no register, flag or byte of memory and never fault (R330). -/
def Obligations.HintsChangeNothing : Prop :=
  ∀ (f : FM), ∀ i ∈ [Instr.pref f, .reshint f], ∀ s g gr c, Ready s g gr c i →
    ∃ t c' gr', exec i s = .next t ∧ t.group? g = some gr' ∧ gr'.ctx = some c' ∧ MemoryKept s t ∧ gr'.regs = gr.regs
      ∧ SlotKept i c c' ∧ VectorsKept c c' ∧ ScalarsKept c c' ∧ PredicatesKept c c' ∧ FlagsKept c c' ∧ c'.stores = c.stores

/-- TALLOC and TFREE that their block allows are held until commit, with rows and columns from A and B, the element size from TYPE and the level from
X; one that it does not allow raises the fault that R182 names. TLD of elements in the tile, in chunks that have landed, queues each lane's element:
element base + lane, or for .xp8 and .xp16 four bytes or two halves down a column. TST whose elements lie in the tile, in chunks that no copy owns, is
held with each lane's value; an element outside raises TILEBOUND, at the byte offset of the lowest lane's (R182, R183, R191). -/
def Obligations.TileInstructions : Prop :=
  (∀ (f : F3),
      let op : Ctx → TileOp := fun c =>
        { free := false, h := f.d.toNat, rows := (c.uni f.a).toNat, cols := (c.uni f.b).toNat, esz := f.ty.width / 8
          level := if f.x = 0 then .cu else if f.x = 1 then .gang else .l2 }
      ∀ x ∈ [(Instr.talloc f, op), (.tfree f, fun _ => { free := true, h := f.d.toNat })],
      ∀ s g gr c, Ready s g gr c x.1 →
        (∀ u, tileOp (tileOps s gr.block c.tops) gr.block (x.2 c) = .ok u → ∃ c', exec x.1 s = .next (s.setCtx g (some c'))
          ∧ c'.tops = c.tops ++ [{ x.2 c with slot := c.slot }] ∧ c'.stores = c.stores ∧ c'.tsts = c.tsts
          ∧ SlotKept x.1 c c' ∧ VectorsKept c c' ∧ ScalarsKept c c' ∧ PredicatesKept c c' ∧ FlagsKept c c')
        ∧ (∀ cause, tileOp (tileOps s gr.block c.tops) gr.block (x.2 c) = .error cause →
          exec x.1 s = .next (raise s g (c.noting gr x.1) cause c.mask 0 0)))
  ∧ (∀ (f : F3), ∀ x ∈ [(Instr.tld f, f.ty.width / 8, 1), (.tldXp8 f, 1, 4), (.tldXp16 f, 2, 2)],
    ∀ s g gr c, Ready s g gr c x.1 →
      let t := tileOps s gr.block c.tops
      let els := fun k => tldIdx (tileDims t gr.block f.a.field) x.2.2 ((c.uni f.b).toNat % 2 ^ 32) k
      (∀ k ∈ lanesOf (c.exec f.p), ∀ e ∈ els k,
        (elemAt t gr.block f.a.field e x.2.1).isSome = true ∧ chunkAway t gr.block f.a.field e x.2.1 = false) →
      ∃ c' p, exec x.1 s = .next ((s.updGroup g fun y => { y with pend := y.pend ++ [p] }).setCtx g (some c'))
        ∧ p.tok = x.1.tok ∧ p.frag = c.entry ∧ p.instr = x.1 ∧ p.mask = c.exec f.p ∧ p.tiles = []
        ∧ p.vals = (lanesOf (c.exec f.p)).map (fun k => (k, BitVec.ofNat 64
            (((List.range (els k).length).map fun j =>
              tldEl t gr.block c f.a.field x.2.1 ((els k).getD j 0) * 2 ^ (8 * x.2.1 * j)).sum)))
        ∧ SlotKept x.1 c c' ∧ HeldKept c c' ∧ VectorsKept c c' ∧ ScalarsKept c c' ∧ PredicatesKept c c' ∧ FlagsKept c c')
  ∧ (∀ (f : F3) s g gr c, Ready s g gr c (.tst f) →
      let t := tileOps s gr.block c.tops
      let els := (lanesOf (c.exec f.p)).map fun k => (k, (c.uni f.b).toNat % 2 ^ 32 + k, BitVec.ofNat 64 (c.srcT f.ty f.c k))
      ((∀ x ∈ els, (elemAt t gr.block f.a.field x.2.1 (f.ty.width / 8)).isSome = true
          ∧ chunkOwned t gr.block f.a.field x.2.1 (f.ty.width / 8) = false) →
        ∃ t c' gr', exec (.tst f) s = .next t ∧ t.group? g = some gr' ∧ gr'.ctx = some c' ∧ MemoryKept s t ∧ gr'.regs = gr.regs
          ∧ c'.tsts = c.tsts ++ [{ slot := c.slot, tok := (Instr.tst f).tok, tile := f.a.field, esz := f.ty.width / 8, els }]
          ∧ SlotKept (.tst f) c c' ∧ VectorsKept c c' ∧ ScalarsKept c c' ∧ PredicatesKept c c' ∧ FlagsKept c c' ∧ c'.stores = c.stores)
      ∧ (∀ x ∈ els, (elemAt t gr.block f.a.field x.2.1 (f.ty.width / 8)).isNone = true →
        (∀ y ∈ els, (elemAt t gr.block f.a.field y.2.1 (f.ty.width / 8)).isNone = true → x.1 ≤ y.1) →
        ∃ lanes, lanes.getLsbD x.1 = true
          ∧ exec (.tst f) s = .next (raise s g (c.noting gr (.tst f)) .tilebound lanes (x.2.1 * (f.ty.width / 8)) 0)))

/-! ### Control registers and other instructions of class S -/

/-- CSRR, TIME, PERF, RECMODE, CSRW and NOP complete at every slot where they may execute: exec answers a next state, with no other condition (R127
to R129, R373). CSRR, TIME, PERF and RECMODE write sD, as every scalar is written, and the latch: CSRR the register's value at the start of the
clause, PERF the counter's, TIME the device's time base, RECMODE its item; where the task is replayed, TIME, PERF and HINTDROP are outside values and
may come from the log. CSRW holds its value for the commit; NOP changes nothing. The control registers that have storage of their own read back what
a committed CSRW of them stored: FMODE keeps bit 0, SRSEED clears SRCTR, SIG keeps bits 31:0, HINTDROP clears on a write of one (R71, R127, R128). -/
def Obligations.ControlRegisters : Prop :=
  (∀ (f : FS) s g gr c,
      (∀ d : BitVec 6, f.o = .s d →
        (Ready s g gr c (.csrr f) → ∃ c' v, exec (.csrr f) s = .next (s.setCtx g (some c')) ∧ ScalarWritten (.csrr f) d.toNat v gr c c'
          ∧ (f.imm ≠ 0x28 ∨ replaying s gr.block.gang.slot = none → v = csrValue s gr c f.imm.toNat) ∧ (f.imm ≠ 0x28 → c'.outs = c.outs))
        ∧ (Ready s g gr c (.perf f) → ∃ c' v, exec (.perf f) s = .next (s.setCtx g (some c')) ∧ ScalarWritten (.perf f) d.toNat v gr c c'
          ∧ (replaying s gr.block.gang.slot = none → v = BitVec.ofNat 64 (AList.get c.perf0 f.imm.toNat 0)))
        ∧ (Ready s g gr c (.time f) → ∃ c' v, exec (.time f) s = .next ((readTime s).2.setCtx g (some c')) ∧ ScalarWritten (.time f) d.toNat v gr c c'
          ∧ (replaying s gr.block.gang.slot = none → v = (readTime s).1))
        ∧ (Ready s g gr c (.recmode f) → ∃ c', exec (.recmode f) s = .next (s.setCtx g (some c')) ∧ c'.outs = c.outs
          ∧ ScalarWritten (.recmode f) d.toNat (BitVec.ofNat 64 (recmodeWord s gr c f.imm.toNat)) gr c c'))
      ∧ (Ready s g gr c (.csrw f) → ∃ c', exec (.csrw f) s = .next (s.setCtx g (some c'))
        ∧ c'.csrw = c.csrw ++ [(c.slot, f.imm.toNat, c.uni f.o)] ∧ SlotKept (.csrw f) c c' ∧ VectorsKept c c' ∧ ScalarsKept c c'
        ∧ PredicatesKept c c' ∧ FlagsKept c c' ∧ c'.stores = c.stores ∧ c'.tsts = c.tsts ∧ c'.tops = c.tops)
      ∧ (Ready s g gr c (.nop f) → ∃ c', exec (.nop f) s = .next (s.setCtx g (some c'))
        ∧ SlotKept (.nop f) c c' ∧ HeldKept c c' ∧ VectorsKept c c' ∧ ScalarsKept c c' ∧ PredicatesKept c c' ∧ FlagsKept c c'))
  ∧ (∀ (e slot : Nat) (k : Ctl) (v : Word),
      (csrwOne e k (slot, 0x10, v)).ftz = v.getLsbD 0
      ∧ (csrwOne e k (slot, 0x11, v)).srseed = v ∧ (csrwOne e k (slot, 0x11, v)).srctr = 0
      ∧ (csrwOne e k (slot, 0x12, v)).srctr = v ∧ (csrwOne e k (slot, 0x12, v)).srseed = k.srseed
      ∧ (csrwOne e k (slot, 0x19, v)).sig = v.setWidth 32
      ∧ (csrwOne e k (slot, 0x28, v)).hintdrop = (k.hintdrop && !v.getLsbD 0)
      ∧ (csrwOne e k (slot, 0x08, v)) = k
      ∧ ccOfWord v = { z := v.getLsbD 0, n := v.getLsbD 1, c := v.getLsbD 2, v := v.getLsbD 3, e := v.getLsbD 4 })

/-! ### Instructions that take effect at commit -/

/-- From its last slot a commit-class instruction commits its clause, and its operation runs with the operands it recorded: those with no checks at
their slot, with the operand that O names; those that access memory, when every access is aligned, mapped and resident; COLL and FWAITC while the
fabric is on; those on tiles, the matrix unit and the fabric, under the conditions their rules set at the slot (R41, R57, R109, R177, R180, R205, R251 to R253, R279, R304 to R306, R324, R347
to R351, R354). -/
def Obligations.CommitClassRuns : Prop :=
  (∀ s g gr c, LastSlot c →
      (∀ f : FM, Ready s g gr c (.fence f) → CommitsOp (.fence f) s s g gr c (opRecord (.fence f) gr c))
      ∧ (∀ f : FI, Ready s g gr c (.sigchk f) → CommitsOp (.sigchk f) s s g gr c (opRecord (.sigchk f) gr c))
      ∧ (∀ f : FS, ∀ i ∈ [Instr.barv f, .barw f, .gjoin f, .gleave f, .rdv f, .trap f, .trapAbort f, .brk f],
        Ready s g gr c i → CommitsOp i s s g gr c (opRecord i gr c))
      ∧ (∀ f : FS, Ready s g gr c (.fwaitc f) → s.fab.en = true → CommitsOp (.fwaitc f) s s g gr c (opRecord (.fwaitc f) gr c))
      ∧ (∀ f : FS, ∀ i ∈ [Instr.bwait f, .bgrp f, .recmark f, .tdep f],
        Ready s g gr c i → CommitsOp i s s g gr c { opRecord i gr c with a := c.uni f.o })
      ∧ (∀ f : FS, Ready s g gr c (.fork f) → (c.uni f.o).toNat % 8 = 0 →
        CommitsOp (.fork f) s s g gr c { opRecord (.fork f) gr c with a := c.uni f.o }))
  ∧ (∀ s g gr c s0 l, LastSlot c →
      (∀ f : FA, ∀ x ∈ [(Instr.atom f, true), (.redM f, false)], Ready s g gr c x.1 →
        checkAccs s gr.cu (groupPasid s gr) true { r := x.2, w := true } ((lanesOf c.mask).map fun k =>
          mkAcc k (c.src64 f.a k).toNat (f.ty.width / 8) (BitVec.ofNat 64 (c.srcT f.ty f.b k)) (BitVec.ofNat 64 (c.srcT f.ty f.c k)))
          = (s0, .ok l []) →
        CommitsOp x.1 s s0 g gr c { opRecord x.1 gr c with accs := l, mask := c.mask })
      ∧ (∀ f : FA, Ready s g gr c (.satom f) →
        checkAccs s gr.cu (groupPasid s gr) true { r := true, w := true } [mkAcc 96 (c.uni f.a).toNat (f.ty.width / 8)
          (BitVec.ofNat 64 (c.uniT f.ty f.b)) (BitVec.ofNat 64 (c.uniT f.ty f.c))] = (s0, .ok l []) →
        CommitsOp (.satom f) s s0 g gr c { opRecord (.satom f) gr c with accs := l, mask := c.mask })
      ∧ (∀ f : FA, Ready s g gr c (.waita f) →
        checkAccs s gr.cu (groupPasid s gr) true { r := true } [mkAcc 96 (c.uni f.a).toNat (f.ty.width / 8) 0 0] = (s0, .ok l []) →
        l.any (loadTypeop s0 g) = false →
        CommitsOp (.waita f) s s0 g gr c
          { opRecord (.waita f) gr c with accs := l, a := c.uni f.a, b := BitVec.ofNat 64 (c.uniT f.ty f.b) })
      ∧ (∀ f : FM, ∀ x ∈ [(Instr.seal f, ({ w := true } : Need)), (.reuse f, { w := true })], Ready s g gr c x.1 →
        let base := (c.uni f.a + f.ofs.signExtend 64).toNat
        let len := (c.uni f.b).toNat % 2 ^ 32
        base % 128 = 0 → len % 128 = 0 →
        checkAccs s gr.cu (groupPasid s gr) false x.2 ((List.range (len / 128)).map fun k => mkAcc 96 (base + 128 * k) 128 0 0)
          = (s0, .ok l []) →
        CommitsOp x.1 s s0 g gr c { opRecord x.1 gr c with a := BitVec.ofNat 64 base, b := BitVec.ofNat 64 len, accs := l })
      ∧ (∀ (f : FM) n, Ready s g gr c (.flush f) →
        let base := (c.uni f.a + f.ofs.signExtend 64).toNat
        let len := (c.uni f.b).toNat % 2 ^ 32
        base % 128 = 0 → len % 128 = 0 →
        checkAccs s gr.cu (groupPasid s gr) false { r := true } ((List.range (len / 128)).map fun k => mkAcc 96 (base + 128 * k) 128 0 0)
          = (s0, .ok l n) →
        CommitsOp (.flush f) s s0 g gr c { opRecord (.flush f) gr c with a := BitVec.ofNat 64 base, b := BitVec.ofNat 64 len, accs := l })
      ∧ (∀ (f : FM) n, Ready s g gr c (.pgreq f) →
        let accs := (lanesOf (c.exec f.p)).map fun k => mkAcc k (fmAddr c f 1 k) 1 0 0
        checkAccs s gr.cu (groupPasid s gr) false { r := !(f.d == 1), w := f.d == 1 } accs = (s0, .ok l n) →
        CommitsOp (.pgreq f) s s0 g gr c { opRecord (.pgreq f) gr c with accs, mask := c.exec f.p })
      ∧ (∀ f : FS, ∀ x ∈ [(Instr.coll f, 64), (.spawn f, 256)], Ready s g gr c x.1 → (x.1 = .coll f → s.fab.en = true) →
        checkAccs s gr.cu (groupPasid s gr) true { r := true } [mkAcc 96 (c.uni f.o).toNat x.2 0 0] = (s0, .ok l []) →
        CommitsOp x.1 s s0 g gr c { opRecord x.1 gr c with accs := l }))
  ∧ (∀ s g gr c, LastSlot c →
      (∀ f : FA, Ready s g gr c (.waitat f) →
        (elemAt (tileOps s gr.block c.tops) gr.block f.a.field ((c.uni f.b).toNat % 2 ^ 32) (f.ty.width / 8)).isSome = true →
        CommitsOp (.waitat f) s s g gr c { opRecord (.waitat f) gr c with
          a := BitVec.ofNat 64 ((c.uni f.b).toNat % 2 ^ 32), b := BitVec.ofNat 64 (c.uniT f.ty f.c) })
      ∧ (∀ f : F3, Ready s g gr c (.mfeed f) → ownsMx s gr = true → (c.uni f.b).toNat ≤ 63 →
        CommitsOp (.mfeed f) s s g gr c { opRecord (.mfeed f) gr c with b := c.uni f.b, mask := c.exec f.p })
      ∧ (∀ (f : F3) esz, Ready s g gr c (.mfeedt f) → ownsMx s gr = true →
        tileEsz (tileOps s gr.block c.tops) gr.block f.a.field = some esz →
        (∀ k, k < 4096 / esz → (elemAt (tileOps s gr.block c.tops) gr.block f.a.field ((c.uni f.b).toNat % 2 ^ 32 + k) esz).isSome = true) →
        CommitsOp (.mfeedt f) s s g gr c { opRecord (.mfeedt f) gr c with b := BitVec.ofNat 64 ((c.uni f.b).toNat % 2 ^ 32), aux := esz })
      ∧ (∀ f : F3, Ready s g gr c (.mdrain f) → ownsMx s gr = true →
        let sel := (c.uni f.b).toNat % 2 ^ 32
        sel < 128 → (f.ty = .b64 → sel < 64) → sel % 64 + (f.c.field - 384) ≤ 64 →
        CommitsOp (.mdrain f) s s g gr c { opRecord (.mdrain f) gr c with b := BitVec.ofNat 64 sel, mask := c.exec f.p })
      ∧ (∀ f : F3, Ready s g gr c (.mdrainTl f) → ownsMx s gr = true →
        let t := tileOps s gr.block c.tops
        let base := (c.uni f.b).toNat % 2 ^ 32
        (∀ k, k < (if f.ty = .b64 then 4096 else 8192) → (elemAt t gr.block f.c.field (base + k) (f.ty.width / 8)).isSome = true
          ∧ chunkOwned t gr.block f.c.field (base + k) (f.ty.width / 8) = false) →
        CommitsOp (.mdrainTl f) s s g gr c { opRecord (.mdrainTl f) gr c with b := BitVec.ofNat 64 base, mask := c.mask })
      ∧ (∀ f : FA,
        let acc := fun (k : Nat) (b x : Word) => { mkAcc k (c.src64 f.a k).toNat (f.ty.width / 8) b x with dev := (c.src32 f.b k).toNat }
        let reg := fun k => BitVec.ofNat 64 (c.srcT f.ty (.v f.d) k)
        ∀ x ∈ [(Instr.fst f, fun k => acc k (reg k) 0), (.fld f, fun k => acc k 0 0),
            (.fatom f, fun k => acc k (BitVec.ofNat 64 (c.srcT f.ty f.c k)) (reg k))],
        Ready s g gr c x.1 → (∀ k ∈ lanesOf c.mask, fabCause s (x.2 k) = none) →
        CommitsOp x.1 s s g gr c { opRecord x.1 gr c with
          accs := (lanesOf c.mask).map fun k => { x.2 k with pa := (x.2 k).va }, mask := c.mask })
      ∧ (∀ f : FA, Ready s g gr c (.ffence f) →
        let a := { mkAcc 96 (c.uni f.a).toNat (f.ty.width / 8) (BitVec.ofNat 64 (c.uniT f.ty f.c)) 0 with dev := (c.uni f.b).toNat % 2 ^ 32 }
        fabCause s a = none →
        CommitsOp (.ffence f) s s g gr c { opRecord (.ffence f) gr c with accs := [{ a with pa := a.va }], mask := c.mask }))

/-- A word that is no instruction raises ILLOP at its slot, with the mask in force as its lanes; a control core that meets one stops (R57, R59, R60).
An instruction of a vector clause whose operands break the latch or budget rules raises their fault, has no other effect, and names the mask in force
(R45, R50, R60). A load or store of a lane that is not aligned faults ALIGN and one of an unmapped page UNMAPPED; the fault is recorded with its lanes and the
clause is abandoned (R42, R177, R180). COLL and FWAITC raise FABRIC while the fabric is off (R337).
An indirect target that is no multiple of 8 raises ALIGN, JOIN or FORKM outside any MARK ILLOP, JOIN elsewhere
than at its rejoin address ILLOP (R39, R173, R175). -/
def Obligations.FaultsBeforeAnEffect : Prop :=
  (((∀ s g gr c e, s.agenda = [] → s.cur = some (.grp g) → s.group? g = some gr → gr.ctx = some c → c.slot < c.words.length →
       groupRuns s gr = true → decodeVec (c.words.getD c.slot 0) = .error e → step s = .next (raise s g c .illop c.mask 0 0))
     ∧ (∀ s l c e, s.agenda = [] → s.cur = some (.core l) → (s.mxD l).clause = some c → c.slot < c.words.length →
       (physClu s l).any (clockRuns s) = true → decodeCore (c.words.getD c.slot 0) = .error e → step s = .next (coreFault s l 0x01 0 0)))
   ∧ (∀ (i : Instr) s g gr c cause, Instr.isWord i = true → i.isCore = false → issuing? s = some (g, gr, c) →
       operandFault gr.vregs c.kinds i = some cause → exec i s = .next (raise s g c cause c.mask 0 0)))
  ∧ ((∀ (f : FM), ∀ x ∈ [(Instr.ldN8 f, 1, false, false), (.ldI8 f, 1, false, false), (.ldN16 f, 2, false, false), (.ldI16 f, 2, false, false),
          (.ldB32 f, 4, false, false), (.ldB64 f, 8, false, false), (.sldB32 f, 4, true, false), (.sldB64 f, 8, true, false), (.stN8 f, 1, false, true),
          (.stN16 f, 2, false, true), (.stB32 f, 4, false, true), (.stB64 f, 8, false, true), (.sstB32 f, 4, true, true), (.sstB64 f, 8, true, true)],
       ∀ s g gr c s0 cause lanes daddr sub, Ready s g gr c x.1 →
         let size := x.2.1
         let uni := x.2.2.1
         let data := fun k => if uni then c.getS f.d.toNat else if size = 8 then c.src64 (.v f.d) k else (lane (c.view.getV f.d.toNat) k).setWidth 64
         let acc := fun k n => mkAcc k (fmAddr c f size n) size (if x.2.2.2 then data n else 0) 0
         checkAccs s gr.cu (groupPasid s gr) true (if x.2.2.2 then { w := true } else { r := true })
           (if uni then [acc 96 0] else (lanesOf (c.exec f.p)).map fun k => acc k k) = (s0, .fault cause lanes daddr sub) →
         exec x.1 s = .next (raise s0 g (c.noting gr x.1) cause (if lanes = 0 then c.mask else lanes) daddr sub))
     ∧ (∀ (f : FS) s g gr c, s.fab.en = false →
         (Ready s g gr c (.fwaitc f) → exec (.fwaitc f) s = .next (raise s g (c.noting gr (.fwaitc f)) .fabric c.mask 0 0))
         ∧ (∀ s0 l n, Ready s g gr c (.coll f) →
             checkAccs s gr.cu (groupPasid s gr) true { r := true } [mkAcc 96 (c.uni f.o).toNat 64 0 0] = (s0, .ok l n) →
             exec (.coll f) s = .next (raise s0 g (c.noting gr (.coll f)) .fabric c.mask 0 0)))
     ∧ (∀ (f : F3) (h : FB) s g gr c,
         (Ready s g gr c (.jmpi f) → (c.uni f.a).toNat % 8 ≠ 0 → exec (.jmpi f) s = .next (raise s g (c.noting gr (.jmpi f)) .align c.mask 0 0))
         ∧ (Ready s g gr c (.ret f) → (c.getS 58).toNat % 8 ≠ 0 → exec (.ret f) s = .next (raise s g (c.noting gr (.ret f)) .align c.mask 0 0))
         ∧ (Ready s g gr c (.join f) → (gr.ent c.entry).depth + c.marks.length = 0 ∨ rejoinAt gr c ≠ c.addr →
             exec (.join f) s = .next (raise s g (c.noting gr (.join f)) .illop c.mask 0 0))
         ∧ (Ready s g gr c (.forkm h) → (gr.ent c.entry).depth + c.marks.length = 0 →
             exec (.forkm h) s = .next (raise s g (c.noting gr (.forkm h)) .illop c.mask 0 0))))

/-- The control transfers commit their clause and go where their rules say: BR on its condition on CC, BRANY and BRNONE on the lanes in force that
have the predicate, CALL to its offset, JMPI and RET to a register, and JOIN at its rejoin address (R172 to R175). Where a transfer leaves its
fragment, in any state it commits in: a taken branch at its target and one not taken at the next header; JMPI and RET at their register; FORKM with
all lanes on one side at the side they are on. The header it stands at is still to be fetched (R172, R173, R175). MARK, while the group has a free
entry and DEPTH is below 15, is held with its rejoin address, the lowest free entry and the stored mask; else it raises SPLITOV (R175). -/
def Obligations.TransfersCommitAtTheirTargets : Prop :=
  (∀ s g gr c, LastSlot c →
     (∀ f : FB,
       let dst := BitVec.ofNat 64 c.addr + f.ofs.signExtend 64 * 8
       let hit := c.mask &&& c.view.getQ f.cond.toNat
       (Ready s g gr c (.br f) → CommitsJump (.br f) s g gr c
         { opRecord (.br f) gr c with a := dst, aux := if condHolds f.cond.toNat c.cc (c.am == 0) then 1 else 0 })
       ∧ (Ready s g gr c (.brany f) → CommitsJump (.brany f) s g gr c { opRecord (.brany f) gr c with a := dst, aux := if hit = 0 then 0 else 1 })
       ∧ (Ready s g gr c (.brnone f) → CommitsJump (.brnone f) s g gr c { opRecord (.brnone f) gr c with a := dst, aux := if hit = 0 then 1 else 0 })
       ∧ (Ready s g gr c (.call f) → CommitsJump (.call f) s g gr c { opRecord (.call f) gr c with a := dst })
       ∧ (Ready s g gr c (.forkm f) → (gr.ent c.entry).depth + c.marks.length ≠ 0 →
           c.am &&& c.view.getQ f.cond.toNat = 0 ∨ c.am &&& ~~~c.view.getQ f.cond.toNat = 0 ∨ freeAt gr c ≠ [] →
           CommitsJump (.forkm f) s g gr c { opRecord (.forkm f) gr c with a := dst, mask := c.view.getQ f.cond.toNat }))
     ∧ (∀ f : F3,
       (Ready s g gr c (.jmpi f) → (c.uni f.a).toNat % 8 = 0 → CommitsJump (.jmpi f) s g gr c { opRecord (.jmpi f) gr c with a := c.uni f.a })
       ∧ (Ready s g gr c (.ret f) → (c.getS 58).toNat % 8 = 0 → CommitsJump (.ret f) s g gr c { opRecord (.ret f) gr c with a := c.getS 58 })
       ∧ (Ready s g gr c (.exit f) → CommitsJump (.exit f) s g gr c (opRecord (.exit f) gr c))
       ∧ (Ready s g gr c (.join f) → (gr.ent c.entry).depth + c.marks.length ≠ 0 → rejoinAt gr c = c.addr →
           CommitsJump (.join f) s g gr c (opRecord (.join f) gr c))
       ∧ (Ready s g gr c (.calli f) → (∀ a ∈ calliAccs c f.a, a.va % 8 = 0) →
           (callTargets (calliAccs c f.a)).length ≤ (freeAt gr c).length + 1 →
           CommitsJump (.calli f) s g gr c { opRecord (.calli f) gr c with accs := calliAccs c f.a })))
  ∧ (∀ s g gr e (p : POp), s.group? g = some gr → e < gr.ents.length →
       let goes := fun (pc : Nat) => ∃ gr', (doJump s g e p).group? g = some gr' ∧ (gr'.ent e).pc = pc ∧ (gr'.ent e).st = .fetching
         ∧ (gr'.ent e).own = (gr.ent e).own ∧ (gr'.ent e).mask = (gr.ent e).mask ∧ gr'.regs = gr.regs
         ∧ ∀ k, k ≠ e → gr'.ent k = gr.ent k
       (∀ f, p.instr = .br f ∨ p.instr = .brany f ∨ p.instr = .brnone f → goes (if p.aux = 1 then p.a.toNat else p.nextHdr))
       ∧ (∀ f, p.instr = .jmpi f ∨ p.instr = .ret f → goes p.a.toNat)
       ∧ (∀ f, p.instr = .forkm f → (gr.ent e).mask &&& p.mask = 0 → goes p.nextHdr)
       ∧ (∀ f, p.instr = .forkm f → (gr.ent e).mask &&& p.mask ≠ 0 → (gr.ent e).mask &&& ~~~p.mask = 0 → goes p.a.toNat))
  ∧ (∀ (f : FB) s g gr c, Ready s g gr c (.mark f) →
       (∀ n t, freeAt gr c = n :: t → (gr.ent c.entry).depth + c.marks.length < 15 →
         ∃ c', exec (.mark f) s = .next (s.setCtx g (some c'))
           ∧ c'.marks = c.marks ++ [((BitVec.ofNat 64 c.addr + f.ofs.signExtend 64 * 8).toNat, n, c.am)]
           ∧ c'.slot = c.slot + 1 ∧ HeldKept c c' ∧ VectorsKept c c' ∧ ScalarsKept c c' ∧ PredicatesKept c c' ∧ FlagsKept c c')
       ∧ (freeAt gr c = [] ∨ (gr.ent c.entry).depth + c.marks.length ≥ 15 →
         exec (.mark f) s = .next (raise s g (c.noting gr (.mark f)) .splitov c.mask 0 0)))

/-- A commit makes the clause-local view architectural at once: every register reads as the clause last wrote it, the fragment stands at the next
header with the stored mask if it wrote one, and the open clause is gone (R41 step 1, R114). -/
def Obligations.CommitMakesViewArchitectural : Prop :=
  ∀ (gr : Group) (c : Ctx), c.marks = [] → c.entry < gr.ents.length →
    (commitGroup gr c).regs = c.view ∧ (commitGroup gr c).ctx = none
    ∧ ((commitGroup gr c).ent c.entry).pc = c.addr + 8 * (c.words.length + 1)
    ∧ ((commitGroup gr c).ent c.entry).mask = (if c.amDirty then c.am else (gr.ent c.entry).mask)
    ∧ ((commitGroup gr c).ent c.entry).own = (gr.ent c.entry).own
    ∧ (c.csrw = [] → ((commitGroup gr c).ent c.entry).cc = c.cc)
    ∧ (∀ k, k ≠ c.entry → (commitGroup gr c).ent k = gr.ent k)
    ∧ (c.rs = 0 → c.csrw = [] → (commitGroup gr c).ctl.srctr = gr.ctl.srctr ∧ (commitGroup gr c).ctl.srseed = gr.ctl.srseed)

/-- A tokened result lands: the lanes it names take their values, scalar registers theirs, and every other register of the group is as it was (R47
rules 1 and 4). -/
def Obligations.LandingWritesOnlyItsDestination : Prop :=
  ∀ s g gr e d m x, s.group? g = some gr →
    ∃ gr', (landAll s g e { v := [(d, m, x)] }).group? g = some gr' ∧ LanesAre (gr'.regs.getV d) (gr.regs.getV d) m (lane x)
      ∧ (∀ n, n ≠ d → gr'.regs.getV n = gr.regs.getV n) ∧ gr'.regs.s = gr.regs.s ∧ gr'.regs.q = gr.regs.q ∧ gr'.ents = gr.ents

/-! ### The control core and the matrix unit -/

/-- CADD to CSHR, CMOVI and CMOVI.HI write cD and change no other register and no flag; c31 discards a write. CCMP sets the four flags from the 64-bit
difference and writes no register (R230, R232 to R234). -/
def Obligations.CoreArithmetic : Prop :=
  ∀ (f : CA) s l m c, CoreReady s l m c →
    let a := m.getC f.a.toNat
    let v := if f.i then f.imm.signExtend 64 else m.getC f.b.toNat
    (∀ p ∈ [(Instr.cadd f, a + v), (.csub f, a - v), (.cmul f, a * v), (.cand f, a &&& v), (.cor f, a ||| v), (.cxor f, a ^^^ v),
        (.cshl f, a <<< v.toNat), (.cshr f, if f.x = 1 then a.sshiftRight v.toNat else a >>> v.toNat),
        (.cmovi f, f.imm.signExtend 64), (.cmoviHi f, f.imm.setWidth 64 <<< 32 ||| (m.getC f.d.toNat &&& 0xFFFFFFFF))],
      ∃ m', exec p.1 s = .next (coreAfter s l c m') ∧ WritesCore m m' f.d.toNat p.2)
    ∧ exec (.ccmp f) s = .next (coreAfter s l c
        { m with fz := a == v, fn := (a - v).msb, fc := !a.ult v, fv := BitVec.ssubOverflow a v })

/-- When the last slot of a core's clause is done and nothing is outstanding, the clause commits: the core stands at the next header, its held stores
are requests, and no register and no byte of memory has changed. Before that the core stays in the clause (R232). A fault of a control core stops it
and clears RUN; its registers stay and its record is filled. The report reaches the group that forked it at the RDV a fragment of it is parked in, or,
with neither an RDV nor an MDRAIN pending, the fragment that forked it, as a late fault to take at its next clause header (R59, R255). -/
def Obligations.CoreClauseEnds : Prop :=
  (∀ s l m c, s.mxD l = m → m.clause = some c →
      let t := coreSettle s l
      (c.slot = c.words.length → c.wait = [] →
        (t.mxD l).clause = none ∧ (t.mxD l).pc = c.addr + 8 * (c.words.length + 1) ∧ (∀ n, (t.mxD l).getC n = m.getC n)
        ∧ (t.mxD l).cc = m.cc ∧ (t.mxD l).run = m.run ∧ t.mem = s.mem ∧ t.groups = s.groups
        ∧ (t.m.reqs.map (·.accs)) = (s.m.reqs.map (·.accs)) ++ c.stores.map (fun a => [a]))
      ∧ (c.slot ≠ c.words.length ∨ c.wait ≠ [] → t = s))
  ∧ (∀ s l m c code holder daddr, s.mxD l = m → m.clause = some c → m.stopped = false →
      ∃ m', stopCore s l code holder daddr = reportCore (s.setMx l m') l
          { cause := .matrix, iaddr := c.addr + 8 * (c.slot + 1), lanes := 0, sub := code, holder, daddr }
        ∧ m'.stopped = true ∧ m'.run = false ∧ m'.clause = none ∧ (∀ n, m'.getC n = m.getC n) ∧ m'.forker = m.forker ∧ m'.frec.length = 32)
  ∧ (∀ s l info gr, s.group? (s.mxD l).forker.1 = some gr →
      let g := (s.mxD l).forker.1
      (∀ e p t, rdvParked gr = (e, p) :: t → e < 16 → e < gr.ents.length → ∃ u gr' x, reportCore s l info = settleLate u g e
        ∧ u.group? g = some gr' ∧ (gr'.ent e).late = (gr.ent e).late ++ [x] ∧ x.info = info ∧ (gr'.ent e).st = .fetching
        ∧ gr'.regs = gr.regs ∧ u.mem = s.mem)
      ∧ (∀ e, (s.mxD l).forker.2 = e → rdvParked gr = [] → (∀ p ∈ gr.pend, p.mc = false) → (gr.ent e).valid = true → e < 16 →
        e < gr.ents.length → ∃ u gr' x, reportCore s l info = settleLate u g e
        ∧ u.group? g = some gr' ∧ (gr'.ent e).late = (gr.ent e).late ++ [x] ∧ x.info = info ∧ gr'.regs = gr.regs ∧ u.mem = s.mem))

/-- CLD asks for its data and holds the core until it comes; CST is held until the commit. Each is as wide as X says, at cA + IMM32 modulo 2^64. An
address that is not aligned stops the core with ALIGN; a translation that faults stops it with that fault, and an absent page is asked for (R229, R235,
R329). -/
def Obligations.CoreMemory : Prop :=
  ∀ (f : CA) s l m c, CoreReady s l m c →
    let va := (m.getC f.a.toNat + f.imm.signExtend 64).toNat
    let size := if f.x = 1 then 4 else 8
    let tr := fun (need : Need) => translateIn s true (coreClu s l) (corePasid s m) va need
    (∀ i ∈ [Instr.cld f, .cst f], va % size ≠ 0 → exec i s = .next (coreFault s l 0x03 0 va))
    ∧ (∀ x ∈ [(Instr.cld f, ({ r := true } : Need)), (.cst f, { w := true })], ∀ s0 cause, va % size = 0 → tr x.2 = (s0, .fault cause) →
        exec x.1 s = .next (coreFault (faultAsk s0 (corePasid s m) cause.code va x.2.w false) l cause.code 0 va))
    ∧ (∀ s0 pa ct, va % size = 0 → tr { r := true } = (s0, .ok pa ct) →
        ∃ t q a, exec (.cld f) s = .next t ∧ t.m.reqs = s0.m.reqs ++ [q] ∧ q.kind = .load ∧ q.agent = agentOfCore l ∧ q.orig = .core l
          ∧ q.x = f.d.toNat ∧ q.accs = [a] ∧ a.pa = pa ∧ a.va = va ∧ a.size = size
          ∧ (t.mxD l).clause = some { c with slot := c.slot + 1, wait := [q.id] } ∧ (∀ n, (t.mxD l).getC n = m.getC n)
          ∧ MemoryKept s t ∧ t.groups = s.groups)
    ∧ (∀ s0 pa ct, va % size = 0 → tr { w := true } = (s0, .ok pa ct) → c.slot + 1 < c.words.length →
        ∃ t c' a, exec (.cst f) s = .next t ∧ (t.mxD l).clause = some c' ∧ c'.stores = c.stores ++ [a] ∧ a.pa = pa ∧ a.va = va
          ∧ a.size = size ∧ a.b = m.getC f.b.toNat ∧ c'.slot = c.slot + 1 ∧ (∀ n, (t.mxD l).getC n = m.getC n)
          ∧ MemoryKept s t ∧ t.groups = s.groups)

/-- CBR goes to its label when its condition holds on the core's flags, else on; CLOOP counts its register down by one and goes to the label unless it
reads zero; CJMP goes to its register, or stops the core with ALIGN. CEXIT clears RUN and gives its value to everyone who has arrived at the exit
rendezvous. CRDV waits for its k arrivals and for its own accesses; then it releases at cluster scope, gives cV to the first k that arrived, and the
round advances by one modulo 2^16; later arrivals stay (R236, R237). -/
def Obligations.CoreTransfers : Prop :=
  (∀ s l m c, CoreReady s l m c →
      let next := c.addr + 8 * (c.words.length + 1)
      let goes := fun (i : Instr) (m' : Mx) (pc : Nat) => ∃ t, exec i s = .next t ∧ (t.mxD l).pc = pc ∧ (t.mxD l).clause = none
        ∧ (∀ n, (t.mxD l).getC n = m'.getC n) ∧ (t.mxD l).cc = m'.cc ∧ (t.mxD l).run = m'.run ∧ t.cur = none ∧ MemoryKept s t
      (∀ f : CB,
        let dst := (BitVec.ofNat 64 c.addr + f.ofs.signExtend 64 * 8).toNat
        let m1 := m.setC f.a.toNat (m.getC f.a.toNat - 1)
        goes (.cbr f) m (if condHolds f.cond.toNat m.cc false then dst else next)
        ∧ goes (.cloop f) m1 (if m1.getC f.a.toNat ≠ 0 then dst else next))
      ∧ (∀ f : CA,
        ((m.getC f.a.toNat).toNat % 8 = 0 → goes (.cjmp f) m (m.getC f.a.toNat).toNat)
        ∧ ((m.getC f.a.toNat).toNat % 8 ≠ 0 → exec (.cjmp f) s = .next (coreFault s l 0x03 0 0))
        ∧ ∃ u, exec (.cexit f) s = .next (match m.owner with | some g => retireGang (wakeAll u) g | none => wakeAll u) ∧ (u.mxD l).run = false ∧ (u.mxD l).exitVal = some (m.getC f.a.toNat)
            ∧ ((u.mxD l).rdvD m.xr).arrivals = []
            ∧ ((u.mxD l).rdvD m.xr).results = (m.rdvD m.xr).results ++ (m.rdvD m.xr).arrivals.map fun a => (a.1, a.2, m.getC f.a.toNat)))
  ∧ (∀ (f : CA) s l m c, CoreReady s l m c →
      let r := f.x.toNat
      let x := m.rdvD r
      let k := f.imm.toNat
      (x.arrivals.length < k ∨ agentBusy s (agentOfCore l) = true → exec (.crdv f) s = .next s)
      ∧ (k ≤ x.arrivals.length → agentBusy s (agentOfCore l) = false →
        ∃ m', exec (.crdv f) s = .next (wakeAll (coreAfter (release s (agentOfCore l) 3) l c m'))
          ∧ (m'.rdvD r).round = (x.round + 1) % 65536 ∧ (m'.rdvD r).arrivals = x.arrivals.drop k
          ∧ (m'.rdvD r).results = x.results ++ (x.arrivals.take k).map (fun a => (a.1, a.2, m.getC f.a.toNat))
          ∧ (∀ r', r' ≠ r → m'.rdvD r' = m.rdvD r') ∧ m' = { m with rdv := m'.rdv }))

/-- MZERO, MPUB and MWAIT. MZERO of an accumulator that is OPEN everywhere makes every element +0 and sets the format; MPUB makes it PUBLISHED with
every element undrained; both leave every other register, accumulator and latch, and every array that takes no part. MWAIT goes on once its condition
holds and changes nothing (R241, R246, R248). -/
def Obligations.AccumulatorsOpenAndPublish : Prop :=
  ∀ (f : CM) s l m0 c, CoreReady s l m0 c →
    let m := m0.settled
    let n := f.mc.toNat
    let keeps := fun (m' : Mx) => (∀ k ∈ m.parts, (∀ j, j ≠ n → (m'.arrD k).mcD j = (m.arrD k).mcD j) ∧ (m'.arrD k).ma = (m.arrD k).ma
        ∧ (m'.arrD k).latch = (m.arrD k).latch) ∧ (∀ k, k ∉ m.parts → m'.arrD k = m.arrD k) ∧ m' = { m with arr := m'.arr }
    ((∀ j ∈ m.jobs, j.mma = true → j.mc ≠ n) →
      ((∀ k ∈ m.parts, ((m.arrD k).mcD n).published = false) →
        (∃ m', exec (.mzero f) s = .next (coreAfter s l c m') ∧ keeps m'
          ∧ ∀ k ∈ m.parts, ((m'.arrD k).mcD n).published = false ∧ ((m'.arrD k).mcD n).wide = (f.ty == some .f64)
            ∧ ∀ e, mcEl ((m'.arrD k).mcD n) e = 0)
        ∧ ∃ m', exec (.mpub f) s = .next (wakeAll (coreAfter s l c m')) ∧ keeps m'
          ∧ ∀ k ∈ m.parts, ((m'.arrD k).mcD n).published = true ∧ ((m'.arrD k).mcD n).drained = []
            ∧ ∀ e, mcEl ((m'.arrD k).mcD n) e = mcEl ((m.arrD k).mcD n) e)
      ∧ ((∃ k ∈ m.parts, ((m.arrD k).mcD n).published = true) →
          exec (.mzero f) s = .next s ∧ exec (.mpub f) s = .next (coreFault s l 0x47 0 0)))
    ∧ ((∀ j, f.mask.getLsbD j = true → ∀ k ∈ m.parts, ((m.arrD k).mcD j).published = false) →
        exec (.mwaitPub f) s = .next (coreAfter s l c m))
    ∧ ((∀ j, f.mask.getLsbD j = true → ∀ k ∈ m.parts, ((m.arrD k).maD j).full = true) → exec (.mwaitA f) s = .next (coreAfter s l c m))

/-- MMA, once every array that takes part has its A register or latch, an OPEN accumulator and the B slot: every element of the accumulator becomes
the rounded sum of itself and the exact products; the A register is kept in the latch under .r and EMPTY otherwise; no other accumulator changes. An
.r with another register latched is REUSE, a format that does not agree FORMAT (R242). -/
def Obligations.MultiplyAccumulate : Prop :=
  ∀ (f : CM) t s l m0 c, f.ty = some t → CoreReady s l m0 c →
    let m := m0.settled
    let mc := f.mc.toNat
    let ma := f.ma.toNat
    let bs := f.bs.toNat
    m.parts.Nodup → (∀ j ∈ m.jobs, j.mma = false) → (m.bD bs).loaded = true →
    (∀ k ∈ m.parts, (((m.arrD k).maD ma).full = true ∨ (m.arrD k).latch = some ma) ∧ ((m.arrD k).mcD mc).published = false) →
    ((f.r = false ∨ ∀ k ∈ m.parts, (m.arrD k).latch = none ∨ (m.arrD k).latch = some ma) →
      ((∀ k ∈ m.parts, ((m.arrD k).mcD mc).wide = (t == .f64)) →
        ∃ m', exec (.mma f) s = .next (wakeAll (coreAfter (freshFree s).2 l c m'))
          ∧ (∀ k ∈ m.parts,
              (∀ i, i < 64 * mmaN t → mcEl ((m'.arrD k).mcD mc) i
                = mmaEl t ((m.arrD k).maD ma) (m.bD bs) (mcEl ((m.arrD k).mcD mc) i) (i / mmaN t) (i % mmaN t) % 2 ^ 64)
              ∧ ((m'.arrD k).mcD mc).published = false ∧ ((m'.arrD k).mcD mc).wide = ((m.arrD k).mcD mc).wide
              ∧ (∀ j, j ≠ mc → (m'.arrD k).mcD j = (m.arrD k).mcD j)
              ∧ (f.r = true → (m'.arrD k).latch = some ma ∧ (m'.arrD k).ma = (m.arrD k).ma)
              ∧ (f.r = false → (m'.arrD k).latch = none ∧ ((m'.arrD k).maD ma).full = false
                  ∧ ∀ j, j ≠ ma → (m.arrD k).latch ≠ some j → (m'.arrD k).maD j = (m.arrD k).maD j))
          ∧ (∀ k, k ∉ m.parts → m'.arrD k = m.arrD k) ∧ m'.b = m.b ∧ m'.c = m.c ∧ m'.jobs = m.jobs ++ [⟨true, mc, ma, bs, false⟩])
      ∧ ((∃ k ∈ m.parts, ((m.arrD k).mcD mc).wide ≠ (t == .f64)) → exec (.mma f) s = .next (coreFault s l 0x44 0 0)))
    ∧ (f.r = true → (∃ k ∈ m.parts, ∃ j, (m.arrD k).latch = some j ∧ j ≠ ma) → exec (.mma f) s = .next (coreFault s l 0x42 0 0))

/-- MSCALE.a, MSCALE.b, MLDB, MLDB.M, MSTAMP and MDONE take their operands: the scales of each array's own block or of the slot, the image of a B slot
(whose loaded bit comes when the last byte has arrived), the stamp, and the record as a store-release at device scope (R244, R245, R247). -/
def Obligations.MatrixOperandsLoad : Prop :=
  ∀ (f : CM) s l m0 c, CoreReady s l m0 c →
    let m := m0.settled
    let bs := f.bs.toNat
    let ma := f.ma.toNat
    let base := (m.getC f.cb.toNat).toNat
    let loads := fun (i : Instr) (x : List Byte) (mem : Bool) => ∃ s' m', exec i s = .next (coreAfter s' l c m')
      ∧ m'.bD bs = { m.bD bs with loaded := false, bytes := byteMap x } ∧ (∀ j, j ≠ bs → m'.bD j = m.bD j)
      ∧ m'.jobs = m.jobs ++ [⟨false, 0, 0, bs, mem⟩] ∧ m'.arr = m.arr ∧ m'.c = m.c
    (∀ bytes : Nat → List Byte, (∀ j ∈ m.jobs, j.mma = true → j.ma ≠ ma) →
      (∀ k ∈ m.parts, ∃ b, arrayBlock s m k = some b ∧ tileRead s b f.th.toNat base 256 = .ok (bytes k)) →
      ∃ m', exec (.mscaleA f) s = .next (coreAfter s l c m')
        ∧ (∀ k ∈ m.parts, (m'.arrD k).maD ma = { (m.arrD k).maD ma with scales := byteMap (bytes k) }
          ∧ (∀ j, j ≠ ma → (m'.arrD k).maD j = (m.arrD k).maD j) ∧ (m'.arrD k).mc = (m.arrD k).mc)
        ∧ (∀ k, k ∉ m.parts → m'.arrD k = m.arrD k) ∧ m' = { m with arr := m'.arr })
    ∧ (∀ b x, (∀ j ∈ m.jobs, j.mma = true → j.bs ≠ bs) → homeBlock m = some b → tileRead s b f.th.toNat base 512 = .ok x →
      ∃ m', exec (.mscaleB f) s = .next (coreAfter s l c m') ∧ m'.bD bs = { m.bD bs with scales := byteMap x }
        ∧ (∀ j, j ≠ bs → m'.bD j = m.bD j) ∧ m' = { m with b := m'.b })
    ∧ (∀ b x t, f.ty = some t → (∀ j ∈ m.jobs, j.bs ≠ bs) → homeBlock m = some b →
      tileRead s b f.th.toNat base (if t = .f64 then 4096 else 8192) = .ok x → loads (.mldb f) x false)
    ∧ (∀ t s1 rec s2 x, f.ty = some t → (∀ j ∈ m.jobs, j.bs ≠ bs) → agentBusy s (agentOfCore l) = false →
      let ca := (m.getC f.ca.toNat).toNat
      let sh := parseShape rec
      ca % 64 = 0 → coreRead l (coreClu s l) (corePasid s m) 64 s ca = (s1, .ok rec) → shapeFits t sh = true →
      coreRows l (coreClu s l) (corePasid s m) (mmaN t * t.width / 8) (sh.ext.getD 0 0 * t.width / 8) (sh.stride.getD 0 0) (sh.ext.getD 1 0)
        (coreWatch s1 l (coreClu s l) (corePasid s m) ((List.range 64).map (ca + ·))) ((sh.base + base) % 2 ^ 64) = (s2, .ok x) →
      loads (.mldbM f) x true)
    ∧ (∃ s' m', exec (.mstamp f) s = .next (coreAfter s' l c m') ∧ m' = { m with stamp := m'.stamp }
        ∧ (f.x = 0 → m'.stamp = { m.stamp with tin0 := m'.stamp.tin0 }) ∧ (f.x = 1 → m'.stamp = { m.stamp with tin1 := m'.stamp.tin1 })
        ∧ (f.x = 2 → m'.stamp = { m.stamp with tout0 := m'.stamp.tout0 }))
    ∧ (∀ s1 pa,
      let va := (m.getC f.ca.toNat).toNat
      (∀ j ∈ m.jobs, j.mma = false) → (∀ o, m.owner = some o → slotStalls s o.slot = false) → va % 64 = 0 → translateIn s true (coreClu s l) (corePasid s m) va { w := true } = (s1, .ok pa 0) →
      ∃ t q, exec (.mdone f) s = .next t ∧ q ∈ t.m.reqs ∧ q.kind = .store ∧ q.ord = 2 ∧ q.scope = 4 ∧ q.agent = agentOfCore l
        ∧ (q.accs.map fun a => (a.pa, a.size)) = (List.range 8).map (fun k => (pa + 8 * k, 8)) ∧ (t.mxD l).stamp = {})

/-! ### Faults -/

/-- FLT holds V at 63, LATE at 62, bits 56:3 of the address at 61:8 and the code below (R189). Taking a fault of a slot whose earlier slots have none:
FLT, FLTMASK and the record are written, the clause is abandoned with all its writes and held stores, and, where the task has a debug capability, the
fragment halts at its header with its siblings as they were (R42, R60, R189 to R192). Of several faults of a clause the lowest slot's is recorded, and
within it the cause that stands first in the order of R190, with the lanes of every fault of that slot and cause (R190). -/
def Obligations.FaultsAreRecorded : Prop :=
  ((∀ f : Flt, f.cause < 256 →
       f.word.getLsbD 63 = f.v ∧ f.word.getLsbD 62 = f.late ∧ (f.word.extractLsb' 8 54).toNat = f.iaddr / 8 % 2 ^ 54
       ∧ (f.word.extractLsb' 0 8).toNat = f.cause)
   ∧ (∀ s g gr c cause lanes daddr sub, s.group? g = some gr → gr.ctx = some c → c.wait = [] → c.faults = [] → c.entry < gr.ents.length →
       cause ∈ [Cause.illop, .latch, .align, .tilebound, .tilebusy, .matrix, .fabric, .typeop, .race] →
       (cause = .fabric → sub ≠ 0x80) → debugged s g = true → partOfTask s gr.block.gang.slot = none →
       let info : FaultInfo := { cause, iaddr := c.addr + 8 * (c.slot + 1), lanes, daddr, sub }
       ∃ gr', (raise s g c cause lanes daddr sub).group? g = some gr' ∧ gr'.ctx = none ∧ gr'.regs = gr.regs
         ∧ gr'.ctl.flt = { v := true, late := false, iaddr := info.iaddr, cause := cause.code, m := lanes }
         ∧ gr'.frec = faultRecord gr'.ctl.flt info ∧ gr'.ctl.srctr = gr.ctl.srctr ∧ gr'.ctl.sig = gr.ctl.sig
         ∧ (gr'.ent c.entry).st = .halted ∧ (gr'.ent c.entry).pc = (gr.ent c.entry).pc ∧ (gr'.ent c.entry).mask = (gr.ent c.entry).mask
         ∧ (gr'.ent c.entry).cc = (gr.ent c.entry).cc ∧ (gr'.ent c.entry).own = (gr.ent c.entry).own
         ∧ ∀ k, k ≠ c.entry → gr'.ent k = gr.ent k))
  ∧ (∀ (l : List (Nat × FaultInfo)) x, firstFault l = some x →
       (∀ y ∈ l, x.1 ≤ y.1) ∧ (∃ y ∈ l, y.1 = x.1 ∧ y.2.cause = x.2.cause)
       ∧ (∀ y ∈ l, y.1 = x.1 → x.2.cause.rank ≤ y.2.cause.rank)
       ∧ (∀ y ∈ l, y.1 = x.1 → y.2.cause = x.2.cause → y.2.lanes &&& ~~~x.2.lanes = 0))

/-! ### What an operation does at its commit -/

/-- Barriers inside a gang. BARV of a member that has not arrived at the open generation arrives, gives sD the generation, and completes it when every
member has arrived; a group that is no member, or out of its gang, takes BARRIER, late; one that has arrived waits. BWAIT goes on once the generation
it names is past. BGRP sets the members from the next generation on. GLEAVE takes its block out of the gang, GJOIN brings it back (R194, R196 to R201,
R203). -/
def Obligations.BarrierGenerations : Prop :=
  ∀ s g gr e p (f : FS) x c, s.group? g = some gr → s.gang? gr.block.gang = some x → bitAt f.imm.toNat 6 = false →
    x.cell? (f.imm.toNat % 64) = some c → p.phase = 0 → agentBusy s g = false → tilesOwed s g = false →
    let n := f.imm.toNat % 64
    let cell := fun (t : State) => (t.gang? gr.block.gang).bind fun y => y.cell? n
    let there := (s.block? gr.block).any (·.inGang) && c.mask.getLsbD gr.block.bid
    let here : NbCell := { c with arr := g :: c.arr }
    (p.instr = .barv f →
      (there = false → ∃ t i, runOp s g e p = .late t i ∧ i.cause = .barrier)
      ∧ (there = true → g ∉ c.arr → ∃ t, runOp s g e p = .done t
          ∧ cell t = some (if nbDone s here then
              { c with gen := (c.gen + 1) % 65536, mask := if c.pv then c.pmask else c.mask, pv := false, arr := [], left := [] } else here)
          ∧ ∀ d : BitVec 6, f.o = .s d → d.toNat < 60 → ∃ gr', t.group? g = some gr' ∧ gr'.regs.getS d.toNat = BitVec.ofNat 64 c.gen)
      ∧ (there = true → g ∈ c.arr → ∃ t p', runOp s g e p = .park t 1 (.op p')))
    ∧ (p.instr = .bwait f →
        ((p.a.toNat % 65536 + 65536 - c.gen) % 65536 < 32768 → ∃ t p', runOp s g e p = .park t 1 (.op p'))
        ∧ ((p.a.toNat % 65536 + 65536 - c.gen) % 65536 ≥ 32768 → ∃ t, runOp s g e p = .done t ∧ cell t = some c))
    ∧ (p.instr = .bgrp f → syncMay s gr.block.gang.slot (clusterSrc s gr.block.gang) 5 g e = true →
        let k := BitVec.ofNat 8 (p.a.toNat % 256 % 2 ^ blocksOf s gr.block.gang)
        (k = 0 → ∃ t i, runOp s g e p = .late t i ∧ i.cause = .barrier)
        ∧ (k ≠ 0 → ∃ t, runOp s g e p = .done t ∧ cell t = some { c with pmask := k, pv := true }))
    ∧ (∀ h, p.instr = .gleave h → (s.block? gr.block).isSome = true →
        holdsChunks s gr.block = false ∨ syncMay s gr.block.gang.slot (clusterSrc s gr.block.gang) 6 g e = true → ∃ t, runOp s g e p = .done t
        ∧ (t.block? gr.block).any (fun b => !b.inGang) = true)
    ∧ (∀ h, p.instr = .gjoin h → (s.block? gr.block).any (fun b => !b.inGang) = true → ∃ t, runOp s g e p = .done t
        ∧ (t.block? gr.block).any (·.inGang) = true
        ∧ cell t = some { c with pmask := (if c.pv then c.pmask else c.mask) ||| (1#8 <<< gr.block.bid), pv := true })

/-- FORK of a context that is free or the gang's own and not running starts the core: c0 to c7 from s0 to s7, the other registers and the flags zero,
the program counter from O, the exit rendezvous from IMM24; A registers, accumulators and B slots of a context that the gang holds stay. A running
core is BUSY. Another gang's context parks the fragment, unless it is idle: its core exited, every accumulator OPEN, every A register EMPTY, its
accesses performed; then it is released, and starts as a free one does (R228, R249). MFEED of an EMPTY register puts the executing lanes of its vector registers in words
16 × row0 + 96 × j + lane below 1,024, clears the others under .z, and makes it FULL under .f; no other register of the array changes (R251). -/
def Obligations.ForkAndFeed : Prop :=
  (∀ s g gr e p (f : FS), s.group? g = some gr → p.instr = .fork f → p.phase = 0 → p.accs = [] → agentBusy s g = false →
    tilesOwed s g = false → matrixMay (release s g 3) g e gr 4 = true →
    let l := mxOf s gr
    let m0 := s.mxD l
    let starts := fun (old : Mx) => ∃ t, runOp s g e p = .done t ∧ (t.mxD l).run = true ∧ (t.mxD l).stopped = false
      ∧ (t.mxD l).owner = some gr.block.gang ∧ (t.mxD l).pc = p.a.toNat ∧ (t.mxD l).home = gr.block.bid ∧ (t.mxD l).xr = f.imm.toNat
      ∧ (∀ k, k < 8 → (t.mxD l).getC k = gr.regs.getS k) ∧ (∀ k, 8 ≤ k → (t.mxD l).getC k = 0) ∧ (t.mxD l).cc = {}
      ∧ (t.mxD l).rdv = [] ∧ (t.mxD l).exitVal = none ∧ (t.mxD l).frec = [] ∧ (t.mxD l).arr = old.arr ∧ (t.mxD l).b = old.b
    (m0.owner = some gr.block.gang → m0.run = false → starts m0)
    ∧ (m0.owner = none → starts { owner := some gr.block.gang, parts := gangArrays s gr.block.gang })
    ∧ (m0.owner = some gr.block.gang → m0.run = true → ∃ t i, runOp s g e p = .late t i ∧ i.cause = .matrix ∧ i.sub = 0x41)
    ∧ (∀ o, m0.owner = some o → o ≠ gr.block.gang →
        (m0.idle = false ∨ agentBusy s (agentOfCore l) = true → ∃ t p', runOp s g e p = .park t 3 (.op p'))
        ∧ (m0.idle = true → agentBusy s (agentOfCore l) = false → matrixMay (releaseMx (release s g 3) l) g e gr 4 = true →
            starts { owner := some gr.block.gang, parts := gangArrays s gr.block.gang })))
  ∧ (∀ s g gr e p (f : F3), s.group? g = some gr → p.instr = .mfeed f → (s.mxD (mxOf s gr)).watched = none → mxFault s gr = none →
    maEmpty s gr f.d.toNat = true → matrixMay s g e gr 1 = true →
    let l := mxOf s gr
    let a := (s.mxD l).arrD (arrayOf gr)
    let old := a.maD f.d.toNat
    let row := 16 * p.b.toNat
    ∃ t a', runOp s g e p = .done t ∧ (t.mxD l).arrD (arrayOf gr) = a' ∧ (a'.maD f.d.toNat).full = (old.full || f.x.getLsbD 1)
      ∧ (∀ w, w < 1024 → (a'.maD f.d.toNat).words.get w 0 =
          if row ≤ w ∧ (w - row) / 96 < f.c.field - 384 ∧ p.mask.getLsbD ((w - row) % 96) = true then
            lane (gr.regs.getV (f.a.field + (w - row) / 96)) ((w - row) % 96)
          else if f.x.getLsbD 0 then 0 else old.words.get w 0)
      ∧ (∀ k, k ≠ f.d.toNat → a'.maD k = a.maD k) ∧ a'.mc = a.mc ∧ a'.latch = a.latch)

/-- FLUSH of one line puts the L1's dirty bytes of an IP page into memory and keeps the line valid; on a WO page it drops the copy and changes no
byte; every other byte of memory reads as before (R282). -/
def Obligations.FlushWritesBack : Prop :=
  ∀ s g gr e p (f : FM) a v, s.group? g = some gr → p.instr = .flush f → p.accs = [a] → s.mem.wf = true →
    (∀ q ∈ s.m.reqs, q.agent = g → q.performed = false → q.ct ≠ 3 ∧ q.ct ≠ 2) →
    let line := a.pa / 128
    l1At s gr.cu line = some v → (v.data.map (·.1)).Nodup → (∀ x ∈ v.data, x.1 < 128) → isDev a.pa = true →
    ∃ t, runOp s g e p = .done t ∧ (∀ k, k / 128 ≠ line → t.mem.get k = s.mem.get k)
      ∧ (homeType s a.pa = 3 → (∀ k, k < 128 → line * 128 + k < devSize → t.mem.get (line * 128 + k) = byteAt s gr.cu (line * 128 + k))
          ∧ l1At t gr.cu line = some { v with dirty := 0, data := [] })
      ∧ (homeType s a.pa = 2 → t.mem = s.mem ∧ ∀ v', l1At t gr.cu line = some v' → v'.valid = 0)

/-- SIGCHK on a matching signature, or beside siblings, resets SIG and changes no register; on a mismatch of a group that has not restarted yet, the
group starts again at its region's header as one fragment with every lane that has not exited; with results in flight it waits for them first (R186). A system call parks its fragment with s0 to s4
(R188). BRK without a debug capability does nothing; with one it, and abort TRAP, halt the fragment with FLT set (R188, R192). RECMARK of a task that
is not recorded does nothing (R373). FWAITC follows its collective, and acquires at fabric scope when that is over (R356). SPAWN and TDEP of a key that has been seen only count (R109 to R111). -/
def Obligations.SystemOperations : Prop :=
  ∀ s g gr e p, s.group? g = some gr →
    (∀ f, p.instr = .sigchk f →
      (p.phase = 0 → gr.frags.length ≠ 1 ∨ gr.ctl.sig = f.imm → ∃ t gr', runOp s g e p = .done t ∧ t.group? g = some gr'
        ∧ gr'.ctl.sig = 0x811C9DC5 ∧ gr'.regs = gr.regs ∧ gr'.ents = gr.ents)
      ∧ (p.phase = 0 → gr.frags.length = 1 → gr.ctl.sig ≠ f.imm → gr.ctl.seen = false → partOfTask s gr.block.gang.slot = none → gr.pend ≠ [] →
        ∃ t, runOp s g e p = .park t 0 (.op { p with phase := 1 }))
      ∧ (p.phase = 0 → gr.frags.length = 1 → gr.ctl.sig ≠ f.imm → gr.ctl.seen = false → partOfTask s gr.block.gang.slot = none → gr.pend = [] →
        (∀ k, (gr.ent k).late = []) → ∃ t gr', runOp s g e p = .taken t ∧ t.group? g = some gr' ∧ gr'.ctl.seen = true ∧ (gr'.ent 0).valid = true
          ∧ (gr'.ent 0).pc = gr.ctl.region ∧ (gr'.ent 0).own = allLanes &&& ~~~gr.exited ∧ (gr'.ent 0).mask = allLanes &&& ~~~gr.exited
          ∧ ∀ k, k ≠ 0 → (gr'.ent k).valid = false))
    ∧ (∀ f, p.instr = .trap f → p.phase = 0 → ∃ t p', runOp s g e p = .park t 5 (.op p') ∧ p'.phase = 1
        ∧ (partOfTask s gr.block.gang.slot = none → p'.accs.map (·.b) = (List.range 5).map fun k => gr.regs.getS k))
    ∧ (∀ f, p.instr = .brk f → debugged s g = false → runOp s g e p = .done s)
    ∧ (∀ f, ∀ x ∈ [(Instr.brk f, 0x10), (.trapAbort f, 0x11)], p.instr = x.1 → debugged s g = true → e < gr.ents.length →
        partOfTask s gr.block.gang.slot = none →
        ∃ t gr', runOp s g e p = .taken t ∧ t.group? g = some gr' ∧ (gr'.ent e).st = .halted ∧ gr'.ctl.flt.v = true
          ∧ gr'.ctl.flt.late = false ∧ gr'.ctl.flt.cause = x.2 ∧ gr'.ctl.flt.iaddr = p.iaddr ∧ gr'.regs = gr.regs
          ∧ (gr'.ent e).pc = (gr.ent e).pc)
    ∧ (∀ f, p.instr = .recmark f → partOfTask s gr.block.gang.slot = none → runOp s g e p = .done s)
    ∧ (∀ f : FS, p.instr = .fwaitc f →
        let n := f.imm.toNat
        let slot := gr.block.gang.slot
        let fin := setColl (addFence s g e gr p 1 5) slot n 0
        (collState s slot n = 0 → runOp s g e p = .done s)
        ∧ (collState s slot n = 1 → ∃ p', runOp s g e p = .park s 2 (.op p'))
        ∧ (collState s slot n = 2 → runOp s g e p = .done fin)
        ∧ (collState s slot n > 2 → ∃ i, runOp s g e p = .late fin i ∧ i.cause = .fabric))
    ∧ (∀ f h, p.instr = .spawn f ∨ p.instr = .tdep h → p.phase = 0 → agentBusy s g = false → tilesOwed s g = false →
        keySeen s gr = true →
        ∃ t gr', runOp s g e p = .done t ∧ t.group? g = some gr' ∧ gr'.ctl.spncnt = gr.ctl.spncnt + 1 ∧ gr'.regs = gr.regs
          ∧ t.tasks = s.tasks ∧ t.disp = s.disp)

/-! ### Holds, and what is performed at the homes -/

/-- A release by A at scope X: every word A holds takes the stamp X if X is wider than its stamp (7 stands for none), and becomes free if X is device
scope or wider. A word that stays held is held only against agents outside its stamp. No other word changes (R268). -/
def Obligations.ReleaseWidensHolds : Prop :=
  ∀ s a scope w,
    let t := tagAt s w
    let t' := tagAt (release s a scope) w
    (t.hold = true ∧ t.owner = a →
      (scope ≥ 4 → t' = { t with hold := false })
      ∧ (scope < 4 → t' = { t with stamp := if t.stamp = 7 ∨ t.stamp < scope then scope else t.stamp }
          ∧ ∀ b, heldAgainst (release s a scope) w b = decide (b ≠ a ∧ inside s t'.stamp a b = false)))
    ∧ (t.hold = false ∨ t.owner ≠ a → t' = t) ∧ (release s a scope).mem = s.mem

/-- What a write leaves at its home in device memory, by the page type: the bytes it carries and no other byte; on an RC page the holder, hold and
stamp of R267, on a WO page OPEN-written; and no other word's tag (R267, R278). A management core's write (agent kind 5) sets no hold and is not meant here. -/
def Obligations.WritesSetHolds : Prop :=
  ∀ s agent cu pa (bs : List Byte) kind ord scope, isDev pa = true → s.mem.wf = true → bs ≠ [] → agentKind agent ≠ 5 →
    let u := homeWrite s agent cu pa bs kind ord scope
    (∀ k, k < bs.length → u.mem.get (pa + k) = bs.getD k 0)
    ∧ (∀ a, a < pa ∨ pa + bs.length ≤ a → u.mem.get a = s.mem.get a)
    ∧ (∀ w, w < pa / 4 ∨ (pa + bs.length - 1) / 4 < w → tagAt u w = tagAt s w)
    ∧ (∀ w, pa / 4 ≤ w → w ≤ (pa + bs.length - 1) / 4 →
        (tagAt u w).owner = agent
        ∧ (homeType s pa = 0 → kind = 0 → ord = 0 → (tagAt u w).hold = true ∧ (tagAt u w).stamp = 7)
        ∧ (homeType s pa = 0 → kind = 0 → ord = 2 → (tagAt u w).hold = decide (scope < 4) ∧ (tagAt u w).stamp = scope)
        ∧ (homeType s pa = 0 → kind ≠ 0 → (tagAt u w).hold = false)
        ∧ (homeType s pa = 2 → kind = 0 → (tagAt u w).wst = 1))
    ∧ u.hostMem = s.hostMem ∧ u.groups = s.groups

/-- A store request whose turn has come, with no copy left to call in and room at its home: it is performed. Where no two of its accesses share a
word, every byte of device memory outside them reads as before, but for IP pages; a single access to an RC, SC or WO word that its home admits leaves
its bytes there, one to an IP page leaves them in its CU's L1; one that its home refuses changes no byte and is kept with its cause, lane, address and
holder for the late report (R177, R179, R180, R269, R285). A load request whose turn has come is served by its L1 where that holds every word, else by
its homes, once the host has given its lines up: its value is fixed, or its refusal. No byte of memory changes. A single access that is no acquire
takes the bytes its home has, with the bytes that the clause's own stores cover in place; of a word that those do not cover whole and that is held
against it, or that its page type lets no load read, it is refused with the lowest such word's cause (R40 rule 5, R178, R180, R269). -/
def Obligations.LoadsAndStoresArePerformed : Prop :=
  (∀ s r q, findReq s r = some q → q.kind = .store → reqTurn s q = true → sentTurn s q = true → bindsMay s q = true → fabricDone s q = true → coreRoom s q = true →
     writeTurn s q.id q.sent q.devWords = .go → s.mem.wf = true →
     ∃ u, exec (.storeRequest r) s = .next (afterPerform u)
       ∧ (q.accs.Pairwise (fun x y => ∀ w ∈ devWordsOf x, w ∉ devWordsOf y) → (∀ x ∈ q.accs, homeType s x.pa ≠ 3) →
           ∀ a, (∀ x ∈ q.accs, a < x.pa ∨ x.pa + x.size ≤ a) → u.mem.get a = s.mem.get a)
       ∧ (∀ x, q.accs = [x] → isDev x.pa = true → parkForReq s q.orig 2 (.done q.id) = none →
           let s0 := storeRelease (bringAll s q.devWords) q
           (homeType s x.pa ≠ 3 → judgeWrite s0 q.agent x.pa x.size = .ok →
             (∀ k, k < x.size → u.mem.get (x.pa + k) = BitVec.ofNat 8 (x.b.toNat / 2 ^ (8 * k))) ∧ findReq u r = none)
           ∧ (homeType s x.pa = 3 → judgeWrite s0 q.agent x.pa x.size = .ok → q.cu < 896 → clockRuns s (cluOfCu q.cu) = true →
             x.pa % 128 + x.size ≤ 128 → (l1At s q.cu (x.pa / 128)).isSome = true →
             (∀ k, k < x.size → byteAt u q.cu (x.pa + k) = BitVec.ofNat 8 (x.b.toNat / 2 ^ (8 * k))) ∧ u.mem = s.mem
               ∧ (∀ a, a < x.pa ∨ x.pa + x.size ≤ a → byteAt u q.cu a = byteAt s q.cu a) ∧ findReq u r = none)
           ∧ (∀ cause h, judgeWrite s0 q.agent x.pa x.size = .refuse cause h →
             u.mem = s.mem ∧ findReq u r = some { q with performed := true, refused := [(cause, x.lane, x.va, h)] })))
  ∧ (∀ s r q, findReq s r = some q → q.kind = .load → reqTurn s q = true → sentTurn s q = true → bindsMay s q = true →
       promoteMay s q.agent q.split q.acq (rcWords s q) = true →
       let hits := q.accs != [] && q.accs.all fun a => isDev a.pa && l1Hit s q.cu a.pa a.size
       (hits = true → exec (.loadRequest r) s = .next (loadPerform s q) ∧ (loadPerform s q).mem = s.mem)
       ∧ (hits = false → readTurn s q.id q.devWords = .go →
       (∀ g e, q.orig = .grp g e → ∀ w ∈ q.devWords, homeType s (4 * w) = 1 → observesCycle s g q.split w = false) →
       ∃ u, exec (.loadRequest r) s = .next u ∧ u.mem = s.mem ∧ (∃ q', findReq u r = some q' ∧ q'.performed = true ∧ q'.accs = q.accs)
         ∧ (∀ x, q.accs = [x] → q.ord ≠ 1 → homeType s x.pa ≠ 3 → bindsOf s q = [] →
             let s0 := bringAll s q.devWords
             ((∀ w ∈ x.readWords, judgeRead s0 q.agent (4 * w) 4 = .ok) →
               let there := if q.cu < 896 then readCu s q.cu x.pa x.size else physRead s x.pa x.size
               findReq u r = some { q with performed := true, refused := [], vals := [(x.lane, BitVec.ofNat 64 (mergeFwd x (leNat there)))] })
             ∧ (∀ pre w post cause h, x.readWords = pre ++ w :: post → (∀ v ∈ pre, judgeRead s0 q.agent (4 * v) 4 = .ok) →
                 judgeRead s0 q.agent (4 * w) 4 = .refuse cause h →
                 findReq u r = some { q with performed := true, vals := [], refused := [(cause, x.lane, x.va, h)] }))))

/-- An atomic request of one lane, not packed, that its home admits: the element becomes the result of its operation, every other byte of device
memory reads as before, its hold is cleared. An atomic of a word held against its agent is RACE and changes nothing (R273, R305, R306). The
operations: add, the signed or unsigned minimum and maximum, and, or, exclusive or, exchange, compare and swap (R305). Releases, SEAL and REUSE at the
homes: a release widens its agent's holds at its scope; a SEAL of WO lines makes every word of them sealed; a range that is not all WO is refused
TYPEOP; REUSE, once its copies are gone, makes every word writable again (R268, R280, R281). -/
def Obligations.AtomicsAndRangesArePerformed : Prop :=
  ((∀ s r q x, findReq s r = some q → q.kind = .atomic → reqTurn s q = true → sentTurn s q = true → q.ty.packed = false → q.half = false → q.accs = [x] →
       writeTurn s q.id q.sent q.devWords = .go → s.mem.wf = true → isDev x.pa = true → x.size = q.ty.width / 8 → x.pa % x.size = 0 →
       ¬(q.ord = 1 ∨ q.ord = 3) → agentKind q.agent ≠ 5 →
       let line := x.pa / 128
       let s1 := bringAll s q.devWords
       (judgeAtomic s1 q.agent x.pa x.size = .ok →
         ∀ s0, arbGrant s1 (slotOfAgent s1 q.agent) 1 q.agent q.split line (wmaskOf (wordsOf x.pa x.size).dedup) = some s0 →
         let old := leNat (s.mem.getN x.pa x.size)
         ∃ u, exec (.atomicRequest r) s = .next (afterPerform u)
           ∧ (∀ k, k < x.size → u.mem.get (x.pa + k) = BitVec.ofNat 8 (atomStep q.x q.ty old x.b.toNat x.c.toNat / 2 ^ (8 * k)))
           ∧ (∀ a, a < x.pa ∨ x.pa + x.size ≤ a → u.mem.get a = s.mem.get a)
           ∧ (homeType s x.pa = 0 → ∀ w ∈ wordsOf x.pa x.size, (tagAt u w).hold = false))
       ∧ (∀ h, judgeAtomic s1 q.agent x.pa x.size = .refuse .race h →
         ∃ u, exec (.atomicRequest r) s = .next (afterPerform u) ∧ u.mem = s.mem
           ∧ findReq u r = some { q with performed := true, vals := [], refused := [(.race, x.lane, x.va, h)] }))
   ∧ (∀ a b c : BitVec 32,
       atomStep 0 .n32 a.toNat b.toNat c.toNat = (a + b).toNat
       ∧ atomStep 1 .n32 a.toNat b.toNat c.toNat = (if a ≤ b then a else b).toNat
       ∧ atomStep 1 .i32 a.toNat b.toNat c.toNat = (if a.sle b then a else b).toNat
       ∧ atomStep 2 .n32 a.toNat b.toNat c.toNat = (if b ≤ a then a else b).toNat
       ∧ atomStep 2 .i32 a.toNat b.toNat c.toNat = (if b.sle a then a else b).toNat
       ∧ atomStep 3 .b32 a.toNat b.toNat c.toNat = (a &&& b).toNat ∧ atomStep 4 .b32 a.toNat b.toNat c.toNat = (a ||| b).toNat
       ∧ atomStep 5 .b32 a.toNat b.toNat c.toNat = (a ^^^ b).toNat ∧ atomStep 6 .b32 a.toNat b.toNat c.toNat = b.toNat
       ∧ atomStep 7 .b32 a.toNat b.toNat c.toNat = (if a = c then b else a).toNat))
  ∧ (∀ s r q, findReq s r = some q → reqTurn s q = true → fabricDone s q = true →
       let lines := (q.accs.map fun a => a.pa / 128).dedup
       let free := wordsTaken s q.id false q.devWords = false ∧ ∀ l ∈ linesOfWords q.devWords, l3Room s l = true
       (q.kind = .release → q.ord ≥ 2 → ∃ u, exec (.releaseWalk r) s = .next (afterPerform u) ∧ u.mem = s.mem
         ∧ ∀ w, tagAt u w = tagAt (release s q.agent q.scope) w)
       ∧ (q.kind = .release → q.ord < 2 → ∃ u, exec (.releaseWalk r) s = .next (afterPerform u) ∧ u.mem = s.mem ∧ ∀ w, tagAt u w = tagAt s w)
       ∧ (q.kind = .seal ∨ q.kind = .reuse → (∃ a ∈ q.accs, homeType s a.pa ≠ 2) →
           ∃ u, exec (.releaseWalk r) s = .next (afterPerform u) ∧ u.mem = s.mem ∧ (∀ w, tagAt u w = tagAt s w)
             ∧ ∃ q', findReq u r = some q' ∧ q'.performed = true ∧ q'.refused ≠ [] ∧ ∀ x ∈ q'.refused, x.1 = .typeop)
       ∧ (q.kind = .seal → (∀ a ∈ q.accs, homeType s a.pa = 2) → free → ∀ s0, arbLines s q 4 = some s0 →
           ∃ u, exec (.releaseWalk r) s = .next (afterPerform u) ∧ u.mem = s.mem
             ∧ (∀ l ∈ lines, ∀ k, k < 32 → (tagAt u (l * 32 + k)).wst = 2)
             ∧ ∀ w, w / 32 ∉ lines → tagAt u w = tagAt (release s q.agent 4) w)
       ∧ (q.kind = .reuse → (∀ a ∈ q.accs, homeType s a.pa = 2) → free → q.sent = true →
           (∀ l ∈ lines, lineQuiet s l = true ∧ loadsOn s q.id l = false ∧ (∀ x ∈ s.m.claims, x.2 / 32 ≠ l)
             ∧ (dirAt s l).host = false ∧ (dirAt s l).hostx = false) → ∀ s0, arbLines s q 5 = some s0 →
           ∃ u, exec (.releaseWalk r) s = .next (afterPerform u) ∧ u.mem = s.mem
             ∧ (∀ l ∈ lines, ∀ k, k < 32 → (tagAt u (l * 32 + k)).wst = 0)
             ∧ ∀ w, w / 32 ∉ lines → tagAt u w = tagAt s w))

/-- A host write that the page type admits puts its bytes into device memory, changes no other byte, and frees the words it touches on an RC page; on
an IP page, or over written WO words, it is refused and changes no byte. A host read changes no byte; it is answered
with the bytes, or, where the page type refuses it or the line is poisoned, with the poison indication and zeros (R266, R267, R274, R311). -/
def Obligations.HostAccesses : Prop :=
  ∀ s pasid addr (bs : List Byte), s.mem.wf = true → hostReach s addr bs.length = true → pasid < 2 ^ 20 →
    copiesAnswer s (wordsOf addr bs.length) = true → eventStalls s = false → hostwReplay s addr bs = some s →
    (∃ u, exec (.hostWrite pasid addr bs) s = .next (wakeAll u)
      ∧ (∀ a, a < addr ∨ addr + bs.length ≤ a → u.mem.get a = s.mem.get a)
      ∧ (homeType s addr ≤ 1 → ∀ k, k < bs.length → u.mem.get (addr + k) = bs.getD k 0)
      ∧ (homeType s addr = 0 → ∀ w ∈ wordsOf addr bs.length, (tagAt u w).hold = false)
      ∧ (homeType s addr = 3 ∨ (homeType s addr = 2 ∧ ∃ w ∈ wordsOf addr bs.length, wstOf s w ≠ 0) → u.mem = s.mem))
    ∧ (∀ n, hostReach s addr n = true →
      (hostReadOk (bringIn s (addr / 128)) addr n = true → ∃ u, exec (.hostRead addr n) s = .next (wakeAll u) ∧ u.mem = s.mem
        ∧ u.m.hostRd = some (addr, false, s.mem.getN addr n))
      ∧ (hostReadOk (bringIn s (addr / 128)) addr n = false → ∃ u, exec (.hostRead addr n) s = .next u ∧ u.mem = s.mem
        ∧ u.m.hostRd = some (addr, true, List.replicate n 0)))

/-! ### Events of the lane groups, the dispatch engine, the memory engine, the copies and the fabric -/

/-- The vector engine between clauses (R17, R39, R47, R120 to R124, R180, R410). A fetched clause waits at its fragment until it is ready. Selection
starts the clause of the fragment the rules choose, a forced one first, with the fragment's mask and flags and the group's registers as its view. A
fragment that has waited long is forced. A clause with nothing outstanding commits. A token clears when all it waits for has come, and its register
writes are made then. A refusal reaches the group that asked. A halt takes effect at a clause boundary, and a halted fragment goes on when told to. A
group that has exited retires once nothing of it is outstanding, and a block after its groups. -/
def Obligations.VectorEvents : Prop :=
  ∀ s g e gr, s.group? g = some gr → e < gr.ents.length → agentKind g ≠ 2 →
    (∀ c s', (gr.ent e).valid = true → (gr.ent e).st = .fetching → (gr.ent e).park = .none → groupRuns s gr = true → (gr.ent e).late = [] →
      (gr.ent e).haltReq = false → (gr.ent e).resume = none → (gr.ent e).call = none →
      fetchClause s false gr.cu (pasidOf s gr.block.gang.slot) 0 (gr.ent e).pc = (s', .ok c) → wordsCheck gr.vregs 0 {} c.words = none →
      ∃ u, exec (.clauseFetch g e) s = .next (recheck u g) ∧ u.mem = s.mem
        ∧ u.group? g = some (gr.updEnt e fun x => { x with st := .waiting, clause := some c, call := none }))
    ∧ (∀ p c, partBusy s p = false → clockRuns s (cluOfCu (cuOfPart p)) = true → selectFrag s p = some (g, e) →
      (gr.ent e).clause = some c → startFault gr e c = none →
      ((∃ x ∈ readyFrags s p, x.2.2.forced = true) → (gr.ent e).forced = true)
      ∧ ∃ t gr' x, exec (.fragmentSelect p) s = .next t ∧ t.cur = some (.grp g) ∧ t.mem = s.mem ∧ t.group? g = some gr'
        ∧ gr'.regs = gr.regs ∧ gr'.ctx = some x ∧ x.entry = e ∧ x.addr = c.addr ∧ x.words = c.words ∧ x.slot = 0
        ∧ x.mask = (gr.ent e).mask ∧ x.am = (gr.ent e).mask ∧ x.cc = (gr.ent e).cc ∧ x.view = gr.regs ∧ (gr'.ent e).st = .issuing
        ∧ (c.hdr.rgn = true → gr'.ctl.region = c.addr ∧ gr'.ctl.sig = 0x811C9DC5 ∧ gr'.ctl.seen = false))
    ∧ ((gr.ent e).valid = true → (gr.ent e).st = .ready → (gr.ent e).forced = false → groupRuns s gr = true → recorderHolds s gr e = false →
      ∃ t, exec (.ageingForce g e) s = .next t ∧ t.group? g = some (gr.updEnt e fun x => { x with forced := true, age := 256 }))
    ∧ (∀ c, gr.ctx = some c → commitReady c = true → commitMay s gr c = true → groupRuns s gr = true → exec (.clauseCommit g) s = .next (commitClause s g))
    ∧ (∀ l c, l < 2 ^ 21 → (s.mxD l).clause = some c → c.slot = c.words.length → c.wait = [] →
      exec (.clauseCommit (agentOfCore l)) s = .next (coreSettle s l))
    ∧ (∀ t k, groupRuns s gr = true → gr.pend.findIdx? (fun p => p.ready t) = some k → ∀ p, gr.pend[k]? = some p → p.dead = false →
      ∃ u, exec (.tokenClear g t) s = .next (wakeAll (recheck u g))
        ∧ u = landAll (s.updGroup g fun gr => { gr with pend := gr.pend.eraseIdx k }) g p.frag p.writes
        ∧ ∀ f, p.instr = .ldB32 f → f.nw = false → ∃ v q, p.writes = { v := [(f.d.toNat, p.mask, v)], q := q } ∧
            ∀ i, i < 96 → lane v i = BitVec.ofNat 32 (p.val i))
    ∧ (∀ r q s1 q1 info, findReq s r = some q → lateWhole s q = some (s1, q1) → refusedInfo q1 = some info → q1.orig = .grp g e →
      parkForGroup s g 0 (.late r) = none → exec (.lateFaultReport r) s = .next (wakeAll (groupLate s1 g e q1 info)))
    ∧ (∀ cap, mayHalt s cap g = true → (gr.ent e).valid = true → gr.status = .resident ∨ gr.status = .swapped →
      ctxRuns s (lcluOf s gr.block.gang) = true → partOfTask s gr.block.gang.slot = none →
      ((gr.ent e).st = .ready → ∃ t gr', exec (.debugHalt cap g e) s = .next t ∧ t.group? g = some gr' ∧ (gr'.ent e).st = .halted
        ∧ (gr'.ent e).pc = (gr.ent e).pc ∧ gr'.regs = gr.regs ∧ t.mem = s.mem)
      ∧ ((gr.ent e).st = .issuing → ∃ t gr', exec (.debugHalt cap g e) s = .next t ∧ t.group? g = some gr' ∧ (gr'.ent e).haltReq = true
        ∧ (gr'.ent e).st = .issuing ∧ gr'.ctx = gr.ctx)
      ∧ ((gr.ent e).st = .halted → ∃ t gr', exec (.debugResume cap g e) s = .next t ∧ t.group? g = some gr' ∧ (gr'.ent e).st = .fetching
        ∧ (gr'.ent e).pc = (gr.ent e).pc ∧ gr'.regs = gr.regs ∧ t.mem = s.mem))
    ∧ (gr.status = .exited → groupQuiet s g = true → ctxRuns s (lcluOf s gr.block.gang) = true → (∃ h ∈ liveGroups s gr.block, h ≠ g) →
      ∃ u gr', exec (.groupRetire g) s = .next (wakeAll u) ∧ u.group? g = some gr' ∧ gr'.status = .retired ∧ u.mem = s.mem
        ∧ ∀ w, (tagAt s w).hold = true → (tagAt s w).owner = g → (tagAt u w).hold = false)
    ∧ (∀ b b' y, blockReady s b = true → b'.gang = b.gang → b' ≠ b → s.block? b' = some y → y.retired = false →
      ∃ u x, exec (.blockRetire b) s = .next (wakeAll u) ∧ u.block? b = some x ∧ x.retired = true ∧ x.tiles = [] ∧ u.mem = s.mem)

/-- The launch window (R88, R90, R91, R93, R99, R100, R110). A record whose SEQ is the one the queue expects is refused with the code of its first
failure in STAMP, or accepted: it takes a task slot with the slot's next generation, STAMP tells its handle, and the queue expects the next number. A
record of no TYPE is refused as one. A GDEF defines its graph handle, and a GDROP removes it. A record of SPAWN is parsed the same way, without a SEQ,
and refused or accepted. The STAMP is written once no copy of its words is left to call in. -/
def Obligations.LaunchWindow : Prop :=
  ∀ s q slot, s.plat.failed = false → s.plat.linkUp = true → q < 128 → partOfQueue s q = none → (s.queueD q).parse = none →
    let x := s.queueD q
    let at_ := watchedSlot x
    let b := physRead s at_ 256
    let r := parseRec false b
    let y : Parse := { at_ := at_, bytes := b }
    let words := fun (pa : Nat) => if isDev (pa + 0xF0) then wordsOf (pa + 0xF0) 8 else []
    (x.en = true → slotAway s q = [] → fieldOf b 0xF8 8 = x.seqExp.toNat → engineTurn s (words at_) = .go →
      let s0 := bringAll s (words at_)
      (∀ i ∈ [(1, Instr.task q slot), (2, .graph q slot), (3, .gdef q slot), (4, .gdrop q slot)], i.1 = r.ty →
        (∀ n, plainRefusal s r b x.pasid = some n →
          exec i.2 s = .next (wakeAll (parsed s0 q { y with code := some n } (stampWord 2 n 0))))
        ∧ (plainRefusal s r b x.pasid = none → ∀ n, validate s q r = .refuse n →
          exec i.2 s = .next (wakeAll (parsed s0 q { y with code := some n } (stampWord 2 n 0))))
        ∧ (plainRefusal s r b x.pasid = none → ∀ p, validate s q r = .good p → roomFor s slot r p = true →
          ∃ u t, exec i.2 s = .next (wakeAll (parsed u q y (stampWord 1 0 t.handle))) ∧ u.task? slot = some t ∧ t.slot = slot
            ∧ t.gen = nextGen (s.disp.gens.get slot 0) ∧ t.queue = q ∧ t.lr = r ∧ t.copies = p.copies ∧ u.mem = s.mem ∧ u.groups = s.groups
            ∧ (r.ty = 3 → ∃ v, u.disp.graphs.find? r.graphid = some v ∧ ∃ y ∈ u.disp.versions, y = ⟨v, r.pasid, p.nodes⟩)
            ∧ (r.ty = 4 → u.disp.graphs.find? r.graphid = none)))
      ∧ (r.ty = 0 ∨ r.ty > 4 → exec (.task q slot) s = .next (wakeAll (parsed s0 q { y with code := some 1 } (stampWord 2 1 0))))
      ∧ ∀ u z stamp, isDev (z.at_ + 0xF0) = true → isDev (z.at_ + 0xF7) = true → u.mem.wf = true → z.logged = none → z.old = false →
        ((parsed u q z stamp).queueD q).seqExp = (u.queueD q).seqExp + 1 ∧ ((parsed u q z stamp).queueD q).parse = none
        ∧ ∀ k, k < 8 → (parsed u q z stamp).mem.get (z.at_ + 0xF0 + k) = BitVec.ofNat 8 (stamp / 2 ^ (8 * k)))
    ∧ (∀ w rest, x.spawned = w :: rest → 256 ≤ w.bytes.length → (parseRec false w.bytes).stamp = 0 →
      let s1 := s.setQueue q { x with spawned := rest }
      let r := parseRec false w.bytes
      engineTurn s1 (words w.pa) = .go →
      (∀ n, spawnRefusal s1 q w r w.bytes = some n →
        ∃ u, exec (.spawnParse q slot) s = .next (wakeAll u) ∧ (u.queueD q).spawned = rest ∧ u.tasks = s.tasks ∧ u.groups = s.groups)
      ∧ (spawnRefusal s1 q w r w.bytes = none → ∀ p, validate s1 q r = .good p → roomFor s1 slot r p = true →
        ∃ u t, exec (.spawnParse q slot) s = .next (wakeAll u) ∧ u.task? slot = some t ∧ t.gen = nextGen (s.disp.gens.get slot 0)
          ∧ t.queue = q ∧ t.lr = { r with seq := 0 } ∧ t.spawned = true ∧ (u.queueD q).spawned = rest ∧ u.groups = s.groups))

/-- Placement of gangs (R96, R97, R102): a die with room is granted consecutive gang indices, up to 64, those that a failed die gave back before new
ones; the task that the arbiter names places its next gang, or one to be relaunched: every group starts with s0 the ARGPTR, every other register zero,
one fragment with all lanes at KENTRY, and no byte of memory changes. A gang whose task has no stream inputs needs nothing else; one with stream
inputs also needs their tiles to fit. -/
def Obligations.GangsArePlaced : Prop :=
  (∀ s (p : Placement) d t s0, s.task? p.gang.slot = some t → t.slot = p.gang.slot → nextPlace s t p = some d →
      t.relaunchPending.contains p.gang.kid = true ∨ nextIndex t (dieOfClu p.cluster) = some p.gang.kid → s.plat.failed = false →
      s.plat.capHold = false → slotStalls s t.slot = false → t.unplaced = true → placementOk s t p = true → replayPlace s t p = some s0 →
      let fits := (placeGang { s0 with disp := d } t p).isSome
      ((∀ y ∈ t.indexed, y.2.cls ≠ 1) → fits = true)
      ∧ (fits = true → ∃ u, exec (.gangPlace p) s = .next u ∧ u.mem = s.mem ∧ (∃ y, u.gang? p.gang = some y ∧ y.lclu = p.lclu ∧ y.cells = [])
        ∧ ∀ x ∈ placedGroups p, ∃ gr, u.group? x.2.2.2.2 = some gr ∧ gr.block = ⟨p.gang, x.1⟩ ∧ gr.gix = x.2.1
          ∧ gr.part = 4 * x.2.2.1.cu + x.2.2.2.1 ∧ gr.vregs = t.lr.vregs ∧ gr.status = .resident
          ∧ (∀ n, gr.regs.getS n = if n = 0 then t.lr.argptr else 0) ∧ (∀ n, gr.regs.getV n = vzero) ∧ (∀ n, n ≠ 15 → gr.regs.getQ n = 0)
          ∧ (gr.ent 0).valid = true ∧ (gr.ent 0).pc = t.lr.kentry ∧ (gr.ent 0).mask = allLanes ∧ (gr.ent 0).own = allLanes
          ∧ ∀ k, k ≠ 0 → (gr.ent k).valid = false))
  ∧ (∀ s die slot n t, s.task? slot = some t → s.plat.failed = false → die < 4 → s.disp.deadDies.contains die = false → 0 < n → n ≤ 64 →
      t.unplaced = true → dieRoom s t die = true →
      (t.returned = [] → t.nextKid + n ≤ t.lr.gangs → ∃ u t', exec (.rangeRequest die slot n) s = .next u ∧ u.task? slot = some t'
        ∧ t'.nextKid = t.nextKid + n ∧ t'.granted = t.granted ++ (List.range n).map fun k => (die, t.nextKid + k))
      ∧ (t.returned ≠ [] → ∃ u t', exec (.rangeRequest die slot n) s = .next u ∧ u.task? slot = some t' ∧ t'.nextKid = t.nextKid
        ∧ (∃ k m, 0 < m ∧ m ≤ n ∧ k ∈ t.returned ∧ t'.granted = t.granted ++ (List.range m).map fun j => (die, k + j))
        ∧ ∀ j, j ∈ t'.returned ↔ j ∈ t.returned ∧ (die, j) ∉ t'.granted.drop t.granted.length))

/-- Reports and system calls, and the steps that the dispatcher and the copy engines take by themselves (R96, R97, R102, R106, R107, R219 to R221). A
gang that may be placed is placed, an index range that may be granted is granted, a chunk, a flag or a translation whose turn has come is made. A completed task's entry is written at its place in the completion ring, and the task gives its slot back.
A system call's request is written to the request ring with its number, agent, immediate and s0 to s4; the reply that names its number replaces s0 and
s1 of the group and no other scalar register. -/
def Obligations.ReportsAndSystemCalls : Prop :=
  (∀ s (p : Placement) d t s0, s.task? p.gang.slot = some t → t.slot = p.gang.slot → nextPlace s t p = some d → s.plat.failed = false →
      s.plat.capHold = false → slotStalls s t.slot = false → t.unplaced = true → t.relaunchPending.contains p.gang.kid = true ∨ nextIndex t (dieOfClu p.cluster) = some p.gang.kid →
      placementOk s t p = true → replayPlace s t p = some s0 → (∀ y ∈ t.indexed, y.2.cls ≠ 1) →
      ∃ u, exec (.gangPlace p) s = .next u ∧ (u.gang? p.gang).isSome = true)
  ∧ (∀ s die slot n t, s.task? slot = some t → s.plat.failed = false → die < 4 → s.disp.deadDies.contains die = false → 0 < n → n ≤ 64 →
      t.unplaced = true → dieRoom s t die = true → t.returned ≠ [] ∨ t.nextKid + n ≤ t.lr.gangs →
      ∃ u, exec (.rangeRequest die slot n) s = .next u ∧ u.mem = s.mem ∧ u.groups = s.groups)
  ∧ (∀ s i x a, findInst s i = some x → copyNext s x.clu 9 (arbOf s x.clu) = some (x, a) → loggedCopyFault s x = none →
      (∃ bs rd, nextMove s x = .tile bs rd) ∨ (∃ bs rd ps, nextMove s x = .mem bs rd ps) → ∃ t, exec (.copyChunk i) s = .next t)
  ∧ (∀ s i x, findInst s i = some x → x.moved = true → x.stopped = false → x.waitPage = none → x.flagDone = false → x.runs s = true →
      loggedCopyFault s x = none → x.desc.fkind ≠ 1 ∨ (∃ bs rd ps, memMove s { x with part := [] } 2 (flagBytesAt s x) [] [] = .mem bs rd ps) →
      ∃ t, exec (.copyFlagWrite i) s = .next t)
  ∧ (∀ s i x page w, findInst s i = some x → x.stopped = false → x.moved = false → x.runs s = true → x.walked.length < 64 →
      x.walked.contains page = false → nextWant x = some (.page page w) →
      (∀ v, (leafAhead s x.clu (x.pasid s) (page * 4096)).2 = some v →
        claimMay (leafAhead s x.clu (x.pasid s) (page * 4096)).1 (x.noteWalk (v.va / 4096) (v.size / 4096)) v = true) →
      ∃ t, exec (.ttuTranslate i page) s = .next t ∧ t.mem = s.mem)
  ∧ (∀ s q t, reportNext s q = some t → s.task? t.slot = some t → t.st = .done → s.plat.failed = false → queueHalted s q t = false →
      (∀ y ∈ reportTasks s t, hubOwes s (killedKey y.slot) = false) → owedDevices s t = [] → hubOwes s (reportKey t.slot) = false → s.plat.linkUp = true →
      s.hostMem.wf = true →
      let x := s.queueD q
      reportRoom x = true →
      ∃ u t', exec (.reportWrite q) s = .next (wakeAll u) ∧ u.task? t.slot = some t' ∧ t'.reported = true ∧ u.mem = s.mem
        ∧ (u.queueD q).written = (x.written + 1) % 2 ^ 32 ∧ (x.irq = true → u.plat.msix = q :: s.plat.msix)
        ∧ ∀ k, k < 32 → u.hostMem.get (x.cmp + 32 * (x.written % 2 ^ (x.cmplog + 4)) + k) = (reportEntry s x t).getD k 0)
  ∧ (∀ s g gr e p n x t, s.group? g = some gr → (gr.frags.find? fun e => match trapOf gr e with | some p => p.phase == 1 | none => false) = some e →
      e < gr.ents.length → trapOf gr e = some p → setOfPasid s (pasidOf s gr.block.gang.slot) = some (n, x) → taskOf s gr = some t →
      (x.rqt + 2 ^ 32 - x.rqh % 2 ^ 32) % 2 ^ 32 < 2 ^ x.log → s.plat.linkUp = true → s.plat.failed = false → reachable s gr = true →
      s.hostMem.wf = true →
      ∃ u gr', exec (.syscallRequest g) s = .next u ∧ u.group? g = some gr' ∧ gr'.regs = gr.regs
        ∧ (gr'.ent e).park = .op { p with phase := 2, aux := x.rqt + 1 } ∧ (u.disp.sets.get n {}).rqt = x.rqt + 1
        ∧ ∀ k, k < 64 → u.hostMem.get (x.rqb + 64 * (x.rqt % 2 ^ x.log) + k) = (scRequest (x.rqt + 1) t.handle g p).getD k 0)
  ∧ (∀ s n w gr p, let x := s.disp.sets.get n {}
      let b := s.hostMem.getN (x.rpb + 32 * (x.rph % 2 ^ x.log)) 32
      loggedCaller s x.pasid = none → x.en = true → s.plat.linkUp = true → s.plat.failed = false → x.rph % 2 ^ 32 ≠ x.rpt % 2 ^ 32 →
      (x.waitingFor.find? fun w => w.1 == fieldOf b 0 8) = some w → s.group? w.2.1 = some gr → trapOf gr w.2.2 = some p →
      p.aux = fieldOf b 0 8 →
      parkForGroup s w.2.1 0 (.reply w.2.1 w.2.2 (BitVec.ofNat 64 (fieldOf b 8 8)) (BitVec.ofNat 64 (fieldOf b 0x10 8))) = none → partOfTask s gr.block.gang.slot = none →
      ∃ u gr', exec (.syscallReply n) s = .next (wakeAll (settleRan w.2.1 w.2.2 p (.done u))) ∧ u.group? w.2.1 = some gr'
        ∧ gr'.regs.getS 0 = BitVec.ofNat 64 (fieldOf b 8 8) ∧ gr'.regs.getS 1 = BitVec.ofNat 64 (fieldOf b 0x10 8)
        ∧ (∀ k, k ≠ 0 → k ≠ 1 → gr'.regs.getS k = gr.regs.getS k) ∧ gr'.ents = gr.ents
        ∧ (u.disp.sets.get n {}).rph = (x.rph + 1) % 2 ^ 32)

/-- Swapping a block out keeps its groups' registers and its groups return with them, their fragments as they were but for when they count as ready
and whether STAY still prefers them (R104, R105, R121, R122); a group that is evicted alone is in its block's
swap reservation, byte for byte its image (R117). A kill stops all groups of a gang and, once no store or atomic of its agents is outstanding and no
copy of it stands inside a chunk, removes them and the gang (R225, R407); a die that fails takes its gangs with it and is fenced (R34); a device that fails stops every clock, and then only a reset or a power cycle happens
(R35); a stack fails alone once, and the second fails the device (R334); the host link goes and comes. -/
def Obligations.SwapsAndFailures : Prop :=
  (∀ s b bl gs, s.block? b = some bl → bl.retired = false → bl.swapped = false → gs ≠ [] → liveGang s b.gang = true →
      (∀ g ∈ gs, ∃ gr, s.group? g = some gr ∧ swapReady gr = true) → clockRuns s (cluOfCu bl.cu) = true → blockHere s bl = true →
      ((bl.why = .pgpark ∨ ∃ g e code, bl.why = .fault g e code) ∧ gs = residentDown s b
        ∨ (bl.why = .none ∨ bl.why = .evicted) ∧ gs = (residentDown s b).take gs.length ∧ wantsRoom s bl gs = true) →
      ∃ u, exec (.swapOut b gs) s = .next u
        ∧ ∀ g ∈ gs, ∃ gr gr', s.group? g = some gr ∧ u.group? g = some gr' ∧ gr'.status = .swapped ∧ gr'.regs = gr.regs ∧ gr'.ctx = none
          ∧ (gs = [g] → gr.block = b → bl.why = .none ∨ bl.why = .evicted → s.mem.wf = true → ∀ k, k < (swapImage gr').length →
              u.mem.get (swapBase b + gr.gix * gr.share + k) = (swapImage gr').getD k 0))
  ∧ (∀ s b bl gs, s.block? b = some bl → bl.retired = false → gs ≠ [] → bl.swapped = false → liveGang s b.gang = true →
      let mine := (groupsOfBlock s b).filter fun g => match s.group? g with | some x => decide (x.status = .swapped) | none => false
      (∀ p ∈ gs, p.1 ∈ mine ∧ cuOfPart p.2 = bl.cu) → (gs.map (·.1)).Nodup → swapRoom s gs = true →
      physClu s (lcluOf s b.gang) = some (cluOfCu bl.cu) → clockRuns s (cluOfCu bl.cu) = true →
      ∃ u, exec (.swapIn b gs) s = .next (wakeAll u)
        ∧ ∀ p ∈ gs, ∃ gr gr', s.group? p.1 = some gr ∧ u.group? p.1 = some gr' ∧ gr' = { gr with status := .resident, part := p.2, ents := gr'.ents }
          ∧ gr'.ents.length = gr.ents.length ∧ ∀ e, e < gr.ents.length → ∃ n b, gr'.ent e = { gr.ent e with since := n, stayed := b })
  ∧ (∀ s g x cause, s.gang? g = some x → x.killed = none → (s.task? g.slot).isSome = true → killCause cause = true →
      ∃ u, exec (.gangKill g cause) s = .next (wakeAll u)
        ∧ ((∀ r ∈ s.m.reqs, r.agent ∈ gangAgents s g → r.performed = true ∨ r.kind = .load ∨ r.kind = .resv) → slotStalls s g.slot = false →
            (∀ i ∈ s.insts, i.slot = g.slot → i.kid = g.kid → i.ending = false ∧ i.part = []) →
            u.gang? g = none ∧ ∀ y ∈ u.groups, y.2.block.gang ≠ g)
        ∧ ((∃ r ∈ s.m.reqs, r.agent ∈ gangAgents s g ∧ r.performed = false ∧ r.kind ≠ .load ∧ r.kind ≠ .resv) →
            (∃ y, u.gang? g = some y ∧ y.killed = some cause)
            ∧ ∀ h ∈ groupsOfGang s g, ∃ gr, u.group? h = some gr ∧ gr.status = .retired ∧ gr.ctx = none ∧ gr.pend = []))
  ∧ (∀ s die, die < 4 → s.disp.deadDies.contains die = false → s.plat.failed = false →
      ∃ u, exec (.dieFailure die) s = .next (wakeAll u) ∧ u.disp.deadDies = die :: s.disp.deadDies
        ∧ ∀ g x c, s.gang? g = some x → physClu s x.lclu = some c → dieOfClu c = die → (s.task? g.slot).isSome = true →
          ∀ y, u.gang? g = some y → y.killed.isSome = true)
  ∧ (∀ s, s.plat.failed = false → ∃ t, exec .deviceFailure s = .next t ∧ t.plat.failed = true ∧ (∀ c, c < 112 → clockRuns t c = false)
      ∧ (∀ x ∈ t.insts, x.stopped = true) ∧ t.mem = s.mem ∧ t.groups = s.groups)
  ∧ (∀ s i l, s.plat.failed = true → s.agenda = .event i :: l → Instr.isWord i = false → i ≠ .reset → (∀ a b, i ≠ .powerOn a b) →
      step s = .refused (.notEnabled "DEVICE_FAILURE"))
  ∧ (∀ s stack, stack < 12 → s.plat.failed = false → s.m.failedStacks.contains stack = false →
      (∀ c, c < 192 → s.m.failedChans.contains (stack, c) = false → ∃ t, exec (.hbmStackFailure stack (some c)) s = .next t
        ∧ t.m.failedChans = s.m.failedChans ++ [(stack, c)] ∧ t.plat.failed = false)
      ∧ ∃ t, exec (.hbmStackFailure stack none) s = .next t ∧ t.m.failedStacks = s.m.failedStacks ++ [stack]
        ∧ t.plat.failed = decide (s.m.failedStacks ≠ []) ∧ t.mem = s.mem)
  ∧ (∀ s, s.plat.linkUp = true → exec .hostLinkFault s = .next { s with plat := { s.plat with linkUp := false } })
  ∧ (∀ s, s.plat.linkUp = false → s.plat.failed = false → exec .hostLinkRetrain s = .next { s with plat := { s.plat with linkUp := true } })

/-- The rest of the memory engine (R178, R192, R298 to R303, R311 to R313, R331 to R335). A load's values reach the result that awaits them, and a
clause that awaited nothing else commits; a core's load writes its register. A hold reservation with room is granted, unless others are queued there
already; one without is HOLDCAP, and a
queued one is granted in its slice's order. An invalidated L1 keeps none of the words; a filled line reads as before. A line that leaves the L3 takes
its bytes to HBM, and its stripe's parity follows. A line that is read clean, or corrected, or rebuilt from its stripe, enters the L3; one that cannot
be rebuilt is poisoned. The host gets a line shared, or exclusive when no word of it is held and with no L1 copy left, or is refused, and that is
logged; its answer to a back-invalidation gives the line up with its data. A scrub reads every line, and what it finds in error is treated as a read
treats it. -/
def Obligations.HomesAndCaches : Prop :=
  (∀ s r q, findReq s r = some q → q.kind = .load → q.performed = true → refusedInfo q = none →
      (∀ g e gr, q.orig = .grp g e → s.group? g = some gr → parkForGroup s g 0 (.load r) = none →
        let pend := gr.pend.map fun p => if p.wait.contains r then { p with vals := p.vals ++ q.vals, wait := p.wait.filter (· != r) } else p
        (gr.ctx = none → ∃ u, exec (.loadResponse r) s = .next (wakeAll (recheck u g)) ∧ findReq u r = none
          ∧ u.group? g = some { gr with pend := pend } ∧ u.mem = s.mem)
        ∧ (∀ c, gr.ctx = some c → c.wait = [r] → c.faults = [] → c.slot = c.words.length → commitMay s gr c = true →
          ∃ u, exec (.loadResponse r) s = .next (wakeAll (recheck (commitClause u g) g)) ∧ findReq u r = none
            ∧ u.group? g = some { gr with pend := pend, ctx := some { c with wait := [] } } ∧ u.mem = s.mem))
      ∧ (∀ l v t, q.orig = .core l → parkAt s l 0 (.load r) = none → q.vals = v :: t →
        ∃ u, exec (.loadResponse r) s = .next (wakeAll (coreSettle u l)) ∧ findReq u r = none ∧ u.mem = s.mem
          ∧ ∀ n, (u.mxD l).getC n = if n = q.x ∧ n ≠ 31 then v.2 else (s.mxD l).getC n))
  ∧ (∀ s r x gr c, findResv s r = some x → agentKind x.lgn ≠ 2 → s.group? x.lgn = some gr → gr.ctx = some c → c.wait = [r] → c.faults = [] →
      (∀ t ok, t.groups = s.groups → t.frz = s.frz → t.gangs = s.gangs → parkForGroup t x.lgn 3 (.resv r ok) = none) →
      (x.granted = false → x.queued = false → resvParked s r = false →
        let room := holdRoom s x.agent x.line = true ∧ ∀ y ∈ s.m.resv, y.queued = true → Config.l3Slice y.line ≠ Config.l3Slice x.line
        (room → ∃ u, exec (.holdReservation r) s = .next (wakeAll (tryCommit u x.lgn))
          ∧ u.group? x.lgn = some { gr with ctx := some { c with wait := [] } } ∧ (∃ y, findResv u r = some y ∧ y.granted = true))
        ∧ (¬room → ∃ u c', exec (.holdReservation r) s = .next (wakeAll (takeFaults u x.lgn))
          ∧ u.group? x.lgn = some { gr with ctx := some c' }
          ∧ c'.faults = [(x.slot, { cause := .holdcap, iaddr := x.iaddr, lanes := x.mask })])))
  ∧ (∀ s r x, findResv s r = some x → x.queued = true → holdRoom s x.agent x.line = true →
      (s.m.resv.find? fun y => y.queued && Config.l3Slice y.line == Config.l3Slice x.line).map (·.id) = some r →
      ∃ u y, (exec (.reservationGrant r) s = .next u ∨ exec (.reservationGrant r) s = .next (wakeAll u))
        ∧ findResv u r = some y ∧ y.granted = true ∧ y.queued = false ∧ y.line = x.line ∧ u.mem = s.mem)
  ∧ (∀ s cu line i, (s.m.inval.find? fun i => i.cu == cu && i.line == line) = some i → l1Answers s cu = true →
      ∃ u, exec (.l1Invalidation cu line) s = .next (wakeAll u) ∧ u.m.inval = s.m.inval.erase i
        ∧ (i.whole = true → l1At u cu line = none)
        ∧ (i.whole = false → u.mem = s.mem ∧ ∀ v, l1At u cu line = some v → v.valid &&& i.words = 0))
  ∧ (∀ s cu line, (s.m.reqs.any fun q => q.isLoad && q.cu == cu && q.performed && q.lines.contains line) = true → cu < 896 →
      isDev (line * 128) = true → clockRuns s (cluOfCu cu) = true → (dirAt s line).noc = false → (dirAt s line).pend = false →
      (dirAt s line).hostx = false → lineQuiet s line = true →
      ∃ t, exec (.l1Fill cu line) s = .next t ∧ t.mem = s.mem
        ∧ (∀ a, byteAt t cu a = byteAt s cu a ∨ l1At t cu (a / 128) = none ∧ ∃ v, l1At s cu (a / 128) = some v ∧ v.dirty = 0)
        ∧ (l1May s cu line ≠ 0 → s.m.l3.contains line = true → l1HasRoom (l1Room s cu line) cu line = true → ∃ v, l1At t cu line = some v ∧ v.valid &&& l1May s cu line = l1May s cu line))
  ∧ (∀ s line, s.m.l3.contains line = true → lineKept s line = false → frozenByRetype s (line * 128) = false →
      (s.m.reqs.any fun q => !q.performed && q.lines.contains line) = false → (dirAt s line).noc = true → lineQuiet s line = true →
      (dirAt s line).host = false → (dirAt s line).hostx = false → (dirAt s line).shv = 0 → entriesOf s line = [] → s.hbm.wf = true → s.parity.wf = true →
      ∃ t, exec (.l3Eviction line) s = .next t ∧ t.mem = s.mem ∧ t.m.l3.contains line = false
        ∧ (((List.range 32).any fun k => (tagAt s (line * 32 + k)).dirty) = true →
          (∀ k, k < 128 → t.hbm.get (line * 128 + k) = s.mem.get (line * 128 + k)
            ∧ (parityOk s line = true → t.parity.get (line / 11 * 128 + k) =
                s.parity.get (line / 11 * 128 + k) ^^^ s.hbm.get (line * 128 + k) ^^^ s.mem.get (line * 128 + k)))
          ∧ ∀ a, a / 128 ≠ line → t.hbm.get a = s.hbm.get a)
        ∧ (((List.range 32).any fun k => (tagAt s (line * 32 + k)).dirty) = false → t.hbm = s.hbm ∧ t.parity = s.parity))
  ∧ (∀ s line c, isDev (line * 128) = true → s.m.l3.contains line = false → l3Room s line = true → s.plat.failed = false → s.hbm.wf = true →
      ∃ t, exec (.hbmRead line c) s = .next t ∧ t.mem = s.mem ∧ t.m.l3 = line :: s.m.l3
        ∧ (healthy s line = true → c = .clean → t.hbm = s.hbm ∧ t.m.errRecs = s.m.errRecs ∧ t.m.poison = s.m.poison)
        ∧ (healthy s line = true → c = .corrected → t.hbm = s.hbm ∧ ∃ b, t.m.errRecs = s.m.errRecs ++ [b] ∧ fieldOf b 8 1 = 1)
        ∧ (healthy s line = true → c = .uncorrectable → stripeBroken s line = false →
          (∀ k, k < 128 → t.hbm.get (line * 128 + k) = (rebuild s line).getD k 0) ∧ ∃ b, t.m.errRecs = s.m.errRecs ++ [b] ∧ fieldOf b 8 1 = 2)
        ∧ (c = .double ∨ (healthy s line = false ∨ c = .uncorrectable) ∧ stripeBroken s line = true →
          t.m.poison.contains line = true ∧ t.hbm = s.hbm ∧ ∃ b, t.m.errRecs = s.m.errRecs ++ [b] ∧ fieldOf b 8 1 = 3))
  ∧ (∀ s line x, hostReach s (line * 128) 64 = true → hostShared s line = false →
      exec (.hostOwnershipRequest line x) s = .next (errLog s 5 0 0xFFFFFF 0 (line * 128)))
  ∧ (∀ s line, hostReach s (line * 128) 64 = true → hostShared s line = true →
      (∀ x, x = false ∨ hostExcl s line = false → ∃ t, exec (.hostOwnershipRequest line x) s = .next t ∧ t.mem = s.mem ∧ (dirAt t line).host = true
        ∧ (dirAt t line).hostx = (dirAt s line).hostx)
      ∧ (hostExcl s line = true → copiesAnswer s ((List.range 32).map fun k => line * 32 + k) = true →
        ∃ t, exec (.hostOwnershipRequest line true) s = .next t ∧ t.mem = s.mem ∧ (dirAt t line).host = true ∧ (dirAt t line).hostx = true
          ∧ ∀ cu v, l1At t cu line = some v → v.valid = 0))
  ∧ (∀ s line bs, s.m.bi.contains line = true → s.m.biAgain.contains line = false → recordingParts s = [] → nextHostw s = none →
      copiesAnswer s ((List.range 32).map fun k => line * 32 + k) = true →
      (bs = [] ∨ bs.length = 128 ∧ (dirAt s line).hostx = true) → isDev (line * 128) = true → s.mem.wf = true →
      ∃ u, exec (.biResponse line bs) s = .next (wakeAll u) ∧ u.m.bi.contains line = false ∧ (dirAt u line).host = false
        ∧ (dirAt u line).hostx = false ∧ (∀ k, k < bs.length → u.mem.get (line * 128 + k) = bs.getD k 0)
        ∧ ∀ a, a < line * 128 ∨ line * 128 + bs.length ≤ a → u.mem.get a = s.mem.get a)
  ∧ ∀ s, s.plat.failed = false →
      ∃ t, exec .patrolScrub s = .next t ∧ t.mem = s.mem ∧ t.m.l3 = s.m.l3 ∧ (scrubFinds s = [] → t = (freshFree s).2)
        ∧ ∀ line, scrubFinds s = [(line, .corrected)] → healthy s line = true →
            t.hbm = s.hbm ∧ ∃ b, t.m.errRecs = s.m.errRecs ++ [b] ∧ fieldOf b 8 1 = 1

/-- Pages and frames (R289 to R292, R321, R322, R326 to R330). A walk changes nothing but what caches and engine records hold. Page requests of one
PASID go to the host in a group. A fragment that has waited its time for allowance for a page has its block marked to leave. An answer to a group that is not
known is only logged; a granted page lets a fragment that waits for no other fetch again. A shootdown drops every translation in its scope, and is
done when what used one is over. BEGIN marks the frames, APPLY closes them and then gives them their new type and generation with no word held or
written, unless a word is held; an APPLY while another still waits is refused; CANCEL takes the marks away; a command that is not valid now changes REASON alone. -/
def Obligations.PagesAndFrames : Prop :=
  (∀ s cu pasid va, cu < 896 → pasid < 2 ^ 20 → va < 2 ^ 57 → s.disp.deadDies.contains (dieOfClu (cluOfCu cu)) = false →
      clockRuns s (cluOfCu cu) = true → ∃ t, exec (.pageWalk cu pasid va) s = .next t ∧ OnlyEngine s t)
  ∧ (∀ s pasid n, (unsent s).head?.map (·.pasid) = some pasid → 1 ≤ n → n ≤ s.m.prgmax →
      n ≤ ((unsent s).filter fun p => p.pasid == pasid).length → s.m.rf = false → s.plat.linkUp = true →
      preqsSent s + n ≤ Config.pageAllowance →
      ∃ t, exec (.pageRequestSend pasid n) s = .next t ∧ OnlyEngine s t ∧ t.m.prgs = s.m.prgs ++ [(s.m.prgNext, pasid)]
        ∧ t.m.prgNext = s.m.prgNext + 1
        ∧ ∀ p ∈ ((unsent s).filter fun p => p.pasid == pasid).take n, { p with grp := some s.m.prgNext } ∈ t.m.preqs)
  ∧ (∀ s g e gr b, s.group? g = some gr → s.block? gr.block = some b → (gr.ent e).valid = true → (gr.ent e).st = .parked →
      (parkedPages (gr.ent e)).1.any (waitsUnsent s) = true → b.why = .none →
      groupRuns s gr = true → ∃ t b', exec (.pgparkTimeout g e) s = .next t ∧ t.block? gr.block = some b' ∧ b'.why = .pgpark)
  ∧ (∀ s grp c, s.plat.linkUp = true → (s.m.prgs.any fun p => p.1 == grp) = false →
      exec (.prgResponse grp c) s = .next (errLog s 6 0 0xFFFFFF 0 0))
  ∧ (∀ s grp c, (s.m.prgs.any fun p => p.1 == grp) = true → s.plat.linkUp = true → ∃ u, exec (.prgResponse grp c) s = .next (wakeAll u))
  ∧ (∀ s g e gr ps rs, s.group? g = some gr → e < gr.ents.length → (gr.ent e).st = .parked → (gr.ent e).park = .pages ps → ps ≠ [] →
      (∀ p ∈ ps, answers rs p = true) →
      (answerFrag s g e rs true).group? g = some (gr.updEnt e fun y => { y with st := .fetching, waitk := 0, park := .none }))
  ∧ (∀ s, s.m.tlbi.busy = false →
      (∀ pasid va n, 1 ≤ n → n < 2 ^ 28 → va < 2 ^ 57 → pasid < 2 ^ 20 → ∃ t, exec (.tlbiRange pasid va n) s = .next t ∧ OnlyEngine s t
        ∧ t.m.tlbi.busy = true ∧ ∀ k l, t.m.tlb.find? k = some l ∨ t.m.ttlb.find? k = some l →
          ∀ x ∈ l, inRange pasid (va / 4096 * 4096) n x.pasid x.va x.size = false)
      ∧ (∀ pasid, pasid < 2 ^ 20 → ∃ t, exec (.tlbiPasid pasid) s = .next t ∧ OnlyEngine s t ∧ t.m.tlbi.busy = true
        ∧ ∀ k l, t.m.tlb.find? k = some l ∨ t.m.ttlb.find? k = some l → ∀ x ∈ l, x.pasid ≠ pasid)
      ∧ ∃ t, exec .tlbiAll s = .next t ∧ OnlyEngine s t ∧ t.m.tlbi.busy = true
        ∧ ∀ k l, t.m.tlb.find? k = some l ∨ t.m.ttlb.find? k = some l → l = [])
  ∧ (∀ s, s.m.tlbi.busy = true → (∀ i ∈ s.m.tlbi.pendingReqs, ∀ q, findReq s i = some q → q.performed = true) → tlbiHeld s = false →
      ∃ t, exec .tlbiDone s = .next t ∧ OnlyEngine s t ∧ t.m.tlbi.busy = false ∧ t.m.tlbi.done = (s.m.tlbi.done + 1) % 2 ^ 32)
  ∧ (∀ s n ct, let x := s.m.retype
      n < 2 ^ 28 →
      (x.state = 1 ∨ x.state = 2 ∨ x.state = 4 ∧ x.rtSet = true → ∃ t, exec (.retypeBegin n ct) s = .next t ∧ OnlyEngine s t
        ∧ t.m.retype.state = x.state ∧ t.m.retype.reason = 3 ∧ t.m.frames = s.m.frames)
      ∧ (x.state = 0 ∨ x.state = 3 ∨ x.state = 4 ∧ x.rtSet = false → (1 ≤ n → isDev (x.base + n * 4096 - 1) = true → ∃ t, exec (.retypeBegin n ct) s = .next t ∧ OnlyEngine s t ∧ t.m.retype.state = 1
        ∧ ∀ f, frameAt t f = if x.base / 4096 ≤ f ∧ f < x.base / 4096 + n then { frameAt s f with rt := true } else frameAt s f)
      ∧ (n = 0 ∨ isDev (x.base + n * 4096 - 1) = false → ∃ t, exec (.retypeBegin n ct) s = .next t ∧ OnlyEngine s t
        ∧ t.m.retype.state = 4 ∧ t.m.retype.reason = 2 ∧ t.m.frames = s.m.frames)))
  ∧ (∀ s, s.m.retype.state = 1 ∨ s.m.retype.state = 4 ∧ s.m.retype.rtSet = true → ∃ t, exec .retypeApply s = .next t ∧ OnlyEngine s t ∧ t.m.retype.state = 2 ∧ t.m.frames = s.m.frames)
  ∧ (∀ s, s.m.retype.state = 2 → retypeOwed s = true → ∃ t, exec .retypeApply s = .next t ∧ OnlyEngine s t
      ∧ t.m.retype = { s.m.retype with op := 2, reason := 3 } ∧ t.m.frames = s.m.frames)
  ∧ (∀ s, let x := s.m.retype
      x.state = 2 → retypeOwed s = false →
      (∀ l ∈ retypeLines s, lineQuiet s l = true ∧ (dirAt s l).host = false ∧ (dirAt s l).hostx = false) →
      ((∃ w ∈ retypeWords s, homeType s (4 * w) = 0 ∧ (tagAt s w).hold = true) → ∃ u, exec .retypeApply s = .next (wakeAll u) ∧ OnlyEngine s u
        ∧ u.m.retype.state = 4 ∧ u.m.retype.reason = 1 ∧ u.m.frames = s.m.frames)
      ∧ ((∀ w ∈ retypeWords s, homeType s (4 * w) = 0 → (tagAt s w).hold = false) → retypeClaims s = false →
        retypeMay s = true → (∀ q ∈ s.m.reqs, q.performed = true ∨ q.ct = x.cmdCt ∨ retypeOn s q = false) →
        ∃ u, exec .retypeApply s = .next (wakeAll u) ∧ (retypeLines s = [] → u.mem = s.mem) ∧ u.m.retype.state = 3
          ∧ (∀ f ∈ retypeFrames s, frameAt u f = { ty := x.cmdCt, tgen := ((frameAt s f).tgen + 1) % 4096 })
          ∧ (∀ f, f ∉ retypeFrames s → frameAt u f = frameAt s f)
          ∧ ∀ w, w / 1024 ∈ retypeFrames s → (tagAt u w).hold = false ∧ (tagAt u w).wst = 0))
  ∧ (∀ s, s.m.retype.state = 1 ∨ s.m.retype.state = 4 ∧ s.m.retype.rtSet = true → ∃ u, exec .retypeCancel s = .next (wakeAll u) ∧ u.m.retype.state = 0 ∧ u.mem = s.mem
      ∧ ∀ f, frameAt u f = if f ∈ retypeFrames s then { frameAt s f with rt := false } else frameAt s f)
  ∧ (∀ s, s.m.retype.state = 0 ∨ s.m.retype.state = 3 ∨ s.m.retype.state = 4 ∧ s.m.retype.rtSet = false → ∀ i ∈ [Instr.retypeApply, .retypeCancel],
      ∃ t, exec i s = .next t ∧ OnlyEngine s t ∧ t.m.retype.state = s.m.retype.state ∧ t.m.retype.reason = 3 ∧ t.m.frames = s.m.frames)

/-- Copies (R213, R216, R217, R219 to R221, R270). The chunk that arbitration serves goes to its tile, whose bytes it becomes and whose chunk the copy
then no longer owns, or to memory: the lines whose turn has come take the bytes that the chunk has for them, no other byte changes, and a chunk that
still waits at other lines keeps its place. A page that is not resident is asked for, copies that a write needs gone are called in, and a fault is
taken. A flag in memory is written with the instance's holds released; a flag in a tile becomes its element. The translation unit walks to the page that
comes next, and what an input has still to read in it enters its claim. -/
def Obligations.CopiesMove : Prop :=
  (∀ s i x a, findInst s i = some x → copyNext s x.clu 9 (arbOf s x.clu) = some (x, a) → loggedCopyFault s x = none →
      (∀ bs rd, nextMove s x = .tile bs rd → ∀ b t, s.block? x.block = some b → b.tiles.find? x.desc.tile = some t →
        ∃ u y b' t', exec (.copyChunk i) s = .next (chunkDone u y a) ∧ y.nextChunk = x.nextChunk ∧ y.startNo = i
          ∧ (b.swapped = false → (∀ im ∈ s.frz.images, im.stored = false) → u.mem = s.mem) ∧ u.block? x.block = some b' ∧ b'.tiles.find? x.desc.tile = some t' ∧ t'.owned = t.owned.filter (· ≠ x.nextChunk)
          ∧ ∀ k, k < bs.length → t'.bytes.find? (x.nextChunk * 2048 + k) = some (bs.getD k 0))
      ∧ (∀ bs rd ps, nextMove s x = .mem bs rd ps → (ps.map fun p => p.2.1).Nodup → (∀ p ∈ ps, isDev p.2.1 = true) → s.mem.wf = true →
        let ls := (writeLines (chunkRead s (noteIdx s x) rd).1 (x.agent s) ps).2
        let done := ps.filter fun p => ls.contains (p.2.1 / 128)
        ∃ u y, exec (.copyChunk i) s =
            .next (if ls.length = (linesOfPs ps).length then chunkDone u y a else wakeAll (setInst (setArb u x.clu a) y))
          ∧ y.nextChunk = x.nextChunk ∧ y.startNo = i ∧ y.buf = some bs ∧ y.part = x.part ++ ls ∧ (∀ p ∈ done, u.mem.get p.2.1 = p.2.2)
          ∧ ∀ k, (∀ p ∈ done, p.2.1 ≠ k) → u.mem.get k = s.mem.get k)
      ∧ (∀ p w, nextMove s x = .ask p w → s.m.rf = false → ∃ t y, exec (.copyChunk i) s = .next t ∧ findInst t i = some y
          ∧ y.waitPage = some (p, w) ∧ y.nextChunk = x.nextChunk ∧ t.mem = s.mem)
      ∧ (∀ ws ls, nextMove s x = .inval ws ls → exec (.copyChunk i) s = .next (askFor s ws ls))
      ∧ (∀ ls, nextMove s x = .back ls → exec (.copyChunk i) s = .next (foldS s ls sendBi))
      ∧ (∀ code h d w, nextMove s x = .fault code h d w → exec (.copyChunk i) s = .next (findFault s x w code h d)))
  ∧ (∀ s i x, findInst s i = some x → x.moved = true → x.stopped = false → x.waitPage = none → x.flagDone = false → x.runs s = true →
      loggedCopyFault s x = none →
      (x.desc.fkind = 1 → x.flagVa s % 8 = 0 → ∀ bs rd ps, memMove s { x with part := [] } 2 (flagBytesAt s x) [] [] = .mem bs rd ps →
        (∀ p ∈ ps, homeType s p.2.1 = 0 ∧ isDev p.2.1 = true) → (ps.map fun p => p.2.1).Nodup → s.mem.wf = true → agentKind (x.agent s) ≠ 5 →
        ∃ u y, exec (.copyFlagWrite i) s = .next (completeInst u y) ∧ y.flagDone = true ∧ (∀ p ∈ ps, u.mem.get p.2.1 = p.2.2)
          ∧ (∀ p ∈ ps, (tagAt u (p.2.1 / 4)).hold = false) ∧ ∀ k, (∀ p ∈ ps, p.2.1 ≠ k) → u.mem.get k = s.mem.get k)
      ∧ (x.desc.fkind = 2 → exec (.copyFlagWrite i) s = .next (flagTile s x)
        ∧ let h := x.desc.flag % 32
          let idx := x.desc.flag / 2 ^ 32
          ∀ b t, s.block? x.block = some b → b.tiles.find? h = some t → t.esz = 4 ∨ t.esz = 8 → (elemAt s x.block h idx t.esz).isSome = true →
            t.owned.contains (idx * t.esz / 2048) = false →
            ∃ u y, flagTile s x = completeInst u y ∧ y.flagDone = true
              ∧ (b.swapped = false → (∀ im ∈ s.frz.images, im.stored = false) → u.mem = s.mem) ∧ elemRead u x.block h idx t.esz = x.desc.fval.toNat % 2 ^ (8 * t.esz))
      ∧ (x.desc.fkind ≠ 1 → x.desc.fkind ≠ 2 → exec (.copyFlagWrite i) s = .next (completeInst s x)))
  ∧ (∀ s i x page w s1, findInst s i = some x → x.stopped = false → x.moved = false → x.runs s = true → x.walked.length < 64 →
      x.walked.contains page = false → nextWant x = some (.page page w) →
      (∀ v, leafAhead s x.clu (x.pasid s) (page * 4096) = (s1, some v) → claimMay s1 (x.noteWalk (v.va / 4096) (v.size / 4096)) v = true →
        ∃ t y, exec (.ttuTranslate i page) s = .next t ∧ findInst t i = some y ∧ v.va / 4096 ∈ y.walked ∧ t.mem = s.mem
          ∧ ∀ wd ∈ pageWords x v, wd ∈ y.claimed ∧ (wd ∉ x.claimed → (x.agent s, wd) ∈ t.m.claims))
      ∧ (leafAhead s x.clu (x.pasid s) (page * 4096) = (s1, none) →
        ∃ t y, exec (.ttuTranslate i page) s = .next t ∧ findInst t i = some y ∧ page ∈ y.walked ∧ t.mem = s.mem ∧ y.claimed = x.claimed))

/-- Packets (R338, R346, R348 to R351, R353, R356, R382, R398, R402). One for another device goes on. At its target a store of the source's agent puts
its words into memory, or does nothing where no window allows it; a load answers with the words; an atomic performs its operation; a fence frees what
the source's agent holds, then writes its flag; checkpoint data sets no mark. A response ends its request and gives the token its values. A collective
takes its participants' data and agreement; when all is there it writes DSTB. How data and agreement are cut into packets, and that STACK acknowledges
them, is the model's choice (notes/assumptions/7). -/
def Obligations.PacketsAreServed : Prop :=
  (∀ s port pk, comes s port pk = true → pk.dst ≠ s.fab.devno →
      ∀ x ∈ [(1, Instr.ldreq port pk), (2, .atreq port pk), (3, .streq port pk), (4, .ldrsp port pk), (5, .atrsp port pk), (6, .stack port pk),
        (7, .fencePacket port pk), (8, .fenack port pk), (9, .cdata port pk), (0xA, .cctl port pk), (0xB, .logfrm port pk), (0xC, .ckpt port pk)],
      pkFits x.1 pk = true → exec x.2 s = .next (passOn (takePk s port pk) port pk))
  ∧ (∀ s port pk, Accepted s port pk → s.mem.wf = true →
      let s0 := forgetRsp s pk
      let s1 := takePk s0 port pk
      let a := agentRemote pk.src
      let ws := pkWords pk
      let acq := if pk.ord = 1 then some pk.scope.toNat else none
      let rc := ws.filter fun w => homeType s1 (4 * w) == 0
      (pkFits 3 pk = true →
        ((ws.all (winOk s0 false true)) = false → ∃ u t, exec (.streq port pk) s = .next (wakeAll u) ∧ u.mem = s.mem
          ∧ u.fab.done.head? = some (pk.src, pk.tag, t, rspTo s0 pk 6 0x04 0xFFFFFF))
        ∧ ((ws.all (winOk s0 false true)) = true → storeRoom s0 a (pk.addr / 128) pk.ord.toNat pk.scope.toNat = true → engineTurn s0 ws = .go →
          (∀ w ∈ ws, judgeWrite (if pk.ord = 2 then release (bringAll s1 ws) a pk.scope.toNat else bringAll s1 ws) a (4 * w) 4 = .ok) →
          ∃ u t, exec (.streq port pk) s = .next (wakeAll u) ∧ u.fab.done.head? = some (pk.src, pk.tag, t, rspTo s0 pk 6 0 0xFFFFFF)
            ∧ (∀ x ∈ List.zip ws pk.words, ∀ k, k < 4 → u.mem.get (4 * x.1 + k) = BitVec.ofNat 8 (x.2.toNat / 2 ^ (8 * k)))
            ∧ ∀ k, k / 4 ∉ ws → u.mem.get k = s.mem.get k))
      ∧ (pkFits 1 pk = true → (ws.all (winOk s0 true false)) = false → ∃ u t rsp, exec (.ldreq port pk) s = .next (wakeAll u) ∧ u.mem = s.mem
        ∧ u.fab.done.head? = some (pk.src, pk.tag, t, rsp) ∧ rsp.kind = 4 ∧ rsp.wmask = pk.wmask ∧ ∀ x ∈ rsp.words, x = 0)
      ∧ (pkFits 1 pk = true → (ws.all (winOk s0 true false)) = true → engineRead s0 ws = .go → promoteMay s1 a 0 acq rc = true →
        let s2 := promoteWords (bringAll s1 ws) a 0 acq rc
        ∃ u t rsp, exec (.ldreq port pk) s = .next (wakeAll u) ∧ u.mem = s.mem ∧ u.fab.done.head? = some (pk.src, pk.tag, t, rsp)
          ∧ rsp.kind = 4 ∧ rsp.dst = pk.src ∧ rsp.wmask = pk.wmask
          ∧ ((∀ w ∈ ws, judgeRead s2 a (4 * w) 4 = .ok) →
            rsp.status = 0 ∧ rsp.ents = [] ∧ rsp.words = ws.map fun w => BitVec.ofNat 32 (s.mem.getLE (4 * w) 4)))
      ∧ (∀ ty x, pkFits 2 pk = true → pk.npart = 1 → findGather s0 pk = none → pk.ty = some ty → ty.packed = false → pk.ents = [x] →
        let pa := pk.addr + 4 * x.word
        let n := ty.width / 8
        let ws := (wordsOf pa n).dedup
        let old := s.mem.getLE pa n
        let acq := if pk.ord = 1 ∨ pk.ord = 3 then some pk.scope.toNat else none
        (ws.all (winOk s0 true true)) = true → engineTurn s0 ws = .go → (∀ p, (rpart s p).mode = 0) →
        promoteMay s0 a 0 acq (ws.filter fun w => homeType s0 (4 * w) == 0) = true →
        judgeAtomic (promoteWords (bringAll s1 ws) a 0 acq (ws.filter fun w => homeType (bringAll s0 ws) (4 * w) == 0)) a pa n = .ok →
        ∃ u, exec (.atreq port pk) s = .next (wakeAll u)
          ∧ (∀ k, k < n → u.mem.get (pa + k) = BitVec.ofNat 8 (atomStep pk.x.toNat ty old x.b.toNat x.c.toNat / 2 ^ (8 * k)))
          ∧ (∀ k, k < pa ∨ pa + n ≤ k → u.mem.get k = s.mem.get k)
          ∧ ∃ t rsp, u.fab.done.head? = some (pk.src, pk.tag, t, rsp) ∧ rsp.kind = 5 ∧ rsp.status = 0
            ∧ rsp.ents.map (fun y => (y.lane, y.old)) = [(x.lane, BitVec.ofNat 64 old)])
      ∧ (pkFits 7 pk = true → pk.ty = none → ∃ u t, exec (.fencePacket port pk) s = .next (wakeAll u) ∧ u.mem = s.mem
        ∧ u.fab.done.head? = some (pk.src, pk.tag, t, rspTo s0 pk 8 0 0xFFFFFF)
        ∧ ∀ w, (tagAt s w).owner = a → (tagAt u w).hold = false)
      ∧ (∀ ty, pkFits 7 pk = true → pk.ty = some ty →
        let n := ty.width / 8
        let ws := wordsOf pk.addr n
        (ws.all (winOk s0 false true)) = true → homeType s0 pk.addr ≤ 1 → engineTurn s0 ws = .go →
        judgeWrite (release s1 a 5) a pk.addr n = .ok → n ≠ 0 →
        ∃ u t, exec (.fencePacket port pk) s = .next (wakeAll u) ∧ u.fab.done.head? = some (pk.src, pk.tag, t, rspTo s0 pk 8 0 0xFFFFFF)
          ∧ (∀ k, k < n → u.mem.get (pk.addr + k) = BitVec.ofNat 8 (pk.flag.toNat / 2 ^ (8 * k)))
          ∧ ∀ k, k < pk.addr ∨ pk.addr + n ≤ k → u.mem.get k = s.mem.get k)
      ∧ (∀ c, pkColl s0 pk = some c → findColl s c.slot c.n = some c →
        (pkFits 9 pk = true → ∃ t, exec (.cdata port pk) s = .next t ∧ findColl t c.slot c.n =
          some { c with got := c.got ++ [(c.devs.findIdx (· == pk.src), pk.addr, BitVec.ofNat 64 (leNat pk.raw))] })
        ∧ (pkFits 0xA pk = true → pk.x = 0 → pk.raw = collParams c → ∃ u c', exec (.cctl port pk) s = .next (wakeAll u)
          ∧ findColl u c.slot c.n = some c' ∧ c'.agreed.contains (c.devs.findIdx (· == pk.src)) = true))
      ∧ (pkFits 0xB pk = true →
        (twinPart s0 pk = none → exec (.logfrm port pk) s = .next s1)
        ∧ (∀ p, twinPart s0 pk = some p → (rpart s p).halted = false →
          nextFrame { rpart s p with inbox := (rpart s p).inbox ++ [(pk.addr, pk.raw)] } = none →
          ∃ u, exec (.logfrm port pk) s = .next (wakeAll u) ∧ (rpart u p).inbox = (rpart s p).inbox ++ [(pk.addr, pk.raw)]))
      ∧ (pkFits 0xC pk = true → ((wordsOf pk.addr pk.raw.length).all (winOk s0 false true)) = true →
        ∃ u, exec (.ckpt port pk) s = .next (wakeAll u) ∧ u.ck.marks = s.ck.marks
          ∧ (∀ k, k < pk.raw.length → u.mem.get (pk.addr + k) = pk.raw.getD k 0)
          ∧ ∀ k, k < pk.addr ∨ pk.addr + pk.raw.length ≤ k → u.mem.get k = s.mem.get k))
  ∧ (∀ s port pk, comes s port pk = true → pk.dst = s.fab.devno → behind s port pk = false → answersReq s pk = none →
      ∀ x ∈ [(4, Instr.ldrsp port pk), (5, .atrsp port pk), (6, .stack port pk), (8, .fenack port pk)],
        pkFits x.1 pk = true → exec x.2 s = .next (takePk s port pk))
  ∧ (∀ s port pk r gr, Accepted s port pk → answersReq s pk = some r → s.group? r.lgn = some gr →
      parkForGroup (takePk s port pk) r.lgn 4 (.fabric port pk) = none → s.fab.unsent = [] →
        ∀ x ∈ [(4, 1, Instr.ldrsp port pk, r.accs.filterMap (laneVal pk)),
               (5, 2, .atrsp port pk, (pk.ents.filter fun x => x.status == 0).map fun x => (x.lane, x.old)),
               (6, 0, .stack port pk, []), (8, 3, .fenack port pk, [])],
        pkFits x.1 pk = true → r.kind = x.2.1 → (x.1 = 4 → ∀ y ∈ r.accs, (laneVal pk y).isSome = true) →
        (x.1 = 5 → pk.npart = 1 ∧ r.parts = [] ∧ ∀ y ∈ pk.ents, y.status = 0) → (x.1 = 6 ∨ x.1 = 8 → pk.status = 0) →
        let pend := gr.pend.map fun p =>
          if p.wait.contains r.id then { p with vals := p.vals ++ x.2.2.2, wait := p.wait.filter (· != r.id) } else p
        ∃ u, exec x.2.2.1 s = .next (wakeAll u) ∧ (∀ y ∈ u.fab.outstanding, y.id ≠ r.id)
          ∧ u.group? r.lgn = some { gr with pend := pend })
  ∧ (∀ s slot n c, findColl s slot n = some c → collReady s c = true →
      let esz := c.ty.width / 8
      let ws := (c.dpas.flatMap fun pa => wordsOf pa esz).dedup
      engineTurn s ws = .go → (∀ pa ∈ c.dpas, isDev pa = true) → s.mem.wf = true →
      ∃ u, exec (.collectiveComplete slot n) s = .next (wakeAll (endColl u c 2))
        ∧ (∀ k, (∀ pa ∈ c.dpas, k < pa ∨ pa + esz ≤ k) → u.mem.get k = s.mem.get k)
        ∧ ((∀ i j, i < j → j < c.dpas.length → c.dpas.getD i 0 + esz ≤ c.dpas.getD j 0) → ∀ j, j < c.dpas.length → ∀ k, k < esz →
          u.mem.get (c.dpas.getD j 0 + k) = BitVec.ofNat 8 ((collValue c (collRank s c) j).getD 0 / 2 ^ (8 * k))))

/-- Links and timeouts (R342 to R344, R346). An idle flit carries STOP and an acknowledgement; a request to resend, or a timeout, sends flits again,
and after 16 times without progress the port has failed; for a bad flit a request to resend is due that names the flit expected;
a trained port comes up. Arbitration sends one packet whose flits
wait for their acknowledgement. A request without a response is sent again once, and then fails. -/
def Obligations.LinksAndTimeouts : Prop :=
  (∀ s port, port < 24 → portLive s.fab port = true →
      let p := s.fab.portD port
      (∀ lack stop, lack < 4096 → ∃ t, exec (.idleFlit port lack stop) s = .next t
        ∧ t.fab.portD port = { ackFlits p lack with stopIn := stop } ∧ t = { s with fab := t.fab })
      ∧ (∀ seq, seq < 4096 → (ackFlits p ((seq + 4095) % 4096)).resends < 16 →
        ∃ t, exec (.resendRequest port seq) s = .next t ∧ t.fab.portD port =
          { ackFlits p ((seq + 4095) % 4096) with resends := (ackFlits p ((seq + 4095) % 4096)).resends + 1 } ∧ t = { s with fab := t.fab })
      ∧ exec (.badFlit port) s = .next (setPort s port { p with nak := some p.expect })
      ∧ (p.retry ≠ [] → p.resends < 16 → ∃ t, exec (.retryTimeout port) s = .next t ∧ t.fab.portD port = { p with resends := p.resends + 1 }
        ∧ t = { s with fab := t.fab })
      ∧ (p.retry ≠ [] → p.resends ≥ 16 → ∃ u, exec (.retryTimeout port) s = .next (wakeAll (failCut u)) ∧ (u.fab.portD port).failed = true
        ∧ (u.fab.portD port).up = false ∧ (u.fab.portD port).retry = [] ∧ u.mem = s.mem)
      ∧ (∀ x p1, decideGrant s.fab p = some (x, p1) → p.retry.length + x.2.flits ≤ 1024 →
        ∃ t, exec (.arbitrationDecision port) s = .next t ∧ t = { s with fab := t.fab } ∧ (t.fab.portD port).lseq = (p.lseq + x.2.flits) % 4096
          ∧ (t.fab.portD port).retry = p.retry ++ (List.range x.2.flits).map (fun k => RFlit.mk ((p.lseq + k) % 4096) x.2.pk)
          ∧ (t.fab.portD port).outq.length + 1 = p.outq.length))
  ∧ (∀ s port m, port < 24 → s.fab.en = true → (s.fab.portD port).up = false → (s.fab.portD port).failed = false →
      (m ≤ 48 → ∃ t, exec (.linkTraining port m) s = .next t ∧ portLive t.fab port = true ∧ (t.fab.portD port).m = m ∧ t = { s with fab := t.fab })
      ∧ (48 < m → exec (.linkTraining port m) s = .next s))
  ∧ (∀ s r x, (s.fab.outstanding.find? fun x => x.id == r) = some x → rspParked s x = false →
      (∀ q, fabPort s.fab x.dst = some q → x.resent = false → ∃ t y, exec (.ftoTimeout r) s = .next t
        ∧ (t.fab.outstanding.find? fun x => x.id == r) = some y ∧ y = { x with resent := true, port := q } ∧ t = { s with fab := t.fab })
      ∧ (fabPort s.fab x.dst = none ∨ x.resent = true → exec (.ftoTimeout r) s = .next (wakeAll (fabFail s x)))
      ∧ (∀ gr, x.kind < 4 → s.group? x.lgn = some gr → x.e < gr.ents.length → x.e < 16 → (gr.ent x.e).st = .issuing →
        lostByPart s x.dst = false → s.fab.unsent = [] →
        parkForGroup (errLog s 7 Cause.fabric.code x.lgn 0 0) x.lgn 4 (.lost x.id) = none → ∃ gr' l, (fabFail s x).group? x.lgn = some gr'
          ∧ (gr'.ent x.e).late = (gr.ent x.e).late ++ [l] ∧ l.info.cause = .fabric ∧ ∀ y ∈ (fabFail s x).fab.outstanding, y.id ≠ r))

/-! ### The recorder, freezing, checkpoints, debug and the platform -/

/-- The recorder and replay (R360, R370, R371, R376 to R379, R382, R383). The records that a source emitted first become a frame at HEAD that reads
back as those records; no other byte changes and no other source's records are touched. A twin's progress is counted, and its loss reported. A held
fragment begins the chunk that the log has for it, or diverges where a whole log has none. A breakpoint freezes the clusters whose fragments it stops;
what the log holds and does not come halts the partition. Where a log's frames are read from, and which events time out, are the model's readings
(notes/assumptions/33). -/
def Obligations.RecordingAndReplay : Prop :=
  (∀ s part src body out rs, part < 8 → (rpart s part).mode ≤ 1 → decodeTokens (body.length + 1) body [] = some out →
      decodeBody out.length body = some rs → rs ≠ [] → body.length ≤ 4032 → ringFull (rpart s part) = false → (rpart s part).pair = false →
      let r := rpart s part
      let sc : Src4 := ⟨src / 65536, src % 65536⟩
      let n := r.fseq.get (sc.kind, sc.num) 0
      ((r.unwritten.filter fun x => x.src == sc).take rs.length).map (finalRow s) = rs.map some → sourceRuns s sc = true → s.mem.wf = true →
      ∃ u f, exec (.frameWrite part src body) s = .next (afterPerform u) ∧ f.length = 4096 ∧ (∀ k, k < 4096 → u.mem.get (r.base + r.head + k) = f.getD k 0)
        ∧ (∀ a, a < r.base + r.head ∨ r.base + r.head + 4096 ≤ a → u.mem.get a = s.mem.get a)
        ∧ ((∀ x ∈ rs, 1 ≤ fieldOf x 0 1 ∧ fieldOf x 0 1 ≤ 0xC) → parseFrame f = some rs)
        ∧ fieldOf f 8 8 = n % 2 ^ 64 ∧ (rpart u part).fseq.get (sc.kind, sc.num) 0 = n + 1
        ∧ (rpart u part).head = (r.head + 4096) % (r.size * 2 ^ 30) ∧ (rpart u part).tail = r.tail
        ∧ ((rpart u part).unwritten.filter fun x => x.src == sc) = (r.unwritten.filter fun x => x.src == sc).drop rs.length
        ∧ ((rpart u part).unwritten.filter fun x => x.src != sc) = r.unwritten.filter fun x => x.src != sc)
  ∧ (∀ s part n, let r := rpart s part
      (r.mode = 1 → r.pair = true → r.unpaired = false → r.compared ≤ n → n ≤ r.ended →
        exec (.twinProgress part n) s = .next (wakeAll (setRpart s part { r with compared := n })))
      ∧ (r.mode = 3 → exec (.twinProgress part (rpart (compareDigests s part) part).compared) s = .next (wakeAll (compareDigests s part)))
      ∧ (r.mode = 1 → r.pair = true → r.unpaired = false → ∃ u, exec (.twinLoss part) s = .next (wakeAll u) ∧ (rpart u part).unpaired = true
        ∧ u.mem = s.mem ∧ ∀ q ∈ u.fab.outstanding, q.lgn ≠ logKey part))
  ∧ (∀ s g e p gr, atChunk s g e = some p → s.group? g = some gr →
      (∀ b, nextChunk s p g e = some b → admitted s p (fieldOf b 0x10 8) = true → chunkHeld s p g e (fieldOf b 0x10 8) = false →
        groupRuns s gr = true → ∃ u gr', exec (.replayChunkStart g e) s = .next (wakeAll u) ∧ u.group? g = some gr'
          ∧ (gr'.ent e).chunk.replay = some b ∧ gr'.regs = gr.regs ∧ (rpart u p).log = (rpart s p).log.erase b ∧ u.mem = s.mem)
      ∧ (nextChunk s p g e = none → (rpart s p).mode ≠ 3 → ∃ t, exec (.replayChunkStart g e) s = .next t ∧ (rpart t p).halted = true
        ∧ t.mem = s.mem ∧ t.groups = s.groups))
  ∧ (∀ s part k c, part < 8 → k < 16 → (rpart s part).mode ≥ 2 → (cluD s c).state = .running → clockRuns s c = true →
      let x := rbkD s part k
      x.v = true →
      (x.all = true ∧ admitted s part x.stamp.toNat = true ∧ c ∈ partClusters s part
        ∨ ¬(x.all = true ∧ admitted s part x.stamp.toNat = true) ∧ ∃ g gr, g ∈ breaksAt s part x ∧ s.group? g = some gr
            ∧ physClu s (lcluOf s gr.block.gang) = some c) →
      ∃ t, exec (.replayBreakpoint part k) s = .next t ∧ (cluD t c).state = .stopping ∧ (cluD t c).imgSrc = 2 ∧ t.mem = s.mem ∧ t.groups = s.groups)
  ∧ (∀ s part, part < 8 → (rpart s part).mode ≥ 2 → (rpart s part).halted = false →
      ((rpart s part).log ≠ [] ∨ ∃ x ∈ s.tasks, x.2.live = true ∧ partOfTask s x.1 = some part) →
      ∃ t d, exec (.replayEventTimeout part) s = .next t ∧ (rpart t part).halted = true
        ∧ (rpart t part).divergence = (rpart s part).divergence ++ [d]
        ∧ ∀ c ∈ partClusters s part, (cluD s c).state = .running → (cluD t c).state = .stopping)

/-- Freezing and restoring (R384 to R394). FREEZE begins the stop of a running cluster whose slot is free; refused, it changes nothing but REASON. At
the stop the clock no longer runs, and an image of the context is there; memory and groups are as they were. Drained, the L1s of the cluster hold
nothing and what they had changed is in memory. Staged and drained, the cluster is idle and its groups are frozen;
a fourth staged image goes to its slot at once. A stored image lies in its
slot, header, section table and sections, each group's slot among them, whatever the bytes that the spec leaves open (notes/assumptions/35), and no check
of its form refuses it. RESTORE brings the groups, with every register, to the new cluster, whose L1s are empty and whose clock starts when every response owed is in hand. DISCARD kills the gangs of
an image. -/
def Obligations.ClustersFreeze : Prop :=
  (∀ s c src base, cluAlive s c = true → src < 4 → base % 4096 = 0 → let x := cluD s c
      (x.state = .running → slotFreeFor s c base = true →
        exec (.freeze c src base) s = .next (setClu s c { x with imgbase := base, src := src, imgSrc := src, op := 1, state := .stopping }))
      ∧ (x.state = .running → slotFreeFor s c base = false → exec (.freeze c src base) s = .next (setClu s c { x with reason := 6 }))
      ∧ (x.state = .idle ∨ x.state = .restoring → exec (.freeze c src base) s = .next (setClu s c { x with reason := 1 }))
      ∧ (x.state = .stopping ∨ x.state = .scanning → exec (.freeze c src base) s = .next s))
  ∧ (∀ s (v : Word), (v.getLsbD 0 = false → exec (.fzdevWrite v) s = .next s)
      ∧ (v.getLsbD 0 = true → ∃ t, exec (.fzdevWrite v) s = .next t ∧ t.groups = s.groups ∧ t.mem = s.mem
        ∧ (∀ c, c < 112 → (cluD s c).state = .running → slotFreeFor s c (cluD s c).imgbase = true →
            (∀ d, d < 112 → d ≠ c → (cluD s d).state = .running → (cluD s d).imgbase ≠ (cluD s c).imgbase) → (cluD t c).state = .stopping)
        ∧ ∀ c, (cluD s c).state ≠ .running → cluD t c = cluD s c))
  ∧ (∀ s c base, cluAlive s c = true → base % 4096 = 0 → let x := cluD s c
      ((x.noSlot = false ∨ slotFreeFor s c base = false) →
        exec (.fzctlSlotWrite c base) s = .next (setClu s c { x with imgbase := base }))
      ∧ (x.noSlot = true → slotFreeFor s c base = true → ∃ t, exec (.fzctlSlotWrite c base) s = .next t
        ∧ cluD t c = { x with imgbase := base, noSlot := false }
        ∧ ∀ im ∈ t.frz.images, im.srcClu = c → im.staged = false → im.base = base))
  ∧ (∀ s c l, let x := cluD s c
      x.lclu = some l → x.state = .stopping → x.stopped = false →
      ∃ t im, exec (.clockStop c) s = .next t ∧ clockRuns t c = false ∧ (cluD t c).state = .scanning ∧ (cluD t c).park = []
        ∧ (cluD t c).noSlot = !slotFreeFor s c x.imgbase ∧ t.frz.images = s.frz.images ++ [im] ∧ im.base = x.imgbase ∧ im.lclu = l ∧ im.srcClu = c
        ∧ im.gangs = imageGangs s l ∧ im.groups = ((groupsOfLclu s l).filter fun g => (imageGangs s l).contains g.2) ∧ im.owed = owedBy s l ∧ im.staged = false ∧ im.stored = false
        ∧ t.mem = s.mem ∧ t.groups = s.groups
        ∧ ∀ g, s.cur = some (.grp g) → (∃ gr, (g, gr) ∈ s.groups ∧ lcluOf s gr.block.gang = l) → t.cur = none)
  ∧ (∀ s c, (cluD s c).state = .scanning → (cluD s c).stopped = true → (cluD s c).drained = false → s.mem.wf = true →
      ∃ t, exec (.l1Drain c) s = .next (wakeAll (settleOver t)) ∧ (∀ cu line, cluOfCu cu = c → l1At t cu line = none)
        ∧ (∀ cu line, cluOfCu cu ≠ c → l1At t cu line = l1At s cu line)
        ∧ (∀ a, (∀ p ∈ s.m.l1, cluOfCu p.1.1 = c → ∀ d ∈ p.2.data, p.1.2 * 128 + d.1 ≠ a) → t.mem.get a = s.mem.get a)
        ∧ (∀ cu line l, cluOfCu cu = c → l1At s cu line = some l → ∀ d ∈ l.data,
            (∀ cu' line' l', cluOfCu cu' = c → l1At s cu' line' = some l' → ∀ d' ∈ l'.data, line' * 128 + d'.1 = line * 128 + d.1 → d'.2 = d.2) →
            t.mem.get (line * 128 + d.1) = d.2)
        ∧ ((cluD s c).lclu = none → (cluD t c).state = .idle ∧ clockRuns t c = true)
        ∧ ((cluD s c).lclu ≠ none → scanImage s c = none → (cluD t c).drained = true))
  ∧ (∀ s c im, scanImage s c = some im → (cluD s c).state = .scanning → (cluD s c).stopped = true → (cluD s c).noSlot = false →
      im.staged = false →
      let waits := (s.frz.images.filter fun y => y.staged && !y.stored).length
      ((cluD s c).drained = false → ∃ t im', exec (.imageStaged c) s = .next t ∧ scanImage t c = some im' ∧ im'.staged = true
        ∧ im'.park = (cluD s c).park ∧ im'.parkCount = (cluD s c).park.length ∧ t.groups = s.groups
        ∧ (waits < 3 → cluD t c = cluD s c ∧ t.mem = s.mem) ∧ (3 ≤ waits → im'.stored = true))
      ∧ ((cluD s c).drained = true → ∃ t, exec (.imageStaged c) s = .next t ∧ (cluD t c).state = .idle ∧ (cluD t c).lclu = none
        ∧ clockRuns t c = true ∧ (waits < 3 → t.mem = s.mem)
        ∧ ∀ g gr, s.group? g = some gr → gr.block.gang ∈ im.gangs → gr.status = .resident → t.group? g = some { gr with status := .frozen }))
  ∧ (∀ s c im, (s.frz.images.find? fun im => im.srcClu == c && im.staged && !im.stored) = some im → s.mem.wf = true →
      ∃ t, exec (.imageStored c) s = .next t ∧ t.groups = s.groups
        ∧ (∀ k, k < imageLen im.parkCount → t.mem.get (im.base + k) = imageAt s im k)
        ∧ (∀ a, a < im.base ∨ im.base + imageLen im.parkCount ≤ a → t.mem.get a = s.mem.get a)
        ∧ (∀ n gr, n < 512 → imageGroup s im n = some gr → ∀ k, k < 0x62A →
          t.mem.get (im.base + (0x0104D000 + 1600 * n + k)) = (groupHead gr).getD k 0)
        ∧ (im.rev = Config.revid → im.outreq.length = 4 → im.parkn.length = 4 → im.parkCount < 2 ^ 32 → (imageHeader s im).length = 256
          ∧ (imageRefused t { im with stored := true } = none ∨ imageRefused t { im with stored := true } = some 5)))
  ∧ (∀ s c base, cluAlive s c = true → base % 4096 = 0 → let x := cluD s c
      (x.state ≠ .idle → exec (.restore c base) s = .next (fzRefuse s c 1))
      ∧ (x.state = .idle → base ∉ s.frz.slots → exec (.restore c base) s = .next (fzRefuse s c 6))
      ∧ (x.state = .idle → base ∈ s.frz.slots →
        ((s.frz.images.find? fun im => im.base == base && im.staged) = none →
          exec (.restore c base) s = .next (fzRefuse s c ((slotRefused s base).getD 4)))
        ∧ ∀ im, (s.frz.images.find? fun im => im.base == base && im.staged) = some im →
          (∀ r, imageRefused s im = some r → exec (.restore c base) s = .next (fzRefuse s c r))
          ∧ (imageRefused s im = none → ∃ t, exec (.restore c base) s = .next t ∧ (cluD t c).state = .restoring ∧ (cluD t c).lclu = some im.lclu
            ∧ clockRuns t c = false ∧ (∀ cu line, cluOfCu cu = c → l1At t cu line = none)
            ∧ ((∀ p ∈ s.m.l1, cluOfCu p.1.1 = c → p.2.data = []) → t.mem = s.mem)
            ∧ (cluD t c).park = (if (cluD s im.srcClu).lclu = some im.lclu then (cluD s im.srcClu).park else im.park) ∧ (∀ y ∈ t.frz.images, y.lclu ≠ im.lclu)
            ∧ ∀ g gr, s.group? g = some gr → gr.block.gang ∈ im.gangs → t.group? g = some { gr with part := c * 32 + gr.part % 32 })))
  ∧ (∀ s c d im, (s.frz.restoring.find? fun r => r.1 == c) = some (d, im) → (cluD s c).park = [] →
      (∀ o ∈ im.owed, owedAnswered s [] o.1 = true) → (s.gangs.any fun p => p.2.lclu == im.lclu) = true →
      ∃ u, exec (.restoreClockStart c) s = .next (wakeAll (liftHalts (settleOver u))) ∧ clockRuns u c = true ∧ (cluD u c).state = .running ∧ u.mem = s.mem
        ∧ ∀ g gr, s.group? g = some gr → gr.block.gang ∈ im.gangs → gr.status = .frozen → u.group? g = some { gr with status := .resident })
  ∧ (∀ s c base, cluAlive s c = true → base % 4096 = 0 →
      (base ∉ s.frz.slots → exec (.discard c base) s = .next (wakeAll (fzRefuse s c 6)))
      ∧ ∀ im, base ∈ s.frz.slots → (s.frz.images.find? fun im => im.base == base) = some im →
        ∃ u, exec (.discard c base) s = .next (wakeAll u) ∧ (∀ y ∈ u.frz.images, y.lclu ≠ im.lclu)
          ∧ ∀ g ∈ im.gangs, (s.task? g.slot).isSome = true → ∀ y, u.gang? g = some y → y.killed.isSome = true ∨ u.task? g.slot = none)

/-- Checkpoints (R398 to R405). A command that is refused says why and writes nothing. TAKE of one tensor that has no shard yet places a base shard in
the first pool with room, found there again with the slice's bytes; the slice's lines lose their marks and no byte of device memory changes. Shard data for
another device goes there in packets, and the TAKE ends once it has been acknowledged: its entry is valid, and marks go, only then. LOAD of
one tensor puts the bytes that its regions give into its slice and changes no other byte; that a command is one step is the model's choice
(notes/assumptions/9). Recording partitions, their TAIL and chunk breakpoints (R359, R360, R373, R374, R378): switched on to record, a partition emits
an origin first; to replay, it takes its log from its ring or halts. While it is on, a write does nothing but switch it off. TAIL moves only forward,
to a frame boundary, no farther than HEAD. A breakpoint needs a capability with the REPLAY right over every queue. -/
def Obligations.PartitionsAndCheckpoints : Prop :=
  ((∀ s r, s.ck.go = true → let c := readCmd s s.ck.cmd
       ckRefusal s c = some r →
       (c.op ≠ 2 → s.ck.pending = none → exec .take s = .next { s with ck := { s.ck with go := false, state := 3, reason := r, nshard := 0 } })
       ∧ (c.op = 2 → exec .load s = .next { s with ck := { s.ck with go := false, state := 3, reason := r, nshard := 0 } }))
   ∧ (∀ s tg rest, s.ck.go = true → let c := readCmd s s.ck.cmd
       let t := readTensor s c.ttab
       let m : Memory := s.ck.pools.get (tg.kind, tg.dev, tg.base) []
       let next := poolField s tg 8 8
       let e := poolField s tg 4 4 + 1
       let payload := takeZ ((t.bytes + 127) / 128 * 128) (s.mem.getN t.pa t.bytes)
       c.op = 1 → ckRefusal s c = none → c.ntens = 1 → cmdTargets s c = tg :: rest → findShards s (cmdTargets s c) t.id false = some [] →
       s.ck.pending = none → m.wf = true → 65536 ≤ next → e ≤ 2047 → next + 4096 * ((128 + payload.length + 4095) / 4096) ≤ tg.size →
       (tg.kind = 2 → hubOwes s ckKey = false →
         ∃ u x, exec .take s = .next u ∧ u.ck.go = false ∧ u.ck.state = 2 ∧ u.ck.reason = 0 ∧ u.ck.nshard = 1 ∧ u.mem = s.mem
           ∧ (∀ l ∈ sliceLines t, l ∉ u.ck.marks) ∧ (∀ l, l ∉ sliceLines t → (l ∈ u.ck.marks ↔ l ∈ s.ck.marks))
           ∧ readShard u tg t.id true e = some (some x) ∧ x.kind = 1 ∧ x.step = c.step ∧ x.prev = c.step ∧ x.ety = t.ety ∧ x.rank = t.rank
           ∧ x.gext = t.gext ∧ x.sorg = t.sorg ∧ x.sext = t.sext ∧ x.payload = payload)
       ∧ (tg.kind = 1 → tg.dev ≠ s.fab.devno → ∃ u, exec .take s = .next u ∧ u.ck.go = true ∧ u.ck.state = 1 ∧ hubOwes u ckKey = true ∧ u.mem = s.mem
         ∧ u.ck.marks = s.ck.marks ∧ u.ck.pending = some ([(tg.kind, tg.dev, tg.base, e)], sliceLines t)
         ∧ poolField u tg (32 * e + 0x1C) 1 = 0))
   ∧ (∀ s d, s.ck.go = true → (readCmd s s.ck.cmd).op ≠ 2 → s.ck.pending = some d → hubOwes s ckKey = false →
       ∃ u, exec .take s = .next u ∧ u.ck.go = false ∧ u.ck.state = 2 ∧ u.ck.reason = 0 ∧ u.ck.nshard = d.1.length ∧ u.ck.pending = none
         ∧ u.ck.marks = s.ck.marks.filter fun l => !d.2.contains l)
   ∧ (∀ s bs n, s.ck.go = true → let c := readCmd s s.ck.cmd
       let t := readTensor s c.ttab
       c.op = 2 → ckRefusal s c = none → c.ntens = 1 → c.step ≠ 0 →
       (∀ x, loadOneTensor s (cmdTargets s c) c.step t = .error x →
         exec .load s = .next { s with ck := { s.ck with go := false, state := 3, reason := x, nshard := 0 } })
       ∧ (loadOneTensor s (cmdTargets s c) c.step t = .ok (bs, n) → copiesAnswer s (wordsOf t.pa bs.length) = true → s.mem.wf = true →
         ∃ u, exec .load s = .next (wakeAll u) ∧ (∀ k, k < bs.length → u.mem.get (t.pa + k) = bs.getD k 0)
           ∧ (∀ a, a < t.pa ∨ t.pa + bs.length ≤ a → u.mem.get a = s.mem.get a)
           ∧ u.ck = { s.ck with go := false, state := 2, reason := 0, nshard := n })))
  ∧ ((∀ s p (v : Word), p < 8 → let r := rpart s p
         let mode := wbits v 1 0
         let size := wbits v 55 48
         let y := { r with size := size, twin := wbits v 35 18, pair := Sys2Proof.wbit v 17, full := Sys2Proof.wbit v 16, mode := mode }
         let z := { y with halted := false, divergence := [], log := [], compared := 0, ended := 0, unpaired := false, inbox := [], streamed := 0,
                           origPair := false }
         (r.mode ≠ 0 → mode = 0 → exec (.rctlWrite p v) s = .next (wakeAll (setRpart s p { r with mode := 0 })))
         ∧ (r.mode ≠ 0 → mode ≠ 0 → exec (.rctlWrite p v) s = .next s)
         ∧ (r.mode = 0 → size < 4 ∨ size > 128 → exec (.rctlWrite p v) s = .next s)
         ∧ (r.mode = 0 → 4 ≤ size → size ≤ 128 →
           (mode = 0 → exec (.rctlWrite p v) s = .next (wakeAll (setRpart s p y)))
           ∧ (mode ≠ 0 → ringOk s p r.base size = false ∨ queuesFree s p r.qm = false → exec (.rctlWrite p v) s = .next s)
           ∧ (mode ≠ 0 → ringOk s p r.base size = true → queuesFree s p r.qm = true →
             (mode = 1 → ∃ u x, exec (.rctlWrite p v) s = .next (wakeAll u) ∧ rpart u p = { z with unwritten := z.unwritten ++ [x] }
               ∧ fieldOf x.bytes 0 1 = 0xC ∧ fieldOf x.bytes 1 1 = 1 ∧ u.mem = s.mem)
             ∧ (mode = 2 → ∃ u, exec (.rctlWrite p v) s = .next (wakeAll u) ∧ u.mem = s.mem
               ∧ (∀ rows, framesLog (ringFrames s z) = some rows → rpart u p = addLog z rows)
               ∧ (framesLog (ringFrames s z) = none → (rpart u p).halted = true))
             ∧ (mode = 3 → ∃ u, exec (.rctlWrite p v) s = .next (wakeAll u) ∧ rpart u p = z ∧ u.mem = s.mem))))
     ∧ (∀ s p (v : Word), p < 8 → let r := rpart s p
         let size := r.size * 2 ^ 30
         let t := wbits v 36 12 * 4096
         (t < size → (t + size - r.tail) % size ≤ (r.head + size - r.tail) % size →
           exec (.rrtailWrite p v) s = .next (wakeAll (setRpart s p { r with tail := t })))
         ∧ (size ≤ t ∨ (r.head + size - r.tail) % size < (t + size - r.tail) % size → exec (.rrtailWrite p v) s = .next s))
     ∧ (∀ s i (v : Word), i < 128 → (rpart s (i / 16)).mode ≥ 2 → let c := capD s (wbits v 35 28)
         (Sys2Proof.wbit v 63 = true → c.has 5 = false ∨ (∃ q, q < 128 ∧ (rpart s (i / 16)).qm.getLsbD q = true ∧ (s.queueD q).pasid ≠ c.subject) →
           exec (.rbkaWrite i v) s = .next (wakeAll s))
         ∧ (Sys2Proof.wbit v 63 = false ∨ c.has 5 = true ∧ (∀ q, q < 128 → (rpart s (i / 16)).qm.getLsbD q = true → (s.queueD q).pasid = c.subject) →
           ∃ u, exec (.rbkaWrite i v) s = .next (wakeAll u) ∧ u.mem = s.mem ∧ rbkD u (i / 16) (i % 16) =
             { rbkD s (i / 16) (i % 16) with v := Sys2Proof.wbit v 63, all := Sys2Proof.wbit v 62, any := Sys2Proof.wbit v 61, cap := wbits v 35 28, split := wbits v 27 24,
                                             agent := wbits v 23 0 })))

/-- Debug capabilities, samples and watchpoints (R409 to R411, R413, R414, R416, R417). GRANT and DELEGATE take the lowest free entry; a command
without authority changes nothing. REVOKE takes the entry and all that was delegated from it, and disarms what was armed under them. A sample is a
record of 48 bytes at the session's HEAD, or is counted as lost. A match's report is written, and a halting one asks the fragment to halt. -/
def Obligations.DebugAndTrace : Prop :=
  (∀ s pasid, pasid < 2 ^ 20 →
      (∀ i, freeCap s = some i → (∀ k, k < 256 → (capD s k).v = true → (capD s k).root = true → (capD s k).subject ≠ pasid) →
        exec (.grant pasid) s = .next (setCap s i { v := true, root := true, rights := BitVec.allOnes 7, parent := 0, holder := pasid, subject := pasid }))
      ∧ (freeCap s = none ∨ (∃ k, k < 256 ∧ (capD s k).v = true ∧ (capD s k).root = true ∧ (capD s k).subject = pasid) →
        exec (.grant pasid) s = .next s))
  ∧ (∀ s req e h (rights : BitVec 7), e < 256 → h < 2 ^ 20 → let c := capD s e
      let may := c.v = true ∧ c.holder = req ∧ c.has 6 = true ∧ rights &&& ~~~c.rights = 0 ∧ (chainOf s e).length < 8
      (∀ i, freeCap s = some i → may → exec (.delegate req e h rights) s = .next
        (setCap s i { v := true, root := false, rights := rights, parent := e, holder := h, subject := c.subject }))
      ∧ (freeCap s = none ∨ ¬may → exec (.delegate req e h rights) s = .next s))
  ∧ (∀ s req e, e < 256 → let c := capD s e
      let may := c.v = true ∧ (c.subject = req ∨ ∃ i ∈ chainOf s e, (capD s i).holder = req)
      (¬may → exec (.revoke req e) s = .next s)
      ∧ (may → ∃ u, exec (.revoke req e) s = .next (wakeAll u) ∧ (∀ i, i ∈ descendants s e → (capD u i).v = false)
        ∧ (∀ i, i ∉ descendants s e → capD u i = capD s i)
        ∧ (∀ k, (sessD s k).cap ∈ descendants s e → (sessD u k).en = false)
        ∧ (∀ k, (watchD s k).cap ∈ descendants s e → (watchD u k).lines = 0)))
  ∧ (∀ s i p, i < 8 → p < 3584 → let x := sessD s i
      x.en = true → x.sper ≠ 0 → x.kinds.getLsbD 3 = true → (capD s x.cap).has 3 = true → clockRuns s (cluOfCu (cuOfPart p)) = true →
      (sampleFrag s i p = none → exec (.traceSample i p) s = .next s)
      ∧ ∀ g e gr, sampleFrag s i p = some (g, e) → s.group? g = some gr → ∃ t, exec (.traceSample i p) s = .next t ∧ t.groups = s.groups
        ∧ (traceRoom x i = false → t.mem = s.mem ∧ sessD t i = { x with lost := min (x.lost + 1) (2 ^ 32 - 1), dropped := x.dropped + 1 })
        ∧ (traceRoom x i = true → x.dropped = 0 → s.mem.wf = true →
          let at_ := x.base + 48 * (x.head % (2 ^ x.sizelog / 48))
          sessD t i = { x with head := (x.head + 1) % 2 ^ 32 } ∧ (∀ a, a < at_ ∨ at_ + 48 ≤ a → t.mem.get a = s.mem.get a)
          ∧ let b := t.mem.getN at_ 48
            fieldOf b 0 1 = 4 ∧ fieldOf b 1 1 = (gr.ent e).st.num ∧ fieldOf b 2 1 = e % 256 ∧ fieldOf b 4 4 = g % 2 ^ 32
            ∧ fieldOf b 8 8 = (gr.ent e).pc / 8 % 2 ^ 64 ∧ fieldOf b 0x10 12 = (gr.ent e).mask.toNat ∧ fieldOf b 0x1C 4 = (gr.ent e).waitk % 2 ^ 32
            ∧ fieldOf b 0x20 8 = s.plat.time.toNat))
  ∧ (∀ s i m, s.dbg.pending[i]? = some m → let w := watchD s m.wp
      ∃ t, exec (.watchpointReport i) s = .next t ∧ t.dbg.pending = s.dbg.pending.eraseIdx i
        ∧ ((sessD s w.sess).en = false → t.mem = s.mem)
        ∧ (w.act = false → t.groups = s.groups)
        ∧ ∀ g e gr, w.act = true → m.grp = some (g, e) → s.group? g = some gr → mayHalt s w.cap g = true → (gr.ent e).valid = true →
          (gr.ent e).st ≠ .joinWait → (gr.ent e).st ≠ .halted →
          t.group? g = some (gr.updEnt e fun x => { x with haltReq := true, haltOn := some w.cap }))

/-- Operating points, resets, firmware and measurement (R35, R420 to R422, R429 to R433). A change of point within the policy comes into force when it
completes; a limit lowers the point by one, and a cap that P3 cannot meet holds back new gangs. A reset leaves nothing of what ran, and host memory as
it was; an accepted update runs from then on; a start-up step that fails, or a refused image, leaves the device in recovery. -/
def Obligations.PlatformEvents : Prop :=
  (∀ s p, p ≤ 3 → s.plat.ptop ≤ p → p ≠ s.plat.pnow → s.plat.changing = none → s.plat.failed = false →
      exec (.operatingPointChange p) s = .next { s with plat := { s.plat with changing := some p } })
  ∧ (∀ s p, s.plat.changing = some p →
      exec .changeOfPointComplete s = .next { s with plat := { s.plat with pnow := p, changing := none } })
  ∧ (∀ s, let p := max s.plat.pnow (s.plat.changing.getD 0)
      let low : State := if p ≥ 3 then s else { s with plat := { s.plat with changing := some (p + 1) } }
      exec (.powerLimit .railCurrent) s = .next low ∧ exec (.powerLimit .temperature) s = .next low
      ∧ (s.plat.pnow ≠ 3 → exec (.powerLimit .averageCap) s = .next low)
      ∧ (s.plat.pnow = 3 → exec (.powerLimit .averageCap) s = .next { s with plat := { s.plat with capHold := true } })
      ∧ exec (.powerLimit .belowCap) s = .next { s with plat := { s.plat with capHold := false } })
  ∧ (∀ s fail img, let clean := fun (t : State) => t.groups = [] ∧ t.blocks = [] ∧ t.gangs = [] ∧ t.tasks = [] ∧ t.insts = [] ∧ t.mx = []
        ∧ t.cur = none ∧ t.disp = State.reset.disp ∧ t.m = State.reset.m ∧ t.fab = State.reset.fab ∧ t.damask = State.reset.damask
        ∧ t.frz = State.reset.frz ∧ t.dbg = State.reset.dbg ∧ t.ck.marks = [] ∧ t.ck.go = false ∧ t.hostMem = s.hostMem
        ∧ t.plat.failed = false ∧ t.plat.time = 0 ∧ t.plat.staged = none
      (∃ t, exec .reset s = .next t ∧ clean t
        ∧ (s.plat.staged = none → t.plat.svn = s.plat.svn ∧ t.plat.version = s.plat.version ∧ t.plat.minSvn = max s.plat.minSvn s.plat.svn
          ∧ t.plat.recovery = s.plat.recovery)
        ∧ ∀ i, s.plat.staged = some i → t.plat.svn = i.svn ∧ t.plat.version = i.version ∧ t.plat.minSvn = max s.plat.minSvn i.svn
          ∧ t.plat.recovery = false)
      ∧ (imageConsistent img = true → (fail = none ∨ ∃ n, fail = some n ∧ 1 ≤ n ∧ n ≤ 7) → ∃ t, exec (.powerOn fail img) s = .next t ∧ clean t
        ∧ (fail = none → imageAccepted img s.plat.minSvn = true →
          t.plat.svn = img.svn ∧ t.plat.minSvn = max s.plat.minSvn img.svn ∧ t.plat.recovery = false)
        ∧ (fail ≠ none ∨ imageAccepted img s.plat.minSvn = false → t.plat.recovery = true ∧ t.plat.minSvn = s.plat.minSvn))
      ∧ (imageConsistent img = true → imageAccepted img s.plat.minSvn = true →
        exec (.firmwareUpdate img) s = .next { s with plat := { s.plat with staged := some img } })
      ∧ (imageConsistent img = true → imageAccepted img s.plat.minSvn = false → exec (.firmwareUpdate img) s = .next s))
  ∧ (∀ s idx nonce, 1 ≤ idx → idx ≤ 5 → ∃ t x, exec (.spdmMeasurementRequest idx nonce) s = .next t
      ∧ t = { s with plat := { s.plat with measured := x :: s.plat.measured } } ∧ x.1 = idx ∧ x.2.1 = nonce
      ∧ (idx = 3 → x.2.2 = leBytes 2 s.plat.svn ++ leBytes 8 s.plat.minSvn))

/-- Writes of the hub's registers (R3, R36, R85, R106, R327, R337, R345, R346, R359, R384, R400, R422, R435). A field outside its limit leaves the whole
register as it was, as does a write to a register that its enable locks, or that is read-only; one that takes a write reads back as written. Every
register without an action of its own accepts a write, which changes no byte of memory and no group, and, but for the routes of the fabric, no task. A queue that is disabled keeps its parse
and what awaits parse, whose records are then refused. -/
def Obligations.HubRegisters : Prop :=
  (∀ s q (v : Word), q < 128 → let x := s.queueD q
      (x.en = true → Sys2Proof.wbit v 0 = true → exec (.qctlWrite q v) s = .next (wakeAll (s.setQueue q { x with irq := Sys2Proof.wbit v 1 })))
      ∧ (x.en = true → Sys2Proof.wbit v 0 = false → ∃ u, exec (.qctlWrite q v) s = .next (wakeAll u) ∧ (u.queueD q).en = false
        ∧ (u.queueD q).spawned = x.spawned.map (fun r => { r with dead := true }) ∧ (u.queueD q).parse = x.parse)
      ∧ (x.en = false → wbits v 43 40 < 4 ∨ wbits v 43 40 > 12 ∨ wbits v 39 36 > 10 ∨ wbits v 35 32 = 0 → exec (.qctlWrite q v) s = .next s)
      ∧ (x.en = false → 4 ≤ wbits v 43 40 → wbits v 43 40 ≤ 12 → wbits v 39 36 ≤ 10 → wbits v 35 32 ≠ 0 →
        ∃ u, exec (.qctlWrite q v) s = .next (wakeAll u) ∧ (∀ n, n ≠ q → u.queueD n = s.queueD n)
          ∧ let y := u.queueD q
            y.en = Sys2Proof.wbit v 0 ∧ y.irq = Sys2Proof.wbit v 1 ∧ y.cls = wbits v 31 30 ∧ y.weight = wbits v 35 32 ∧ y.slotlog = wbits v 43 40
            ∧ y.pasid = (if queuePending s q then x.pasid else wbits v 63 44) ∧ y.cmplog = (if queuePending s q then x.cmplog else wbits v 39 36)
            ∧ y.win = x.win ∧ y.cmp = x.cmp ∧ y.head = x.head ∧ (Sys2Proof.wbit v 0 = true → y.seqExp = 1)))
  ∧ (∀ s n (v : Word), n < 128 → let x := s.disp.sets.get n {}
      let k := wbits v 43 40
      (k < 4 ∨ k > 12 ∨ (x.en = true ∧ Sys2Proof.wbit v 0 = true) → exec (.scctlWrite n v) s = .next s)
      ∧ (4 ≤ k → k ≤ 12 → (x.en = false ∨ Sys2Proof.wbit v 0 = false) → ∃ u, exec (.scctlWrite n v) s = .next (wakeAll u)
        ∧ let y := u.disp.sets.get n {}
          y.en = Sys2Proof.wbit v 0 ∧ y.pasid = wbits v 63 44 ∧ y.log = k ∧ y.rqb = x.rqb ∧ y.rpb = x.rpb
          ∧ (Sys2Proof.wbit v 0 = true → y.rqt = 0 ∧ y.rph = 0 ∧ y.rqh = 0 ∧ y.rpt = 0)))
  ∧ (∀ s (v : Word), let t := wbits v 31 16
      let n := wbits v 5 0
      (10 ≤ t → t ≤ 1000 → 1 ≤ n → n ≤ 32 →
        exec (.pgctlWrite v) s = .next { s with m := { s.m with pgpto := t, prgmax := n, rf := s.m.rf && !Sys2Proof.wbit v 15 } })
      ∧ (t < 10 ∨ t > 1000 ∨ n = 0 ∨ n > 32 → exec (.pgctlWrite v) s = .next s)
      ∧ (wbits v 3 0 ≤ 13 → exec (.elringWrite v) s = .next
          { s with plat := { s.plat with elBase := wbits v 56 12 * 4096, elLog := wbits v 3 0, elHead := 0, elTail := 0 } })
      ∧ (wbits v 3 0 > 13 → exec (.elringWrite v) s = .next s)
      ∧ ∃ u, exec (.fcfgWrite v) s = .next (wakeAll u) ∧ u.fab.mesh = Sys2Proof.wbit v 31 ∧ u.fab.en = Sys2Proof.wbit v 30 ∧ u.mem = s.mem
        ∧ u.fab.devno = (if s.fab.en then s.fab.devno else wbits v 17 0)
        ∧ (s.fab.en = true → Sys2Proof.wbit v 30 = false → ∀ p, (u.fab.portD p).up = false))
  ∧ (∀ s r i (v : Word), ownRow r = false → i < regCount r → ∃ u, exec (.registerWrite r i v) s = .next (wakeAll u)
      ∧ u.mem = s.mem ∧ u.hostMem = s.hostMem ∧ u.groups = s.groups ∧ (r ∉ [.fmesh, .devrt, .domrt] → u.tasks = s.tasks)
      ∧ (r ∈ [.scstat, .rtstat, .tlbis, .rrhead, .rfront, .fzstat, .ckstat, .tsstat, .eltail] → u = s)
      ∧ (r ∈ [.qhead, .scrqh, .scrpt, .elhead] → readReg u r i = BitVec.ofNat 64 (wbits v 31 0))
      ∧ (r = .rpart → (rpart s i).mode = 0 → readReg u r i = v)
      ∧ (r = .tlbic → (wbits v 43 42 ≠ 0 → u = s) ∧ (wbits v 43 42 = 0 → s.m.tlbi.busy = false →
          u.m.tlbi = { s.m.tlbi with pasid := wbits v 63 44, count := wbits v 27 0, op := 0 }))
      ∧ (r = .l2pin → (64 < wbits v 7 0 ∨ anyL2 s = true → u = s) ∧ (wbits v 7 0 ≤ 64 → anyL2 s = false → u.m.l2pin = wbits v 7 0))
      ∧ (r = .rtctl → (wbits v 61 60 ≠ 0 → u = s) ∧ (wbits v 61 60 = 0 →
          u.m.retype = { s.m.retype with newct := BitVec.ofNat 2 (wbits v 63 62), count := wbits v 27 0 }))
      ∧ (r = .qhead → (u.queueD i).head = wbits v 31 0)
      ∧ (r = .qwin → (u.queueD i).win = if (s.queueD i).en then (s.queueD i).win else wbits v 56 8 * 256)
      ∧ (r = .scrpt → (u.disp.sets.get i {}).rpt = wbits v 31 0)
      ∧ (r = .devrt → u.fab.devrt.get i 0 = if v.toNat < 2 ^ 24 then BitVec.ofNat 24 v.toNat else s.fab.devrt.get i 0)
      ∧ (r = .ftime → u.fab.fto = if 10 ≤ wbits v 15 0 ∧ wbits v 15 0 ≤ 10000 then wbits v 15 0 else s.fab.fto)
      ∧ (r = .rqmlo ∨ r = .rqmhi ∨ r = .rpart ∨ r = .rrbase → (rpart s i).mode ≠ 0 → u = s)
      ∧ (r = .rpart → (rpart s i).mode = 0 → (rpart u i).id = v)
      ∧ (r = .ckctl → s.ck.go = true → u = s)
      ∧ (r = .ckctl → s.ck.go = false → Sys2Proof.wbit v 0 = true → u.ck.go = true ∧ u.ck.state = 1 ∧ u.ck.cmd = wbits v 56 6 * 64)
      ∧ (r = .tsctl → (sessD u i).en = if (capD s (wbits v 63 56)).has 3 then Sys2Proof.wbit v 0 else (sessD s i).en)
      ∧ (r = .pwrctl → (wbits v 43 32 > 4000 ∨ wbits v 7 4 > 3 → u = s)
        ∧ (wbits v 43 32 ≤ 4000 → wbits v 7 4 ≤ 3 → u.plat.cap = wbits v 43 32 ∧ u.plat.ptop = wbits v 7 4
          ∧ ((s.plat.changing.getD s.plat.pnow) < wbits v 7 4 → u.plat.changing = some (wbits v 7 4)))))

/-- What completes from outside a group (R206, R242, R245, R309). A WAITA on host memory reads its word once more and goes on as the operation then
does. The host performs an AtomicOp: the element becomes the operation's result, no other byte of host or device memory changes, and the old value
reaches the token that waits for it. An MMA that is over leaves the list of jobs; an MLDB that is over also makes its slot loaded. For
a context whose clock is stopped an evaluation, or the data of an MLDB, is parked (R386). -/
def Obligations.OutsideCompletions : Prop :=
  (∀ s g e gr p, s.group? g = some gr → hostWait gr e = some p → groupRuns s gr = true → s.plat.linkUp = true →
      exec (.hostMemoryWaitaEvaluation g e) s = .next (wakeAll (settleRan g e p (runOp s g e p))))
  ∧ (∀ s g e gr p, s.group? g = some gr → hostWait gr e = some p → gr.status ≠ .swapped → groupRuns s gr = false →
      ctxRuns s (lcluOf s gr.block.gang) = false → s.plat.linkUp = true →
      exec (.hostMemoryWaitaEvaluation g e) s = .next (wakeAll (parkWake s g e gr p)))
  ∧ (∀ s r q a l g e data gr, findReq s r = some q → q.accs = a :: l → q.orig = .grp g e → q.kind = .hostAtomic → reqTurn s q = true →
      s.plat.linkUp = true → pcieNext s q = true → slotStalls s (slotOfAgent s g) = false → logValue s g q.split 8 = none → isDev a.pa = false →
      isHostPa a.pa = true → s.hostMem.wf = true → s.group? g = some gr → ctxRuns s (lcluOf s gr.block.gang) = true →
      let old := data.toNat % 2 ^ (8 * a.size)
      ∃ u gr', exec (.pcieCompletion r data) s = .next (afterPerform u) ∧ u.mem = s.mem ∧ findReq u r = none
        ∧ (∀ k, k < a.size → u.hostMem.get (a.pa - 2 ^ 56 + k) = BitVec.ofNat 8 (atomStep q.x q.ty old a.b.toNat a.c.toNat / 2 ^ (8 * k)))
        ∧ (∀ k, k < a.pa - 2 ^ 56 ∨ a.pa - 2 ^ 56 + a.size ≤ k → u.hostMem.get k = s.hostMem.get k)
        ∧ u.group? g = some gr' ∧ gr'.regs = gr.regs
        ∧ gr'.pend = gr.pend.map fun p =>
            if p.wait.contains r then { p with vals := p.vals ++ [(a.lane, BitVec.ofNat 64 old)], wait := p.wait.filter (· != r) } else p)
  ∧ (∀ s l pre j post, let m := s.mxD l
      m.jobs = pre ++ j :: post →
      (coreRuns s l = true → j.mma = true → (∀ x ∈ pre, x.mma = false) →
        exec (.mmaCompletion l) s = .next (wakeAll (s.setMx l { m with jobs := pre ++ post })))
      ∧ (j.mma = false → (∀ x ∈ pre, x.mma = true) → (∀ p ∈ parkedAt s l, p.ev ≠ .mldb l j.bs) →
        (coreRuns s l = true → exec (.mldbCompletion l) s = .next
          (wakeAll (s.setMx l { m with jobs := pre ++ post, b := m.b.put j.bs { m.bD j.bs with loaded := true } })))
        ∧ ∀ t, coreRuns s l = false → j.mem = true → parkAt s l 0 (.mldb l j.bs) = some t → exec (.mldbCompletion l) s = .next t))

/-! ### The whole machine -/

/-- Every step keeps every memory in its canonical form: addresses strictly rising, no byte listed that an unlisted address reads as. The form is the
model's own choice (notes/assumptions/6). -/
def Obligations.MemoriesStayCanonical : Prop :=
  ∀ s t, MemoriesCanonical s → step s = .next t → MemoriesCanonical t

/-- What the machine is after reset (R429, R430): nothing runs and nothing is accepted; every queue, ring set, partition, session and port is off; no
word is held, every frame is RC; the registers have the values the spec's tables give (R85, R86, R222, R296, R327, R337, R344, R346, R359, R422,
R434). Memory lists nothing, which is the model's choice (notes/assumptions/6), and the machine is that after the last step of bring-up
(notes/assumptions/1). -/
def Obligations.ResetState : Prop :=
  MemoriesCanonical State.reset
    ∧ State.reset.groups = [] ∧ State.reset.blocks = [] ∧ State.reset.gangs = [] ∧ State.reset.tasks = [] ∧ State.reset.insts = []
    ∧ (∀ q, State.reset.queueD q = { pasid := 0, slotlog := 4, cmplog := 4, weight := 1, cls := 2, irq := false, en := false, win := 0, cmp := 0, head := 0 })
    ∧ State.reset.disp.clsw = [8, 4, 2, 1] ∧ State.reset.disp.relim = 2 ∧ State.reset.cqnt = [16, 8, 4, 2]
    ∧ (∀ w, tagAt State.reset w = { stamp := 7, hold := false, clm := false, wst := 0, valid := false, dirty := false, owner := 0 })
    ∧ (∀ f, (frameAt State.reset f).ty = 0 ∧ (frameAt State.reset f).ob = false ∧ (frameAt State.reset f).tgen = 0)
    ∧ (∀ w, wstOf State.reset w = 0) ∧ (∀ cu line, l1At State.reset cu line = none)
    ∧ State.reset.m.pgpto = 50 ∧ State.reset.m.rf = false ∧ State.reset.m.prgmax = 16 ∧ State.reset.m.l2pin = 16
    ∧ State.reset.fab.mesh = false ∧ State.reset.fab.en = false ∧ State.reset.fab.devno = 0 ∧ State.reset.fab.age = 48
    ∧ State.reset.fab.vcw = [4, 4, 1, 2] ∧ State.reset.fab.fto = 100 ∧ (∀ p, portLive State.reset.fab p = false)
    ∧ (∀ p, (rpart State.reset p).mode = 0 ∧ (rpart State.reset p).size = 32 ∧ (rpart State.reset p).qm = 0)
    ∧ (∀ c, (cluD State.reset c).state = .idle ∧ (cluD State.reset c).imgbase = 0 ∧ clockRuns State.reset c = true)
    ∧ (∀ i, (capD State.reset i).v = false ∧ (sessD State.reset i).en = false ∧ (watchD State.reset i).lines = 0)
    ∧ State.reset.ck.go = false ∧ State.reset.ck.state = 0 ∧ State.reset.plat.cap = 4000 ∧ State.reset.plat.ptop = 0
    ∧ State.reset.plat.pnow = 0 ∧ State.reset.plat.time = 0 ∧ State.reset.plat.failed = false
end

