-- ==== Sys2Proof/Laws/AList.lean ====
section
/-! SUPPORT. What reading an association list gives after each way of changing it. -/
namespace Sys2Proof.AList
variable {κ α : Type} [DecidableEq κ]

theorem find?_put_self (t : AList κ α) (k : κ) (v : α) : (t.put k v).find? k = some v := by
  induction t with
  | nil => simp [put, find?]
  | cons p t ih =>
    obtain ⟨k', v'⟩ := p
    by_cases h : k' = k <;> simp [put, find?, h, ih]

theorem find?_put_ne (t : AList κ α) {k k' : κ} (v : α) (h : k' ≠ k) : (t.put k v).find? k' = t.find? k' := by
  induction t with
  | nil => simp [put, find?, h.symm]
  | cons p t ih =>
    obtain ⟨a, w⟩ := p
    by_cases ha : a = k
    · subst ha; simp [put, find?, h.symm]
    · by_cases hb : a = k'
      · subst hb; simp [put, find?, ha]
      · simp [put, find?, ha, hb, ih]

theorem find?_put (t : AList κ α) (k k' : κ) (v : α) : (t.put k v).find? k' = if k' = k then some v else t.find? k' := by
  by_cases h : k' = k
  · subst h; simp [find?_put_self]
  · simp [h, find?_put_ne t v h]

theorem get_put (t : AList κ α) (k k' : κ) (v d : α) : (t.put k v).get k' d = if k' = k then v else t.get k' d := by
  by_cases h : k' = k <;> simp [get, find?_put, h]

theorem find?_upd (t : AList κ α) (k k' : κ) (f : α → α) :
    (t.upd k f).find? k' = if k' = k then (t.find? k).map f else t.find? k' := by
  induction t with
  | nil => simp [upd, find?]
  | cons p t ih =>
    obtain ⟨a, w⟩ := p
    simp only [upd, List.map_cons] at ih ⊢
    by_cases ha : a = k <;> by_cases hb : a = k' <;> by_cases hc : k' = k <;> simp_all [find?]

theorem find?_del (t : AList κ α) (k k' : κ) : (t.del k).find? k' = if k' = k then none else t.find? k' := by
  induction t with
  | nil => simp [del, find?]
  | cons p t ih =>
    obtain ⟨a, w⟩ := p
    simp only [del] at ih ⊢
    by_cases ha : a = k <;> by_cases hb : a = k' <;> by_cases hc : k' = k <;> simp_all [find?]

end Sys2Proof.AList
end

