-- ==== Sys2Proof/Laws/Lanes.lean ====
section
/-! SUPPORT. Lanes of vector registers and masks, and the registers of a clause-local view after each kind of write. -/
namespace Sys2Proof.Machine
open Sys2Proof

/-! ### Lanes -/

@[simp] theorem lane_vec (f : Nat → BitVec 32) (i : Nat) (h : i < 96) : lane (vec f) i = f i := by
  simp [lane, vec, h]

theorem maskFrom_lt (f : Nat → Bool) (n : Nat) : maskFrom f n < 2 ^ n := by
  induction n with
  | zero => simp [maskFrom]
  | succ n ih => simp only [maskFrom, Nat.pow_succ]; split <;> omega

theorem testBit_maskFrom (f : Nat → Bool) (n i : Nat) : (maskFrom f n).testBit i = (decide (i < n) && f i) := by
  induction n with
  | zero => simp [maskFrom]
  | succ n ih =>
    have hlt := maskFrom_lt f n
    have hadd : maskFrom f (n + 1) = maskFrom f n ||| (if f n then 2 ^ n else 0) := by
      simp only [maskFrom]
      split
      · rw [Nat.add_comm, Nat.or_comm, ← Nat.mul_one (2 ^ n), Nat.two_pow_add_eq_or_of_lt hlt]
      · simp
    rw [hadd, Nat.testBit_or, ih]
    by_cases h : i = n
    · subst h; cases f i <;> simp [Nat.testBit_two_pow_self]
    · have : (if f n = true then 2 ^ n else 0).testBit i = false := by
        split
        · exact Nat.testBit_two_pow_of_ne (Ne.symm h)
        · simp
      rw [this, Bool.or_false]
      by_cases h2 : i < n
      · simp [h2, show i < n + 1 by omega]
      · simp [h2, show ¬ i < n + 1 by omega]

@[simp] theorem getLsbD_maskOf (f : Nat → Bool) (i : Nat) : (maskOf f).getLsbD i = (decide (i < 96) && f i) := by
  simp only [maskOf, BitVec.getLsbD_ofNat, testBit_maskFrom]
  cases decide (i < 96) <;> simp

@[simp] theorem maskWord_setMaskWord_same (m : Mask) (b : Nat) (w : BitVec 32) (h : b < 3) :
    maskWord (setMaskWord m b w) b = w := by
  ext i hi
  simp only [maskWord, setMaskWord, BitVec.getElem_extractLsb', getLsbD_maskOf]
  have h1 : (32 * b + i) / 32 = b := by omega
  have h2 : (32 * b + i) % 32 = i := by omega
  have h3 : 32 * b + i < 96 := by omega
  simp [h1, h2, h3, BitVec.getLsbD_eq_getElem hi]

@[simp] theorem maskWord_setMaskWord_ne (m : Mask) (b b' : Nat) (w : BitVec 32) (h : b' ≠ b) :
    maskWord (setMaskWord m b w) b' = maskWord m b' := by
  ext i hi
  simp only [maskWord, setMaskWord, BitVec.getElem_extractLsb', getLsbD_maskOf]
  have h1 : (32 * b' + i) / 32 = b' := by omega
  simp only [h1, h, if_false]
  by_cases h3 : 32 * b' + i < 96
  · simp [h3]
  · simp [h3, BitVec.getLsbD_of_ge m (32 * b' + i) (by omega)]

/-! ### Registers -/

namespace Regs
@[simp] theorem getV_setV (r : Regs) (n k : Nat) (x : VReg) : (r.setV n x).getV k = if k = n then x else r.getV k := AList.get_put ..
@[simp] theorem getS_setS (r : Regs) (n k : Nat) (x : Word) : (r.setS n x).getS k = if k = n then x else r.getS k := AList.get_put ..
@[simp] theorem getS_setV (r : Regs) (n k : Nat) (x : VReg) : (r.setV n x).getS k = r.getS k := rfl
@[simp] theorem getQ_setV (r : Regs) (n k : Nat) (x : VReg) : (r.setV n x).getQ k = r.getQ k := rfl
@[simp] theorem getV_setS (r : Regs) (n k : Nat) (x : Word) : (r.setS n x).getV k = r.getV k := rfl
@[simp] theorem getQ_setS (r : Regs) (n k : Nat) (x : Word) : (r.setS n x).getQ k = r.getQ k := rfl
@[simp] theorem getV_setQ (r : Regs) (n k : Nat) (x : Mask) : (r.setQ n x).getV k = r.getV k := rfl
@[simp] theorem getS_setQ (r : Regs) (n k : Nat) (x : Mask) : (r.setQ n x).getS k = r.getS k := rfl
theorem getQ_setQ (r : Regs) (n k : Nat) (x : Mask) (h : n ≠ 15) : (r.setQ n x).getQ k = if k = n then x else r.getQ k := by
  simp only [getQ, setQ, AList.get_put]
  by_cases hk : k = 15
  · simp [hk, h.symm]
  · simp [hk]
end Regs

/-! ### Fields of the context after each write -/

section
variable (c : Ctx) (i : Instr) (l : Option Latch) (gr : Group)

@[simp] theorem finish_entry : (c.finish i l).entry = c.entry := rfl
@[simp] theorem finish_addr : (c.finish i l).addr = c.addr := rfl
@[simp] theorem finish_hdr : (c.finish i l).hdr = c.hdr := rfl
@[simp] theorem finish_words : (c.finish i l).words = c.words := rfl
@[simp] theorem finish_slot : (c.finish i l).slot = c.slot + 1 := rfl
@[simp] theorem finish_mask : (c.finish i l).mask = c.mask := rfl
@[simp] theorem finish_am : (c.finish i l).am = c.am := rfl
@[simp] theorem finish_amDirty : (c.finish i l).amDirty = c.amDirty := rfl
@[simp] theorem finish_cc : (c.finish i l).cc = c.cc := rfl
@[simp] theorem finish_ccSlot : (c.finish i l).ccSlot = c.ccSlot := rfl
@[simp] theorem finish_view : (c.finish i l).view = c.view := rfl
@[simp] theorem finish_sWritten : (c.finish i l).sWritten = c.sWritten := rfl
@[simp] theorem finish_stores : (c.finish i l).stores = c.stores := rfl
@[simp] theorem finish_tsts : (c.finish i l).tsts = c.tsts := rfl
@[simp] theorem finish_tops : (c.finish i l).tops = c.tops := rfl
@[simp] theorem finish_csrw : (c.finish i l).csrw = c.csrw := rfl
@[simp] theorem finish_marks : (c.finish i l).marks = c.marks := rfl
@[simp] theorem finish_rs : (c.finish i l).rs = c.rs := rfl
@[simp] theorem finish_outs : (c.finish i l).outs = c.outs := rfl
@[simp] theorem finish_faults : (c.finish i l).faults = c.faults := rfl
@[simp] theorem finish_wait : (c.finish i l).wait = c.wait := rfl
@[simp] theorem finish_ops : (c.finish i l).ops = c.ops ++ [i.opcode] := rfl
@[simp] theorem finish_obsSib : (c.finish i l).obsSib = c.obsSib := rfl
@[simp] theorem finish_tail : (c.finish i l).tail = c.tail := rfl

end

end Sys2Proof.Machine
end

