-- ==== Sys2Proof/Laws/State.lean ====
section
/-! SUPPORT. Each field of the state after each named update: one lemma a field, so that no proof unfolds a record update. -/
namespace Sys2Proof.Machine
open Sys2Proof
variable (s : State)

@[simp] theorem updGroup_agenda (g : Nat) (f : Group → Group) : (s.updGroup g f).agenda = s.agenda := rfl
@[simp] theorem updGroup_cur (g : Nat) (f : Group → Group) : (s.updGroup g f).cur = s.cur := rfl
@[simp] theorem updGroup_free (g : Nat) (f : Group → Group) : (s.updGroup g f).free = s.free := rfl
@[simp] theorem updGroup_ids (g : Nat) (f : Group → Group) : (s.updGroup g f).ids = s.ids := rfl
@[simp] theorem updGroup_mem (g : Nat) (f : Group → Group) : (s.updGroup g f).mem = s.mem := rfl
@[simp] theorem updGroup_hostMem (g : Nat) (f : Group → Group) : (s.updGroup g f).hostMem = s.hostMem := rfl
@[simp] theorem updGroup_hbm (g : Nat) (f : Group → Group) : (s.updGroup g f).hbm = s.hbm := rfl
@[simp] theorem updGroup_parity (g : Nat) (f : Group → Group) : (s.updGroup g f).parity = s.parity := rfl
@[simp] theorem updGroup_groups (g : Nat) (f : Group → Group) : (s.updGroup g f).groups = s.groups.upd g f := rfl
@[simp] theorem updGroup_blocks (g : Nat) (f : Group → Group) : (s.updGroup g f).blocks = s.blocks := rfl
@[simp] theorem updGroup_gangs (g : Nat) (f : Group → Group) : (s.updGroup g f).gangs = s.gangs := rfl
@[simp] theorem updGroup_tasks (g : Nat) (f : Group → Group) : (s.updGroup g f).tasks = s.tasks := rfl
@[simp] theorem updGroup_disp (g : Nat) (f : Group → Group) : (s.updGroup g f).disp = s.disp := rfl
@[simp] theorem updGroup_m (g : Nat) (f : Group → Group) : (s.updGroup g f).m = s.m := rfl
@[simp] theorem updGroup_insts (g : Nat) (f : Group → Group) : (s.updGroup g f).insts = s.insts := rfl
@[simp] theorem updGroup_copyArb (g : Nat) (f : Group → Group) : (s.updGroup g f).copyArb = s.copyArb := rfl
@[simp] theorem updGroup_cqnt (g : Nat) (f : Group → Group) : (s.updGroup g f).cqnt = s.cqnt := rfl
@[simp] theorem updGroup_mx (g : Nat) (f : Group → Group) : (s.updGroup g f).mx = s.mx := rfl
@[simp] theorem updGroup_fab (g : Nat) (f : Group → Group) : (s.updGroup g f).fab = s.fab := rfl
@[simp] theorem updGroup_damask (g : Nat) (f : Group → Group) : (s.updGroup g f).damask = s.damask := rfl
@[simp] theorem updGroup_frz (g : Nat) (f : Group → Group) : (s.updGroup g f).frz = s.frz := rfl
@[simp] theorem updGroup_ck (g : Nat) (f : Group → Group) : (s.updGroup g f).ck = s.ck := rfl
@[simp] theorem updGroup_dbg (g : Nat) (f : Group → Group) : (s.updGroup g f).dbg = s.dbg := rfl
@[simp] theorem updGroup_plat (g : Nat) (f : Group → Group) : (s.updGroup g f).plat = s.plat := rfl

@[simp] theorem setCtx_agenda (g : Nat) (c : Option Ctx) : (s.setCtx g c).agenda = s.agenda := rfl
@[simp] theorem setCtx_cur (g : Nat) (c : Option Ctx) : (s.setCtx g c).cur = s.cur := rfl
@[simp] theorem setCtx_free (g : Nat) (c : Option Ctx) : (s.setCtx g c).free = s.free := rfl
@[simp] theorem setCtx_ids (g : Nat) (c : Option Ctx) : (s.setCtx g c).ids = s.ids := rfl
@[simp] theorem setCtx_mem (g : Nat) (c : Option Ctx) : (s.setCtx g c).mem = s.mem := rfl
@[simp] theorem setCtx_hostMem (g : Nat) (c : Option Ctx) : (s.setCtx g c).hostMem = s.hostMem := rfl
@[simp] theorem setCtx_hbm (g : Nat) (c : Option Ctx) : (s.setCtx g c).hbm = s.hbm := rfl
@[simp] theorem setCtx_parity (g : Nat) (c : Option Ctx) : (s.setCtx g c).parity = s.parity := rfl
@[simp] theorem setCtx_groups (g : Nat) (c : Option Ctx) : (s.setCtx g c).groups = s.groups.upd g fun gr => { gr with ctx := c } := rfl
@[simp] theorem setCtx_blocks (g : Nat) (c : Option Ctx) : (s.setCtx g c).blocks = s.blocks := rfl
@[simp] theorem setCtx_gangs (g : Nat) (c : Option Ctx) : (s.setCtx g c).gangs = s.gangs := rfl
@[simp] theorem setCtx_tasks (g : Nat) (c : Option Ctx) : (s.setCtx g c).tasks = s.tasks := rfl
@[simp] theorem setCtx_disp (g : Nat) (c : Option Ctx) : (s.setCtx g c).disp = s.disp := rfl
@[simp] theorem setCtx_m (g : Nat) (c : Option Ctx) : (s.setCtx g c).m = s.m := rfl
@[simp] theorem setCtx_insts (g : Nat) (c : Option Ctx) : (s.setCtx g c).insts = s.insts := rfl
@[simp] theorem setCtx_copyArb (g : Nat) (c : Option Ctx) : (s.setCtx g c).copyArb = s.copyArb := rfl
@[simp] theorem setCtx_cqnt (g : Nat) (c : Option Ctx) : (s.setCtx g c).cqnt = s.cqnt := rfl
@[simp] theorem setCtx_mx (g : Nat) (c : Option Ctx) : (s.setCtx g c).mx = s.mx := rfl
@[simp] theorem setCtx_fab (g : Nat) (c : Option Ctx) : (s.setCtx g c).fab = s.fab := rfl
@[simp] theorem setCtx_damask (g : Nat) (c : Option Ctx) : (s.setCtx g c).damask = s.damask := rfl
@[simp] theorem setCtx_frz (g : Nat) (c : Option Ctx) : (s.setCtx g c).frz = s.frz := rfl
@[simp] theorem setCtx_ck (g : Nat) (c : Option Ctx) : (s.setCtx g c).ck = s.ck := rfl
@[simp] theorem setCtx_dbg (g : Nat) (c : Option Ctx) : (s.setCtx g c).dbg = s.dbg := rfl
@[simp] theorem setCtx_plat (g : Nat) (c : Option Ctx) : (s.setCtx g c).plat = s.plat := rfl

@[simp] theorem updBlock_agenda (b : BlockId) (f : Block → Block) : (s.updBlock b f).agenda = s.agenda := rfl
@[simp] theorem updBlock_cur (b : BlockId) (f : Block → Block) : (s.updBlock b f).cur = s.cur := rfl
@[simp] theorem updBlock_free (b : BlockId) (f : Block → Block) : (s.updBlock b f).free = s.free := rfl
@[simp] theorem updBlock_ids (b : BlockId) (f : Block → Block) : (s.updBlock b f).ids = s.ids := rfl
@[simp] theorem updBlock_mem (b : BlockId) (f : Block → Block) : (s.updBlock b f).mem = s.mem := rfl
@[simp] theorem updBlock_hostMem (b : BlockId) (f : Block → Block) : (s.updBlock b f).hostMem = s.hostMem := rfl
@[simp] theorem updBlock_hbm (b : BlockId) (f : Block → Block) : (s.updBlock b f).hbm = s.hbm := rfl
@[simp] theorem updBlock_parity (b : BlockId) (f : Block → Block) : (s.updBlock b f).parity = s.parity := rfl
@[simp] theorem updBlock_groups (b : BlockId) (f : Block → Block) : (s.updBlock b f).groups = s.groups := rfl
@[simp] theorem updBlock_blocks (b : BlockId) (f : Block → Block) : (s.updBlock b f).blocks = s.blocks.upd b f := rfl
@[simp] theorem updBlock_gangs (b : BlockId) (f : Block → Block) : (s.updBlock b f).gangs = s.gangs := rfl
@[simp] theorem updBlock_tasks (b : BlockId) (f : Block → Block) : (s.updBlock b f).tasks = s.tasks := rfl
@[simp] theorem updBlock_disp (b : BlockId) (f : Block → Block) : (s.updBlock b f).disp = s.disp := rfl
@[simp] theorem updBlock_m (b : BlockId) (f : Block → Block) : (s.updBlock b f).m = s.m := rfl
@[simp] theorem updBlock_insts (b : BlockId) (f : Block → Block) : (s.updBlock b f).insts = s.insts := rfl
@[simp] theorem updBlock_copyArb (b : BlockId) (f : Block → Block) : (s.updBlock b f).copyArb = s.copyArb := rfl
@[simp] theorem updBlock_cqnt (b : BlockId) (f : Block → Block) : (s.updBlock b f).cqnt = s.cqnt := rfl
@[simp] theorem updBlock_mx (b : BlockId) (f : Block → Block) : (s.updBlock b f).mx = s.mx := rfl
@[simp] theorem updBlock_fab (b : BlockId) (f : Block → Block) : (s.updBlock b f).fab = s.fab := rfl
@[simp] theorem updBlock_damask (b : BlockId) (f : Block → Block) : (s.updBlock b f).damask = s.damask := rfl
@[simp] theorem updBlock_frz (b : BlockId) (f : Block → Block) : (s.updBlock b f).frz = s.frz := rfl
@[simp] theorem updBlock_ck (b : BlockId) (f : Block → Block) : (s.updBlock b f).ck = s.ck := rfl
@[simp] theorem updBlock_dbg (b : BlockId) (f : Block → Block) : (s.updBlock b f).dbg = s.dbg := rfl
@[simp] theorem updBlock_plat (b : BlockId) (f : Block → Block) : (s.updBlock b f).plat = s.plat := rfl

@[simp] theorem updGang_agenda (g : GId) (f : Gang → Gang) : (s.updGang g f).agenda = s.agenda := rfl
@[simp] theorem updGang_cur (g : GId) (f : Gang → Gang) : (s.updGang g f).cur = s.cur := rfl
@[simp] theorem updGang_free (g : GId) (f : Gang → Gang) : (s.updGang g f).free = s.free := rfl
@[simp] theorem updGang_ids (g : GId) (f : Gang → Gang) : (s.updGang g f).ids = s.ids := rfl
@[simp] theorem updGang_mem (g : GId) (f : Gang → Gang) : (s.updGang g f).mem = s.mem := rfl
@[simp] theorem updGang_hostMem (g : GId) (f : Gang → Gang) : (s.updGang g f).hostMem = s.hostMem := rfl
@[simp] theorem updGang_hbm (g : GId) (f : Gang → Gang) : (s.updGang g f).hbm = s.hbm := rfl
@[simp] theorem updGang_parity (g : GId) (f : Gang → Gang) : (s.updGang g f).parity = s.parity := rfl
@[simp] theorem updGang_groups (g : GId) (f : Gang → Gang) : (s.updGang g f).groups = s.groups := rfl
@[simp] theorem updGang_blocks (g : GId) (f : Gang → Gang) : (s.updGang g f).blocks = s.blocks := rfl
@[simp] theorem updGang_gangs (g : GId) (f : Gang → Gang) : (s.updGang g f).gangs = s.gangs.upd g f := rfl
@[simp] theorem updGang_tasks (g : GId) (f : Gang → Gang) : (s.updGang g f).tasks = s.tasks := rfl
@[simp] theorem updGang_disp (g : GId) (f : Gang → Gang) : (s.updGang g f).disp = s.disp := rfl
@[simp] theorem updGang_m (g : GId) (f : Gang → Gang) : (s.updGang g f).m = s.m := rfl
@[simp] theorem updGang_insts (g : GId) (f : Gang → Gang) : (s.updGang g f).insts = s.insts := rfl
@[simp] theorem updGang_copyArb (g : GId) (f : Gang → Gang) : (s.updGang g f).copyArb = s.copyArb := rfl
@[simp] theorem updGang_cqnt (g : GId) (f : Gang → Gang) : (s.updGang g f).cqnt = s.cqnt := rfl
@[simp] theorem updGang_mx (g : GId) (f : Gang → Gang) : (s.updGang g f).mx = s.mx := rfl
@[simp] theorem updGang_fab (g : GId) (f : Gang → Gang) : (s.updGang g f).fab = s.fab := rfl
@[simp] theorem updGang_damask (g : GId) (f : Gang → Gang) : (s.updGang g f).damask = s.damask := rfl
@[simp] theorem updGang_frz (g : GId) (f : Gang → Gang) : (s.updGang g f).frz = s.frz := rfl
@[simp] theorem updGang_ck (g : GId) (f : Gang → Gang) : (s.updGang g f).ck = s.ck := rfl
@[simp] theorem updGang_dbg (g : GId) (f : Gang → Gang) : (s.updGang g f).dbg = s.dbg := rfl
@[simp] theorem updGang_plat (g : GId) (f : Gang → Gang) : (s.updGang g f).plat = s.plat := rfl

@[simp] theorem updTask_agenda (t : Nat) (f : Task → Task) : (s.updTask t f).agenda = s.agenda := rfl
@[simp] theorem updTask_cur (t : Nat) (f : Task → Task) : (s.updTask t f).cur = s.cur := rfl
@[simp] theorem updTask_free (t : Nat) (f : Task → Task) : (s.updTask t f).free = s.free := rfl
@[simp] theorem updTask_ids (t : Nat) (f : Task → Task) : (s.updTask t f).ids = s.ids := rfl
@[simp] theorem updTask_mem (t : Nat) (f : Task → Task) : (s.updTask t f).mem = s.mem := rfl
@[simp] theorem updTask_hostMem (t : Nat) (f : Task → Task) : (s.updTask t f).hostMem = s.hostMem := rfl
@[simp] theorem updTask_hbm (t : Nat) (f : Task → Task) : (s.updTask t f).hbm = s.hbm := rfl
@[simp] theorem updTask_parity (t : Nat) (f : Task → Task) : (s.updTask t f).parity = s.parity := rfl
@[simp] theorem updTask_groups (t : Nat) (f : Task → Task) : (s.updTask t f).groups = s.groups := rfl
@[simp] theorem updTask_blocks (t : Nat) (f : Task → Task) : (s.updTask t f).blocks = s.blocks := rfl
@[simp] theorem updTask_gangs (t : Nat) (f : Task → Task) : (s.updTask t f).gangs = s.gangs := rfl
@[simp] theorem updTask_tasks (t : Nat) (f : Task → Task) : (s.updTask t f).tasks = s.tasks.upd t f := rfl
@[simp] theorem updTask_disp (t : Nat) (f : Task → Task) : (s.updTask t f).disp = s.disp := rfl
@[simp] theorem updTask_m (t : Nat) (f : Task → Task) : (s.updTask t f).m = s.m := rfl
@[simp] theorem updTask_insts (t : Nat) (f : Task → Task) : (s.updTask t f).insts = s.insts := rfl
@[simp] theorem updTask_copyArb (t : Nat) (f : Task → Task) : (s.updTask t f).copyArb = s.copyArb := rfl
@[simp] theorem updTask_cqnt (t : Nat) (f : Task → Task) : (s.updTask t f).cqnt = s.cqnt := rfl
@[simp] theorem updTask_mx (t : Nat) (f : Task → Task) : (s.updTask t f).mx = s.mx := rfl
@[simp] theorem updTask_fab (t : Nat) (f : Task → Task) : (s.updTask t f).fab = s.fab := rfl
@[simp] theorem updTask_damask (t : Nat) (f : Task → Task) : (s.updTask t f).damask = s.damask := rfl
@[simp] theorem updTask_frz (t : Nat) (f : Task → Task) : (s.updTask t f).frz = s.frz := rfl
@[simp] theorem updTask_ck (t : Nat) (f : Task → Task) : (s.updTask t f).ck = s.ck := rfl
@[simp] theorem updTask_dbg (t : Nat) (f : Task → Task) : (s.updTask t f).dbg = s.dbg := rfl
@[simp] theorem updTask_plat (t : Nat) (f : Task → Task) : (s.updTask t f).plat = s.plat := rfl

@[simp] theorem setQueue_agenda (q : Nat) (x : Queue) : (s.setQueue q x).agenda = s.agenda := rfl
@[simp] theorem setQueue_cur (q : Nat) (x : Queue) : (s.setQueue q x).cur = s.cur := rfl
@[simp] theorem setQueue_free (q : Nat) (x : Queue) : (s.setQueue q x).free = s.free := rfl
@[simp] theorem setQueue_ids (q : Nat) (x : Queue) : (s.setQueue q x).ids = s.ids := rfl
@[simp] theorem setQueue_mem (q : Nat) (x : Queue) : (s.setQueue q x).mem = s.mem := rfl
@[simp] theorem setQueue_hostMem (q : Nat) (x : Queue) : (s.setQueue q x).hostMem = s.hostMem := rfl
@[simp] theorem setQueue_hbm (q : Nat) (x : Queue) : (s.setQueue q x).hbm = s.hbm := rfl
@[simp] theorem setQueue_parity (q : Nat) (x : Queue) : (s.setQueue q x).parity = s.parity := rfl
@[simp] theorem setQueue_groups (q : Nat) (x : Queue) : (s.setQueue q x).groups = s.groups := rfl
@[simp] theorem setQueue_blocks (q : Nat) (x : Queue) : (s.setQueue q x).blocks = s.blocks := rfl
@[simp] theorem setQueue_gangs (q : Nat) (x : Queue) : (s.setQueue q x).gangs = s.gangs := rfl
@[simp] theorem setQueue_tasks (q : Nat) (x : Queue) : (s.setQueue q x).tasks = s.tasks := rfl
@[simp] theorem setQueue_disp (q : Nat) (x : Queue) : (s.setQueue q x).disp = { s.disp with queues := s.disp.queues.put q x } := rfl
@[simp] theorem setQueue_m (q : Nat) (x : Queue) : (s.setQueue q x).m = s.m := rfl
@[simp] theorem setQueue_insts (q : Nat) (x : Queue) : (s.setQueue q x).insts = s.insts := rfl
@[simp] theorem setQueue_copyArb (q : Nat) (x : Queue) : (s.setQueue q x).copyArb = s.copyArb := rfl
@[simp] theorem setQueue_cqnt (q : Nat) (x : Queue) : (s.setQueue q x).cqnt = s.cqnt := rfl
@[simp] theorem setQueue_mx (q : Nat) (x : Queue) : (s.setQueue q x).mx = s.mx := rfl
@[simp] theorem setQueue_fab (q : Nat) (x : Queue) : (s.setQueue q x).fab = s.fab := rfl
@[simp] theorem setQueue_damask (q : Nat) (x : Queue) : (s.setQueue q x).damask = s.damask := rfl
@[simp] theorem setQueue_frz (q : Nat) (x : Queue) : (s.setQueue q x).frz = s.frz := rfl
@[simp] theorem setQueue_ck (q : Nat) (x : Queue) : (s.setQueue q x).ck = s.ck := rfl
@[simp] theorem setQueue_dbg (q : Nat) (x : Queue) : (s.setQueue q x).dbg = s.dbg := rfl
@[simp] theorem setQueue_plat (q : Nat) (x : Queue) : (s.setQueue q x).plat = s.plat := rfl

@[simp] theorem setMx_agenda (l : Nat) (x : Mx) : (s.setMx l x).agenda = s.agenda := rfl
@[simp] theorem setMx_cur (l : Nat) (x : Mx) : (s.setMx l x).cur = s.cur := rfl
@[simp] theorem setMx_free (l : Nat) (x : Mx) : (s.setMx l x).free = s.free := rfl
@[simp] theorem setMx_ids (l : Nat) (x : Mx) : (s.setMx l x).ids = s.ids := rfl
@[simp] theorem setMx_mem (l : Nat) (x : Mx) : (s.setMx l x).mem = s.mem := rfl
@[simp] theorem setMx_hostMem (l : Nat) (x : Mx) : (s.setMx l x).hostMem = s.hostMem := rfl
@[simp] theorem setMx_hbm (l : Nat) (x : Mx) : (s.setMx l x).hbm = s.hbm := rfl
@[simp] theorem setMx_parity (l : Nat) (x : Mx) : (s.setMx l x).parity = s.parity := rfl
@[simp] theorem setMx_groups (l : Nat) (x : Mx) : (s.setMx l x).groups = s.groups := rfl
@[simp] theorem setMx_blocks (l : Nat) (x : Mx) : (s.setMx l x).blocks = s.blocks := rfl
@[simp] theorem setMx_gangs (l : Nat) (x : Mx) : (s.setMx l x).gangs = s.gangs := rfl
@[simp] theorem setMx_tasks (l : Nat) (x : Mx) : (s.setMx l x).tasks = s.tasks := rfl
@[simp] theorem setMx_disp (l : Nat) (x : Mx) : (s.setMx l x).disp = s.disp := rfl
@[simp] theorem setMx_m (l : Nat) (x : Mx) : (s.setMx l x).m = s.m := rfl
@[simp] theorem setMx_insts (l : Nat) (x : Mx) : (s.setMx l x).insts = s.insts := rfl
@[simp] theorem setMx_copyArb (l : Nat) (x : Mx) : (s.setMx l x).copyArb = s.copyArb := rfl
@[simp] theorem setMx_cqnt (l : Nat) (x : Mx) : (s.setMx l x).cqnt = s.cqnt := rfl
@[simp] theorem setMx_mx (l : Nat) (x : Mx) : (s.setMx l x).mx = s.mx.put l x := rfl
@[simp] theorem setMx_fab (l : Nat) (x : Mx) : (s.setMx l x).fab = s.fab := rfl
@[simp] theorem setMx_damask (l : Nat) (x : Mx) : (s.setMx l x).damask = s.damask := rfl
@[simp] theorem setMx_frz (l : Nat) (x : Mx) : (s.setMx l x).frz = s.frz := rfl
@[simp] theorem setMx_ck (l : Nat) (x : Mx) : (s.setMx l x).ck = s.ck := rfl
@[simp] theorem setMx_dbg (l : Nat) (x : Mx) : (s.setMx l x).dbg = s.dbg := rfl
@[simp] theorem setMx_plat (l : Nat) (x : Mx) : (s.setMx l x).plat = s.plat := rfl

@[simp] theorem setClu_agenda (c : Nat) (x : Clu) : (setClu s c x).agenda = s.agenda := rfl
@[simp] theorem setClu_cur (c : Nat) (x : Clu) : (setClu s c x).cur = s.cur := rfl
@[simp] theorem setClu_free (c : Nat) (x : Clu) : (setClu s c x).free = s.free := rfl
@[simp] theorem setClu_ids (c : Nat) (x : Clu) : (setClu s c x).ids = s.ids := rfl
@[simp] theorem setClu_mem (c : Nat) (x : Clu) : (setClu s c x).mem = s.mem := rfl
@[simp] theorem setClu_hostMem (c : Nat) (x : Clu) : (setClu s c x).hostMem = s.hostMem := rfl
@[simp] theorem setClu_hbm (c : Nat) (x : Clu) : (setClu s c x).hbm = s.hbm := rfl
@[simp] theorem setClu_parity (c : Nat) (x : Clu) : (setClu s c x).parity = s.parity := rfl
@[simp] theorem setClu_groups (c : Nat) (x : Clu) : (setClu s c x).groups = s.groups := rfl
@[simp] theorem setClu_blocks (c : Nat) (x : Clu) : (setClu s c x).blocks = s.blocks := rfl
@[simp] theorem setClu_gangs (c : Nat) (x : Clu) : (setClu s c x).gangs = s.gangs := rfl
@[simp] theorem setClu_tasks (c : Nat) (x : Clu) : (setClu s c x).tasks = s.tasks := rfl
@[simp] theorem setClu_disp (c : Nat) (x : Clu) : (setClu s c x).disp = s.disp := rfl
@[simp] theorem setClu_m (c : Nat) (x : Clu) : (setClu s c x).m = s.m := rfl
@[simp] theorem setClu_insts (c : Nat) (x : Clu) : (setClu s c x).insts = s.insts := rfl
@[simp] theorem setClu_copyArb (c : Nat) (x : Clu) : (setClu s c x).copyArb = s.copyArb := rfl
@[simp] theorem setClu_cqnt (c : Nat) (x : Clu) : (setClu s c x).cqnt = s.cqnt := rfl
@[simp] theorem setClu_mx (c : Nat) (x : Clu) : (setClu s c x).mx = s.mx := rfl
@[simp] theorem setClu_fab (c : Nat) (x : Clu) : (setClu s c x).fab = s.fab := rfl
@[simp] theorem setClu_damask (c : Nat) (x : Clu) : (setClu s c x).damask = s.damask := rfl
@[simp] theorem setClu_frz (c : Nat) (x : Clu) : (setClu s c x).frz = { s.frz with clus := s.frz.clus.put c x } := rfl
@[simp] theorem setClu_ck (c : Nat) (x : Clu) : (setClu s c x).ck = s.ck := rfl
@[simp] theorem setClu_dbg (c : Nat) (x : Clu) : (setClu s c x).dbg = s.dbg := rfl
@[simp] theorem setClu_plat (c : Nat) (x : Clu) : (setClu s c x).plat = s.plat := rfl

@[simp] theorem freshId_agenda : ((freshId s).2).agenda = s.agenda := rfl
@[simp] theorem freshId_cur : ((freshId s).2).cur = s.cur := rfl
@[simp] theorem freshId_free : ((freshId s).2).free = s.free := rfl
@[simp] theorem freshId_ids : ((freshId s).2).ids = s.ids + 1 := rfl
@[simp] theorem freshId_mem : ((freshId s).2).mem = s.mem := rfl
@[simp] theorem freshId_hostMem : ((freshId s).2).hostMem = s.hostMem := rfl
@[simp] theorem freshId_hbm : ((freshId s).2).hbm = s.hbm := rfl
@[simp] theorem freshId_parity : ((freshId s).2).parity = s.parity := rfl
@[simp] theorem freshId_groups : ((freshId s).2).groups = s.groups := rfl
@[simp] theorem freshId_blocks : ((freshId s).2).blocks = s.blocks := rfl
@[simp] theorem freshId_gangs : ((freshId s).2).gangs = s.gangs := rfl
@[simp] theorem freshId_tasks : ((freshId s).2).tasks = s.tasks := rfl
@[simp] theorem freshId_disp : ((freshId s).2).disp = s.disp := rfl
@[simp] theorem freshId_m : ((freshId s).2).m = s.m := rfl
@[simp] theorem freshId_insts : ((freshId s).2).insts = s.insts := rfl
@[simp] theorem freshId_copyArb : ((freshId s).2).copyArb = s.copyArb := rfl
@[simp] theorem freshId_cqnt : ((freshId s).2).cqnt = s.cqnt := rfl
@[simp] theorem freshId_mx : ((freshId s).2).mx = s.mx := rfl
@[simp] theorem freshId_fab : ((freshId s).2).fab = s.fab := rfl
@[simp] theorem freshId_damask : ((freshId s).2).damask = s.damask := rfl
@[simp] theorem freshId_frz : ((freshId s).2).frz = s.frz := rfl
@[simp] theorem freshId_ck : ((freshId s).2).ck = s.ck := rfl
@[simp] theorem freshId_dbg : ((freshId s).2).dbg = s.dbg := rfl
@[simp] theorem freshId_plat : ((freshId s).2).plat = s.plat := rfl

@[simp] theorem freshFree_agenda : ((freshFree s).2).agenda = s.agenda := rfl
@[simp] theorem freshFree_cur : ((freshFree s).2).cur = s.cur := rfl
@[simp] theorem freshFree_free : ((freshFree s).2).free = s.free + 1 := rfl
@[simp] theorem freshFree_ids : ((freshFree s).2).ids = s.ids := rfl
@[simp] theorem freshFree_mem : ((freshFree s).2).mem = s.mem := rfl
@[simp] theorem freshFree_hostMem : ((freshFree s).2).hostMem = s.hostMem := rfl
@[simp] theorem freshFree_hbm : ((freshFree s).2).hbm = s.hbm := rfl
@[simp] theorem freshFree_parity : ((freshFree s).2).parity = s.parity := rfl
@[simp] theorem freshFree_groups : ((freshFree s).2).groups = s.groups := rfl
@[simp] theorem freshFree_blocks : ((freshFree s).2).blocks = s.blocks := rfl
@[simp] theorem freshFree_gangs : ((freshFree s).2).gangs = s.gangs := rfl
@[simp] theorem freshFree_tasks : ((freshFree s).2).tasks = s.tasks := rfl
@[simp] theorem freshFree_disp : ((freshFree s).2).disp = s.disp := rfl
@[simp] theorem freshFree_m : ((freshFree s).2).m = s.m := rfl
@[simp] theorem freshFree_insts : ((freshFree s).2).insts = s.insts := rfl
@[simp] theorem freshFree_copyArb : ((freshFree s).2).copyArb = s.copyArb := rfl
@[simp] theorem freshFree_cqnt : ((freshFree s).2).cqnt = s.cqnt := rfl
@[simp] theorem freshFree_mx : ((freshFree s).2).mx = s.mx := rfl
@[simp] theorem freshFree_fab : ((freshFree s).2).fab = s.fab := rfl
@[simp] theorem freshFree_damask : ((freshFree s).2).damask = s.damask := rfl
@[simp] theorem freshFree_frz : ((freshFree s).2).frz = s.frz := rfl
@[simp] theorem freshFree_ck : ((freshFree s).2).ck = s.ck := rfl
@[simp] theorem freshFree_dbg : ((freshFree s).2).dbg = s.dbg := rfl
@[simp] theorem freshFree_plat : ((freshFree s).2).plat = s.plat := rfl

/-! ### Looking up what was updated -/

@[simp] theorem group?_updGroup (g g' : Nat) (f : Group → Group) :
    (s.updGroup g f).group? g' = if g' = g then (s.group? g).map f else s.group? g' := AList.find?_upd ..

@[simp] theorem group?_setCtx (g g' : Nat) (c : Option Ctx) :
    (s.setCtx g c).group? g' = if g' = g then (s.group? g).map (fun gr => { gr with ctx := c }) else s.group? g' :=
  group?_updGroup s g g' _

@[simp] theorem block?_updBlock (b b' : BlockId) (f : Block → Block) :
    (s.updBlock b f).block? b' = if b' = b then (s.block? b).map f else s.block? b' := AList.find?_upd ..

@[simp] theorem gang?_updGang (g g' : GId) (f : Gang → Gang) :
    (s.updGang g f).gang? g' = if g' = g then (s.gang? g).map f else s.gang? g' := AList.find?_upd ..

@[simp] theorem task?_updTask (t t' : Nat) (f : Task → Task) :
    (s.updTask t f).task? t' = if t' = t then (s.task? t).map f else s.task? t' := AList.find?_upd ..

@[simp] theorem queueD_setQueue (q q' : Nat) (x : Queue) :
    (s.setQueue q x).queueD q' = if q' = q then x else s.queueD q' := AList.get_put ..

@[simp] theorem mxD_setMx (l l' : Nat) (x : Mx) : (s.setMx l x).mxD l' = if l' = l then x else s.mxD l' := AList.get_put ..

@[simp] theorem cluD_setClu (c c' : Nat) (x : Clu) : cluD (setClu s c x) c' = if c' = c then x else cluD s c' := AList.get_put ..

end Sys2Proof.Machine
end

