-- ==== Sys2Proof/Laws/Slot.lean ====
section
/-! SUPPORT. The shared slots: what each leaves, once, so that no proof about an instruction unfolds them. -/
namespace Sys2Proof.Machine
open Sys2Proof Sys2Proof.Safety

/-! ### Noting a sibling's register changes nothing an instruction reads -/

theorem noting_eq (c : Ctx) (gr : Group) (i : Instr) : c.noting gr i = { c with obsSib := (c.noting gr i).obsSib } := by
  unfold Ctx.noting; split <;> rfl

section
variable (c : Ctx) (gr : Group) (i : Instr)
@[simp] theorem noting_entry : (c.noting gr i).entry = c.entry := by rw [noting_eq]
@[simp] theorem noting_addr : (c.noting gr i).addr = c.addr := by rw [noting_eq]
@[simp] theorem noting_hdr : (c.noting gr i).hdr = c.hdr := by rw [noting_eq]
@[simp] theorem noting_words : (c.noting gr i).words = c.words := by rw [noting_eq]
@[simp] theorem noting_slot : (c.noting gr i).slot = c.slot := by rw [noting_eq]
@[simp] theorem noting_mask : (c.noting gr i).mask = c.mask := by rw [noting_eq]
@[simp] theorem noting_am : (c.noting gr i).am = c.am := by rw [noting_eq]
@[simp] theorem noting_amDirty : (c.noting gr i).amDirty = c.amDirty := by rw [noting_eq]
@[simp] theorem noting_cc : (c.noting gr i).cc = c.cc := by rw [noting_eq]
@[simp] theorem noting_ccSlot : (c.noting gr i).ccSlot = c.ccSlot := by rw [noting_eq]
@[simp] theorem noting_view : (c.noting gr i).view = c.view := by rw [noting_eq]
@[simp] theorem noting_sWritten : (c.noting gr i).sWritten = c.sWritten := by rw [noting_eq]
@[simp] theorem noting_lat : (c.noting gr i).lat = c.lat := by rw [noting_eq]
@[simp] theorem noting_stores : (c.noting gr i).stores = c.stores := by rw [noting_eq]
@[simp] theorem noting_tsts : (c.noting gr i).tsts = c.tsts := by rw [noting_eq]
@[simp] theorem noting_tops : (c.noting gr i).tops = c.tops := by rw [noting_eq]
@[simp] theorem noting_csrw : (c.noting gr i).csrw = c.csrw := by rw [noting_eq]
@[simp] theorem noting_marks : (c.noting gr i).marks = c.marks := by rw [noting_eq]
@[simp] theorem noting_rs : (c.noting gr i).rs = c.rs := by rw [noting_eq]
@[simp] theorem noting_outs : (c.noting gr i).outs = c.outs := by rw [noting_eq]
@[simp] theorem noting_faults : (c.noting gr i).faults = c.faults := by rw [noting_eq]
@[simp] theorem noting_wait : (c.noting gr i).wait = c.wait := by rw [noting_eq]
@[simp] theorem noting_ops : (c.noting gr i).ops = c.ops := by rw [noting_eq]
@[simp] theorem noting_beats : (c.noting gr i).beats = c.beats := by rw [noting_eq]
@[simp] theorem noting_skipped : (c.noting gr i).skipped = c.skipped := by rw [noting_eq]
@[simp] theorem noting_tail : (c.noting gr i).tail = c.tail := by rw [noting_eq]
@[simp] theorem noting_latch (n : Nat) : (c.noting gr i).latch n = c.latch n := by rw [noting_eq]; rfl
@[simp] theorem noting_getS (n : Nat) : (c.noting gr i).getS n = c.getS n := by rw [noting_eq]; rfl
@[simp] theorem noting_exec (p : Pred) : (c.noting gr i).exec p = c.exec p := by rw [noting_eq]; rfl
@[simp] theorem noting_uni (x : Src) : (c.noting gr i).uni x = c.uni x := by rw [noting_eq]; rfl
@[simp] theorem noting_uniT (t : Ty) (x : Src) : (c.noting gr i).uniT t x = c.uniT t x := by rw [noting_eq]; rfl
@[simp] theorem noting_src32 (x : Src) (k : Nat) : (c.noting gr i).src32 x k = c.src32 x k := by rw [noting_eq]; rfl
@[simp] theorem noting_src64 (x : Src) (k : Nat) : (c.noting gr i).src64 x k = c.src64 x k := by rw [noting_eq]; rfl
@[simp] theorem noting_srcT (t : Ty) (x : Src) (k : Nat) : (c.noting gr i).srcT t x k = c.srcT t x k := by rw [noting_eq]; rfl
end


/-! ### The count of .rs draws -/

section
variable (c : Ctx) (i : Instr)
@[simp] theorem countRs_entry : (c.countRs i).entry = c.entry := by simp only [Ctx.countRs]; split <;> rfl
@[simp] theorem countRs_addr : (c.countRs i).addr = c.addr := by simp only [Ctx.countRs]; split <;> rfl
@[simp] theorem countRs_hdr : (c.countRs i).hdr = c.hdr := by simp only [Ctx.countRs]; split <;> rfl
@[simp] theorem countRs_words : (c.countRs i).words = c.words := by simp only [Ctx.countRs]; split <;> rfl
@[simp] theorem countRs_slot : (c.countRs i).slot = c.slot := by simp only [Ctx.countRs]; split <;> rfl
@[simp] theorem countRs_mask : (c.countRs i).mask = c.mask := by simp only [Ctx.countRs]; split <;> rfl
@[simp] theorem countRs_am : (c.countRs i).am = c.am := by simp only [Ctx.countRs]; split <;> rfl
@[simp] theorem countRs_amDirty : (c.countRs i).amDirty = c.amDirty := by simp only [Ctx.countRs]; split <;> rfl
@[simp] theorem countRs_cc : (c.countRs i).cc = c.cc := by simp only [Ctx.countRs]; split <;> rfl
@[simp] theorem countRs_ccSlot : (c.countRs i).ccSlot = c.ccSlot := by simp only [Ctx.countRs]; split <;> rfl
@[simp] theorem countRs_view : (c.countRs i).view = c.view := by simp only [Ctx.countRs]; split <;> rfl
@[simp] theorem countRs_sWritten : (c.countRs i).sWritten = c.sWritten := by simp only [Ctx.countRs]; split <;> rfl
@[simp] theorem countRs_lat : (c.countRs i).lat = c.lat := by simp only [Ctx.countRs]; split <;> rfl
@[simp] theorem countRs_stores : (c.countRs i).stores = c.stores := by simp only [Ctx.countRs]; split <;> rfl
@[simp] theorem countRs_tsts : (c.countRs i).tsts = c.tsts := by simp only [Ctx.countRs]; split <;> rfl
@[simp] theorem countRs_tops : (c.countRs i).tops = c.tops := by simp only [Ctx.countRs]; split <;> rfl
@[simp] theorem countRs_csrw : (c.countRs i).csrw = c.csrw := by simp only [Ctx.countRs]; split <;> rfl
@[simp] theorem countRs_marks : (c.countRs i).marks = c.marks := by simp only [Ctx.countRs]; split <;> rfl
@[simp] theorem countRs_outs : (c.countRs i).outs = c.outs := by simp only [Ctx.countRs]; split <;> rfl
@[simp] theorem countRs_faults : (c.countRs i).faults = c.faults := by simp only [Ctx.countRs]; split <;> rfl
@[simp] theorem countRs_wait : (c.countRs i).wait = c.wait := by simp only [Ctx.countRs]; split <;> rfl
@[simp] theorem countRs_ops : (c.countRs i).ops = c.ops := by simp only [Ctx.countRs]; split <;> rfl
@[simp] theorem countRs_beats : (c.countRs i).beats = c.beats := by simp only [Ctx.countRs]; split <;> rfl
@[simp] theorem countRs_skipped : (c.countRs i).skipped = c.skipped := by simp only [Ctx.countRs]; split <;> rfl
@[simp] theorem countRs_tail : (c.countRs i).tail = c.tail := by simp only [Ctx.countRs]; split <;> rfl
@[simp] theorem countRs_obsSib : (c.countRs i).obsSib = c.obsSib := by simp only [Ctx.countRs]; split <;> rfl
@[simp] theorem countRs_rs : (c.countRs i).rs = c.rs + (if i.isRs then 1 else 0) := by simp only [Ctx.countRs]; split <;> simp
@[simp] theorem countRs_getS (n : Nat) : (c.countRs i).getS n = c.getS n := by simp only [Ctx.getS, countRs_am, countRs_view]
theorem countRs_of_not {i : Instr} (h : i.isRs = false) : c.countRs i = c := by simp [Ctx.countRs, h]
end

/-! ### A slot -/

theorem slot_ready {s : State} {g : Nat} {gr : Group} {c : Ctx} {i : Instr} (h : Ready s g gr c i) (k : Nat → Group → Ctx → State) :
    slot s i k = .next (k g gr (c.noting gr i)) := by
  simp only [slot, h.1, h.2]

theorem slot_faults {s : State} {g : Nat} {gr : Group} {c : Ctx} {i : Instr} {cause : Cause} (h : issuing? s = some (g, gr, c))
    (hf : operandFault gr.vregs c.kinds i = some cause) (k : Nat → Group → Ctx → State) :
    slot s i k = .next (raise s g c cause c.mask 0 0) := by
  simp only [slot, h, hf]

theorem slot_notIssuing {s : State} (h : issuing? s = none) (i : Instr) (k : Nat → Group → Ctx → State) :
    slot s i k = .refused .notIssuing := by
  simp only [slot, h]

/-! ### Latches -/

theorem latch_finish_some (c : Ctx) (i : Instr) (l : Latch) : (c.finish i (some l)).latch (c.slot % 8) = some l := by
  simp [Ctx.latch, Ctx.finish, AList.find?_put]

theorem latch_finish_none (c : Ctx) (i : Instr) : (c.finish i none).latch (c.slot % 8) = none := by
  simp [Ctx.latch, Ctx.finish, AList.find?_del]

@[simp] theorem finish_getS (c : Ctx) (i : Instr) (l : Option Latch) (n : Nat) : (c.finish i l).getS n = c.getS n := rfl

/-! ### Writes of the view -/

theorem putV_fst (c : Ctx) (d : Nat) (nw wide : Bool) (m : Mask) (f : Nat → Nat) :
    (c.putV d nw m wide f).1 = { c with view := (c.putV d nw m wide f).1.view } := rfl
theorem putV_gets (c : Ctx) (d : Nat) (nw wide : Bool) (m : Mask) (f : Nat → Nat) (n : Nat) :
    (c.putV d nw m wide f).1.view.getS n = c.view.getS n := by
  simp only [Ctx.putV]; split
  · rfl
  · split <;> simp
theorem putV_getq (c : Ctx) (d : Nat) (nw wide : Bool) (m : Mask) (f : Nat → Nat) (n : Nat) :
    (c.putV d nw m wide f).1.view.getQ n = c.view.getQ n := by
  simp only [Ctx.putV]; split
  · rfl
  · split <;> simp

/-- A context that agrees with the one before in what a slot keeps, finished. -/
theorem slotKept_finish {i : Instr} {c c' : Ctx} {l : Option Latch} (h1 : c'.slot = c.slot) (h2 : c'.ops = c.ops)
    (h3 : c'.entry = c.entry) (h4 : c'.addr = c.addr) (h5 : c'.hdr = c.hdr) (h6 : c'.words = c.words) (h7 : c'.mask = c.mask)
    (h8 : c'.marks = c.marks) (h9 : c'.faults = c.faults) (h10 : c'.tail = c.tail) (h11 : c'.beats = c.beats)
    (h12 : c'.skipped = c.skipped) (h13 : c'.rs = c.rs + (if i.isRs then 1 else 0)) : SlotKept i c (c'.finish i l) := by
  refine ⟨?_, ?_, ?_, ?_, ?_, ?_, ?_, ?_, ?_, ?_, ?_, ?_, ?_⟩ <;> simp [Ctx.finish, *]

/-- A slot that writes lanes of a vector register leaves what `WritesLanesOf` says. -/
theorem lanes_written {i : Instr} {m : Ctx → Mask} {d : BitVec 7} {nw wide : Bool} {fn fn' : Group → Ctx → Nat → Nat}
    (he : ∀ s, exec i s = slot s i fun g gr c =>
      endSlot s g ((c.putV d.toNat nw (m c) wide (fn gr c)).1.countRs i) i (some (c.putV d.toNat nw (m c) wide (fn gr c)).2))
    (hn : ∀ gr c k, fn gr (c.noting gr i) k = fn' gr c k) (hm : ∀ (gr : Group) (c : Ctx), m (c.noting gr i) = m c) :
    WritesLanesOf i m d nw wide fn' := by
  intro s g gr c h
  let c1 := c.noting gr i
  let r := c1.putV d.toNat nw (m c1) wide (fn gr c1)
  have hfn : ∀ k, fn gr c1 k = fn' gr c k := hn gr c
  have hex : m c1 = m c := hm gr c
  have hvw : c1.view = c.view := noting_view c gr i
  refine ⟨(r.1.countRs i).finish i (some r.2), r.2, ?_, ?_, ?_, ?_, ?_, ?_, ?_, ?_, ?_, ?_, ?_⟩
  · rw [he, slot_ready h]; rfl
  · apply slotKept_finish <;> simp [r, c1, Ctx.putV]
  · refine ⟨?_, ?_, ?_, ?_, ?_, ?_⟩ <;> simp [r, c1, Ctx.putV]
  · intro n
    have : r.1.am = c.am := by simp [r, c1, Ctx.putV]
    have hg : r.1.view.getS n = c.view.getS n := (putV_gets ..).trans (by rw [hvw])
    show (r.1.countRs i).getS n = c.getS n
    rw [countRs_getS]
    simp only [Ctx.getS, this, hg]
  · intro n; simp only [finish_view, countRs_view, r, putV_getq, hvw]
  · constructor <;> simp [r, c1, Ctx.putV]
  · cases nw
    · refine ⟨fun k hk => ?_, fun hw k hk => ?_, fun n h1 h2 => ?_⟩
      · cases wide <;> simp [r, Ctx.putV, hk, hfn, hex, hvw]
      · subst hw; simp [r, Ctx.putV, hk, hfn, hex, hvw]
      · cases wide
        · simp [r, Ctx.putV, h1, hvw]
        · simp [r, Ctx.putV, h1, h2 rfl, hvw]
    · intro n; simp [r, Ctx.putV, hvw]
  · have hs : r.1.slot = c.slot := by simp [r, c1, Ctx.putV]
    rw [← hs, ← countRs_slot r.1 i]; exact latch_finish_some (r.1.countRs i) i r.2
  · simp [r, Ctx.putV]
  · intro k hk; simp [r, Ctx.putV, hk, hfn, hex, hvw]
  · intro hw k hk; subst hw; simp [r, Ctx.putV, hk, hfn, hex, hvw]

/-- A per-lane slot leaves what `WritesLanes` says. -/
theorem vecSlot_writes {i : Instr} {p : Pred} {d : BitVec 7} {nw wide : Bool} {fn fn' : Group → Ctx → Nat → Nat}
    (hrs : i.isRs = false) (he : ∀ s, exec i s = vecSlot s i p d nw wide fn)
    (hn : ∀ gr c k, fn gr (c.noting gr i) k = fn' gr c k) : WritesLanes i p d nw wide fn' :=
  lanes_written (fun s => by simp only [countRs_of_not _ hrs]; exact he s) hn fun gr c => noting_exec c gr i p

/-- The same for a conversion, whose .rs form draws. -/
theorem rsVec_writes {i : Instr} {f : F3} {wide : Bool} {fn fn' : Group → Ctx → Nat → Nat}
    (he : ∀ s, exec i s = rsVec s i f wide fn) (hn : ∀ gr c k, fn gr (c.noting gr i) k = fn' gr c k) :
    WritesLanes i f.p f.d f.nw wide fn' :=
  lanes_written he hn fun gr c => noting_exec c gr i f.p

/-- A slot that writes a scalar register leaves what `WritesScalar` says. -/
theorem scalar_written {i : Instr} {d : BitVec 7} {nw : Bool} {fn fn' : Group → Ctx → Word}
    (he : ∀ s, exec i s = slot s i fun g gr c =>
      endSlot s g ((c.putS (gr.ent c.entry).own d.toNat nw (fn gr c)).1.countRs i) i
        (some (c.putS (gr.ent c.entry).own d.toNat nw (fn gr c)).2))
    (hn : ∀ gr c, fn gr (c.noting gr i) = fn' gr c) : WritesScalar i d nw fn' := by
  intro s g gr c h hd
  let c1 := c.noting gr i
  let own := (gr.ent c.entry).own
  let r := c1.putS own d.toNat nw (fn' gr c)
  have hvw : c1.view = c.view := noting_view c gr i
  have ham : c1.am = c.am := noting_am c gr i
  have hr : r = if nw || d.toNat == 63 then (c1, r.2)
      else if d.toNat ≥ 60 then
        ({ c1 with am := setMaskWord c.am (d.toNat - 60) ((fn' gr c).setWidth 32 &&& maskWord own (d.toNat - 60)), amDirty := true }, r.2)
      else ({ c1 with view := c.view.setS d.toNat (fn' gr c), sWritten := d.toNat :: c1.sWritten }, r.2) := by
    rw [← ham, ← hvw]; simp only [r, Ctx.putS]; split
    · rfl
    · split <;> rfl
  have h2 : r.2 = { kind := .s64, v := vzero, hi := vzero, s := fn' gr c, q := 0 } := by
    simp only [r, Ctx.putS]; split
    · rfl
    · split <;> rfl
  refine ⟨(r.1.countRs i).finish i (some r.2), r.2, ?_, ?_, ?_, ?_, ?_, ?_, ?_, ?_, ?_, ?_⟩
  · rw [he, slot_ready h]; simp only [noting_entry, hn]; rfl
  · rw [hr]; apply slotKept_finish <;> (try simp only [countRs_entry, countRs_addr, countRs_hdr, countRs_words, countRs_slot, countRs_mask, countRs_marks, countRs_faults, countRs_ops, countRs_beats, countRs_skipped, countRs_tail, countRs_rs]) <;> split <;> (try split) <;> simp [c1]
  · rw [hr]; refine ⟨?_, ?_, ?_, ?_, ?_, ?_⟩ <;> split <;> (try split) <;> simp [c1]
  · rw [hr]; intro n; simp only [finish_view, countRs_view]; split <;> (try split) <;> simp [c1]
  · rw [hr]; intro n; simp only [finish_view, countRs_view]; split <;> (try split) <;> simp [c1]
  · rw [hr]; constructor <;> split <;> (try split) <;> simp [c1]
  · intro n
    show (r.1.countRs i).getS n = _
    rw [countRs_getS]
    rw [hr]
    by_cases h63 : n = 63
    · subst h63; simp [Ctx.getS]
    · split
      · rename_i hc
        have : ¬ (n = d.toNat ∧ nw = false ∧ n ≠ 63) := by
          rintro ⟨rfl, rfl, h3⟩; simp [h3] at hc
        rw [if_neg this]; simp [c1]
      · rename_i hc
        have hnw : nw = false := by cases nw <;> simp_all
        have hd63 : d.toNat ≠ 63 := by intro hh; simp [hh] at hc
        split
        · rename_i h60
          by_cases hnd : n = d.toNat
          · subst hnd
            rw [if_pos ⟨rfl, hnw, h63⟩, if_pos ⟨h60, by omega⟩]
            simp only [Ctx.getS, h63, h60, if_true, if_false]
            rw [maskWord_setMaskWord_same _ _ _ (by omega)]
          · rw [if_neg (by simp [hnd])]
            simp only [Ctx.getS, h63, if_false]
            by_cases hn60 : n ≥ 60
            · simp only [hn60, if_true]
              rw [maskWord_setMaskWord_ne _ _ _ _ (by omega)]
            · simp [hn60, hvw]
        · rename_i h60
          by_cases hnd : n = d.toNat
          · subst hnd
            rw [if_pos ⟨rfl, hnw, h63⟩, if_neg (by omega)]
            simp [Ctx.getS, h63, h60]
          · rw [if_neg (by simp [hnd])]
            simp [Ctx.getS, hnd, ham]
  · have hs : r.1.slot = c.slot := by rw [hr]; split <;> (try split) <;> simp [c1]
    rw [← hs, ← countRs_slot r.1 i]; exact latch_finish_some (r.1.countRs i) i r.2
  · rw [h2]
  · rw [h2]

/-- A uniform slot leaves what `WritesScalar` says. -/
theorem scaSlot_writes {i : Instr} {d : BitVec 7} {nw : Bool} {fn fn' : Group → Ctx → Word}
    (hrs : i.isRs = false) (he : ∀ s, exec i s = scaSlot s i d nw fn) (hn : ∀ gr c, fn gr (c.noting gr i) = fn' gr c) : WritesScalar i d nw fn' :=
  scalar_written (fun s => by simp only [countRs_of_not _ hrs]; exact he s) hn

/-- A predicate slot leaves what `WritesPredicate` says. -/
theorem predSlot_writes {i : Instr} {p : Pred} {d : BitVec 7} {nw : Bool} {fn fn' : Group → Ctx → Nat → Bool}
    (hrs : i.isRs = false) (he : ∀ s, exec i s = predSlot s i p d nw fn) (hn : ∀ gr c k, fn gr (c.noting gr i) k = fn' gr c k) :
    WritesPredicate i p d nw fn' := by
  intro s g gr c h hd
  let c1 := c.noting gr i
  let x := maskOf (fn gr c1)
  let q := (c.view.getQ d.toNat &&& ~~~(c.exec p)) ||| (x &&& c.exec p)
  let r : Ctx × Latch := c1.putQ d.toNat nw (c1.exec p) x
  have hex : c1.exec p = c.exec p := noting_exec c gr i p
  have hvw : c1.view = c.view := noting_view c gr i
  have hr : r = ({ c1 with view := if nw then c.view else c.view.setQ d.toNat q },
      { kind := .q96, v := vzero, hi := vzero, s := 0, q := q }) := by
    simp only [r, Ctx.putQ, hex, hvw, q]
  have hq : ∀ k, k < 96 → q.getLsbD k = if (c.exec p).getLsbD k then fn' gr c k else (c.view.getQ d.toNat).getLsbD k := by
    intro k hk
    have hx : fn gr c1 k = fn' gr c k := hn gr c k
    simp only [q, x, BitVec.getLsbD_or, BitVec.getLsbD_and, BitVec.getLsbD_not, getLsbD_maskOf, hk, decide_true, Bool.true_and, hx]
    cases (c.exec p).getLsbD k <;> simp
  refine ⟨r.1.finish i (some r.2), r.2, ?_, ?_, ?_, ?_, ?_, ?_, ?_, ?_, ?_, ?_, ?_⟩
  · rw [he, predSlot, slot_ready h]; rfl
  · rw [hr]; apply slotKept_finish <;> simp [c1, hrs]
  · rw [hr]; refine ⟨?_, ?_, ?_, ?_, ?_, ?_⟩ <;> simp [c1]
  · rw [hr]; intro n; cases nw <;> simp
  · rw [hr]; intro n
    simp only [Ctx.getS]
    cases nw <;> simp [c1]
  · rw [hr]; constructor <;> simp [c1]
  · rw [hr]; intro k hk
    cases nw
    · simp only [finish_view, Bool.false_eq_true, if_false, true_and]
      rw [Regs.getQ_setQ _ _ _ _ hd, if_pos rfl]; exact hq k hk
    · simp
  · rw [hr]; intro n hnd
    cases nw
    · simp only [finish_view, Bool.false_eq_true, if_false]
      rw [Regs.getQ_setQ _ _ _ _ hd, if_neg hnd]
    · simp
  · have hs : r.1.slot = c.slot := by rw [hr]; simp [c1]
    rw [← hs]; exact latch_finish_some r.1 i r.2
  · rw [hr]
  · rw [hr]; exact hq

/-- A flag slot leaves what `WritesFlags` says. -/
theorem ccSlot_writes {i : Instr} {fn fn' : Group → Ctx → CC} (hrs : i.isRs = false) (he : ∀ s, exec i s = ccSlot s i fn)
    (hn : ∀ gr c, fn gr (c.noting gr i) = fn' gr c) : WritesFlags i fn' := by
  intro s g gr c h
  let c1 := (c.noting gr i).putCC (fn gr (c.noting gr i))
  refine ⟨c1.finish i none, ?_, ?_, ?_, ?_, ?_, ?_, ?_, ?_, ?_⟩
  · rw [he, ccSlot, slot_ready h]; rfl
  · apply slotKept_finish <;> simp [c1, Ctx.putCC, hrs]
  · refine ⟨?_, ?_, ?_, ?_, ?_, ?_⟩ <;> simp [c1, Ctx.putCC]
  · intro n; simp [c1, Ctx.putCC]
  · intro n; simp only [Ctx.getS]; simp [c1, Ctx.putCC]
  · intro n; simp [c1, Ctx.putCC]
  · simp [c1, Ctx.putCC, hn]
  · simp [c1, Ctx.putCC]
  · have hs : c1.slot = c.slot := by simp [c1, Ctx.putCC]
    rw [← hs]; exact latch_finish_none c1 i

/-- A tokened slot leaves what `QueuesResult` says, if its flags are the ones given and it touches nothing else. -/
theorem tokSlot_queues {i : Instr} {m m' : Ctx → Mask} {fn fn' : Group → Ctx → Land} {fcc : Ctx → Land → Ctx} {cc : Ctx → CC}
    (hrs : i.isRs = false) (he : ∀ s, exec i s = tokSlot s i m fn fcc)
    (hc : ∀ (gr : Group) (c : Ctx) (l : Land), fcc (c.noting gr i) l = { (c.noting gr i) with cc := cc c, ccSlot := (fcc (c.noting gr i) l).ccSlot })
    (hm : ∀ (gr : Group) (c : Ctx), m (c.noting gr i) = m' c) (hn : ∀ gr c, fn gr (c.noting gr i) = fn' gr c) : QueuesResult i m' cc fn' := by
  intro s g gr c h
  let c1 := fcc (c.noting gr i) (fn gr (c.noting gr i))
  have hc1 : c1 = { (c.noting gr i) with cc := cc c, ccSlot := c1.ccSlot } := hc gr c _
  refine ⟨c1.finish i none,
    { tok := i.tok, frag := c.entry, instr := i, mask := m' c, land := fn' gr c }, ?_, rfl, rfl, rfl, rfl, rfl, rfl, ?_, ?_, ?_, ?_, ?_, ?_, ?_⟩
  · rw [he, tokSlot, slot_ready h]; simp only [hm, hn, noting_entry, endSlot]
    simp only [c1, hn]
  · rw [hc1]; apply slotKept_finish <;> simp [hrs]
  · rw [hc1]; refine ⟨?_, ?_, ?_, ?_, ?_, ?_⟩ <;> simp
  · rw [hc1]; intro n; simp
  · rw [hc1]; intro n; simp only [Ctx.getS]; simp
  · rw [hc1]; intro n; simp
  · rw [hc1]; simp
  · have hs : c1.slot = c.slot := by rw [hc1]; simp
    rw [← hs]; exact latch_finish_none c1 i

end Sys2Proof.Machine
end

