-- ==== Sys2Proof/Laws/Access.lean ====
section
/-! SUPPORT. What the checks of an access, the requests it makes, reservations and hints can change: the memory engine's records and the
counter of new numbers, nothing else. -/
namespace Sys2Proof.Safety
open Sys2Proof Sys2Proof.Machine

theorem OnlyEngine.refl (s : State) : OnlyEngine s s := rfl
theorem OnlyEngine.trans {s t u : State} (h : OnlyEngine s t) (k : OnlyEngine t u) : OnlyEngine s u := by
  unfold OnlyEngine at *; rw [k, h]
theorem OnlyEngine.m (s : State) (m : Mem) : OnlyEngine s { s with m := m } := rfl
theorem OnlyEngine.groups {s t : State} (h : OnlyEngine s t) : t.groups = s.groups := by rw [h]
theorem OnlyEngine.group? {s t : State} (h : OnlyEngine s t) (g : Nat) : t.group? g = s.group? g := by rw [h]; rfl
theorem OnlyEngine.mem {s t : State} (h : OnlyEngine s t) : t.mem = s.mem := by rw [h]
theorem OnlyEngine.hostMem {s t : State} (h : OnlyEngine s t) : t.hostMem = s.hostMem := by rw [h]
theorem OnlyEngine.hbm {s t : State} (h : OnlyEngine s t) : t.hbm = s.hbm := by rw [h]
theorem OnlyEngine.parity {s t : State} (h : OnlyEngine s t) : t.parity = s.parity := by rw [h]
theorem OnlyEngine.blocks {s t : State} (h : OnlyEngine s t) : t.blocks = s.blocks := by rw [h]
theorem OnlyEngine.tasks {s t : State} (h : OnlyEngine s t) : t.tasks = s.tasks := by rw [h]
theorem OnlyEngine.disp {s t : State} (h : OnlyEngine s t) : t.disp = s.disp := by rw [h]
theorem OnlyEngine.damask {s t : State} (h : OnlyEngine s t) : t.damask = s.damask := by rw [h]
theorem OnlyEngine.memoryKept {s t : State} (h : OnlyEngine s t) : MemoryKept s t := by
  intro a; rw [h.mem, h.hostMem, h.hbm, h.parity]; exact ⟨rfl, rfl, rfl, rfl⟩

end Sys2Proof.Safety

namespace Sys2Proof.Machine
open Sys2Proof Sys2Proof.Safety

theorem onlyEngine_freshId (s : State) : OnlyEngine s (freshId s).2 := rfl
theorem onlyEngine_addReq (s : State) (q : Req) : OnlyEngine s (addReq s q) := rfl

theorem onlyEngine_foldl {α β : Type} (l : List α) (f : β × State → α → β × State) (h : ∀ x a, OnlyEngine x.2 (f x a).2) (x : β × State) :
    OnlyEngine x.2 (l.foldl f x).2 := by
  induction l generalizing x with
  | nil => exact .refl _
  | cons a t ih => exact (h x a).trans (ih _)

theorem onlyEngine_foldl' {α β : Type} (l : List α) (f : State × β → α → State × β) (h : ∀ x a, OnlyEngine x.1 (f x a).1) (x : State × β) :
    OnlyEngine x.1 (l.foldl f x).1 := by
  induction l generalizing x with
  | nil => exact .refl _
  | cons a t ih => exact (h x a).trans (ih _)

theorem onlyEngine_setTlb (s : State) (b : Bool) (u : Nat) (l : List TlbEnt) : OnlyEngine s (setTlb s b u l) := by
  cases b <;> rfl

theorem onlyEngine_translateIn (s : State) (b : Bool) (u pasid va : Nat) (need : Need) : OnlyEngine s (translateIn s b u pasid va need).1 := by
  unfold translateIn
  dsimp only
  by_cases hv : va ≥ 2 ^ 57
  · rw [if_pos hv]; exact .refl _
  · rw [if_neg hv]
    split
    · split
      · exact .refl _
      · split
        · exact onlyEngine_setTlb ..
        · dsimp only; split
          · exact onlyEngine_setTlb ..
          · exact .refl _
    · have h1 : ∀ x, OnlyEngine s (cacheWalk s (dieOfClu (if b = true then u else cluOfCu u)) pasid x) := fun _ => rfl
      split
      · exact h1 _
      · exact h1 _
      · exact h1 _
      · split
        · exact (h1 _).trans (onlyEngine_setTlb ..)
        · exact (h1 _).trans (onlyEngine_setTlb ..)

theorem onlyEngine_checkOne (s : State) (cu pasid : Nat) (align : Bool) (need : Need) (a : Acc) :
    OnlyEngine s (checkOne s cu pasid align need a).1 := by
  unfold checkOne; split
  · exact .refl _
  · exact onlyEngine_translateIn ..

theorem onlyEngine_checkEach (s : State) (cu pasid : Nat) (align : Bool) (need : Need) (l : List Acc) :
    OnlyEngine s (checkEach s cu pasid align need l).1 := by
  induction l generalizing s with
  | nil => exact .refl _
  | cons a t ih => exact (onlyEngine_checkOne ..).trans (ih _)

/-- The checks of a slot change translation caches only. -/
theorem onlyEngine_checkAccs (s : State) (cu pasid : Nat) (align : Bool) (need : Need) (l : List Acc) :
    OnlyEngine s (checkAccs s cu pasid align need l).1 := by
  have h := onlyEngine_checkEach s cu pasid align need l
  unfold checkAccs
  dsimp only
  split
  · exact h
  · split <;> exact h

/-- The requests of a load or store are records of the memory engine. -/
theorem onlyEngine_addReqs (s : State) (r : Req) (l : List Acc) : OnlyEngine s (addReqs s r l).2 := by
  unfold addReqs
  refine onlyEngine_foldl (linesOf l) (x := (([] : List Nat), s)) _ ?_
  intro x a; rfl

theorem addReqs_length (s : State) (r : Req) (l : List Acc) : (addReqs s r l).1.length = (linesOf l).length := by
  unfold addReqs
  have h : ∀ (ls : List Nat) (x : List Nat × State) (f : List Nat × State → Nat → List Nat × State),
      (∀ x a, (f x a).1.length = x.1.length + 1) → (ls.foldl f x).1.length = x.1.length + ls.length := by
    intro ls; induction ls with
    | nil => intro x f _; simp
    | cons a t ih => intro x f hf; simp only [List.foldl_cons]; rw [ih _ _ hf, hf]; simp; omega
  rw [h _ _ _ (fun x a => by simp)]; simp

/-- The reservations of a store are records of the memory engine. -/
theorem onlyEngine_reserve (s : State) (g : Nat) (gr : Group) (c : Ctx) (l : List Acc) : OnlyEngine s (reserve s g gr c l).2 := by
  unfold reserve
  refine onlyEngine_foldl _ (x := (([] : List Nat), s)) _ ?_
  intro x a; rfl

theorem onlyEngine_setTag (s : State) (w : Nat) (t : WordTag) : OnlyEngine s (setTag s w t) := rfl
theorem onlyEngine_setDir (s : State) (line : Nat) (d : DirEnt) : OnlyEngine s (setDir s line d) := rfl
theorem onlyEngine_setL1 (s : State) (cu line : Nat) (l : L1Line) : OnlyEngine s (setL1 s cu line l) := rfl

theorem onlyEngine_foldS {α : Type} (s : State) (l : List α) (f : State → α → State) (h : ∀ x a, OnlyEngine x (f x a)) :
    OnlyEngine s (foldS s l f) := by
  unfold foldS
  induction l generalizing s with
  | nil => exact .refl _
  | cons a t ih => exact (h s a).trans (ih _)

theorem onlyEngine_l2Touch (s : State) (line : Nat) : OnlyEngine s (l2Touch s line) := rfl

theorem onlyEngine_l1Room (s : State) (cu line : Nat) : OnlyEngine s (l1Room s cu line) := by
  unfold l1Room; dsimp only; split
  · exact .refl _
  · split <;> rfl

theorem onlyEngine_fillL1 (s : State) (cu line : Nat) : OnlyEngine s (fillL1 s cu line) := by
  unfold fillL1; dsimp only; split
  · exact .refl _
  · split
    · exact .refl _
    · exact (((onlyEngine_l1Room ..).trans (onlyEngine_setL1 ..)).trans (onlyEngine_setDir ..)).trans (onlyEngine_l2Touch ..)

theorem onlyEngine_hintLine (s : State) (line : Nat) : OnlyEngine s (hintLine s line) := by
  unfold hintLine; split
  · exact .refl _
  · split
    · exact (OnlyEngine.m _ _).trans (onlyEngine_foldS _ _ _ fun _ _ => onlyEngine_setTag ..)
    · exact .refl _

/-- A prefetch moves lines between levels. -/
theorem onlyEngine_prefetch (s : State) (cu lvl line : Nat) : OnlyEngine s (prefetch s cu lvl line) := by
  unfold prefetch; dsimp only; split
  · exact (onlyEngine_hintLine ..).trans (onlyEngine_fillL1 ..)
  · split
    · exact (onlyEngine_hintLine ..).trans (onlyEngine_l2Touch ..)
    · exact onlyEngine_hintLine ..

theorem onlyEngine_prefLane (g : Nat) (gr : Group) (lvl va : Nat) (s : State) : OnlyEngine s (prefLane g gr lvl va s).1 := by
  unfold prefLane; dsimp only
  have h : OnlyEngine s (translate s gr.cu (groupPasid s gr) va { r := true }).1 := onlyEngine_translateIn ..
  split
  · split
    · exact h
    · dsimp only; split
      · exact h.trans (onlyEngine_prefetch ..)
      · exact h
  · exact h

theorem onlyEngine_requestPage (s : State) (pasid page : Nat) (w x : Bool) : OnlyEngine s (requestPage s pasid page w x) := by
  unfold requestPage; split <;> rfl

theorem onlyEngine_reshintLane (g : Nat) (gr : Group) (w : Bool) (va : Nat) (s : State) : OnlyEngine s (reshintLane g gr w va s).1 := by
  unfold reshintLane; dsimp only
  have h : OnlyEngine s (translate s gr.cu (groupPasid s gr) va { r := !w, w := w }).1 := onlyEngine_translateIn ..
  split
  · exact h
  · split
    · exact h
    · exact (h.trans (onlyEngine_requestPage ..)).trans (.m _ _)
  · exact h

end Sys2Proof.Machine
end

