-- ==== Sys2Proof/Laws/Dispatch.lean ====
section
/-! SUPPORT. What `exec` answers for each instruction: the call of its meaning, so that no proof unfolds the dispatcher. -/
namespace Sys2Proof.Machine
open Sys2Proof

theorem exec_add (x) (s : State) : exec (.add x) s = execAdd x s := rfl
theorem exec_sub (x) (s : State) : exec (.sub x) s = execSub x s := rfl
theorem exec_mul (x) (s : State) : exec (.mul x) s = execMul x s := rfl
theorem exec_mulhi (x) (s : State) : exec (.mulhi x) s = execMulhi x s := rfl
theorem exec_mad (x) (s : State) : exec (.mad x) s = execMad x s := rfl
theorem exec_min (x) (s : State) : exec (.min x) s = execMin x s := rfl
theorem exec_max (x) (s : State) : exec (.max x) s = execMax x s := rfl
theorem exec_adif (x) (s : State) : exec (.adif x) s = execAdif x s := rfl
theorem exec_and (x) (s : State) : exec (.and x) s = execAnd x s := rfl
theorem exec_or (x) (s : State) : exec (.or x) s = execOr x s := rfl
theorem exec_xor (x) (s : State) : exec (.xor x) s = execXor x s := rfl
theorem exec_not (x) (s : State) : exec (.not x) s = execNot x s := rfl
theorem exec_shl (x) (s : State) : exec (.shl x) s = execShl x s := rfl
theorem exec_shr (x) (s : State) : exec (.shr x) s = execShr x s := rfl
theorem exec_rot (x) (s : State) : exec (.rot x) s = execRot x s := rfl
theorem exec_sel (x) (s : State) : exec (.sel x) s = execSel x s := rfl
theorem exec_cmp (x) (s : State) : exec (.cmp x) s = execCmp x s := rfl
theorem exec_clz (x) (s : State) : exec (.clz x) s = execClz x s := rfl
theorem exec_popc (x) (s : State) : exec (.popc x) s = execPopc x s := rfl
theorem exec_brev (x) (s : State) : exec (.brev x) s = execBrev x s := rfl
theorem exec_bfe (x) (s : State) : exec (.bfe x) s = execBfe x s := rfl
theorem exec_bfi (x) (s : State) : exec (.bfi x) s = execBfi x s := rfl
theorem exec_lane (x) (s : State) : exec (.lane x) s = execLane x s := rfl
theorem exec_mov (x) (s : State) : exec (.mov x) s = execMov x s := rfl
theorem exec_addi (x) (s : State) : exec (.addi x) s = execAddi x s := rfl
theorem exec_andi (x) (s : State) : exec (.andi x) s = execAndi x s := rfl
theorem exec_ori (x) (s : State) : exec (.ori x) s = execOri x s := rfl
theorem exec_xori (x) (s : State) : exec (.xori x) s = execXori x s := rfl
theorem exec_movi (x) (s : State) : exec (.movi x) s = execMovi x s := rfl
theorem exec_muli (x) (s : State) : exec (.muli x) s = execMuli x s := rfl
theorem exec_sadd (x) (s : State) : exec (.sadd x) s = execSadd x s := rfl
theorem exec_ssub (x) (s : State) : exec (.ssub x) s = execSsub x s := rfl
theorem exec_smul (x) (s : State) : exec (.smul x) s = execSmul x s := rfl
theorem exec_smulhi (x) (s : State) : exec (.smulhi x) s = execSmulhi x s := rfl
theorem exec_smin (x) (s : State) : exec (.smin x) s = execSmin x s := rfl
theorem exec_smax (x) (s : State) : exec (.smax x) s = execSmax x s := rfl
theorem exec_sand (x) (s : State) : exec (.sand x) s = execSand x s := rfl
theorem exec_sor (x) (s : State) : exec (.sor x) s = execSor x s := rfl
theorem exec_sxor (x) (s : State) : exec (.sxor x) s = execSxor x s := rfl
theorem exec_sshl (x) (s : State) : exec (.sshl x) s = execSshl x s := rfl
theorem exec_sshr (x) (s : State) : exec (.sshr x) s = execSshr x s := rfl
theorem exec_scmp (x) (s : State) : exec (.scmp x) s = execScmp x s := rfl
theorem exec_smov (x) (s : State) : exec (.smov x) s = execSmov x s := rfl
theorem exec_sclz (x) (s : State) : exec (.sclz x) s = execSclz x s := rfl
theorem exec_spopc (x) (s : State) : exec (.spopc x) s = execSpopc x s := rfl
theorem exec_saddi (x) (s : State) : exec (.saddi x) s = execSaddi x s := rfl
theorem exec_sandi (x) (s : State) : exec (.sandi x) s = execSandi x s := rfl
theorem exec_sori (x) (s : State) : exec (.sori x) s = execSori x s := rfl
theorem exec_sxori (x) (s : State) : exec (.sxori x) s = execSxori x s := rfl
theorem exec_smovi (x) (s : State) : exec (.smovi x) s = execSmovi x s := rfl
theorem exec_scmpi (x) (s : State) : exec (.scmpi x) s = execScmpi x s := rfl
theorem exec_qop (x) (s : State) : exec (.qop x) s = execQop x s := rfl
theorem exec_qtest (x) (s : State) : exec (.qtest x) s = execQtest x s := rfl
theorem exec_lea (x) (s : State) : exec (.lea x) s = execLea x s := rfl
theorem exec_slea (x) (s : State) : exec (.slea x) s = execSlea x s := rfl
theorem exec_fadd (x) (s : State) : exec (.fadd x) s = execFadd x s := rfl
theorem exec_fsub (x) (s : State) : exec (.fsub x) s = execFsub x s := rfl
theorem exec_fmul (x) (s : State) : exec (.fmul x) s = execFmul x s := rfl
theorem exec_fma (x) (s : State) : exec (.fma x) s = execFma x s := rfl
theorem exec_fmin (x) (s : State) : exec (.fmin x) s = execFmin x s := rfl
theorem exec_fmax (x) (s : State) : exec (.fmax x) s = execFmax x s := rfl
theorem exec_fsgn (x) (s : State) : exec (.fsgn x) s = execFsgn x s := rfl
theorem exec_fcmp (x) (s : State) : exec (.fcmp x) s = execFcmp x s := rfl
theorem exec_fclass (x) (s : State) : exec (.fclass x) s = execFclass x s := rfl
theorem exec_frnd (x) (s : State) : exec (.frnd x) s = execFrnd x s := rfl
theorem exec_sfadd (x) (s : State) : exec (.sfadd x) s = execSfadd x s := rfl
theorem exec_sfmul (x) (s : State) : exec (.sfmul x) s = execSfmul x s := rfl
theorem exec_sfma (x) (s : State) : exec (.sfma x) s = execSfma x s := rfl
theorem exec_sfcmp (x) (s : State) : exec (.sfcmp x) s = execSfcmp x s := rfl
theorem exec_cvt (x) (s : State) : exec (.cvt x) s = execCvt x s := rfl
theorem exec_scvt (x) (s : State) : exec (.scvt x) s = execScvt x s := rfl
theorem exec_pack2 (x) (s : State) : exec (.pack2 x) s = execPack2 x s := rfl
theorem exec_unpack (x) (s : State) : exec (.unpack x) s = execUnpack x s := rfl
theorem exec_scale (x) (s : State) : exec (.scale x) s = execScale x s := rfl
theorem exec_fdot2 (x) (s : State) : exec (.fdot2 x) s = execFdot2 x s := rfl
theorem exec_exp2 (x) (s : State) : exec (.exp2 x) s = execExp2 x s := rfl
theorem exec_log2 (x) (s : State) : exec (.log2 x) s = execLog2 x s := rfl
theorem exec_rcp (x) (s : State) : exec (.rcp x) s = execRcp x s := rfl
theorem exec_rsq (x) (s : State) : exec (.rsq x) s = execRsq x s := rfl
theorem exec_sqrt (x) (s : State) : exec (.sqrt x) s = execSqrt x s := rfl
theorem exec_sin (x) (s : State) : exec (.sin x) s = execSin x s := rfl
theorem exec_cos (x) (s : State) : exec (.cos x) s = execCos x s := rfl
theorem exec_tanh (x) (s : State) : exec (.tanh x) s = execTanh x s := rfl
theorem exec_sfn (x) (s : State) : exec (.sfn x) s = execSfn x s := rfl
theorem exec_shfl (x) (s : State) : exec (.shfl x) s = execShfl x s := rfl
theorem exec_shflup (x) (s : State) : exec (.shflup x) s = execShflup x s := rfl
theorem exec_shfldn (x) (s : State) : exec (.shfldn x) s = execShfldn x s := rfl
theorem exec_shflx (x) (s : State) : exec (.shflx x) s = execShflx x s := rfl
theorem exec_bcast (x) (s : State) : exec (.bcast x) s = execBcast x s := rfl
theorem exec_red (x) (s : State) : exec (.red x) s = execRed x s := rfl
theorem exec_scan (x) (s : State) : exec (.scan x) s = execScan x s := rfl
theorem exec_ballot (x) (s : State) : exec (.ballot x) s = execBallot x s := rfl
theorem exec_vote (x) (s : State) : exec (.vote x) s = execVote x s := rfl
theorem exec_popl (x) (s : State) : exec (.popl x) s = execPopl x s := rfl
theorem exec_first (x) (s : State) : exec (.first x) s = execFirst x s := rfl
theorem exec_rdlane (x) (s : State) : exec (.rdlane x) s = execRdlane x s := rfl
theorem exec_wrlane (x) (s : State) : exec (.wrlane x) s = execWrlane x s := rfl
theorem exec_ldN8 (x) (s : State) : exec (.ldN8 x) s = execLdN8 x s := rfl
theorem exec_ldI8 (x) (s : State) : exec (.ldI8 x) s = execLdI8 x s := rfl
theorem exec_ldN16 (x) (s : State) : exec (.ldN16 x) s = execLdN16 x s := rfl
theorem exec_ldI16 (x) (s : State) : exec (.ldI16 x) s = execLdI16 x s := rfl
theorem exec_ldB32 (x) (s : State) : exec (.ldB32 x) s = execLdB32 x s := rfl
theorem exec_ldB64 (x) (s : State) : exec (.ldB64 x) s = execLdB64 x s := rfl
theorem exec_stN8 (x) (s : State) : exec (.stN8 x) s = execStN8 x s := rfl
theorem exec_stN16 (x) (s : State) : exec (.stN16 x) s = execStN16 x s := rfl
theorem exec_stB32 (x) (s : State) : exec (.stB32 x) s = execStB32 x s := rfl
theorem exec_stB64 (x) (s : State) : exec (.stB64 x) s = execStB64 x s := rfl
theorem exec_sldB32 (x) (s : State) : exec (.sldB32 x) s = execSldB32 x s := rfl
theorem exec_sldB64 (x) (s : State) : exec (.sldB64 x) s = execSldB64 x s := rfl
theorem exec_sstB32 (x) (s : State) : exec (.sstB32 x) s = execSstB32 x s := rfl
theorem exec_sstB64 (x) (s : State) : exec (.sstB64 x) s = execSstB64 x s := rfl
theorem exec_fence (x) (s : State) : exec (.fence x) s = execFence x s := rfl
theorem exec_pref (x) (s : State) : exec (.pref x) s = execPref x s := rfl
theorem exec_pgreq (x) (s : State) : exec (.pgreq x) s = execPgreq x s := rfl
theorem exec_talloc (x) (s : State) : exec (.talloc x) s = execTalloc x s := rfl
theorem exec_tfree (x) (s : State) : exec (.tfree x) s = execTfree x s := rfl
theorem exec_tld (x) (s : State) : exec (.tld x) s = execTld x s := rfl
theorem exec_tldXp8 (x) (s : State) : exec (.tldXp8 x) s = execTldXp8 x s := rfl
theorem exec_tldXp16 (x) (s : State) : exec (.tldXp16 x) s = execTldXp16 x s := rfl
theorem exec_tst (x) (s : State) : exec (.tst x) s = execTst x s := rfl
theorem exec_seal (x) (s : State) : exec (.seal x) s = execSeal x s := rfl
theorem exec_reuse (x) (s : State) : exec (.reuse x) s = execReuse x s := rfl
theorem exec_flush (x) (s : State) : exec (.flush x) s = execFlush x s := rfl
theorem exec_reshint (x) (s : State) : exec (.reshint x) s = execReshint x s := rfl
theorem exec_atom (x) (s : State) : exec (.atom x) s = execAtom x s := rfl
theorem exec_satom (x) (s : State) : exec (.satom x) s = execSatom x s := rfl
theorem exec_redM (x) (s : State) : exec (.redM x) s = execRedM x s := rfl
theorem exec_barv (x) (s : State) : exec (.barv x) s = execBarv x s := rfl
theorem exec_bwait (x) (s : State) : exec (.bwait x) s = execBwait x s := rfl
theorem exec_barw (x) (s : State) : exec (.barw x) s = execBarw x s := rfl
theorem exec_bgrp (x) (s : State) : exec (.bgrp x) s = execBgrp x s := rfl
theorem exec_gjoin (x) (s : State) : exec (.gjoin x) s = execGjoin x s := rfl
theorem exec_gleave (x) (s : State) : exec (.gleave x) s = execGleave x s := rfl
theorem exec_waita (x) (s : State) : exec (.waita x) s = execWaita x s := rfl
theorem exec_waitat (x) (s : State) : exec (.waitat x) s = execWaitat x s := rfl
theorem exec_rdv (x) (s : State) : exec (.rdv x) s = execRdv x s := rfl
theorem exec_fst (x) (s : State) : exec (.fst x) s = execFst x s := rfl
theorem exec_fld (x) (s : State) : exec (.fld x) s = execFld x s := rfl
theorem exec_fatom (x) (s : State) : exec (.fatom x) s = execFatom x s := rfl
theorem exec_ffence (x) (s : State) : exec (.ffence x) s = execFfence x s := rfl
theorem exec_coll (x) (s : State) : exec (.coll x) s = execColl x s := rfl
theorem exec_fwaitc (x) (s : State) : exec (.fwaitc x) s = execFwaitc x s := rfl
theorem exec_br (x) (s : State) : exec (.br x) s = execBr x s := rfl
theorem exec_brany (x) (s : State) : exec (.brany x) s = execBrany x s := rfl
theorem exec_brnone (x) (s : State) : exec (.brnone x) s = execBrnone x s := rfl
theorem exec_call (x) (s : State) : exec (.call x) s = execCall x s := rfl
theorem exec_calli (x) (s : State) : exec (.calli x) s = execCalli x s := rfl
theorem exec_jmpi (x) (s : State) : exec (.jmpi x) s = execJmpi x s := rfl
theorem exec_ret (x) (s : State) : exec (.ret x) s = execRet x s := rfl
theorem exec_mark (x) (s : State) : exec (.mark x) s = execMark x s := rfl
theorem exec_forkm (x) (s : State) : exec (.forkm x) s = execForkm x s := rfl
theorem exec_join (x) (s : State) : exec (.join x) s = execJoin x s := rfl
theorem exec_exit (x) (s : State) : exec (.exit x) s = execExit x s := rfl
theorem exec_mfeed (x) (s : State) : exec (.mfeed x) s = execMfeed x s := rfl
theorem exec_mfeedt (x) (s : State) : exec (.mfeedt x) s = execMfeedt x s := rfl
theorem exec_mdrain (x) (s : State) : exec (.mdrain x) s = execMdrain x s := rfl
theorem exec_mdrainTl (x) (s : State) : exec (.mdrainTl x) s = execMdrainTl x s := rfl
theorem exec_fork (x) (s : State) : exec (.fork x) s = execFork x s := rfl
theorem exec_csrr (x) (s : State) : exec (.csrr x) s = execCsrr x s := rfl
theorem exec_csrw (x) (s : State) : exec (.csrw x) s = execCsrw x s := rfl
theorem exec_sigchk (x) (s : State) : exec (.sigchk x) s = execSigchk x s := rfl
theorem exec_trap (x) (s : State) : exec (.trap x) s = execTrap x s := rfl
theorem exec_trapAbort (x) (s : State) : exec (.trapAbort x) s = execTrapAbort x s := rfl
theorem exec_brk (x) (s : State) : exec (.brk x) s = execBrk x s := rfl
theorem exec_time (x) (s : State) : exec (.time x) s = execTime x s := rfl
theorem exec_perf (x) (s : State) : exec (.perf x) s = execPerf x s := rfl
theorem exec_nop (x) (s : State) : exec (.nop x) s = execNop x s := rfl
theorem exec_recmark (x) (s : State) : exec (.recmark x) s = execRecmark x s := rfl
theorem exec_recmode (x) (s : State) : exec (.recmode x) s = execRecmode x s := rfl
theorem exec_spawn (x) (s : State) : exec (.spawn x) s = execSpawn x s := rfl
theorem exec_tdep (x) (s : State) : exec (.tdep x) s = execTdep x s := rfl
theorem exec_cadd (x) (s : State) : exec (.cadd x) s = execCadd x s := rfl
theorem exec_csub (x) (s : State) : exec (.csub x) s = execCsub x s := rfl
theorem exec_cmul (x) (s : State) : exec (.cmul x) s = execCmul x s := rfl
theorem exec_cand (x) (s : State) : exec (.cand x) s = execCand x s := rfl
theorem exec_cor (x) (s : State) : exec (.cor x) s = execCor x s := rfl
theorem exec_cxor (x) (s : State) : exec (.cxor x) s = execCxor x s := rfl
theorem exec_cshl (x) (s : State) : exec (.cshl x) s = execCshl x s := rfl
theorem exec_cshr (x) (s : State) : exec (.cshr x) s = execCshr x s := rfl
theorem exec_cmovi (x) (s : State) : exec (.cmovi x) s = execCmovi x s := rfl
theorem exec_cmoviHi (x) (s : State) : exec (.cmoviHi x) s = execCmoviHi x s := rfl
theorem exec_ccmp (x) (s : State) : exec (.ccmp x) s = execCcmp x s := rfl
theorem exec_cld (x) (s : State) : exec (.cld x) s = execCld x s := rfl
theorem exec_cst (x) (s : State) : exec (.cst x) s = execCst x s := rfl
theorem exec_cbr (x) (s : State) : exec (.cbr x) s = execCbr x s := rfl
theorem exec_cloop (x) (s : State) : exec (.cloop x) s = execCloop x s := rfl
theorem exec_cjmp (x) (s : State) : exec (.cjmp x) s = execCjmp x s := rfl
theorem exec_cexit (x) (s : State) : exec (.cexit x) s = execCexit x s := rfl
theorem exec_crdv (x) (s : State) : exec (.crdv x) s = execCrdv x s := rfl
theorem exec_mzero (x) (s : State) : exec (.mzero x) s = execMzero x s := rfl
theorem exec_mma (x) (s : State) : exec (.mma x) s = execMma x s := rfl
theorem exec_mscaleA (x) (s : State) : exec (.mscaleA x) s = execMscaleA x s := rfl
theorem exec_mscaleB (x) (s : State) : exec (.mscaleB x) s = execMscaleB x s := rfl
theorem exec_mldb (x) (s : State) : exec (.mldb x) s = execMldb x s := rfl
theorem exec_mldbM (x) (s : State) : exec (.mldbM x) s = execMldbM x s := rfl
theorem exec_mpub (x) (s : State) : exec (.mpub x) s = execMpub x s := rfl
theorem exec_mdone (x) (s : State) : exec (.mdone x) s = execMdone x s := rfl
theorem exec_mstamp (x) (s : State) : exec (.mstamp x) s = execMstamp x s := rfl
theorem exec_mwaitPub (x) (s : State) : exec (.mwaitPub x) s = execMwaitPub x s := rfl
theorem exec_mwaitA (x) (s : State) : exec (.mwaitA x) s = execMwaitA x s := rfl
theorem exec_clauseFetch (x0) (x1) (s : State) : exec (.clauseFetch x0 x1) s = execClauseFetch x0 x1 s := rfl
theorem exec_fragmentSelect (x) (s : State) : exec (.fragmentSelect x) s = execFragmentSelect x s := rfl
theorem exec_ageingForce (x0) (x1) (s : State) : exec (.ageingForce x0 x1) s = execAgeingForce x0 x1 s := rfl
theorem exec_clauseCommit (x) (s : State) : exec (.clauseCommit x) s = execClauseCommit x s := rfl
theorem exec_tokenClear (x0) (x1) (s : State) : exec (.tokenClear x0 x1) s = execTokenClear x0 x1 s := rfl
theorem exec_lateFaultReport (x) (s : State) : exec (.lateFaultReport x) s = execLateFaultReport x s := rfl
theorem exec_debugHalt (x0) (x1) (x2) (s : State) : exec (.debugHalt x0 x1 x2) s = execDebugHalt x0 x1 x2 s := rfl
theorem exec_debugResume (x0) (x1) (x2) (s : State) : exec (.debugResume x0 x1 x2) s = execDebugResume x0 x1 x2 s := rfl
theorem exec_groupRetire (x) (s : State) : exec (.groupRetire x) s = execGroupRetire x s := rfl
theorem exec_blockRetire (x) (s : State) : exec (.blockRetire x) s = execBlockRetire x s := rfl
theorem exec_task (x0) (x1) (s : State) : exec (.task x0 x1) s = execTask x0 x1 s := rfl
theorem exec_graph (x0) (x1) (s : State) : exec (.graph x0 x1) s = execGraph x0 x1 s := rfl
theorem exec_gdef (x0) (x1) (s : State) : exec (.gdef x0 x1) s = execGdef x0 x1 s := rfl
theorem exec_gdrop (x0) (x1) (s : State) : exec (.gdrop x0 x1) s = execGdrop x0 x1 s := rfl
theorem exec_spawnParse (x0) (x1) (s : State) : exec (.spawnParse x0 x1) s = execSpawnParse x0 x1 s := rfl
theorem exec_gangPlace (x) (s : State) : exec (.gangPlace x) s = execGangPlace x s := rfl
theorem exec_rangeRequest (x0) (x1) (x2) (s : State) : exec (.rangeRequest x0 x1 x2) s = execRangeRequest x0 x1 x2 s := rfl
theorem exec_reportWrite (x) (s : State) : exec (.reportWrite x) s = execReportWrite x s := rfl
theorem exec_swapOut (x0) (x1) (s : State) : exec (.swapOut x0 x1) s = execSwapOut x0 x1 s := rfl
theorem exec_swapIn (x0) (x1) (s : State) : exec (.swapIn x0 x1) s = execSwapIn x0 x1 s := rfl
theorem exec_syscallRequest (x) (s : State) : exec (.syscallRequest x) s = execSyscallRequest x s := rfl
theorem exec_syscallReply (x) (s : State) : exec (.syscallReply x) s = execSyscallReply x s := rfl
theorem exec_gangKill (x0) (x1) (s : State) : exec (.gangKill x0 x1) s = execGangKill x0 x1 s := rfl
theorem exec_dieFailure (x) (s : State) : exec (.dieFailure x) s = execDieFailure x s := rfl
theorem exec_hbmStackFailure (x0) (x1) (s : State) : exec (.hbmStackFailure x0 x1) s = execHbmStackFailure x0 x1 s := rfl
theorem exec_hostLinkFault (s : State) : exec (.hostLinkFault) s = execHostLinkFault s := rfl
theorem exec_hostLinkRetrain (s : State) : exec (.hostLinkRetrain) s = execHostLinkRetrain s := rfl
theorem exec_deviceFailure (s : State) : exec (.deviceFailure) s = execDeviceFailure s := rfl
theorem exec_loadRequest (x) (s : State) : exec (.loadRequest x) s = execLoadRequest x s := rfl
theorem exec_loadResponse (x) (s : State) : exec (.loadResponse x) s = execLoadResponse x s := rfl
theorem exec_storeRequest (x) (s : State) : exec (.storeRequest x) s = execStoreRequest x s := rfl
theorem exec_atomicRequest (x) (s : State) : exec (.atomicRequest x) s = execAtomicRequest x s := rfl
theorem exec_releaseWalk (x) (s : State) : exec (.releaseWalk x) s = execReleaseWalk x s := rfl
theorem exec_holdReservation (x) (s : State) : exec (.holdReservation x) s = execHoldReservation x s := rfl
theorem exec_reservationGrant (x) (s : State) : exec (.reservationGrant x) s = execReservationGrant x s := rfl
theorem exec_l1Invalidation (x0) (x1) (s : State) : exec (.l1Invalidation x0 x1) s = execL1Invalidation x0 x1 s := rfl
theorem exec_l1Fill (x0) (x1) (s : State) : exec (.l1Fill x0 x1) s = execL1Fill x0 x1 s := rfl
theorem exec_l3Eviction (x) (s : State) : exec (.l3Eviction x) s = execL3Eviction x s := rfl
theorem exec_hostRead (x0) (x1) (s : State) : exec (.hostRead x0 x1) s = execHostRead x0 x1 s := rfl
theorem exec_hostWrite (x0) (x1) (x2) (s : State) : exec (.hostWrite x0 x1 x2) s = execHostWrite x0 x1 x2 s := rfl
theorem exec_hostOwnershipRequest (x0) (x1) (s : State) : exec (.hostOwnershipRequest x0 x1) s = execHostOwnershipRequest x0 x1 s := rfl
theorem exec_biResponse (x0) (x1) (s : State) : exec (.biResponse x0 x1) s = execBiResponse x0 x1 s := rfl
theorem exec_hbmRead (x0) (x1) (s : State) : exec (.hbmRead x0 x1) s = execHbmRead x0 x1 s := rfl
theorem exec_patrolScrub (s : State) : exec .patrolScrub s = execPatrolScrub s := rfl
theorem exec_pageWalk (x0) (x1) (x2) (s : State) : exec (.pageWalk x0 x1 x2) s = execPageWalk x0 x1 x2 s := rfl
theorem exec_pageRequestSend (x0) (x1) (s : State) : exec (.pageRequestSend x0 x1) s = execPageRequestSend x0 x1 s := rfl
theorem exec_pgparkTimeout (x0) (x1) (s : State) : exec (.pgparkTimeout x0 x1) s = execPgparkTimeout x0 x1 s := rfl
theorem exec_prgResponse (x0) (x1) (s : State) : exec (.prgResponse x0 x1) s = execPrgResponse x0 x1 s := rfl
theorem exec_tlbiRange (x0) (x1) (x2) (s : State) : exec (.tlbiRange x0 x1 x2) s = execTlbiRange x0 x1 x2 s := rfl
theorem exec_tlbiPasid (x) (s : State) : exec (.tlbiPasid x) s = execTlbiPasid x s := rfl
theorem exec_tlbiAll (s : State) : exec (.tlbiAll) s = execTlbiAll s := rfl
theorem exec_tlbiDone (s : State) : exec (.tlbiDone) s = execTlbiDone s := rfl
theorem exec_retypeBegin (x0) (x1) (s : State) : exec (.retypeBegin x0 x1) s = execRetypeBegin x0 x1 s := rfl
theorem exec_retypeApply (s : State) : exec (.retypeApply) s = execRetypeApply s := rfl
theorem exec_retypeCancel (s : State) : exec (.retypeCancel) s = execRetypeCancel s := rfl
theorem exec_copyChunk (x) (s : State) : exec (.copyChunk x) s = execCopyChunk x s := rfl
theorem exec_copyFlagWrite (x) (s : State) : exec (.copyFlagWrite x) s = execCopyFlagWrite x s := rfl
theorem exec_ttuTranslate (x0) (x1) (s : State) : exec (.ttuTranslate x0 x1) s = execTtuTranslate x0 x1 s := rfl
theorem exec_ldreq (x0) (x1) (s : State) : exec (.ldreq x0 x1) s = execLdreq x0 x1 s := rfl
theorem exec_atreq (x0) (x1) (s : State) : exec (.atreq x0 x1) s = execAtreq x0 x1 s := rfl
theorem exec_streq (x0) (x1) (s : State) : exec (.streq x0 x1) s = execStreq x0 x1 s := rfl
theorem exec_ldrsp (x0) (x1) (s : State) : exec (.ldrsp x0 x1) s = execLdrsp x0 x1 s := rfl
theorem exec_atrsp (x0) (x1) (s : State) : exec (.atrsp x0 x1) s = execAtrsp x0 x1 s := rfl
theorem exec_stack (x0) (x1) (s : State) : exec (.stack x0 x1) s = execStack x0 x1 s := rfl
theorem exec_fencePacket (x0) (x1) (s : State) : exec (.fencePacket x0 x1) s = execFencePacket x0 x1 s := rfl
theorem exec_fenack (x0) (x1) (s : State) : exec (.fenack x0 x1) s = execFenack x0 x1 s := rfl
theorem exec_cdata (x0) (x1) (s : State) : exec (.cdata x0 x1) s = execCdata x0 x1 s := rfl
theorem exec_cctl (x0) (x1) (s : State) : exec (.cctl x0 x1) s = execCctl x0 x1 s := rfl
theorem exec_collectiveComplete (x0) (x1) (s : State) : exec (.collectiveComplete x0 x1) s = execCollectiveComplete x0 x1 s := rfl
theorem exec_logfrm (x0) (x1) (s : State) : exec (.logfrm x0 x1) s = execLogfrm x0 x1 s := rfl
theorem exec_ckpt (x0) (x1) (s : State) : exec (.ckpt x0 x1) s = execCkpt x0 x1 s := rfl
theorem exec_idleFlit (x0) (x1) (x2) (s : State) : exec (.idleFlit x0 x1 x2) s = execIdleFlit x0 x1 x2 s := rfl
theorem exec_resendRequest (x0) (x1) (s : State) : exec (.resendRequest x0 x1) s = execResendRequest x0 x1 s := rfl
theorem exec_badFlit (x) (s : State) : exec (.badFlit x) s = execBadFlit x s := rfl
theorem exec_retryTimeout (x) (s : State) : exec (.retryTimeout x) s = execRetryTimeout x s := rfl
theorem exec_arbitrationDecision (x) (s : State) : exec (.arbitrationDecision x) s = execArbitrationDecision x s := rfl
theorem exec_ftoTimeout (x) (s : State) : exec (.ftoTimeout x) s = execFtoTimeout x s := rfl
theorem exec_frameWrite (x0) (x1) (x2) (s : State) : exec (.frameWrite x0 x1 x2) s = execFrameWrite x0 x1 x2 s := rfl
theorem exec_twinProgress (x0) (x1) (s : State) : exec (.twinProgress x0 x1) s = execTwinProgress x0 x1 s := rfl
theorem exec_replayChunkStart (x0) (x1) (s : State) : exec (.replayChunkStart x0 x1) s = execReplayChunkStart x0 x1 s := rfl
theorem exec_replayBreakpoint (x0) (x1) (s : State) : exec (.replayBreakpoint x0 x1) s = execReplayBreakpoint x0 x1 s := rfl
theorem exec_replayEventTimeout (x) (s : State) : exec (.replayEventTimeout x) s = execReplayEventTimeout x s := rfl
theorem exec_freeze (x0) (x1) (x2) (s : State) : exec (.freeze x0 x1 x2) s = execFreeze x0 x1 x2 s := rfl
theorem exec_restore (x0) (x1) (s : State) : exec (.restore x0 x1) s = execRestore x0 x1 s := rfl
theorem exec_discard (x0) (x1) (s : State) : exec (.discard x0 x1) s = execDiscard x0 x1 s := rfl
theorem exec_fzctlSlotWrite (x0) (x1) (s : State) : exec (.fzctlSlotWrite x0 x1) s = execFzctlSlotWrite x0 x1 s := rfl
theorem exec_fzdevWrite (x) (s : State) : exec (.fzdevWrite x) s = execFzdevWrite x s := rfl
theorem exec_clockStop (x) (s : State) : exec (.clockStop x) s = execClockStop x s := rfl
theorem exec_imageStaged (x) (s : State) : exec (.imageStaged x) s = execImageStaged x s := rfl
theorem exec_imageStored (x) (s : State) : exec (.imageStored x) s = execImageStored x s := rfl
theorem exec_l1Drain (x) (s : State) : exec (.l1Drain x) s = execL1Drain x s := rfl
theorem exec_restoreClockStart (x) (s : State) : exec (.restoreClockStart x) s = execRestoreClockStart x s := rfl
theorem exec_take (s : State) : exec (.take) s = execTake s := rfl
theorem exec_load (s : State) : exec (.load) s = execLoad s := rfl
theorem exec_grant (x) (s : State) : exec (.grant x) s = execGrant x s := rfl
theorem exec_delegate (x0) (x1) (x2) (x3) (s : State) : exec (.delegate x0 x1 x2 x3) s = execDelegate x0 x1 x2 x3 s := rfl
theorem exec_revoke (x0) (x1) (s : State) : exec (.revoke x0 x1) s = execRevoke x0 x1 s := rfl
theorem exec_traceSample (x0) (x1) (s : State) : exec (.traceSample x0 x1) s = execTraceSample x0 x1 s := rfl
theorem exec_watchpointReport (x) (s : State) : exec (.watchpointReport x) s = execWatchpointReport x s := rfl
theorem exec_operatingPointChange (x) (s : State) : exec (.operatingPointChange x) s = execOperatingPointChange x s := rfl
theorem exec_powerLimit (x) (s : State) : exec (.powerLimit x) s = execPowerLimit x s := rfl
theorem exec_reset (s : State) : exec (.reset) s = execReset s := rfl
theorem exec_powerOn (x0) (x1) (s : State) : exec (.powerOn x0 x1) s = execPowerOn x0 x1 s := rfl
theorem exec_firmwareUpdate (x) (s : State) : exec (.firmwareUpdate x) s = execFirmwareUpdate x s := rfl
theorem exec_spdmMeasurementRequest (x0) (x1) (s : State) : exec (.spdmMeasurementRequest x0 x1) s = execSpdmMeasurementRequest x0 x1 s := rfl
theorem exec_qctlWrite (x0) (x1) (s : State) : exec (.qctlWrite x0 x1) s = execQctlWrite x0 x1 s := rfl
theorem exec_scctlWrite (x0) (x1) (s : State) : exec (.scctlWrite x0 x1) s = execScctlWrite x0 x1 s := rfl
theorem exec_pgctlWrite (x) (s : State) : exec (.pgctlWrite x) s = execPgctlWrite x s := rfl
theorem exec_fcfgWrite (x) (s : State) : exec (.fcfgWrite x) s = execFcfgWrite x s := rfl
theorem exec_rctlWrite (x0) (x1) (s : State) : exec (.rctlWrite x0 x1) s = execRctlWrite x0 x1 s := rfl
theorem exec_rrtailWrite (x0) (x1) (s : State) : exec (.rrtailWrite x0 x1) s = execRrtailWrite x0 x1 s := rfl
theorem exec_rbkaWrite (x0) (x1) (s : State) : exec (.rbkaWrite x0 x1) s = execRbkaWrite x0 x1 s := rfl
theorem exec_elringWrite (x) (s : State) : exec (.elringWrite x) s = execElringWrite x s := rfl
theorem exec_registerWrite (x0) (x1) (x2) (s : State) : exec (.registerWrite x0 x1 x2) s = execRegisterWrite x0 x1 x2 s := rfl
theorem exec_linkTraining (x0) (x1) (s : State) : exec (.linkTraining x0 x1) s = execLinkTraining x0 x1 s := rfl
theorem exec_hostMemoryWaitaEvaluation (x0) (x1) (s : State) : exec (.hostMemoryWaitaEvaluation x0 x1) s = execHostMemoryWaitaEvaluation x0 x1 s := rfl
theorem exec_twinLoss (x) (s : State) : exec (.twinLoss x) s = execTwinLoss x s := rfl
theorem exec_pcieCompletion (x0) (x1) (s : State) : exec (.pcieCompletion x0 x1) s = execPcieCompletion x0 x1 s := rfl
theorem exec_mmaCompletion (x) (s : State) : exec (.mmaCompletion x) s = execMmaCompletion x s := rfl
theorem exec_mldbCompletion (x) (s : State) : exec (.mldbCompletion x) s = execMldbCompletion x s := rfl
theorem exec_changeOfPointComplete (s : State) : exec (.changeOfPointComplete) s = execChangeOfPointComplete s := rfl

end Sys2Proof.Machine
end

