-- ==== Sys2Proof/Laws/Commit.lean ====
section
/-! SUPPORT. From its last slot a clause commits: what the record of a commit-class or transfer instruction leads to. -/
namespace Sys2Proof.Machine
open Sys2Proof Sys2Proof.Safety

/-- The group and the view that a slot acts on. -/
theorem issuing_group {s : State} {g : Nat} {gr : Group} {c : Ctx} (h : issuing? s = some (g, gr, c)) :
    s.group? g = some gr ∧ gr.ctx = some c := by
  unfold issuing? at h
  split at h <;> try contradiction
  split at h <;> try contradiction
  split at h <;> try contradiction
  split at h <;> try contradiction
  simp_all

/-- A view that waits for nothing commits. -/
theorem tryCommit_ready {s0 : State} {g : Nat} {gr : Group} (x : Ctx) (hg : s0.group? g = some gr) (hr : commitReady x = true)
    (hm : commitMay (s0.setCtx g (some x)) { gr with ctx := some x } x = true) (hf : staleFrame (s0.setCtx g (some x)) x = none)
    (hj : judgeTiles (s0.setCtx g (some x)) { gr with ctx := some x } x 16 0 = none) :
    tryCommit (s0.setCtx g (some x)) g
      = commitEnd (commitTail (commitHeld (s0.setCtx g (some x)) g { gr with ctx := some x } x) g x) g x.entry := by
  simp only [tryCommit, group?_setCtx, hg, if_true, Option.map_some, Option.bind_some, hr, hm, Bool.and_true, commitClause, hf, hj]

theorem finished_ready {i : Instr} {gr : Group} {c : Ctx} (t : Tail) (hl : LastSlot c) : commitReady (finished i gr c t) = true := by
  have h1 : (finished i gr c t).slot = c.slot + 1 := by simp [finished]
  have h2 : (finished i gr c t).words = c.words := by simp [finished]
  have h3 : (finished i gr c t).wait = c.wait := by simp [finished]
  have h4 : (finished i gr c t).faults = c.faults := by simp [finished]
  simp [commitReady, h1, h2, h3, h4, hl.1, hl.2.1, hl.2.2]

/-- The view with its record, in a state whose groups are as they were, commits. -/
theorem tryCommit_last {i : Instr} {s0 : State} {g : Nat} {gr : Group} {c : Ctx} (hl : LastSlot c) (hg : s0.group? g = some gr) (t : Tail)
    (hj : CommitOpen i s0 g gr c t) :
    tryCommit (s0.setCtx g (some (finished i gr c t))) g
      = commitEnd (commitTail (heldDone i s0 g gr c t) g (finished i gr c t)) g c.entry := by
  have he : (finished i gr c t).entry = c.entry := by simp [finished]
  rw [tryCommit_ready _ hg (finished_ready t hl) hj.1 hj.2.1 hj.2.2, he]; rfl

/-- A clause that holds no tile operation and no tile store has none that could fail. -/
theorem judgeTiles_none (s : State) (gr : Group) {c : Ctx} (ho : c.tops = []) (ht : c.tsts = []) (n k : Nat) : judgeTiles s gr c n k = none := by
  induction n generalizing s k with
  | zero => rfl
  | succ n ih => simp [judgeTiles, ho, ht, tileOpsBad, ih]

/-- Such a clause commits once the recorder and the frame-type table let it. -/
theorem commitOpen_of_empty {i : Instr} {s0 : State} {g : Nat} {gr : Group} {c : Ctx} {t : Tail} (ho : c.tops = []) (ht : c.tsts = [])
    (hm : commitMay (s0.setCtx g (some (finished i gr c t))) { gr with ctx := some (finished i gr c t) } (finished i gr c t) = true)
    (hf : staleFrame (s0.setCtx g (some (finished i gr c t))) (finished i gr c t) = none) : CommitOpen i s0 g gr c t := by
  have h1 : (finished i gr c t).tops = c.tops := by simp [finished]
  have h2 : (finished i gr c t).tsts = c.tsts := by simp [finished]
  exact ⟨hm, hf, judgeTiles_none _ _ (h1.trans ho) (h2.trans ht) _ _⟩

/-- A commit-class instruction whose checks are passed. -/
theorem commitsOp_of {i : Instr} {s s0 : State} {g : Nat} {gr : Group} {c : Ctx} {p : POp} (hl : LastSlot c) (hg : s0.group? g = some gr)
    (he : exec i s = .next (tryCommit (s0.setCtx g (some (finished i gr c (.commitOp p)))) g)) :
    CommitsOp i s s0 g gr c p := by
  intro hj
  rw [he, tryCommit_last hl hg _ hj]
  have h1 : (finished i gr c (.commitOp p)).entry = c.entry := by simp [finished]
  have h2 : (finished i gr c (.commitOp p)).tail = (.commitOp p) := rfl
  simp only [commitTail, h1, h2]

/-- A transfer whose checks are passed. -/
theorem commitsJump_of {i : Instr} {s : State} {g : Nat} {gr : Group} {c : Ctx} {p : POp} (hl : LastSlot c) (hg : s.group? g = some gr)
    (he : exec i s = .next (tryCommit (s.setCtx g (some (finished i gr c (.jump p)))) g)) :
    CommitsJump i s g gr c p := by
  intro hj
  rw [he, tryCommit_last hl hg _ hj]
  have h1 : (finished i gr c (.jump p)).entry = c.entry := by simp [finished]
  have h2 : (finished i gr c (.jump p)).tail = (.jump p) := rfl
  simp only [commitTail, h1, h2]

/-- Checks that find every access good leave the groups as they were. -/
theorem checked_group {s s0 : State} {g : Nat} {gr : Group} {c : Ctx} {i : Instr} {l n : List Acc} {cu pasid : Nat} {al : Bool} {need : Need}
    {x : List Acc} (h : Ready s g gr c i) (hc : checkAccs s cu pasid al need x = (s0, .ok l n)) : s0.group? g = some gr := by
  have := onlyEngine_checkAccs s cu pasid al need x
  rw [hc] at this
  rw [this.group?]; exact (issuing_group h.1).1

end Sys2Proof.Machine
end

