-- ==== Sys2Proof/Laws/Memory.lean ====
section
/-! SUPPORT. Sparse memory: reading after writing, and the canonical form that every operation keeps. -/
namespace Sys2Proof.Machine.Memory
open Sys2Proof

theorem wfFrom_weaken {lo : Nat} {m : Memory} (h : wfFrom (some lo) m = true) : wfFrom none m = true := by
  cases m with
  | nil => rfl
  | cons p t => obtain ⟨a, b⟩ := p; simp_all [wfFrom]

theorem wfFrom_mono {lo lo' : Nat} {m : Memory} (hl : lo' ≤ lo) (h : wfFrom (some lo) m = true) : wfFrom (some lo') m = true := by
  cases m with
  | nil => rfl
  | cons p t => obtain ⟨a, b⟩ := p; simp_all [wfFrom]; omega

theorem get_below {lo : Nat} {m : Memory} (h : wfFrom (some lo) m = true) {a : Nat} (ha : a ≤ lo) : m.get a = 0 := by
  induction m generalizing lo with
  | nil => rfl
  | cons p t ih =>
    obtain ⟨x, b⟩ := p
    simp only [wfFrom, Bool.and_eq_true, decide_eq_true_eq] at h
    have hx : x ≠ a := by omega
    simp only [get, hx, if_false]
    exact ih h.2 (by omega)

theorem wfFrom_put {lo : Option Nat} {m : Memory} (a : Nat) (b : Byte) (hlo : ∀ l, lo = some l → l < a)
    (h : wfFrom lo m = true) : wfFrom lo (m.put a b) = true := by
  induction m generalizing lo with
  | nil =>
    simp only [put]
    split
    · rfl
    · rename_i hb
      have hb' : (b != 0) = true := by simpa using hb
      cases lo with
      | none => simp only [wfFrom, hb', Bool.and_self]
      | some l => simp only [wfFrom, hb', hlo l rfl, decide_true, Bool.and_self]
  | cons p t ih =>
    obtain ⟨x, c⟩ := p
    simp only [wfFrom, Bool.and_eq_true] at h
    obtain ⟨⟨h1, h2⟩, h3⟩ := h
    simp only [put]
    split
    · rename_i hlt
      split
      · simp only [wfFrom, h1, h2, h3, Bool.and_self]
      · rename_i hb
        have hb' : (b != 0) = true := by simpa using hb
        cases lo with
        | none => simp only [wfFrom, hb', h2, h3, hlt, decide_true, Bool.and_self]
        | some l => simp only [wfFrom, hb', h2, h3, hlt, hlo l rfl, decide_true, Bool.and_self]
    · split
      · rename_i hge heq
        subst heq
        split
        · cases lo with
          | none => exact wfFrom_weaken h3
          | some l => exact wfFrom_mono (Nat.le_of_lt (hlo l rfl)) h3
        · rename_i hb
          simp only [wfFrom, h1, h3, Bool.and_true, Bool.true_and]
          simpa using hb
      · rename_i hge hne
        have hx : x < a := by omega
        simp only [wfFrom, h1, h2, Bool.true_and]
        exact ih (fun l hl => by cases hl; exact hx) h3

theorem wf_put {m : Memory} (a : Nat) (b : Byte) (h : m.wf = true) : (m.put a b).wf = true :=
  wfFrom_put a b (by simp) h

theorem wf_putN {m : Memory} (a : Nat) (bs : List Byte) (h : m.wf = true) : (m.putN a bs).wf = true := by
  induction bs generalizing m a with
  | nil => exact h
  | cons b t ih => exact ih (a + 1) (wf_put a b h)

theorem get_put_from {lo : Option Nat} {m : Memory} (a a' : Nat) (b : Byte) (h : wfFrom lo m = true) :
    (m.put a b).get a' = if a' = a then b else m.get a' := by
  induction m generalizing lo with
  | nil =>
    simp only [put]
    by_cases ha : a' = a
    · subst ha; split <;> simp_all [get]
    · split <;> simp [get, Ne.symm ha]
  | cons p t ih =>
    obtain ⟨x, c⟩ := p
    simp only [wfFrom, Bool.and_eq_true] at h
    obtain ⟨-, h3⟩ := h
    simp only [put]
    split
    · rename_i hlt
      split
      · rename_i hb
        by_cases ha : a' = a
        · subst ha
          have : x ≠ a' := by omega
          simp [get, this, hb, get_below h3 (Nat.le_of_lt hlt)]
        · simp [get, ha]
      · by_cases ha : a' = a
        · simp [get, ha]
        · simp [get, ha, Ne.symm ha]
    · split
      · rename_i hge heq
        subst heq
        split
        · rename_i hb
          by_cases ha : a' = a
          · subst ha; simp [hb, get_below h3 (Nat.le_refl _)]
          · simp [get, ha, Ne.symm ha]
        · by_cases ha : a' = a
          · simp [get, ha]
          · simp [get, ha, Ne.symm ha]
      · rename_i hge hne
        simp only [get]
        split
        · rename_i hx
          have : a' ≠ a := by omega
          simp [this]
        · exact ih h3

/-- A read after a write gives the byte written there and every other byte as before. -/
theorem get_put {m : Memory} (a a' : Nat) (b : Byte) (h : m.wf = true) :
    (m.put a b).get a' = if a' = a then b else m.get a' := get_put_from a a' b h

/-- Bytes outside a write are unchanged. -/
theorem get_putN_of_outside {m : Memory} (a a' : Nat) (bs : List Byte) (h : m.wf = true) (ho : a' < a ∨ a + bs.length ≤ a') :
    (m.putN a bs).get a' = m.get a' := by
  induction bs generalizing m a with
  | nil => rfl
  | cons b t ih =>
    simp only [List.length_cons] at ho
    simp only [putN]
    rw [ih (a + 1) (wf_put a b h) (by omega), get_put a a' b h]
    simp [show a' ≠ a by omega]

/-- Bytes inside a write are the bytes written. -/
theorem get_putN_of_inside {m : Memory} (a k : Nat) (bs : List Byte) (h : m.wf = true) (hk : k < bs.length) :
    (m.putN a bs).get (a + k) = bs.getD k 0 := by
  induction bs generalizing m a k with
  | nil => simp at hk
  | cons b t ih =>
    simp only [putN]
    cases k with
    | zero =>
      rw [get_putN_of_outside (a + 1) (a + 0) t (wf_put a b h) (by omega), get_put a (a + 0) b h]
      simp
    | succ k =>
      have := ih (a + 1) k (wf_put a b h) (by simpa using hk)
      simpa [Nat.add_comm, Nat.add_left_comm, Nat.add_assoc] using this

end Sys2Proof.Machine.Memory
end

