-- ==== Sys2Proof/Laws/PerInstr.lean ====
section
/-! SUPPORT. Statements about each instruction as syntax: the word of an instruction has its opcode in its low eight bits, in every
format of R54 and R231. -/
namespace Sys2Proof.Laws

theorem low8_append {n : Nat} (hi : BitVec n) (op : BitVec 8) : (hi ++ op).extractLsb' 0 8 = op := by
  ext k hk
  simp [BitVec.getLsbD_append, hk]

/-- The low eight bits of the word of an instruction are its opcode. -/
def Opcode.Statement (i : Instr) : Prop := ∀ w, encode i = some w → w.extractLsb' 0 8 = i.opcode

@[simp] theorem packF3_low8 (op : BitVec 8) (f : F3) : (packF3 op f).extractLsb' 0 8 = op := by
  unfold packF3; exact low8_append ..
@[simp] theorem packFI_low8 (op : BitVec 8) (f : FI) : (packFI op f).extractLsb' 0 8 = op := by
  unfold packFI; exact low8_append ..
@[simp] theorem packFM_low8 (op : BitVec 8) (f : FM) : (packFM op f).extractLsb' 0 8 = op := by
  unfold packFM; exact low8_append ..
@[simp] theorem packFA_low8 (op : BitVec 8) (f : FA) : (packFA op f).extractLsb' 0 8 = op := by
  unfold packFA; exact low8_append ..
@[simp] theorem packFB_low8 (op : BitVec 8) (f : FB) : (packFB op f).extractLsb' 0 8 = op := by
  unfold packFB; exact low8_append ..
@[simp] theorem packFS_low8 (op : BitVec 8) (f : FS) : (packFS op f).extractLsb' 0 8 = op := by
  unfold packFS; exact low8_append ..
@[simp] theorem packCA_low8 (op : BitVec 8) (f : CA) : (packCA op f).extractLsb' 0 8 = op := by
  unfold packCA; exact low8_append ..
@[simp] theorem packCB_low8 (op : BitVec 8) (f : CB) : (packCB op f).extractLsb' 0 8 = op := by
  unfold packCB; exact low8_append ..
@[simp] theorem packCM_low8 (op : BitVec 8) (f : CM) : (packCM op f).extractLsb' 0 8 = op := by
  unfold packCM; exact low8_append ..

/-- Every word that the formats make has the opcode that it was made with. -/
theorem opcode_of_encode (i : Instr) : Opcode.Statement i := by
  intro w h
  unfold encode at h
  split at h <;> first | (injection h with h; subst h; simp) | cases h

theorem Opcode.add (f : F3) : Opcode.Statement (.add f) := opcode_of_encode _
theorem Opcode.sub (f : F3) : Opcode.Statement (.sub f) := opcode_of_encode _
theorem Opcode.mul (f : F3) : Opcode.Statement (.mul f) := opcode_of_encode _
theorem Opcode.mulhi (f : F3) : Opcode.Statement (.mulhi f) := opcode_of_encode _
theorem Opcode.mad (f : F3) : Opcode.Statement (.mad f) := opcode_of_encode _
theorem Opcode.min (f : F3) : Opcode.Statement (.min f) := opcode_of_encode _
theorem Opcode.max (f : F3) : Opcode.Statement (.max f) := opcode_of_encode _
theorem Opcode.adif (f : F3) : Opcode.Statement (.adif f) := opcode_of_encode _
theorem Opcode.and (f : F3) : Opcode.Statement (.and f) := opcode_of_encode _
theorem Opcode.or (f : F3) : Opcode.Statement (.or f) := opcode_of_encode _
theorem Opcode.xor (f : F3) : Opcode.Statement (.xor f) := opcode_of_encode _
theorem Opcode.not (f : F3) : Opcode.Statement (.not f) := opcode_of_encode _
theorem Opcode.shl (f : F3) : Opcode.Statement (.shl f) := opcode_of_encode _
theorem Opcode.shr (f : F3) : Opcode.Statement (.shr f) := opcode_of_encode _
theorem Opcode.rot (f : F3) : Opcode.Statement (.rot f) := opcode_of_encode _
theorem Opcode.sel (f : F3) : Opcode.Statement (.sel f) := opcode_of_encode _
theorem Opcode.cmp (f : F3) : Opcode.Statement (.cmp f) := opcode_of_encode _
theorem Opcode.clz (f : F3) : Opcode.Statement (.clz f) := opcode_of_encode _
theorem Opcode.popc (f : F3) : Opcode.Statement (.popc f) := opcode_of_encode _
theorem Opcode.brev (f : F3) : Opcode.Statement (.brev f) := opcode_of_encode _
theorem Opcode.bfe (f : F3) : Opcode.Statement (.bfe f) := opcode_of_encode _
theorem Opcode.bfi (f : F3) : Opcode.Statement (.bfi f) := opcode_of_encode _
theorem Opcode.lane (f : F3) : Opcode.Statement (.lane f) := opcode_of_encode _
theorem Opcode.mov (f : F3) : Opcode.Statement (.mov f) := opcode_of_encode _
theorem Opcode.addi (f : FI) : Opcode.Statement (.addi f) := opcode_of_encode _
theorem Opcode.andi (f : FI) : Opcode.Statement (.andi f) := opcode_of_encode _
theorem Opcode.ori (f : FI) : Opcode.Statement (.ori f) := opcode_of_encode _
theorem Opcode.xori (f : FI) : Opcode.Statement (.xori f) := opcode_of_encode _
theorem Opcode.movi (f : FI) : Opcode.Statement (.movi f) := opcode_of_encode _
theorem Opcode.muli (f : FI) : Opcode.Statement (.muli f) := opcode_of_encode _
theorem Opcode.sadd (f : F3) : Opcode.Statement (.sadd f) := opcode_of_encode _
theorem Opcode.ssub (f : F3) : Opcode.Statement (.ssub f) := opcode_of_encode _
theorem Opcode.smul (f : F3) : Opcode.Statement (.smul f) := opcode_of_encode _
theorem Opcode.smulhi (f : F3) : Opcode.Statement (.smulhi f) := opcode_of_encode _
theorem Opcode.smin (f : F3) : Opcode.Statement (.smin f) := opcode_of_encode _
theorem Opcode.smax (f : F3) : Opcode.Statement (.smax f) := opcode_of_encode _
theorem Opcode.sand (f : F3) : Opcode.Statement (.sand f) := opcode_of_encode _
theorem Opcode.sor (f : F3) : Opcode.Statement (.sor f) := opcode_of_encode _
theorem Opcode.sxor (f : F3) : Opcode.Statement (.sxor f) := opcode_of_encode _
theorem Opcode.sshl (f : F3) : Opcode.Statement (.sshl f) := opcode_of_encode _
theorem Opcode.sshr (f : F3) : Opcode.Statement (.sshr f) := opcode_of_encode _
theorem Opcode.scmp (f : F3) : Opcode.Statement (.scmp f) := opcode_of_encode _
theorem Opcode.smov (f : F3) : Opcode.Statement (.smov f) := opcode_of_encode _
theorem Opcode.sclz (f : F3) : Opcode.Statement (.sclz f) := opcode_of_encode _
theorem Opcode.spopc (f : F3) : Opcode.Statement (.spopc f) := opcode_of_encode _
theorem Opcode.saddi (f : FI) : Opcode.Statement (.saddi f) := opcode_of_encode _
theorem Opcode.sandi (f : FI) : Opcode.Statement (.sandi f) := opcode_of_encode _
theorem Opcode.sori (f : FI) : Opcode.Statement (.sori f) := opcode_of_encode _
theorem Opcode.sxori (f : FI) : Opcode.Statement (.sxori f) := opcode_of_encode _
theorem Opcode.smovi (f : FI) : Opcode.Statement (.smovi f) := opcode_of_encode _
theorem Opcode.scmpi (f : FI) : Opcode.Statement (.scmpi f) := opcode_of_encode _
theorem Opcode.qop (f : F3) : Opcode.Statement (.qop f) := opcode_of_encode _
theorem Opcode.qtest (f : F3) : Opcode.Statement (.qtest f) := opcode_of_encode _
theorem Opcode.lea (f : F3) : Opcode.Statement (.lea f) := opcode_of_encode _
theorem Opcode.slea (f : F3) : Opcode.Statement (.slea f) := opcode_of_encode _
theorem Opcode.fadd (f : F3) : Opcode.Statement (.fadd f) := opcode_of_encode _
theorem Opcode.fsub (f : F3) : Opcode.Statement (.fsub f) := opcode_of_encode _
theorem Opcode.fmul (f : F3) : Opcode.Statement (.fmul f) := opcode_of_encode _
theorem Opcode.fma (f : F3) : Opcode.Statement (.fma f) := opcode_of_encode _
theorem Opcode.fmin (f : F3) : Opcode.Statement (.fmin f) := opcode_of_encode _
theorem Opcode.fmax (f : F3) : Opcode.Statement (.fmax f) := opcode_of_encode _
theorem Opcode.fsgn (f : F3) : Opcode.Statement (.fsgn f) := opcode_of_encode _
theorem Opcode.fcmp (f : F3) : Opcode.Statement (.fcmp f) := opcode_of_encode _
theorem Opcode.fclass (f : F3) : Opcode.Statement (.fclass f) := opcode_of_encode _
theorem Opcode.frnd (f : F3) : Opcode.Statement (.frnd f) := opcode_of_encode _
theorem Opcode.sfadd (f : F3) : Opcode.Statement (.sfadd f) := opcode_of_encode _
theorem Opcode.sfmul (f : F3) : Opcode.Statement (.sfmul f) := opcode_of_encode _
theorem Opcode.sfma (f : F3) : Opcode.Statement (.sfma f) := opcode_of_encode _
theorem Opcode.sfcmp (f : F3) : Opcode.Statement (.sfcmp f) := opcode_of_encode _
theorem Opcode.cvt (f : F3) : Opcode.Statement (.cvt f) := opcode_of_encode _
theorem Opcode.scvt (f : F3) : Opcode.Statement (.scvt f) := opcode_of_encode _
theorem Opcode.pack2 (f : F3) : Opcode.Statement (.pack2 f) := opcode_of_encode _
theorem Opcode.unpack (f : F3) : Opcode.Statement (.unpack f) := opcode_of_encode _
theorem Opcode.scale (f : F3) : Opcode.Statement (.scale f) := opcode_of_encode _
theorem Opcode.fdot2 (f : F3) : Opcode.Statement (.fdot2 f) := opcode_of_encode _
theorem Opcode.exp2 (f : F3) : Opcode.Statement (.exp2 f) := opcode_of_encode _
theorem Opcode.log2 (f : F3) : Opcode.Statement (.log2 f) := opcode_of_encode _
theorem Opcode.rcp (f : F3) : Opcode.Statement (.rcp f) := opcode_of_encode _
theorem Opcode.rsq (f : F3) : Opcode.Statement (.rsq f) := opcode_of_encode _
theorem Opcode.sqrt (f : F3) : Opcode.Statement (.sqrt f) := opcode_of_encode _
theorem Opcode.sin (f : F3) : Opcode.Statement (.sin f) := opcode_of_encode _
theorem Opcode.cos (f : F3) : Opcode.Statement (.cos f) := opcode_of_encode _
theorem Opcode.tanh (f : F3) : Opcode.Statement (.tanh f) := opcode_of_encode _
theorem Opcode.sfn (f : F3) : Opcode.Statement (.sfn f) := opcode_of_encode _
theorem Opcode.shfl (f : F3) : Opcode.Statement (.shfl f) := opcode_of_encode _
theorem Opcode.shflup (f : F3) : Opcode.Statement (.shflup f) := opcode_of_encode _
theorem Opcode.shfldn (f : F3) : Opcode.Statement (.shfldn f) := opcode_of_encode _
theorem Opcode.shflx (f : F3) : Opcode.Statement (.shflx f) := opcode_of_encode _
theorem Opcode.bcast (f : F3) : Opcode.Statement (.bcast f) := opcode_of_encode _
theorem Opcode.red (f : F3) : Opcode.Statement (.red f) := opcode_of_encode _
theorem Opcode.scan (f : F3) : Opcode.Statement (.scan f) := opcode_of_encode _
theorem Opcode.ballot (f : F3) : Opcode.Statement (.ballot f) := opcode_of_encode _
theorem Opcode.vote (f : F3) : Opcode.Statement (.vote f) := opcode_of_encode _
theorem Opcode.popl (f : F3) : Opcode.Statement (.popl f) := opcode_of_encode _
theorem Opcode.first (f : F3) : Opcode.Statement (.first f) := opcode_of_encode _
theorem Opcode.rdlane (f : F3) : Opcode.Statement (.rdlane f) := opcode_of_encode _
theorem Opcode.wrlane (f : F3) : Opcode.Statement (.wrlane f) := opcode_of_encode _
theorem Opcode.ldN8 (f : FM) : Opcode.Statement (.ldN8 f) := opcode_of_encode _
theorem Opcode.ldI8 (f : FM) : Opcode.Statement (.ldI8 f) := opcode_of_encode _
theorem Opcode.ldN16 (f : FM) : Opcode.Statement (.ldN16 f) := opcode_of_encode _
theorem Opcode.ldI16 (f : FM) : Opcode.Statement (.ldI16 f) := opcode_of_encode _
theorem Opcode.ldB32 (f : FM) : Opcode.Statement (.ldB32 f) := opcode_of_encode _
theorem Opcode.ldB64 (f : FM) : Opcode.Statement (.ldB64 f) := opcode_of_encode _
theorem Opcode.stN8 (f : FM) : Opcode.Statement (.stN8 f) := opcode_of_encode _
theorem Opcode.stN16 (f : FM) : Opcode.Statement (.stN16 f) := opcode_of_encode _
theorem Opcode.stB32 (f : FM) : Opcode.Statement (.stB32 f) := opcode_of_encode _
theorem Opcode.stB64 (f : FM) : Opcode.Statement (.stB64 f) := opcode_of_encode _
theorem Opcode.sldB32 (f : FM) : Opcode.Statement (.sldB32 f) := opcode_of_encode _
theorem Opcode.sldB64 (f : FM) : Opcode.Statement (.sldB64 f) := opcode_of_encode _
theorem Opcode.sstB32 (f : FM) : Opcode.Statement (.sstB32 f) := opcode_of_encode _
theorem Opcode.sstB64 (f : FM) : Opcode.Statement (.sstB64 f) := opcode_of_encode _
theorem Opcode.fence (f : FM) : Opcode.Statement (.fence f) := opcode_of_encode _
theorem Opcode.pref (f : FM) : Opcode.Statement (.pref f) := opcode_of_encode _
theorem Opcode.pgreq (f : FM) : Opcode.Statement (.pgreq f) := opcode_of_encode _
theorem Opcode.talloc (f : F3) : Opcode.Statement (.talloc f) := opcode_of_encode _
theorem Opcode.tfree (f : F3) : Opcode.Statement (.tfree f) := opcode_of_encode _
theorem Opcode.tld (f : F3) : Opcode.Statement (.tld f) := opcode_of_encode _
theorem Opcode.tldXp8 (f : F3) : Opcode.Statement (.tldXp8 f) := opcode_of_encode _
theorem Opcode.tldXp16 (f : F3) : Opcode.Statement (.tldXp16 f) := opcode_of_encode _
theorem Opcode.tst (f : F3) : Opcode.Statement (.tst f) := opcode_of_encode _
theorem Opcode.seal (f : FM) : Opcode.Statement (.seal f) := opcode_of_encode _
theorem Opcode.reuse (f : FM) : Opcode.Statement (.reuse f) := opcode_of_encode _
theorem Opcode.flush (f : FM) : Opcode.Statement (.flush f) := opcode_of_encode _
theorem Opcode.reshint (f : FM) : Opcode.Statement (.reshint f) := opcode_of_encode _
theorem Opcode.atom (f : FA) : Opcode.Statement (.atom f) := opcode_of_encode _
theorem Opcode.satom (f : FA) : Opcode.Statement (.satom f) := opcode_of_encode _
theorem Opcode.redM (f : FA) : Opcode.Statement (.redM f) := opcode_of_encode _
theorem Opcode.barv (f : FS) : Opcode.Statement (.barv f) := opcode_of_encode _
theorem Opcode.bwait (f : FS) : Opcode.Statement (.bwait f) := opcode_of_encode _
theorem Opcode.barw (f : FS) : Opcode.Statement (.barw f) := opcode_of_encode _
theorem Opcode.bgrp (f : FS) : Opcode.Statement (.bgrp f) := opcode_of_encode _
theorem Opcode.gjoin (f : FS) : Opcode.Statement (.gjoin f) := opcode_of_encode _
theorem Opcode.gleave (f : FS) : Opcode.Statement (.gleave f) := opcode_of_encode _
theorem Opcode.waita (f : FA) : Opcode.Statement (.waita f) := opcode_of_encode _
theorem Opcode.waitat (f : FA) : Opcode.Statement (.waitat f) := opcode_of_encode _
theorem Opcode.rdv (f : FS) : Opcode.Statement (.rdv f) := opcode_of_encode _
theorem Opcode.fst (f : FA) : Opcode.Statement (.fst f) := opcode_of_encode _
theorem Opcode.fld (f : FA) : Opcode.Statement (.fld f) := opcode_of_encode _
theorem Opcode.fatom (f : FA) : Opcode.Statement (.fatom f) := opcode_of_encode _
theorem Opcode.ffence (f : FA) : Opcode.Statement (.ffence f) := opcode_of_encode _
theorem Opcode.coll (f : FS) : Opcode.Statement (.coll f) := opcode_of_encode _
theorem Opcode.fwaitc (f : FS) : Opcode.Statement (.fwaitc f) := opcode_of_encode _
theorem Opcode.br (f : FB) : Opcode.Statement (.br f) := opcode_of_encode _
theorem Opcode.brany (f : FB) : Opcode.Statement (.brany f) := opcode_of_encode _
theorem Opcode.brnone (f : FB) : Opcode.Statement (.brnone f) := opcode_of_encode _
theorem Opcode.call (f : FB) : Opcode.Statement (.call f) := opcode_of_encode _
theorem Opcode.calli (f : F3) : Opcode.Statement (.calli f) := opcode_of_encode _
theorem Opcode.jmpi (f : F3) : Opcode.Statement (.jmpi f) := opcode_of_encode _
theorem Opcode.ret (f : F3) : Opcode.Statement (.ret f) := opcode_of_encode _
theorem Opcode.mark (f : FB) : Opcode.Statement (.mark f) := opcode_of_encode _
theorem Opcode.forkm (f : FB) : Opcode.Statement (.forkm f) := opcode_of_encode _
theorem Opcode.join (f : F3) : Opcode.Statement (.join f) := opcode_of_encode _
theorem Opcode.exit (f : F3) : Opcode.Statement (.exit f) := opcode_of_encode _
theorem Opcode.mfeed (f : F3) : Opcode.Statement (.mfeed f) := opcode_of_encode _
theorem Opcode.mfeedt (f : F3) : Opcode.Statement (.mfeedt f) := opcode_of_encode _
theorem Opcode.mdrain (f : F3) : Opcode.Statement (.mdrain f) := opcode_of_encode _
theorem Opcode.mdrainTl (f : F3) : Opcode.Statement (.mdrainTl f) := opcode_of_encode _
theorem Opcode.fork (f : FS) : Opcode.Statement (.fork f) := opcode_of_encode _
theorem Opcode.csrr (f : FS) : Opcode.Statement (.csrr f) := opcode_of_encode _
theorem Opcode.csrw (f : FS) : Opcode.Statement (.csrw f) := opcode_of_encode _
theorem Opcode.sigchk (f : FI) : Opcode.Statement (.sigchk f) := opcode_of_encode _
theorem Opcode.trap (f : FS) : Opcode.Statement (.trap f) := opcode_of_encode _
theorem Opcode.trapAbort (f : FS) : Opcode.Statement (.trapAbort f) := opcode_of_encode _
theorem Opcode.brk (f : FS) : Opcode.Statement (.brk f) := opcode_of_encode _
theorem Opcode.time (f : FS) : Opcode.Statement (.time f) := opcode_of_encode _
theorem Opcode.perf (f : FS) : Opcode.Statement (.perf f) := opcode_of_encode _
theorem Opcode.nop (f : FS) : Opcode.Statement (.nop f) := opcode_of_encode _
theorem Opcode.recmark (f : FS) : Opcode.Statement (.recmark f) := opcode_of_encode _
theorem Opcode.recmode (f : FS) : Opcode.Statement (.recmode f) := opcode_of_encode _
theorem Opcode.spawn (f : FS) : Opcode.Statement (.spawn f) := opcode_of_encode _
theorem Opcode.tdep (f : FS) : Opcode.Statement (.tdep f) := opcode_of_encode _
theorem Opcode.cadd (f : CA) : Opcode.Statement (.cadd f) := opcode_of_encode _
theorem Opcode.csub (f : CA) : Opcode.Statement (.csub f) := opcode_of_encode _
theorem Opcode.cmul (f : CA) : Opcode.Statement (.cmul f) := opcode_of_encode _
theorem Opcode.cand (f : CA) : Opcode.Statement (.cand f) := opcode_of_encode _
theorem Opcode.cor (f : CA) : Opcode.Statement (.cor f) := opcode_of_encode _
theorem Opcode.cxor (f : CA) : Opcode.Statement (.cxor f) := opcode_of_encode _
theorem Opcode.cshl (f : CA) : Opcode.Statement (.cshl f) := opcode_of_encode _
theorem Opcode.cshr (f : CA) : Opcode.Statement (.cshr f) := opcode_of_encode _
theorem Opcode.cmovi (f : CA) : Opcode.Statement (.cmovi f) := opcode_of_encode _
theorem Opcode.cmoviHi (f : CA) : Opcode.Statement (.cmoviHi f) := opcode_of_encode _
theorem Opcode.ccmp (f : CA) : Opcode.Statement (.ccmp f) := opcode_of_encode _
theorem Opcode.cld (f : CA) : Opcode.Statement (.cld f) := opcode_of_encode _
theorem Opcode.cst (f : CA) : Opcode.Statement (.cst f) := opcode_of_encode _
theorem Opcode.cbr (f : CB) : Opcode.Statement (.cbr f) := opcode_of_encode _
theorem Opcode.cloop (f : CB) : Opcode.Statement (.cloop f) := opcode_of_encode _
theorem Opcode.cjmp (f : CA) : Opcode.Statement (.cjmp f) := opcode_of_encode _
theorem Opcode.cexit (f : CA) : Opcode.Statement (.cexit f) := opcode_of_encode _
theorem Opcode.crdv (f : CA) : Opcode.Statement (.crdv f) := opcode_of_encode _
theorem Opcode.mzero (f : CM) : Opcode.Statement (.mzero f) := opcode_of_encode _
theorem Opcode.mma (f : CM) : Opcode.Statement (.mma f) := opcode_of_encode _
theorem Opcode.mscaleA (f : CM) : Opcode.Statement (.mscaleA f) := opcode_of_encode _
theorem Opcode.mscaleB (f : CM) : Opcode.Statement (.mscaleB f) := opcode_of_encode _
theorem Opcode.mldb (f : CM) : Opcode.Statement (.mldb f) := opcode_of_encode _
theorem Opcode.mldbM (f : CM) : Opcode.Statement (.mldbM f) := opcode_of_encode _
theorem Opcode.mpub (f : CM) : Opcode.Statement (.mpub f) := opcode_of_encode _
theorem Opcode.mdone (f : CM) : Opcode.Statement (.mdone f) := opcode_of_encode _
theorem Opcode.mstamp (f : CM) : Opcode.Statement (.mstamp f) := opcode_of_encode _
theorem Opcode.mwaitPub (f : CM) : Opcode.Statement (.mwaitPub f) := opcode_of_encode _
theorem Opcode.mwaitA (f : CM) : Opcode.Statement (.mwaitA f) := opcode_of_encode _
theorem Opcode.clauseFetch (g e : Nat) : Opcode.Statement (.clauseFetch g e) := opcode_of_encode _
theorem Opcode.fragmentSelect (p : Nat) : Opcode.Statement (.fragmentSelect p) := opcode_of_encode _
theorem Opcode.ageingForce (g e : Nat) : Opcode.Statement (.ageingForce g e) := opcode_of_encode _
theorem Opcode.clauseCommit (g : Nat) : Opcode.Statement (.clauseCommit g) := opcode_of_encode _
theorem Opcode.tokenClear (g t : Nat) : Opcode.Statement (.tokenClear g t) := opcode_of_encode _
theorem Opcode.lateFaultReport (r : Nat) : Opcode.Statement (.lateFaultReport r) := opcode_of_encode _
theorem Opcode.debugHalt (cap g e : Nat) : Opcode.Statement (.debugHalt cap g e) := opcode_of_encode _
theorem Opcode.debugResume (cap g e : Nat) : Opcode.Statement (.debugResume cap g e) := opcode_of_encode _
theorem Opcode.groupRetire (g : Nat) : Opcode.Statement (.groupRetire g) := opcode_of_encode _
theorem Opcode.blockRetire (b : BlockId) : Opcode.Statement (.blockRetire b) := opcode_of_encode _
theorem Opcode.task (q slot : Nat) : Opcode.Statement (.task q slot) := opcode_of_encode _
theorem Opcode.graph (q slot : Nat) : Opcode.Statement (.graph q slot) := opcode_of_encode _
theorem Opcode.gdef (q slot : Nat) : Opcode.Statement (.gdef q slot) := opcode_of_encode _
theorem Opcode.gdrop (q slot : Nat) : Opcode.Statement (.gdrop q slot) := opcode_of_encode _
theorem Opcode.spawnParse (q slot : Nat) : Opcode.Statement (.spawnParse q slot) := opcode_of_encode _
theorem Opcode.gangPlace (p : Placement) : Opcode.Statement (.gangPlace p) := opcode_of_encode _
theorem Opcode.rangeRequest (die slot n : Nat) : Opcode.Statement (.rangeRequest die slot n) := opcode_of_encode _
theorem Opcode.reportWrite (q : Nat) : Opcode.Statement (.reportWrite q) := opcode_of_encode _
theorem Opcode.swapOut (b : BlockId) (gs : List Nat) : Opcode.Statement (.swapOut b gs) := opcode_of_encode _
theorem Opcode.swapIn (b : BlockId) (gs : List (Nat × Nat)) : Opcode.Statement (.swapIn b gs) := opcode_of_encode _
theorem Opcode.syscallRequest (g : Nat) : Opcode.Statement (.syscallRequest g) := opcode_of_encode _
theorem Opcode.syscallReply (n : Nat) : Opcode.Statement (.syscallReply n) := opcode_of_encode _
theorem Opcode.gangKill (g : GangId) (cause : Nat) : Opcode.Statement (.gangKill g cause) := opcode_of_encode _
theorem Opcode.dieFailure (die : Nat) : Opcode.Statement (.dieFailure die) := opcode_of_encode _
theorem Opcode.hbmStackFailure (stack : Nat) (chan : Option Nat) : Opcode.Statement (.hbmStackFailure stack chan) := opcode_of_encode _
theorem Opcode.hostLinkFault : Opcode.Statement (.hostLinkFault) := opcode_of_encode _
theorem Opcode.hostLinkRetrain : Opcode.Statement (.hostLinkRetrain) := opcode_of_encode _
theorem Opcode.deviceFailure : Opcode.Statement (.deviceFailure) := opcode_of_encode _
theorem Opcode.loadRequest (r : Nat) : Opcode.Statement (.loadRequest r) := opcode_of_encode _
theorem Opcode.loadResponse (r : Nat) : Opcode.Statement (.loadResponse r) := opcode_of_encode _
theorem Opcode.storeRequest (r : Nat) : Opcode.Statement (.storeRequest r) := opcode_of_encode _
theorem Opcode.atomicRequest (r : Nat) : Opcode.Statement (.atomicRequest r) := opcode_of_encode _
theorem Opcode.releaseWalk (r : Nat) : Opcode.Statement (.releaseWalk r) := opcode_of_encode _
theorem Opcode.holdReservation (r : Nat) : Opcode.Statement (.holdReservation r) := opcode_of_encode _
theorem Opcode.reservationGrant (r : Nat) : Opcode.Statement (.reservationGrant r) := opcode_of_encode _
theorem Opcode.l1Invalidation (cu line : Nat) : Opcode.Statement (.l1Invalidation cu line) := opcode_of_encode _
theorem Opcode.l1Fill (cu line : Nat) : Opcode.Statement (.l1Fill cu line) := opcode_of_encode _
theorem Opcode.l3Eviction (line : Nat) : Opcode.Statement (.l3Eviction line) := opcode_of_encode _
theorem Opcode.hostRead (addr n : Nat) : Opcode.Statement (.hostRead addr n) := opcode_of_encode _
theorem Opcode.hostWrite (pasid addr : Nat) (bs : List Byte) : Opcode.Statement (.hostWrite pasid addr bs) := opcode_of_encode _
theorem Opcode.hostOwnershipRequest (line : Nat) (excl : Bool) : Opcode.Statement (.hostOwnershipRequest line excl) := opcode_of_encode _
theorem Opcode.biResponse (line : Nat) (bs : List Byte) : Opcode.Statement (.biResponse line bs) := opcode_of_encode _
theorem Opcode.hbmRead (line : Nat) (c : HbmCond) : Opcode.Statement (.hbmRead line c) := opcode_of_encode _
theorem Opcode.patrolScrub : Opcode.Statement .patrolScrub := opcode_of_encode _
theorem Opcode.pageWalk (cu pasid va : Nat) : Opcode.Statement (.pageWalk cu pasid va) := opcode_of_encode _
theorem Opcode.pageRequestSend (pasid n : Nat) : Opcode.Statement (.pageRequestSend pasid n) := opcode_of_encode _
theorem Opcode.pgparkTimeout (g e : Nat) : Opcode.Statement (.pgparkTimeout g e) := opcode_of_encode _
theorem Opcode.prgResponse (grp : Nat) (c : PrgCode) : Opcode.Statement (.prgResponse grp c) := opcode_of_encode _
theorem Opcode.tlbiRange (pasid va n : Nat) : Opcode.Statement (.tlbiRange pasid va n) := opcode_of_encode _
theorem Opcode.tlbiPasid (pasid : Nat) : Opcode.Statement (.tlbiPasid pasid) := opcode_of_encode _
theorem Opcode.tlbiAll : Opcode.Statement (.tlbiAll) := opcode_of_encode _
theorem Opcode.tlbiDone : Opcode.Statement (.tlbiDone) := opcode_of_encode _
theorem Opcode.retypeBegin (n : Nat) (ct : BitVec 2) : Opcode.Statement (.retypeBegin n ct) := opcode_of_encode _
theorem Opcode.retypeApply : Opcode.Statement (.retypeApply) := opcode_of_encode _
theorem Opcode.retypeCancel : Opcode.Statement (.retypeCancel) := opcode_of_encode _
theorem Opcode.copyChunk (i : Nat) : Opcode.Statement (.copyChunk i) := opcode_of_encode _
theorem Opcode.copyFlagWrite (i : Nat) : Opcode.Statement (.copyFlagWrite i) := opcode_of_encode _
theorem Opcode.ttuTranslate (i page : Nat) : Opcode.Statement (.ttuTranslate i page) := opcode_of_encode _
theorem Opcode.ldreq (port : Nat) (pk : Packet) : Opcode.Statement (.ldreq port pk) := opcode_of_encode _
theorem Opcode.atreq (port : Nat) (pk : Packet) : Opcode.Statement (.atreq port pk) := opcode_of_encode _
theorem Opcode.streq (port : Nat) (pk : Packet) : Opcode.Statement (.streq port pk) := opcode_of_encode _
theorem Opcode.ldrsp (port : Nat) (pk : Packet) : Opcode.Statement (.ldrsp port pk) := opcode_of_encode _
theorem Opcode.atrsp (port : Nat) (pk : Packet) : Opcode.Statement (.atrsp port pk) := opcode_of_encode _
theorem Opcode.stack (port : Nat) (pk : Packet) : Opcode.Statement (.stack port pk) := opcode_of_encode _
theorem Opcode.fencePacket (port : Nat) (pk : Packet) : Opcode.Statement (.fencePacket port pk) := opcode_of_encode _
theorem Opcode.fenack (port : Nat) (pk : Packet) : Opcode.Statement (.fenack port pk) := opcode_of_encode _
theorem Opcode.cdata (port : Nat) (pk : Packet) : Opcode.Statement (.cdata port pk) := opcode_of_encode _
theorem Opcode.cctl (port : Nat) (pk : Packet) : Opcode.Statement (.cctl port pk) := opcode_of_encode _
theorem Opcode.collectiveComplete (slot n : Nat) : Opcode.Statement (.collectiveComplete slot n) := opcode_of_encode _
theorem Opcode.logfrm (port : Nat) (pk : Packet) : Opcode.Statement (.logfrm port pk) := opcode_of_encode _
theorem Opcode.ckpt (port : Nat) (pk : Packet) : Opcode.Statement (.ckpt port pk) := opcode_of_encode _
theorem Opcode.idleFlit (port lack : Nat) (stop : BitVec 4) : Opcode.Statement (.idleFlit port lack stop) := opcode_of_encode _
theorem Opcode.resendRequest (port seq : Nat) : Opcode.Statement (.resendRequest port seq) := opcode_of_encode _
theorem Opcode.badFlit (port : Nat) : Opcode.Statement (.badFlit port) := opcode_of_encode _
theorem Opcode.retryTimeout (port : Nat) : Opcode.Statement (.retryTimeout port) := opcode_of_encode _
theorem Opcode.arbitrationDecision (port : Nat) : Opcode.Statement (.arbitrationDecision port) := opcode_of_encode _
theorem Opcode.ftoTimeout (r : Nat) : Opcode.Statement (.ftoTimeout r) := opcode_of_encode _
theorem Opcode.frameWrite (part src : Nat) (body : List Byte) : Opcode.Statement (.frameWrite part src body) := opcode_of_encode _
theorem Opcode.twinProgress (part n : Nat) : Opcode.Statement (.twinProgress part n) := opcode_of_encode _
theorem Opcode.replayChunkStart (g e : Nat) : Opcode.Statement (.replayChunkStart g e) := opcode_of_encode _
theorem Opcode.replayBreakpoint (part k : Nat) : Opcode.Statement (.replayBreakpoint part k) := opcode_of_encode _
theorem Opcode.replayEventTimeout (part : Nat) : Opcode.Statement (.replayEventTimeout part) := opcode_of_encode _
theorem Opcode.freeze (c src base : Nat) : Opcode.Statement (.freeze c src base) := opcode_of_encode _
theorem Opcode.restore (c base : Nat) : Opcode.Statement (.restore c base) := opcode_of_encode _
theorem Opcode.discard (c base : Nat) : Opcode.Statement (.discard c base) := opcode_of_encode _
theorem Opcode.fzctlSlotWrite (c base : Nat) : Opcode.Statement (.fzctlSlotWrite c base) := opcode_of_encode _
theorem Opcode.fzdevWrite (v : Word) : Opcode.Statement (.fzdevWrite v) := opcode_of_encode _
theorem Opcode.clockStop (c : Nat) : Opcode.Statement (.clockStop c) := opcode_of_encode _
theorem Opcode.imageStaged (c : Nat) : Opcode.Statement (.imageStaged c) := opcode_of_encode _
theorem Opcode.imageStored (c : Nat) : Opcode.Statement (.imageStored c) := opcode_of_encode _
theorem Opcode.l1Drain (c : Nat) : Opcode.Statement (.l1Drain c) := opcode_of_encode _
theorem Opcode.restoreClockStart (c : Nat) : Opcode.Statement (.restoreClockStart c) := opcode_of_encode _
theorem Opcode.take : Opcode.Statement (.take) := opcode_of_encode _
theorem Opcode.load : Opcode.Statement (.load) := opcode_of_encode _
theorem Opcode.grant (pasid : Nat) : Opcode.Statement (.grant pasid) := opcode_of_encode _
theorem Opcode.delegate (req e h : Nat) (rights : BitVec 7) : Opcode.Statement (.delegate req e h rights) := opcode_of_encode _
theorem Opcode.revoke (req e : Nat) : Opcode.Statement (.revoke req e) := opcode_of_encode _
theorem Opcode.traceSample (sess p : Nat) : Opcode.Statement (.traceSample sess p) := opcode_of_encode _
theorem Opcode.watchpointReport (i : Nat) : Opcode.Statement (.watchpointReport i) := opcode_of_encode _
theorem Opcode.operatingPointChange (p : Nat) : Opcode.Statement (.operatingPointChange p) := opcode_of_encode _
theorem Opcode.powerLimit (e : PowerEvent) : Opcode.Statement (.powerLimit e) := opcode_of_encode _
theorem Opcode.reset : Opcode.Statement (.reset) := opcode_of_encode _
theorem Opcode.powerOn (fail : Option Nat) (img : PoxisImage) : Opcode.Statement (.powerOn fail img) := opcode_of_encode _
theorem Opcode.firmwareUpdate (img : PoxisImage) : Opcode.Statement (.firmwareUpdate img) := opcode_of_encode _
theorem Opcode.spdmMeasurementRequest (idx : Nat) (nonce : List Byte) : Opcode.Statement (.spdmMeasurementRequest idx nonce) := opcode_of_encode _
theorem Opcode.qctlWrite (q : Nat) (v : Word) : Opcode.Statement (.qctlWrite q v) := opcode_of_encode _
theorem Opcode.scctlWrite (n : Nat) (v : Word) : Opcode.Statement (.scctlWrite n v) := opcode_of_encode _
theorem Opcode.pgctlWrite (v : Word) : Opcode.Statement (.pgctlWrite v) := opcode_of_encode _
theorem Opcode.fcfgWrite (v : Word) : Opcode.Statement (.fcfgWrite v) := opcode_of_encode _
theorem Opcode.rctlWrite (p : Nat) (v : Word) : Opcode.Statement (.rctlWrite p v) := opcode_of_encode _
theorem Opcode.rrtailWrite (p : Nat) (v : Word) : Opcode.Statement (.rrtailWrite p v) := opcode_of_encode _
theorem Opcode.rbkaWrite (i : Nat) (v : Word) : Opcode.Statement (.rbkaWrite i v) := opcode_of_encode _
theorem Opcode.elringWrite (v : Word) : Opcode.Statement (.elringWrite v) := opcode_of_encode _
theorem Opcode.registerWrite (r : HubReg) (i : Nat) (v : Word) : Opcode.Statement (.registerWrite r i v) := opcode_of_encode _
theorem Opcode.linkTraining (port m : Nat) : Opcode.Statement (.linkTraining port m) := opcode_of_encode _
theorem Opcode.hostMemoryWaitaEvaluation (g e : Nat) : Opcode.Statement (.hostMemoryWaitaEvaluation g e) := opcode_of_encode _
theorem Opcode.twinLoss (part : Nat) : Opcode.Statement (.twinLoss part) := opcode_of_encode _
theorem Opcode.pcieCompletion (r : Nat) (data : Word) : Opcode.Statement (.pcieCompletion r data) := opcode_of_encode _
theorem Opcode.mmaCompletion (lclu : Nat) : Opcode.Statement (.mmaCompletion lclu) := opcode_of_encode _
theorem Opcode.mldbCompletion (lclu : Nat) : Opcode.Statement (.mldbCompletion lclu) := opcode_of_encode _
theorem Opcode.changeOfPointComplete : Opcode.Statement (.changeOfPointComplete) := opcode_of_encode _

end Sys2Proof.Laws
end

