-- ==== Sys2Proof/Tests/Slice0.lean ====
section
/-! SUPPORT. Tests. The words stand in the spec's encodings; the results are worked out by hand from the rules. The witnesses show, for each
statement with hypotheses, a state and operands that meet them. -/
namespace Sys2Proof.Tests
open Sys2Proof Sys2Proof.Machine Sys2Proof.Safety

/-! ### Ill-formed instructions: one for each check of WellFormed -/

/-- An instruction of format F3 that most rules accept, to be changed in one field. -/
def plain3 : F3 := ⟨0, none, .b32, 0, ⟨15, false⟩, .v 0, .v 3, .v 2, 10, false⟩
def plainI : FI := ⟨0, ⟨15, false⟩, 5, .v 2, 10, false⟩
def plainM : FM := ⟨15, some 0, 0, 0, ⟨15, false⟩, 0, .v 0, .s 0, 1, false⟩
def plainA : FA := ⟨0, some 0, 0, 0, .n32, .v 0, .v 7, .v 2, 4, false⟩
def plainS : FS := ⟨0, .s 5, 3⟩
def plainC : CA := ⟨0, 0, false, 2, 1, 3⟩
def plainX : CM := ⟨0, false, none, 0, 0, 0, 0, 0, 0, 0⟩

theorem test_well_formed : Instr.wellFormed (.and plain3) = true ∧ Instr.wellFormed (.addi plainI) = true
    ∧ Instr.wellFormed (.ldB32 plainM) = true ∧ Instr.wellFormed (.atom plainA) = true ∧ Instr.wellFormed (.barv plainS) = true
    ∧ Instr.wellFormed (.cadd plainC) = true ∧ Instr.wellFormed (.mpub plainX) = true := by decide
theorem test_bad_type : Instr.wellFormed (.and { plain3 with ty := .f32 }) = false := by decide
theorem test_bad_mod : Instr.wellFormed (.and { plain3 with md := 1 }) = false := by decide
theorem test_bad_x : Instr.wellFormed (.and { plain3 with x := 1 }) = false := by decide
theorem test_odd_pair : Instr.wellFormed (.and { plain3 with ty := .b64, a := .v 2, b := .v 3 }) = false := by decide
theorem test_odd_destination : Instr.wellFormed (.and { plain3 with ty := .b64, b := .v 4, d := 11 }) = false := by decide
theorem test_unused_source : Instr.wellFormed (.and { plain3 with c := .v 1 }) = false := by decide
theorem test_predicate_never : Instr.wellFormed (.and { plain3 with p := ⟨15, true⟩ }) = false := by decide
theorem test_uniform_has_no_predicate : Instr.wellFormed (.smov { plain3 with a := .s 1, b := .v 0, p := ⟨2, false⟩ }) = false := by decide
theorem test_token_on_class_s : Instr.wellFormed (.and { plain3 with tok := some 1 }) = false := by decide
theorem test_load_needs_token : Instr.wellFormed (.ldB32 { plainM with tok := none }) = false := by decide
theorem test_nw_needs_latch : Instr.wellFormed (.ldB32 { plainM with nw := true }) = false := by decide
theorem test_predicate_destination : Instr.wellFormed (.qtest { plain3 with d := 15 }) = false := by decide
theorem test_scalar_destination : Instr.wellFormed (.smov { plain3 with a := .s 1, b := .v 0, d := 64 }) = false := by decide
theorem test_uniform_source : Instr.wellFormed (.smov { plain3 with a := .v 1, b := .v 0 }) = false := by decide
theorem test_residency_flags : Instr.wellFormed (.stB32 { plainM with f := 3 }) = false := by decide
theorem test_load_has_no_release : Instr.wellFormed (.ldB32 { plainM with ord := 2 }) = false := by decide
theorem test_relaxed_scope_zero : Instr.wellFormed (.atom { plainA with scope := 4 }) = false := by decide
theorem test_atomic_type : Instr.wellFormed (.atom { plainA with ty := .b32 }) = false := by decide
theorem test_barrier_name : Instr.wellFormed (.barv { plainS with imm := 80 }) = false := by decide
theorem test_sub_opcode : Instr.wellFormed (.barv { plainS with sub := 1 }) = false := by decide
theorem test_branch_condition : Instr.wellFormed (.br ⟨0, 15⟩) = false := by decide
theorem test_read_only_register : Instr.wellFormed (.csrw { plainS with imm := 0 }) = false := by decide
theorem test_core_operand : Instr.wellFormed (.cadd { plainC with imm := 1 }) = false := by decide
theorem test_matrix_type : Instr.wellFormed (.mma { plainX with ty := some .n8 }) = false := by decide
theorem test_conversion_pair : Instr.wellFormed (.cvt { plain3 with ty := .f32, a := .v 2, b := .v 0, c := .v 13 }) = false := by decide

/-! ### Words the spec writes out, by family -/

theorem test_decode_integer : decodeVec 0x0018780006028A00 = .ok (.add ⟨0, none, .i32, 0, ⟨15, false⟩, .v 0, .v 3, .v 2, 10, true⟩)
    ∧ decodeVec 0x001878030B000B02 = .ok (.mul ⟨0, none, .i32, 0, ⟨15, false⟩, .v 0, .k 5, .l 0, 11, false⟩)
    ∧ decodeVec 0x0048100109010C0C = .ok (.shl ⟨0, none, .b32, 0, ⟨2, false⟩, .v 0, .s 4, .l 1, 12, false⟩) := by decide
theorem test_decode_predicate : decodeVec 0x4038780200020310 = .ok (.cmp ⟨4, none, .n32, 0, ⟨15, false⟩, .v 0, .l 0, .v 2, 3, false⟩)
    ∧ decodeVec 0x0048780000000116 = .ok (.lane ⟨0, none, .b32, 0, ⟨15, false⟩, .v 0, .v 0, .v 0, 1, false⟩) := by decide
theorem test_decode_bits : decodeVec 0x003878010A070214 = .ok (.bfe ⟨0, none, .n32, 0, ⟨15, false⟩, .v 0, .s 5, .v 7, 2, false⟩) := by decide
theorem test_decode_scalar : decodeVec 0x5FFFFFFFF0840430 = .ok (.saddi ⟨1, ⟨15, false⟩, 0xFFFFFFF8, .s 4, 4, false⟩) := by decide
theorem test_decode_float : decodeVec 0x0068781006020843 = .ok (.fma ⟨0, none, .f32, 0, ⟨15, false⟩, .v 4, .v 3, .v 2, 8, false⟩)
    ∧ decodeVec 0x0064783400050950 = .ok (.cvt ⟨0, none, .bf16, 4, ⟨15, false⟩, .v 13, .v 0, .v 5, 9, false⟩) := by decide
theorem test_decode_cross_lane : decodeVec 0x09487E0302010C81 = .ok (.shflup ⟨0, some 1, .b32, 0, ⟨15, false⟩, .k 0, .k 1, .v 1, 12, false⟩) := by
  decide
theorem test_decode_memory : decodeVec 0xF803C00000800190 = .ok (.ldN8 ⟨15, some 0, 0, 0, ⟨15, false⟩, 0, .v 0, .s 0, 1, false⟩)
    ∧ decodeVec 0xF00081F812800196 = .ok (.stN8 ⟨15, none, 0, 0, ⟨2, false⟩, 126, .v 9, .s 0, 1, false⟩)
    ∧ decodeVec 0xF903C1030080149A = .ok (.sldB32 ⟨15, some 1, 0, 0, ⟨15, false⟩, 0x40, .k 0, .s 0, 20, false⟩)
    ∧ decodeVec 0xF003C0230080019C = .ok (.sstB32 ⟨15, none, 0, 0, ⟨15, false⟩, 8, .k 0, .s 0, 1, false⟩)
    ∧ decodeVec 0xF0A3C0000000009E = .ok (.fence ⟨15, none, 2, 4, ⟨15, false⟩, 0, .v 0, .v 0, 0, false⟩) := by decide
theorem test_decode_atomic : decodeVec 0x080090000E0204B0 = .ok (.atom ⟨0, some 0, 0, 0, .bf16x2, .v 0, .v 7, .v 2, 4, false⟩)
    ∧ decodeVec 0x48004803008002B1 = .ok (.satom ⟨4, some 0, 0, 0, .b32, .v 0, .k 0, .s 0, 2, false⟩)
    ∧ decodeVec 0x00A068000E0200B2 = .ok (.redM ⟨0, none, 2, 4, .f32, .v 0, .v 7, .v 2, 0, false⟩)
    ∧ decodeVec 0x10604803008400C4 = .ok (.waita ⟨1, none, 1, 4, .b32, .v 0, .k 0, .s 4, 0, false⟩) := by decide
theorem test_decode_pages : decodeVec 0xF0018003000200A0 = .ok (.pgreq ⟨15, none, 0, 0, ⟨6, false⟩, 0, .k 0, .v 2, 0, false⟩)
    ∧ decodeVec 0xF003C2030084019F = .ok (.pref ⟨15, none, 0, 0, ⟨15, false⟩, 128, .k 0, .s 4, 1, false⟩) := by decide
theorem test_decode_range : decodeVec 0xF003C0010A8400A5 = .ok (.seal ⟨15, none, 0, 0, ⟨15, false⟩, 0, .s 5, .s 4, 0, false⟩) := by decide
theorem test_decode_barrier : decodeVec 0x00000085000003C0 = .ok (.barv ⟨0, .s 5, 3⟩) ∧ decodeVec 0x10000085000003C0 = .ok (.bwait ⟨1, .s 5, 3⟩)
    ∧ decodeVec 0x200000BF000042C0 = .ok (.barw ⟨2, .s 63, 66⟩) ∧ decodeVec 0x00000087000003C1 = .ok (.bgrp ⟨0, .s 7, 3⟩)
    ∧ decodeVec 0x00000000000000C3 = .ok (.gleave ⟨0, .v 0, 0⟩) := by decide
theorem test_decode_fabric : decodeVec 0x00004801180406C8 = .ok (.fst ⟨0, none, 0, 0, .b32, .v 0, .s 12, .v 4, 6, false⟩)
    ∧ decodeVec 0x0A0048030A8307C9 = .ok (.fld ⟨0, some 2, 0, 0, .b32, .v 0, .k 5, .s 3, 7, false⟩)
    ∧ decodeVec 0x09003804008302CA = .ok (.fatom ⟨0, some 1, 0, 0, .n32, .v 1, .v 0, .s 3, 2, false⟩)
    ∧ decodeVec 0x00A84E05188F00CB = .ok (.ffence ⟨0, none, 2, 5, .b32, .k 1, .s 12, .s 15, 0, false⟩)
    ∧ decodeVec 0x00000084000003CC = .ok (.coll ⟨0, .s 4, 3⟩) ∧ decodeVec 0x00000000000003CD = .ok (.fwaitc ⟨0, .v 0, 3⟩) := by decide
theorem test_decode_transfer : decodeVec 0x0000FFFFFFFA01D1 = .ok (.brany ⟨0xFFFFFFFA, 1⟩) ∧ decodeVec 0x00000000001302D0 = .ok (.br ⟨19, 2⟩)
    ∧ decodeVec 0x00507800000000DA = .ok (.exit ⟨0, none, .b64, 0, ⟨15, false⟩, .v 0, .v 0, .v 0, 0, false⟩) := by decide
theorem test_decode_matrix : decodeVec 0x30480E070A0705E0 = .ok (.mfeed ⟨3, none, .b32, 0, ⟨1, false⟩, .k 1, .k 5, .v 7, 5, false⟩)
    ∧ decodeVec 0x08487E43000030E2 = .ok (.mdrain ⟨0, some 0, .b32, 0, ⟨15, false⟩, .k 16, .k 0, .v 0, 48, false⟩)
    ∧ decodeVec 0x00000089000000E3 = .ok (.fork ⟨0, .s 9, 0⟩) ∧ decodeVec 0x000000BF000001C6 = .ok (.rdv ⟨0, .s 63, 1⟩) := by decide
theorem test_decode_control : decodeVec 0x00000085000010F0 = .ok (.csrr ⟨0, .s 5, 0x10⟩) ∧ decodeVec 0x00000089000011F1 = .ok (.csrw ⟨0, .s 9, 0x11⟩)
    ∧ decodeVec 0x00000086000000F5 = .ok (.time ⟨0, .s 6, 0⟩) ∧ decodeVec 0x00000086000003F6 = .ok (.perf ⟨0, .s 6, 3⟩)
    ∧ decodeVec 0x00000000000000F7 = .ok (.nop ⟨0, .v 0, 0⟩) ∧ decodeVec 0x00000000000012F3 = .ok (.trap ⟨0, .v 0, 0x12⟩)
    ∧ decodeVec 0x00000000800005F3 = .ok (.trapAbort ⟨0, .v 0, 0x800005⟩) ∧ decodeVec 0x00000084001234F8 = .ok (.recmark ⟨0, .s 4, 0x1234⟩)
    ∧ decodeVec 0x00000087000001F9 = .ok (.recmode ⟨0, .s 7, 1⟩) ∧ decodeVec 0x00000084000003FA = .ok (.spawn ⟨0, .s 4, 3⟩)
    ∧ decodeVec 0x00000087000000FB = .ok (.tdep ⟨0, .s 7, 0⟩) := by decide
theorem test_decode_core : decodeCore 0x0000040008000200 = .ok (.cadd ⟨0x400, 0, true, 0, 0, 2⟩)
    ∧ decodeCore 0x0004FFFFFFF30011 = .ok (.cloop ⟨4, 0xFFFFFFF3, 0⟩)
    ∧ decodeCore 0x000B000000000021 = .ok (.mma ⟨0, false, some .f16, 0, 0, 0, 0, 0, 0, 0⟩)
    ∧ decodeCore 0x080C000000021021 = .ok (.mma ⟨0, true, some .bf16, 0, 0, 0, 0, 2, 1, 0⟩)
    ∧ decodeCore 0x100B00000C400023 = .ok (.mldbM ⟨1, false, some .f16, 0, 0, 3, 2, 0, 0, 0⟩) := by decide
theorem test_undefined_word : decodeVec 0x00000000000000FF = .error .opcode := by decide

/-! ### One step -/

/-- Group 0 at a clause of one word, its registers set. -/
def at1 (i : Instr) (r : Regs) : State :=
  (State.withFetchWord State.reset 64 ((encode i).getD 0).toNat).updGroup 0 fun gr =>
    { gr with regs := r, ctx := gr.ctx.map fun c => { c with view := r } }
def after (o : Out) : State := match o with | .next s => s | _ => State.reset
def grpOf (s : State) : Group := (s.group? 0).getD (freshGroup 0 ⟨⟨0, 0⟩, 0⟩ 0 0 plainRec)
def run1 (i : Instr) (r : Regs) : Group := grpOf (after (step (at1 i r)))
/-- The clause-local view after the slot, or the registers where the clause has committed. -/
def viewOf (gr : Group) : Regs := match gr.ctx with | some c => c.view | none => gr.regs
def all32 (x : BitVec 32) : VReg := vec fun _ => x
def regsV (l : List (Nat × BitVec 32)) : Regs := { v := l.map fun x => (x.1, all32 x.2) }
def regsS (l : List (Nat × Word)) : Regs := { s := l }
/-- Lane 5 of a vector register after one step. -/
def lane5 (i : Instr) (r : Regs) (d : Nat) : BitVec 32 := lane ((viewOf (run1 i r)).getV d) 5
def sAfter (i : Instr) (r : Regs) (d : Nat) : Word := (match (run1 i r).ctx with | some c => c.getS d | none => (run1 i r).regs.getS d)
def qAfter (i : Instr) (r : Regs) (d : Nat) : Mask := (viewOf (run1 i r)).getQ d
def ccAfter (i : Instr) (r : Regs) : CC := (match (run1 i r).ctx with | some c => c.cc | none => ((run1 i r).ent 0).cc)
def pcAfter (i : Instr) (r : Regs) : Nat := ((run1 i r).ent 0).pc
/-- Operands A = v2, B = v3, C = v4, destination v10; or scalars s2, s3, s4 and s10. -/
def vOp (ty : Ty) (x md : Nat) : F3 := ⟨BitVec.ofNat 4 x, none, ty, BitVec.ofNat 3 md, ⟨15, false⟩, .v 0, .v 3, .v 2, 10, false⟩
def vOp3 (ty : Ty) (x md : Nat) : F3 := { vOp ty x md with c := .v 4 }
def vOp1 (ty : Ty) (x md : Nat) : F3 := { vOp ty x md with b := .v 0 }
def sOp (ty : Ty) (x md : Nat) : F3 := { vOp ty x md with a := .s 2, b := .s 3 }
def sOp1 (ty : Ty) (x md : Nat) : F3 := { sOp ty x md with b := .v 0 }

theorem test_add_wraps : lane5 (.add (vOp .i32 0 0)) (regsV [(2, 0x7FFFFFFF), (3, 1)]) 10 = 0x80000000 := by decide
theorem test_add_saturates : lane5 (.add (vOp .i32 0 1)) (regsV [(2, 0x7FFFFFFF), (3, 1)]) 10 = 0x7FFFFFFF := by decide
theorem test_sub_saturates_at_zero : lane5 (.sub (vOp .n32 0 1)) (regsV [(2, 3), (3, 5)]) 10 = 0 := by decide
theorem test_mulhi : lane5 (.mulhi (vOp .n32 0 0)) (regsV [(2, 0xFFFFFFFF), (3, 0xFFFFFFFF)]) 10 = 0xFFFFFFFE := by decide
theorem test_adif_signed : lane5 (.adif (vOp .i32 0 0)) (regsV [(2, 0xFFFFFFFF), (3, 2)]) 10 = 3 := by decide
theorem test_max_signed : lane5 (.max (vOp .i32 0 0)) (regsV [(2, 0xFFFFFFFF), (3, 2)]) 10 = 2 := by decide
theorem test_shr_past_width : lane5 (.shr (vOp .i32 0 0)) (regsV [(2, 0x80000000), (3, 40)]) 10 = 0xFFFFFFFF := by decide
theorem test_shl_past_width : lane5 (.shl (vOp .b32 0 0)) (regsV [(2, 0xFFFFFFFF), (3, 32)]) 10 = 0 := by decide
theorem test_rot : lane5 (.rot (vOp .b32 0 0)) (regsV [(2, 0x80000001), (3, 33)]) 10 = 3 := by decide
theorem test_clz_of_zero : lane5 (.clz (vOp1 .b32 0 0)) (regsV [(2, 0)]) 10 = 32 := by decide
theorem test_brev : lane5 (.brev (vOp1 .b32 0 0)) (regsV [(2, 1)]) 10 = 0x80000000 := by decide
theorem test_bfe_extends_sign : lane5 (.bfe (vOp .i32 0 0)) (regsV [(2, 0x000000F0), (3, 0x404)]) 10 = 0xFFFFFFFF := by decide
theorem test_bfi : lane5 (.bfi (vOp3 .b32 0 0)) (regsV [(2, 5), (3, 0xFFFFFFFF), (4, 0x408)]) 10 = 0xFFFFF5FF := by decide
theorem test_mov_pair_high : lane5 (.mov (vOp1 .b64 0 0)) (regsV [(2, 1), (3, 9)]) 11 = 9 := by decide
theorem test_lane_number : lane5 (.lane { vOp1 .b32 0 0 with a := .v 0 }) (regsV []) 10 = 5 := by decide
theorem test_addi_extends : lane5 (.addi ⟨0, ⟨15, false⟩, 0xFFFFFFFF, .v 2, 10, false⟩) (regsV [(2, 7)]) 10 = 6 := by decide
theorem test_predicate_keeps_lanes :
    lane5 (.add { vOp .i32 0 0 with p := ⟨3, true⟩ }) { regsV [(2, 1), (3, 1), (10, 77)] with q := [(3, 0x20)] } 10 = 77 := by decide
theorem test_sel : lane5 (.sel { vOp .b32 0 0 with c := .v 3 }) { regsV [(2, 1), (3, 9)] with q := [(3, 0x20)] } 10 = 1 := by decide
set_option maxRecDepth 20000 in
theorem test_cmp_unsigned : (qAfter (.cmp { vOp .n32 2 0 with d := 4 }) (regsV [(2, 1), (3, 0xFFFFFFFF)]) 4).getLsbD 5 = true := by decide
set_option maxRecDepth 20000 in
theorem test_cmp_signed : (qAfter (.cmp { vOp .i32 2 0 with d := 4 }) (regsV [(2, 1), (3, 0xFFFFFFFF)]) 4).getLsbD 5 = false := by decide
set_option maxRecDepth 20000 in
theorem test_qtest : (qAfter (.qtest { vOp .b32 0 0 with d := 4 }) (regsV [(2, 6), (3, 9)]) 4).getLsbD 5 = false := by decide
theorem test_lea : lane5 (.lea (vOp .i32 3 0)) (regsV [(2, 0), (3, 0), (10, 1)]) 10 = 0
    ∧ lane5 (.lea { vOp .i32 3 0 with b := .v 6 }) (regsV [(2, 16), (6, 0xFFFFFFFF)]) 10 = 8 := by decide
theorem test_wrlane : lane5 (.wrlane { sOp .b32 0 0 with a := .s 2, b := .s 3 }) (regsS [(2, 42), (3, 5)]) 10 = 42 := by decide
theorem test_scalar_sign : sAfter (.sadd (sOp .i32 0 0)) (regsS [(2, 0x7FFFFFFF), (3, 1)]) 10 = 0xFFFFFFFF80000000 := by decide
theorem test_s63_discards : sAfter (.smov { sOp1 .b64 0 0 with d := 63 }) (regsS [(2, 9)]) 63 = 0 := by decide
theorem test_saddi_immediate : sAfter (.saddi ⟨1, ⟨15, false⟩, 0xFFFFFFF8, .s 4, 4, false⟩) (regsS [(4, 8)]) 4 = 0 := by decide
set_option maxRecDepth 20000 in
theorem test_mask_register : ((run1 (.smov { sOp1 .b64 0 0 with d := 60 }) (regsS [(2, 3)])).ctx.map fun c => c.am.toNat % 2 ^ 32) = some 3 := by decide
theorem test_scmp_flags : ccAfter (.scmp { sOp .b32 0 0 with d := 0 }) (regsS [(2, 1), (3, 2)]) = { z := false, n := true, c := false, v := false, e := false } := by decide
theorem test_vote_all : (ccAfter (.vote { vOp1 .b32 0 0 with a := .v 3, d := 0 }) { q := [(3, allLanes)] }).z = true := by decide
theorem test_ballot : sAfter (.ballot { vOp1 .b32 0 0 with a := .v 3 }) { q := [(3, 0x100000005)] } 10 = 5
    ∧ sAfter (.ballot { vOp1 .b32 0 0 with a := .v 3 }) { q := [(3, 0x100000005)] } 11 = 1 := by decide
theorem test_popl : sAfter (.popl { vOp1 .b32 0 0 with a := .v 3 }) { q := [(3, 0x70)] } 10 = 3 := by decide
theorem test_first_of_none : sAfter (.first { vOp1 .b32 0 0 with a := .v 3 }) { q := [(3, 0)] } 10 = 96 := by decide
theorem test_fadd : lane5 (.fadd (vOp .f32 0 0)) (regsV [(2, 0x3F800000), (3, 0x40000000)]) 10 = 0x40400000 := by decide
theorem test_fma_single_rounding :
    lane5 (.fma (vOp3 .f32 0 0)) (regsV [(2, 0x3F800001), (3, 0x3F800001), (4, 0xBF800002)]) 10 = 0x28800000 := by decide
theorem test_fmul_overflow : lane5 (.fmul (vOp .f32 0 0)) (regsV [(2, 0x7F7FFFFF), (3, 0x40000000)]) 10 = 0x7F800000 := by decide
theorem test_fmul_to_zero_mode : lane5 (.fmul (vOp .f32 0 1)) (regsV [(2, 0x7F7FFFFF), (3, 0x40000000)]) 10 = 0x7F7FFFFF := by decide
set_option maxRecDepth 20000 in
theorem test_fcmp_nan : (qAfter (.fcmp { vOp .f32 0 0 with d := 4 }) (regsV [(2, 0x7FC00000), (3, 0x7FC00000)]) 4).getLsbD 5 = false := by decide
theorem test_cvt_to_integer : lane5 (.cvt { vOp1 .i32 0 0 with c := .v 13 }) (regsV [(2, 0x40200000)]) 10 = 2 := by decide
theorem test_sfadd : sAfter (.sfadd (sOp .f32 0 0)) (regsS [(2, 0x3F800000), (3, 0x3F800000)]) 10 = 0x40000000 := by decide
theorem test_csrr_gid : sAfter (.csrr ⟨0, .s 5, 0x19⟩) {} 5 = 0x811C9DC5 := by decide
theorem test_csrw_fmode : ((run1 (.csrw ⟨0, .s 2, 0x10⟩) (regsS [(2, 1)])).ctx.map (·.csrw)) = some [(0, 0x10, 1)] := by decide
theorem test_nop_advances : ((run1 (.nop ⟨0, .v 0, 0⟩) {}).ctx.map (·.slot)) = some 1 := by decide
theorem test_branch_taken : pcAfter (.brnone ⟨0xFFFFFFFE, 3⟩) { q := [(3, 0)] } = 2 ^ 64 - 16 := by decide
theorem test_branch_not_taken : pcAfter (.brany ⟨0xFFFFFFFE, 3⟩) { q := [(3, 0)] } = 16 := by decide
theorem test_jmpi : pcAfter (.jmpi { sOp1 .b64 0 0 with d := 0 }) (regsS [(2, 0x4000)]) = 0x4000 := by decide
set_option maxRecDepth 20000 in
theorem test_jmpi_unaligned : ((after (step (at1 (.jmpi { sOp1 .b64 0 0 with d := 0 }) (regsS [(2, 0x4004)])))).gang? ⟨0, 0⟩).isNone = true := by decide
theorem test_exit_last_fragment : (after (step (at1 (.exit { vOp .b64 0 0 with a := .v 0, b := .v 0, d := 0 }) {}))).groups = [] := by decide
theorem test_trap_parks : ((run1 (.trap ⟨0, .v 0, 0x12⟩) {}).ent 0).st = .parked := by decide
set_option maxRecDepth 20000 in
theorem test_unmapped_load_faults :
    (run1 (.ldB32 ⟨15, some 0, 0, 0, ⟨15, false⟩, 0, .v 0, .s 0, 1, false⟩) {}).ctl.flt.cause = 5 := by decide

/-! ### One step of a control core and of the engines -/

/-- A core context at a clause of one word. -/
def coreAt (w : Word) (m : Mx) : State :=
  { State.reset with
    cur := some (.core 0), frz := { clus := [(0, { lclu := some 0, state := .running })] }
    tasks := [(0, { slot := 0, gen := 0, queue := 0, order := 0, lr := plainRec, st := .running, nextKid := 1 })]
    gangs := [(⟨0, 0⟩, { id := ⟨0, 0⟩, lclu := 0 })]
    mx := [(0, { m with owner := some ⟨0, 0⟩, run := true, clause := some { addr := 0x100, hdr := { plainHeader with eng := 1 }, words := [w] } })] }
def core1 (i : Instr) (m : Mx) : Mx := (after (step (coreAt ((encode i).getD 0) m))).mxD 0
def event (i : Instr) (s : State) : State := after (step { s with agenda := [.event i] })

theorem test_cadd : (core1 (.cadd ⟨0x400, 0, true, 0, 1, 2⟩) { c := [(1, 5)] }).getC 2 = 0x405 := by decide
/-- A word that is none of a vector clause is placed in a core's clause. -/
theorem test_core_word_placed :
    let w := ((encode (.cadd ⟨0x400, 0, true, 0, 1, 2⟩)).getD 0).toNat
    decodeTableWord 64 w = some (.cadd ⟨0x400, 0, true, 0, 1, 2⟩) ∧ ((after (step (State.withFetchWord State.reset 64 w))).mxD 0).getC 2 = 0x400 := by decide
theorem test_c31_reads_zero : (core1 (.cadd ⟨7, 0, true, 0, 31, 31⟩) {}).getC 31 = 0 := by decide
theorem test_cshr_arithmetic : (core1 (.cshr ⟨4, 1, true, 0, 1, 2⟩) { c := [(1, 0x8000000000000000)] }).getC 2 = 0xF800000000000000 := by decide
theorem test_cmovi_high : (core1 (.cmoviHi ⟨9, 1, true, 0, 0, 2⟩) { c := [(2, 0x1122334455667788)] }).getC 2 = 0x0000000955667788 := by decide
theorem test_ccmp : (core1 (.ccmp ⟨0, 0, false, 2, 1, 0⟩) { c := [(1, 1), (2, 2)] }).fc = false := by decide
theorem test_cloop_counts : (core1 (.cloop ⟨4, 0xFFFFFFFE, 0⟩) { c := [(4, 2)] }).pc = 0xF0 := by decide
theorem test_cjmp_unaligned_stops : (core1 (.cjmp ⟨0, 0, false, 0, 1, 0⟩) { c := [(1, 4)] }).run = false := by decide
set_option maxRecDepth 20000 in
theorem test_grant_root : capD (event (.grant 7) State.reset) 0 = { v := true, root := true, rights := 0x7F, parent := 0, holder := 7, subject := 7 } := by
  decide
theorem test_queue_enable : ((event (.qctlWrite 3 0x0000744A00000001) State.reset).queueD 3).seqExp = 1
    ∧ ((event (.qctlWrite 3 0x0000744A00000001) State.reset).queueD 3).cmplog = 4 := by decide
theorem test_queue_weight_zero : (event (.qctlWrite 3 0x0000744000000001) State.reset).queueD 3 = {} := by decide
theorem test_page_control_limit : (event (.pgctlWrite 0x00090010) State.reset).m.pgpto = 50
    ∧ (event (.pgctlWrite 0x000A0010) State.reset).m.pgpto = 10 := by decide
theorem test_freeze_of_idle_cluster : (cluD (event (.freeze 5 0 0x1000) State.reset) 5).reason = 1 := by decide
theorem test_host_link : (event .hostLinkFault State.reset).plat.linkUp = false := by decide
theorem test_temperature_lowers_point : (event (.powerLimit .temperature) State.reset).plat.changing = some 1 := by decide
set_option maxRecDepth 20000 in
theorem test_host_write : (event (.hostWrite 1 0x1000 [1, 2]) State.reset).mem = [(0x1000, 1), (0x1001, 2)] := by decide
set_option maxRecDepth 20000 in
theorem test_host_write_zero_lists_nothing : (event (.hostWrite 1 0x1000 [0]) State.reset).mem = [] := by decide
/-! ### Witnesses: encoding, the step, and the slots of vector clauses -/

theorem witness_EncodeDecodeRoundTrip : (Instr.wellFormed (.and plain3) = true ∧ (Instr.and plain3).isCore = false ∧ (encode (.and plain3)).isSome = true)
    ∧ (Instr.wellFormed (.cadd plainC) = true ∧ (Instr.cadd plainC).isCore = true ∧ (encode (.cadd plainC)).isSome = true) := by decide
theorem witness_DecodedWordIsEncoding : (∃ i, decodeVec 0x0018780006028A00 = .ok i) ∧ ∃ i, decodeCore 0x0004FFFFFFF30011 = .ok i :=
  ⟨⟨_, test_decode_integer.1⟩, ⟨_, test_decode_core.2.1⟩⟩
theorem witness_ReservedBitsAreIllop :
    ((0x00070000000000C4 : Word).extractLsb' 0 8).toNat ∈ [0xB0, 0xB1, 0xB2, 0xC4, 0xC5, 0xC8, 0xC9, 0xCA, 0xCB]
    ∧ (0x00070000000000C4 : Word).extractLsb' 48 3 ≠ 0
    ∧ ((0x00010000000000D0 : Word).extractLsb' 0 8).toNat ∈ [0xD0, 0xD1, 0xD2, 0xD3, 0xD7, 0xD8] ∧ (0x00010000000000D0 : Word).extractLsb' 48 16 ≠ 0
    ∧ ((0x00020000000000C0 : Word).extractLsb' 0 8).toNat ∈
      [0xC0, 0xC1, 0xC2, 0xC3, 0xC6, 0xCC, 0xCD, 0xE3, 0xF0, 0xF1, 0xF3, 0xF4, 0xF5, 0xF6, 0xF7, 0xF8, 0xF9, 0xFA, 0xFB]
    ∧ (0x00020000000000C0 : Word).extractLsb' 41 19 ≠ 0
    ∧ ((0x0000000000800000 : Word).extractLsb' 0 8).toNat ∈ [0, 1, 2, 3, 4, 5, 6, 7, 8, 9, 0xA, 0xB, 0x12, 0x13, 0x14]
    ∧ (0x0000000000800000 : Word).extractLsb' 23 4 ≠ 0
    ∧ ((0x8000000000000010 : Word).extractLsb' 0 8).toNat ∈ [0x10, 0x11] ∧ (0x8000000000000010 : Word).extractLsb' 53 11 ≠ 0
    ∧ ((0x0000000000000820 : Word).extractLsb' 0 8).toNat ∈ [0x20, 0x21, 0x22, 0x23, 0x24, 0x25, 0x26, 0x27]
    ∧ (0x0000000000000820 : Word).extractLsb' 11 1 ≠ 0
    ∧ (0x0000000000040000 : Word).extractLsb' 18 46 ≠ 0 ∧ (0x0000000000400000 : Word).extractLsb' 22 42 ≠ 0 := by decide

/-- Page 0 of PASID 0, in a translation cache. -/
def mapped : List TlbEnt :=
  [{ pasid := 0, va := 0, size := 4096, pa := 0x8000, ct := 0, r := true, w := true, x := true, tgens := [(8, 0)] }]
/-- Group 0 at the last slot of a clause, lanes 0 and 1 in force, with page 0 mapped. -/
def W (i : Instr) : State :=
  let s := (placeGroupWord State.reset ((encode i).getD 0)).updGroup 0 fun gr =>
    { gr with ctx := gr.ctx.map fun c => { c with mask := 3, am := 3 } }
  { s with m := { s.m with tlb := [(0, mapped)], ttlb := [(0, mapped)], reservedFrames := [] } }
def grpW (i : Instr) : Group := grpOf (W i)
def cxW (i : Instr) : Ctx := ((grpW i).ctx).getD (wordCtx (grpW i) 0 0)
theorem ready_W (i : Instr) (h : operandFault 128 (cxW i).kinds i = none) : Ready (W i) 0 (grpW i) (cxW i) i := ⟨rfl, h⟩
theorem last_W (i : Instr) : LastSlot (cxW i) := ⟨rfl, rfl, rfl⟩
/-- None of the instructions reads a latch or a register above the budget. -/
def plainOps (l : List Instr) : Bool := l.all fun i => operandFault 128 (fun _ => none) i == none
theorem ready_all (l : List Instr) (h : plainOps l = true) : ∀ i ∈ l, Ready (W i) 0 (grpW i) (cxW i) i := by
  intro i hi
  have hk := List.all_eq_true.1 h i hi
  have hn : (cxW i).kinds = fun _ => none := by funext n; rfl
  exact ready_W i (by rw [hn]; simpa using hk)

theorem witness_StepRunsDecoded :
    (∃ gr c i, (W (.and plain3)).agenda = [] ∧ (W (.and plain3)).cur = some (.grp 0) ∧ (W (.and plain3)).group? 0 = some gr ∧ gr.ctx = some c
      ∧ c.slot < c.words.length ∧ groupRuns (W (.and plain3)) gr = true ∧ decodeVec (c.words.getD c.slot 0) = .ok i)
    ∧ (∃ l c i, (coreAt 0x0000040008000200 {}).agenda = [] ∧ (coreAt 0x0000040008000200 {}).cur = some (.core l)
      ∧ ((coreAt 0x0000040008000200 {}).mxD l).clause = some c ∧ c.slot < c.words.length
      ∧ (physClu (coreAt 0x0000040008000200 {}) l).any (clockRuns (coreAt 0x0000040008000200 {})) = true
      ∧ decodeCore (c.words.getD c.slot 0) = .ok i)
    ∧ (Instr.isWord (.badFlit 0) = false ∧ State.reset.plat.failed = false ∧ State.reset.plat.recovery = false) :=
  ⟨⟨_, _, _, rfl, rfl, rfl, rfl, by decide, by decide, rfl⟩, ⟨0, _, _, rfl, rfl, rfl, by decide, by decide, rfl⟩, by decide⟩

theorem witness_SelectByPredicate : ∀ i ∈ [Instr.sel plain3], Ready (W i) 0 (grpW i) (cxW i) i := ready_all _ (by decide)
theorem witness_LaneAndMove : ∀ i ∈ [Instr.lane plain3, .mov plain3], Ready (W i) 0 (grpW i) (cxW i) i := ready_all _ (by decide)
theorem witness_LaneIntegers : ∀ i ∈ [Instr.add plain3, .sub plain3, .mul plain3, .mulhi plain3, .mad plain3, .min plain3, .max plain3, .adif plain3,
    .and plain3, .or plain3, .xor plain3, .not plain3, .shl plain3, .shr plain3, .rot plain3, .clz plain3, .popc plain3, .brev plain3, .bfe plain3,
    .bfi plain3, .addi plainI, .andi plainI, .ori plainI, .xori plainI, .movi plainI, .muli plainI, .lea plain3,
    .wrlane { plain3 with a := .s 2, b := .s 3 }], Ready (W i) 0 (grpW i) (cxW i) i := ready_all _ (by decide)
theorem witness_QtestAndsOperands : plain3.d.toNat ≠ 15 ∧ ∀ i ∈ [Instr.qtest plain3], Ready (W i) 0 (grpW i) (cxW i) i :=
  ⟨by decide, ready_all _ (by decide)⟩
/-- Scalar operands s2 and s3. -/
def scalar3 : F3 := { plain3 with a := .s 2, b := .s 3 }
def scalarI : FI := { plainI with a := .s 2 }
theorem witness_ScalarResults : scalar3.d.toNat < 64 ∧ scalarI.d.toNat < 64 ∧ ∀ i ∈ [Instr.sadd scalar3, .ssub scalar3, .smul scalar3, .smulhi scalar3,
    .smin scalar3, .smax scalar3, .sand scalar3, .sor scalar3, .sxor scalar3, .sshl scalar3, .sshr scalar3, .smov scalar3, .sclz scalar3,
    .spopc scalar3, .slea scalar3, .saddi scalarI, .sandi scalarI, .sori scalarI, .sxori scalarI, .smovi scalarI],
    Ready (W i) 0 (grpW i) (cxW i) i := ⟨by decide, by decide, ready_all _ (by decide)⟩
theorem witness_PredicatesAndFlags : plain3.d.toNat ≠ 15 ∧ ∀ i ∈ [Instr.cmp plain3, .qop plain3, .fcmp plain3, .scmp scalar3, .sfcmp scalar3,
    .vote plain3, .scmpi scalarI], Ready (W i) 0 (grpW i) (cxW i) i := ⟨by decide, ready_all _ (by decide)⟩
theorem witness_FloatingPoint : plain3.d.toNat < 64 ∧ ∀ i ∈ [Instr.fadd plain3, .fsub plain3, .fmul plain3, .fma plain3, .fmin plain3, .fmax plain3,
    .fsgn plain3, .fclass plain3, .frnd plain3, .scale plain3, .fdot2 plain3, .cvt plain3, .scvt scalar3, .pack2 plain3, .unpack plain3, .sfadd scalar3,
    .sfmul scalar3, .sfma scalar3], Ready (W i) 0 (grpW i) (cxW i) i := ⟨by decide, ready_all _ (by decide)⟩
theorem witness_TokenedResults : ∀ i ∈ [Instr.exp2 plain3, .log2 plain3, .rcp plain3, .rsq plain3, .sqrt plain3, .sin plain3, .cos plain3, .tanh plain3,
    .shfl plain3, .shflup plain3, .shfldn plain3, .shflx plain3, .bcast plain3, .red plain3, .scan plain3, .rdlane plain3, .sfn scalar3],
    Ready (W i) 0 (grpW i) (cxW i) i := ready_all _ (by decide)
theorem witness_CollectedLanes : (({ plain3 with ty := .n32 } : F3).x = 0 ∧ ∀ k : Nat, (fun _ => 7 : Nat → Nat) k < 2 ^ 32)
    ∧ plain3.d.toNat ≤ 57 ∧ ∀ i ∈ [Instr.ballot plain3], Ready (W i) 0 (grpW i) (cxW i) i :=
  ⟨⟨rfl, fun _ => by norm_num⟩, by decide, ready_all _ (by decide)⟩
theorem witness_PopulationAndFirst : plain3.d.toNat ≤ 57 ∧ ∀ i ∈ [Instr.popl plain3, .first plain3, .ballot plain3], Ready (W i) 0 (grpW i) (cxW i) i :=
  ⟨by decide, ready_all _ (by decide)⟩
/-- Lanes 0 and 1 at addresses 0 and 0: every register is zero. -/
theorem witness_MemorySlots :
    (∀ x ∈ [(Instr.ldN8 plainM, 1), (.ldI8 plainM, 1), (.ldN16 plainM, 2), (.ldI16 plainM, 2), (.ldB32 plainM, 4), (.ldB64 plainM, 8)],
      Ready (W x.1) 0 (grpW x.1) (cxW x.1) x.1 ∧ replaying (W x.1) (grpW x.1).block.gang.slot = none
      ∧ ∃ l, checkAccs (W x.1) (grpW x.1).cu (groupPasid (W x.1) (grpW x.1)) true { r := true }
          ((lanesOf ((cxW x.1).exec plainM.p)).map fun k => mkAcc k (fmAddr (cxW x.1) plainM x.2 k) x.2 0 0) = (W x.1, .ok l []) ∧ l.length = 2)
    ∧ (∀ x ∈ [(Instr.sldB32 plainM, 4), (.sldB64 plainM, 8)], Ready (W x.1) 0 (grpW x.1) (cxW x.1) x.1
      ∧ ∃ l, checkAccs (W x.1) (grpW x.1).cu (groupPasid (W x.1) (grpW x.1)) true { r := true }
          [mkAcc 96 (fmAddr (cxW x.1) plainM x.2 0) x.2 0 0] = (W x.1, .ok l []) ∧ l.length = 1)
    ∧ (∀ x ∈ [(Instr.stN8 plainM, 1), (.stN16 plainM, 2), (.stB32 plainM, 4), (.stB64 plainM, 8)], Ready (W x.1) 0 (grpW x.1) (cxW x.1) x.1
      ∧ ∃ l, checkAccs (W x.1) (grpW x.1).cu (groupPasid (W x.1) (grpW x.1)) true { w := true }
          ((lanesOf ((cxW x.1).exec plainM.p)).map fun k => mkAcc k (fmAddr (cxW x.1) plainM x.2 k) x.2
            (if x.2 = 8 then (cxW x.1).src64 (.v plainM.d) k else (lane ((cxW x.1).view.getV plainM.d.toNat) k).setWidth 64) 0)
          = (W x.1, .ok l []) ∧ l.length = 2)
    ∧ (∀ x ∈ [(Instr.sstB32 plainM, 4), (.sstB64 plainM, 8)], Ready (W x.1) 0 (grpW x.1) (cxW x.1) x.1
      ∧ ∃ l, checkAccs (W x.1) (grpW x.1).cu (groupPasid (W x.1) (grpW x.1)) true { w := true }
          [mkAcc 96 (fmAddr (cxW x.1) plainM x.2 0) x.2 ((cxW x.1).getS plainM.d.toNat) 0] = (W x.1, .ok l []) ∧ l.length = 1) := by
  simp only [List.forall_mem_cons, List.not_mem_nil, false_imp_iff, implies_true, and_true]
  refine ⟨⟨?_, ?_, ?_, ?_, ?_, ?_⟩, ⟨?_, ?_⟩, ⟨?_, ?_, ?_, ?_⟩, ?_, ?_⟩ <;>
    first | exact ⟨ready_W _ rfl, rfl, _, rfl, rfl⟩ | exact ⟨ready_W _ rfl, _, rfl, rfl⟩
theorem witness_HintsChangeNothing : ∀ i ∈ [Instr.pref plainM, .reshint plainM], Ready (W i) 0 (grpW i) (cxW i) i := ready_all _ (by decide)
/-! ### Witnesses: tiles, control registers, commit, faults and transfers -/

/-- `W` with registers and a change of the rest. -/
def V (i : Instr) (r : Regs) (f : State → State) : State :=
  f ((W i).updGroup 0 fun gr => { gr with regs := r, ctx := gr.ctx.map fun c => { c with view := r } })
def gOf (s : State) : Group := grpOf s
def cOf (s : State) : Ctx := ((grpOf s).ctx).getD (wordCtx (grpOf s) 0 0)
def home0 : BlockId := ⟨⟨0, 0⟩, 0⟩
/-- Tile 2: 64 rows of 64 words. -/
def withTile (s : State) : State := s.updBlock home0 fun b => { b with tiles := [(2, { rows := 64, cols := 64, esz := 4, level := .cu, alloc := 0 })] }
/-- The gang holds the matrix context of its cluster. -/
def withMx (s : State) : State := s.setMx 0 { owner := some ⟨0, 0⟩, parts := [0] }
def withFab (s : State) : State := { s with fab := { s.fab with en := true } }
def small : Regs := regsS [(2, 4), (3, 8)]

theorem witness_TileInstructions :
    (∃ u, tileOp (tileOps (V (.talloc scalar3) small id) home0 []) home0
        { free := false, h := 10, rows := 4, cols := 8, esz := 4, level := .cu } = .ok u)
    ∧ (Ready (V (.talloc scalar3) small id) 0 (gOf (V (.talloc scalar3) small id)) (cOf (V (.talloc scalar3) small id)) (.talloc scalar3))
    ∧ (∃ e, tileOp (tileOps (V (.talloc scalar3) {} id) home0 []) home0 { free := false, h := 10, rows := 0, cols := 0, esz := 4, level := .cu } = .error e)
    ∧ Ready (V (.tfree plain3) {} id) 0 (gOf (V (.tfree plain3) {} id)) (cOf (V (.tfree plain3) {} id)) (.tfree plain3)
    ∧ (let s := V (.tld { plain3 with b := .s 3 }) {} withTile
       Ready s 0 (gOf s) (cOf s) (.tld { plain3 with b := .s 3 })
       ∧ ∀ k ∈ lanesOf ((cOf s).exec plain3.p), ∀ e ∈ tldIdx (tileDims s home0 2) 1 0 k,
          (elemAt s home0 2 e 4).isSome = true ∧ chunkAway s home0 2 e 4 = false)
    ∧ (let s := V (.tst { plain3 with b := .s 3, c := .v 5 }) {} withTile
       Ready s 0 (gOf s) (cOf s) (.tst { plain3 with b := .s 3, c := .v 5 })
       ∧ ∀ k ∈ lanesOf ((cOf s).exec plain3.p), (elemAt s home0 2 k 4).isSome = true ∧ chunkOwned s home0 2 k 4 = false)
    ∧ (let s := V (.tst { plain3 with b := .s 3, c := .v 5, a := .v 7 }) {} withTile
       Ready s 0 (gOf s) (cOf s) (.tst { plain3 with b := .s 3, c := .v 5, a := .v 7 })
       ∧ ∃ k ∈ lanesOf ((cOf s).exec plain3.p), (elemAt s home0 7 k 4).isNone = true) := by
  refine ⟨⟨_, rfl⟩, ⟨rfl, rfl⟩, ⟨_, rfl⟩, ⟨rfl, rfl⟩, ⟨⟨rfl, rfl⟩, ?_⟩, ⟨⟨rfl, rfl⟩, ?_⟩, ⟨⟨rfl, rfl⟩, ?_⟩⟩ <;> decide

theorem witness_ControlRegisters : plainS.o = .s 5 ∧ plainS.imm ≠ 0x28 ∧ ∀ i ∈ [Instr.csrr plainS, .recmode plainS, .csrw plainS, .nop plainS, .time plainS,
    .perf plainS], Ready (W i) 0 (grpW i) (cxW i) i ∧ replaying (W i) (grpW i).block.gang.slot = none :=
  ⟨rfl, by decide, fun i hi => ⟨ready_all _ (by decide) i hi, rfl⟩⟩

theorem witness_CommitClassRuns :
    (∀ i ∈ [Instr.fence plainM, .sigchk plainI, .barv plainS, .barw plainS, .gjoin plainS, .gleave plainS, .rdv plainS, .trap plainS,
        .trapAbort plainS, .brk plainS, .bwait plainS, .bgrp plainS, .recmark plainS, .tdep plainS, .fork plainS, .waita plainA],
      Ready (W i) 0 (grpW i) (cxW i) i ∧ LastSlot (cxW i))
    ∧ ((cxW (.fork plainS)).uni plainS.o).toNat % 8 = 0
    ∧ (∀ x ∈ [(Instr.atom plainA, true), (.redM plainA, false)], Ready (W x.1) 0 (grpW x.1) (cxW x.1) x.1
      ∧ ∃ l, checkAccs (W x.1) (grpW x.1).cu (groupPasid (W x.1) (grpW x.1)) true { r := x.2, w := true } ((lanesOf (cxW x.1).mask).map fun k =>
          mkAcc k ((cxW x.1).src64 plainA.a k).toNat 4 (BitVec.ofNat 64 ((cxW x.1).srcT .n32 plainA.b k)) (BitVec.ofNat 64 ((cxW x.1).srcT .n32 plainA.c k)))
          = (W x.1, .ok l []) ∧ l.length = 2)
    ∧ (let s := W (.satom { plainA with a := .s 2, b := .s 3 })
       Ready s 0 (gOf s) (cOf s) (.satom { plainA with a := .s 2, b := .s 3 })
       ∧ ∃ l, checkAccs s (gOf s).cu (groupPasid s (gOf s)) true { r := true, w := true } [mkAcc 96 0 4 0 0] = (s, .ok l []) ∧ l.length = 1)
    ∧ (let s := W (.waita plainA)
       ∃ l, checkAccs s (gOf s).cu (groupPasid s (gOf s)) true { r := true } [mkAcc 96 0 4 0 0] = (s, .ok l []) ∧ l.any (loadTypeop s 0) = false)
    ∧ (∀ i ∈ [Instr.seal { plainM with b := .s 3 }, .reuse { plainM with b := .s 3 }, .flush { plainM with b := .s 3 }],
      let s := V i (regsS [(3, 128)]) id
      Ready s 0 (gOf s) (cOf s) i ∧ ∀ n ∈ [{ w := true }, ({ r := true } : Need)],
        ∃ l, checkAccs s (gOf s).cu (groupPasid s (gOf s)) false n ((List.range (128 / 128)).map fun k => mkAcc 96 (0 + 128 * k) 128 0 0)
          = (s, .ok l []) ∧ l.length = 1)
    ∧ (let s := W (.pgreq { plainM with d := 0 })
       Ready s 0 (gOf s) (cOf s) (.pgreq { plainM with d := 0 })
       ∧ ∃ l n, checkAccs s (gOf s).cu (groupPasid s (gOf s)) false { r := true } ((lanesOf ((cOf s).exec plainM.p)).map fun k =>
          mkAcc k (fmAddr (cOf s) plainM 1 k) 1 0 0) = (s, .ok l n))
    ∧ (∀ x ∈ [(Instr.coll plainS, 64), (.spawn plainS, 256)], let s := V x.1 {} withFab
      Ready s 0 (gOf s) (cOf s) x.1 ∧ s.fab.en = true ∧ LastSlot (cOf s)
      ∧ ∃ l, checkAccs s (gOf s).cu (groupPasid s (gOf s)) true { r := true } [mkAcc 96 0 x.2 0 0] = (s, .ok l []) ∧ l.length = 1)
    ∧ (let s := V (.fwaitc plainS) {} withFab
       Ready s 0 (gOf s) (cOf s) (.fwaitc plainS) ∧ s.fab.en = true ∧ LastSlot (cOf s))
    ∧ (let i := Instr.waitat { plainA with a := .v 2, b := .s 3, ty := .b32 }
       Ready (V i {} withTile) 0 (gOf (V i {} withTile)) (cOf (V i {} withTile)) i ∧ (elemAt (V i {} withTile) home0 2 0 4).isSome = true)
    ∧ (∀ i ∈ [Instr.mfeed { plain3 with a := .v 2, b := .s 3, c := .k 1, d := 5 }, .mfeedt { plain3 with a := .v 2, b := .s 3, d := 5 },
          .mdrain { plain3 with a := .v 2, b := .s 3, c := .k 2 }, .mdrainTl { plain3 with a := .v 2, b := .s 3, c := .v 2 }],
      let s := withMx (V i {} withTile)
      Ready s 0 (gOf s) (cOf s) i ∧ ownsMx s (gOf s) = true ∧ ((cOf s).uni (.s 3)).toNat ≤ 63 ∧ tileEsz s home0 2 = some 4)
    ∧ (∀ i ∈ [Instr.fst plainA, .fld plainA, .fatom plainA, .ffence { plainA with a := .s 2, b := .s 3, c := .k 1 }], let s := V i {} withFab
      Ready s 0 (gOf s) (cOf s) i ∧ ∀ k ∈ lanesOf (cOf s).mask, fabCause s (mkAcc k 0 4 0 0) = none) := by
  simp only [List.forall_mem_cons, List.not_mem_nil, false_imp_iff, implies_true, and_true]
  refine ⟨?_, rfl, ⟨?_, ?_⟩, ⟨⟨rfl, rfl⟩, _, rfl, rfl⟩, ⟨_, rfl, rfl⟩, ⟨?_, ?_, ?_⟩, ⟨⟨rfl, rfl⟩, _, _, rfl⟩, ⟨?_, ?_⟩, ⟨⟨rfl, rfl⟩, rfl, rfl, rfl, rfl⟩, ⟨⟨rfl, rfl⟩, rfl⟩,
    ⟨?_, ?_, ?_, ?_⟩, ?_, ?_, ?_, ?_⟩
  · repeat' apply And.intro
    all_goals rfl
  all_goals first
    | exact ⟨⟨rfl, rfl⟩, _, rfl, rfl⟩
    | exact ⟨⟨rfl, rfl⟩, rfl, ⟨rfl, rfl, rfl⟩, _, rfl, rfl⟩
    | exact ⟨⟨rfl, rfl⟩, ⟨_, rfl, rfl⟩, _, rfl, rfl⟩
    | exact ⟨⟨rfl, rfl⟩, rfl, by decide, rfl⟩
    | exact ⟨⟨rfl, rfl⟩, by decide⟩

/-- The 4,096 and 32,768 bytes that MFEEDT and MDRAIN.TL move lie in a tile of 128 rows of 64 words. -/
def withBigTile (s : State) : State :=
  s.updBlock home0 fun b => { b with tiles := [(2, { rows := 128, cols := 64, esz := 4, level := .cu, alloc := 0 })] }
theorem witness_CommitClassRuns_tiles : ∀ k, k < 8192 →
    (elemAt (withMx (V (.mfeedt { plain3 with a := .v 2, b := .s 3, d := 5 }) {} withBigTile)) home0 2 (0 + k) 4).isSome = true
    ∧ chunkOwned (withMx (V (.mdrainTl { plain3 with a := .v 2, b := .s 3, c := .v 2 }) {} withBigTile)) home0 2 (0 + k) 4 = false := by
  intro k hk
  refine ⟨?_, rfl⟩
  have h : ¬(4 ≠ 4 ∨ 0 + k ≥ 128 * 64) := by omega
  have e : elemAt (withMx (V (.mfeedt { plain3 with a := .v 2, b := .s 3, d := 5 }) {} withBigTile)) home0 2 (0 + k) 4
      = if 4 ≠ 4 ∨ 0 + k ≥ 128 * 64 then none else some ⟨false, (0 + k) * 4, 0⟩ := rfl
  rw [e, if_neg h]; rfl

theorem witness_FaultsBeforeAnEffect :
    ((∃ gr c e, (V (.and plain3) {} (·.updGroup 0 fun gr => { gr with ctx := gr.ctx.map fun c => { c with words := [0xFF] } })).group? 0 = some gr
      ∧ gr.ctx = some c ∧ c.slot < c.words.length ∧ decodeVec (c.words.getD c.slot 0) = .error e)
    ∧ (∃ e, decodeCore 0xFF = .error e ∧ ((coreAt 0xFF {}).mxD 0).clause.isSome = true))
    ∧ (∃ c, operandFault 128 (cxW (.and { plain3 with a := .l 0 })).kinds (.and { plain3 with a := .l 0 }) = some c)
    ∧ (let i := Instr.ldB32 { plainM with ofs := 2 }
       Ready (W i) 0 (grpW i) (cxW i) i ∧ ∃ lanes daddr sub, checkAccs (W i) (grpW i).cu (groupPasid (W i) (grpW i)) true { r := true }
          ((lanesOf ((cxW i).exec plainM.p)).map fun k => mkAcc k (fmAddr (cxW i) { plainM with ofs := 2 } 4 k) 4 0 0)
          = (W i, .fault .align lanes daddr sub))
    ∧ (∀ i ∈ [Instr.fwaitc plainS, .coll plainS], Ready (W i) 0 (grpW i) (cxW i) i ∧ (W i).fab.en = false)
    ∧ (∃ l n, checkAccs (W (.coll plainS)) (grpW (.coll plainS)).cu (groupPasid (W (.coll plainS)) (grpW (.coll plainS))) true { r := true } [mkAcc 96 0 64 0 0]
        = (W (.coll plainS), .ok l n))
    ∧ (let i := Instr.jmpi { scalar3 with b := .v 0 }
       Ready (V i (regsS [(2, 4)]) id) 0 (gOf (V i (regsS [(2, 4)]) id)) (cOf (V i (regsS [(2, 4)]) id)) i
       ∧ ((cOf (V i (regsS [(2, 4)]) id)).uni (.s 2)).toNat % 8 ≠ 0)
    ∧ (let i := Instr.ret plain3
       Ready (V i (regsS [(58, 4)]) id) 0 (gOf (V i (regsS [(58, 4)]) id)) (cOf (V i (regsS [(58, 4)]) id)) i
       ∧ ((cOf (V i (regsS [(58, 4)]) id)).getS 58).toNat % 8 ≠ 0)
    ∧ (∀ i ∈ [Instr.join plain3, .forkm ⟨3, 2⟩], Ready (W i) 0 (grpW i) (cxW i) i ∧ ((grpW i).ent (cxW i).entry).depth + (cxW i).marks.length = 0) := by
  refine ⟨⟨⟨_, _, _, rfl, rfl, by decide, rfl⟩, _, rfl, rfl⟩, ⟨.latch, rfl⟩, ⟨⟨rfl, rfl⟩, _, _, _, rfl⟩,
    fun i hi => ⟨ready_all _ (by decide) i hi, rfl⟩, ⟨_, _, rfl⟩, ⟨⟨rfl, rfl⟩, by decide⟩, ⟨⟨rfl, rfl⟩, by decide⟩, ?_⟩
  simp only [List.forall_mem_cons, List.not_mem_nil, false_imp_iff, implies_true, and_true]
  exact ⟨⟨⟨rfl, rfl⟩, rfl⟩, ⟨rfl, rfl⟩, rfl⟩

/-- A fragment inside a MARK whose rejoin address is the clause it stands at. -/
def marked (s : State) : State := s.updGroup 0 fun gr => gr.updEnt 0 fun x => { x with depth := 1, rj := 0 }
def fullTable (s : State) : State := s.updGroup 0 fun gr => { gr with ents := gr.ents.map fun x => { x with valid := true } }
theorem witness_TransfersCommitAtTheirTargets :
    (∀ i ∈ [Instr.br ⟨3, 1⟩, .brany ⟨3, 2⟩, .brnone ⟨3, 2⟩, .call ⟨3, 0⟩, .jmpi { scalar3 with b := .v 0 }, .ret plain3, .exit plain3, .mark ⟨3, 0⟩,
        .calli { plain3 with a := .s 2 }], Ready (W i) 0 (grpW i) (cxW i) i ∧ LastSlot (cxW i))
    ∧ (∀ i ∈ [Instr.forkm ⟨3, 2⟩, .join plain3], let s := V i {} marked
      Ready s 0 (gOf s) (cOf s) i ∧ LastSlot (cOf s) ∧ ((gOf s).ent (cOf s).entry).depth + (cOf s).marks.length ≠ 0
        ∧ rejoinAt (gOf s) (cOf s) = (cOf s).addr ∧ freeAt (gOf s) (cOf s) ≠ [])
    ∧ (let i := Instr.calli { plain3 with a := .s 2 }
       (∀ a ∈ calliAccs (cxW i) (.s 2), a.va % 8 = 0) ∧ (callTargets (calliAccs (cxW i) (.s 2))).length ≤ (freeAt (grpW i) (cxW i)).length + 1)
    ∧ (∃ gr, (W (.nop plainS)).group? 0 = some gr ∧ 0 < gr.ents.length ∧ (gr.ent 0).mask &&& (1 : Mask) ≠ 0 ∧ (gr.ent 0).mask &&& ~~~allLanes = 0)
    ∧ (let s := V (.mark ⟨3, 0⟩) {} fullTable
       Ready s 0 (gOf s) (cOf s) (.mark ⟨3, 0⟩) ∧ freeAt (gOf s) (cOf s) = [])
    ∧ (let s := V (.mark ⟨3, 0⟩) {} id
       (∃ n t, freeAt (gOf s) (cOf s) = n :: t) ∧ ((gOf s).ent (cOf s).entry).depth + (cOf s).marks.length < 15) := by
  simp only [List.forall_mem_cons, List.not_mem_nil, false_imp_iff, implies_true, and_true]
  refine ⟨?_, ?_, ?_, ⟨_, rfl, by decide, by decide, by decide⟩, ⟨⟨rfl, rfl⟩, rfl⟩, ⟨_, _, rfl⟩, by decide⟩
  · repeat' apply And.intro
    all_goals rfl
  · exact ⟨⟨⟨rfl, rfl⟩, ⟨rfl, rfl, rfl⟩, by decide, rfl, by decide⟩, ⟨rfl, rfl⟩, ⟨rfl, rfl, rfl⟩, by decide, rfl, by decide⟩
  · decide

theorem witness_CommitMakesViewArchitectural : (cxW (.nop plainS)).marks = [] ∧ (cxW (.nop plainS)).entry < (grpW (.nop plainS)).ents.length
    ∧ (cxW (.nop plainS)).csrw = [] ∧ (cxW (.nop plainS)).rs = 0 := by decide
theorem witness_LandingWritesOnlyItsDestination : ∃ gr, (W (.nop plainS)).group? 0 = some gr := ⟨_, rfl⟩
/-! ### Witnesses: the control core, faults, synchronisation -/

/-- A context whose array 0 takes part, and whose gang's block lies on that array's CU. -/
def coreIn (w : Word) (m : Mx) (f : State → State) : State :=
  let s := coreAt w { m with parts := [0] }
  f { s with blocks := [(home0, { id := home0, cu := 0, base := 0, spad := 0, ntiles := 32,
                                  tiles := [(2, { rows := 64, cols := 64, esz := 4, level := .cu, alloc := 0 })] })]
             m := { tlb := [(0, mapped)], ttlb := [(0, mapped)] } }
def mxIn (s : State) : Mx := s.mxD 0
def clIn (s : State) : CoreClause := (s.mxD 0).clause.getD { addr := 0, hdr := plainHeader, words := [] }
def loadedB : Mx := { b := [(1, { loaded := true })], arr := [(0, { ma := [(0, { full := true })] })] }
def openW : Mx := { b := [(1, { loaded := true })], arr := [(0, { ma := [(0, { full := true })], mc := [(0, { wide := true })] })] }
def pubd : Mx := { arr := [(0, { mc := [(0, { published := true })] })] }

theorem witness_CoreArithmetic : CoreReady (coreIn 0 {} id) 0 (mxIn (coreIn 0 {} id)) (clIn (coreIn 0 {} id)) := ⟨rfl, rfl⟩
theorem witness_CoreClauseEnds :
    (∃ (s : State) (m : Mx) (c : CoreClause), s.mxD 0 = m ∧ m.clause = some c ∧ c.slot = c.words.length ∧ c.wait = [])
    ∧ (∃ m c, (coreIn 0 {} id).mxD 0 = m ∧ m.clause = some c ∧ (c.slot ≠ c.words.length ∨ c.wait ≠ []))
    ∧ (let s := withMx ((W (.nop plainS)).updGroup 0 id)
       let s1 := s.setMx 0 { s.mxD 0 with clause := some (clIn (coreIn 0 {} id)) }
       ∃ m c gr, s1.mxD 0 = m ∧ m.clause = some c ∧ m.stopped = false ∧ s1.group? m.forker.1 = some gr ∧ m.forker.2 < gr.ents.length) :=
  ⟨⟨coreIn 0 { clause := none } fun s => s.setMx 0 { clause := some { addr := 0, hdr := plainHeader, words := [] } }, _, _, rfl, rfl, rfl, rfl⟩,
    ⟨_, _, rfl, rfl, .inl (by decide)⟩, ⟨_, _, _, rfl, rfl, rfl, rfl, by decide⟩⟩

/-- Two words, of which the first is at hand. -/
def twoWords (m : Mx) : State := coreIn 0 m fun s => s.setMx 0 { s.mxD 0 with clause := some { addr := 0x100, hdr := { plainHeader with eng := 1 }, words := [0, 0] } }
theorem witness_CoreMemory :
    CoreReady (twoWords {}) 0 (mxIn (twoWords {})) (clIn (twoWords {}))
    ∧ (let m := mxIn (twoWords { c := [(1, 4)] }); (m.getC 1 + (0 : BitVec 21).signExtend 64).toNat % 8 ≠ 0)
    ∧ (∃ s0 cause, translateIn (twoWords {}) true (coreClu (twoWords {}) 0) (corePasid (twoWords {}) (mxIn (twoWords {}))) 0x2000 { r := true }
        = (s0, .fault cause))
    ∧ (∃ s0 cause, translateIn (twoWords {}) true (coreClu (twoWords {}) 0) (corePasid (twoWords {}) (mxIn (twoWords {}))) 0x2000 { w := true }
        = (s0, .fault cause))
    ∧ (∃ s0 pa ct, translateIn (twoWords {}) true (coreClu (twoWords {}) 0) (corePasid (twoWords {}) (mxIn (twoWords {}))) 8 { r := true } = (s0, .ok pa ct))
    ∧ (∃ s0 pa ct, translateIn (twoWords {}) true (coreClu (twoWords {}) 0) (corePasid (twoWords {}) (mxIn (twoWords {}))) 8 { w := true } = (s0, .ok pa ct))
    ∧ (clIn (twoWords {})).slot + 1 < (clIn (twoWords {})).words.length :=
  ⟨⟨rfl, rfl⟩, by decide, ⟨_, _, rfl⟩, ⟨_, _, rfl⟩, ⟨_, _, _, rfl⟩, ⟨_, _, _, rfl⟩, by decide⟩
theorem witness_CoreTransfers :
    (CoreReady (coreIn 0 {} id) 0 (mxIn (coreIn 0 {} id)) (clIn (coreIn 0 {} id)) ∧ ((mxIn (coreIn 0 {} id)).getC 1).toNat % 8 = 0
      ∧ ((mxIn (coreIn 0 { c := [(1, 4)] } id)).getC 1).toNat % 8 ≠ 0)
    ∧ (let s := coreIn 0 { rdv := [(1, { arrivals := [(0, 0)] })] } id
       CoreReady s 0 (mxIn s) (clIn s) ∧ 1 ≤ ((mxIn s).rdvD 1).arrivals.length ∧ agentBusy s (agentOfCore 0) = false ∧ ((mxIn s).rdvD 2).arrivals.length < 1) :=
  ⟨⟨⟨rfl, rfl⟩, by decide, by decide⟩, ⟨rfl, rfl⟩, by decide, rfl, by decide⟩
theorem witness_AccumulatorsOpenAndPublish :
    (let s := coreIn 0 { arr := [(0, { ma := [(0, { full := true })] })] } id
     let m := (mxIn s).settled
     CoreReady s 0 (mxIn s) (clIn s) ∧ (∀ j ∈ m.jobs, j.mma = true → j.mc ≠ 0) ∧ m.parts ≠ []
     ∧ (∀ k ∈ m.parts, ((m.arrD k).mcD 0).published = false) ∧ (∀ k ∈ m.parts, ((m.arrD k).maD 0).full = true))
    ∧ (let m := (mxIn (coreIn 0 pubd id)).settled; ∃ k ∈ m.parts, ((m.arrD k).mcD 0).published = true) := by
  refine ⟨⟨⟨rfl, rfl⟩, ?_, ?_, ?_, ?_⟩, ?_⟩ <;> decide
theorem witness_MultiplyAccumulate :
    (let s := coreIn 0 loadedB id
     let m := (mxIn s).settled
     CoreReady s 0 (mxIn s) (clIn s) ∧ m.parts.Nodup ∧ (∀ j ∈ m.jobs, j.mma = false) ∧ (m.bD 1).loaded = true
     ∧ (∀ k ∈ m.parts, (((m.arrD k).maD 0).full = true ∨ (m.arrD k).latch = some 0) ∧ ((m.arrD k).mcD 0).published = false)
     ∧ (∀ k ∈ m.parts, (m.arrD k).latch = none ∨ (m.arrD k).latch = some 0) ∧ (∀ k ∈ m.parts, ((m.arrD k).mcD 0).wide = (Ty.f32 == Ty.f64))
     ∧ m.parts ≠ [])
    ∧ (let m := (mxIn (coreIn 0 openW id)).settled; ∃ k ∈ m.parts, ((m.arrD k).mcD 0).wide ≠ (Ty.f32 == Ty.f64))
    ∧ (let m := (mxIn (coreIn 0 { arr := [(0, { ma := [(0, { full := true })], latch := some 1 })] } id)).settled
       ∃ k ∈ m.parts, ∃ j, (m.arrD k).latch = some j ∧ j ≠ 0) := by
  refine ⟨⟨⟨rfl, rfl⟩, ?_, ?_, ?_, ?_, ?_, ?_, ?_⟩, ?_, ⟨0, by decide, 1, rfl, by decide⟩⟩ <;> decide

/-- Bytes of a tile whose elements are all there and at hand. -/
theorem tileRead_ok {s : State} {b : BlockId} {h base n esz : Nat} (he : tileEsz s b h = some esz)
    (ha : ∀ k, k < n / esz → (elemAt s b h (base + k) esz).isNone = false) (hc : ∀ k, k < n / esz → chunkAway s b h (base + k) esz = false) :
    ∃ x, tileRead s b h base n = .ok x := by
  have h1 : (((List.range (n / esz)).map fun k => base + k).any fun i => (elemAt s b h i esz).isNone) = false := by
    rw [List.any_map, List.any_eq_false]; intro k hk; simp only [Function.comp_apply, ha k (List.mem_range.1 hk)]; decide
  have h2 : (((List.range (n / esz)).map fun k => base + k).any fun i => chunkAway s b h i esz) = false := by
    rw [List.any_map, List.any_eq_false]; intro k hk; simp only [Function.comp_apply, hc k (List.mem_range.1 hk)]; decide
  exact ⟨_, by simp only [tileRead, he, h1, h2]; rfl⟩
theorem tileRead_coreIn (w : Word) (m : Mx) (n : Nat) (hn : n ≤ 16384) : ∃ x, tileRead (coreIn w m id) home0 2 0 n = .ok x := by
  refine tileRead_ok (esz := 4) rfl (fun k hk => ?_) (fun k _ => rfl)
  have h : ¬(4 ≠ 4 ∨ 0 + k ≥ 64 * 64) := by omega
  have e : elemAt (coreIn w m id) home0 2 (0 + k) 4 = if 4 ≠ 4 ∨ 0 + k ≥ 64 * 64 then none else some ⟨false, (0 + k) * 4, 0⟩ := rfl
  rw [e, if_neg h]; rfl
/-- A shape record of one f32 element at address 0, where the page is mapped. -/
def shape1 : State := coreIn 0 {} fun s => { s with mem := [(0x8008, 2), (0x8009, 13), (0x8010, 1), (0x8014, 1)] }
theorem witness_MatrixOperandsLoad :
    (let s := coreIn 0 {} id
     let m := (mxIn s).settled
     CoreReady s 0 (mxIn s) (clIn s) ∧ m.jobs = [] ∧ m.parts = [0] ∧ arrayBlock s m 0 = some home0 ∧ homeBlock m = some home0
     ∧ (∃ x, tileRead s home0 2 0 256 = .ok x) ∧ (∃ x, tileRead s home0 2 0 512 = .ok x) ∧ (∃ x, tileRead s home0 2 0 4096 = .ok x)
     ∧ (∃ x, tileRead s home0 2 0 8192 = .ok x) ∧ agentBusy s (agentOfCore 0) = false ∧ slotStalls s 0 = false
     ∧ ∃ s1 pa, translateIn s true (coreClu s 0) (corePasid s m) 64 { w := true } = (s1, .ok pa 0)) :=
  ⟨⟨rfl, rfl⟩, rfl, rfl, rfl, rfl, tileRead_coreIn _ _ _ (by decide), tileRead_coreIn _ _ _ (by decide), tileRead_coreIn _ _ _ (by decide),
    tileRead_coreIn _ _ _ (by decide), rfl, rfl, _, _, rfl⟩
set_option maxRecDepth 20000 in
theorem witness_MatrixOperandsLoad_shape : ∃ s1 rec, coreRead 0 (coreClu shape1 0) (corePasid shape1 (mxIn shape1)) 64 shape1 0 = (s1, .ok rec)
    ∧ shapeFits .f32 (parseShape rec) = true
    ∧ ∃ s2 x, coreRows 0 (coreClu shape1 0) (corePasid shape1 (mxIn shape1)) (mmaN .f32 * Ty.f32.width / 8) ((parseShape rec).ext.getD 0 0 * Ty.f32.width / 8)
        ((parseShape rec).stride.getD 0 0) ((parseShape rec).ext.getD 1 0)
        (coreWatch s1 0 (coreClu shape1 0) (corePasid shape1 (mxIn shape1)) ((List.range 64).map (0 + ·))) (((parseShape rec).base + 0) % 2 ^ 64) = (s2, .ok x) :=
  ⟨_, _, rfl, by decide, _, _, rfl⟩

def op (i : Instr) : POp := { instr := i, iaddr := 8, nextHdr := 16, hdr := 0 }
/-- The task has a debugger whose capability has the right to halt. -/
def dbgOn (s : State) : State := { s with dbg := { caps := [(0, { v := true, root := true, rights := 0x7F, holder := 7, subject := 0 })] } }
theorem witness_FaultsAreRecorded :
    (({ v := true, cause := 3 } : Flt).cause < 256)
    ∧ (let s := dbgOn (W (.nop plainS))
       ∃ gr c, s.group? 0 = some gr ∧ gr.ctx = some c ∧ c.wait = [] ∧ c.faults = [] ∧ c.entry < gr.ents.length ∧ debugged s 0 = true
         ∧ partOfTask s gr.block.gang.slot = none)
    ∧ (firstFault [(3, { cause := .prot, iaddr := 0, lanes := 1 }), (3, { cause := .align, iaddr := 0, lanes := 2 })]).isSome = true :=
  ⟨by decide, ⟨_, _, rfl, rfl, rfl, rfl, by decide, rfl, rfl⟩, rfl⟩

/-- The gang of block 0 with one barrier cell, named 3. -/
def cell3 (c : NbCell) (s : State) : State := s.updGang ⟨0, 0⟩ fun x => { x with cells := [{ c with name := 3 }] }
def out0 (s : State) : State := s.updBlock home0 fun b => { b with inGang := false }
def wN : State := W (.nop plainS)
theorem witness_BarrierGenerations :
    (∀ c ∈ [({ gang := ⟨0, 0⟩, name := 3, mask := 1 } : NbCell), { gang := ⟨0, 0⟩, name := 3, mask := 2 }, { gang := ⟨0, 0⟩, name := 3, mask := 1, arr := [0] },
        { gang := ⟨0, 0⟩, name := 3, mask := 1, gen := 5 }],
      ∃ gr x, (cell3 c wN).group? 0 = some gr ∧ (cell3 c wN).gang? gr.block.gang = some x ∧ bitAt plainS.imm.toNat 6 = false
        ∧ x.cell? (plainS.imm.toNat % 64) = some c ∧ agentBusy (cell3 c wN) 0 = false ∧ tilesOwed (cell3 c wN) 0 = false
        ∧ holdsChunks (cell3 c wN) gr.block = false ∧ ((cell3 c wN).block? gr.block).isSome = true ∧ syncMay (cell3 c wN) gr.block.gang.slot (clusterSrc (cell3 c wN) gr.block.gang) 5 0 0 = true)
    ∧ (let there := fun (s : State) (c : NbCell) => (s.block? home0).any (·.inGang) && c.mask.getLsbD 0
       there wN { gang := ⟨0, 0⟩, name := 3, mask := 1 } = true ∧ there wN { gang := ⟨0, 0⟩, name := 3, mask := 2 } = false
       ∧ there (out0 wN) { gang := ⟨0, 0⟩, name := 3, mask := 1 } = false)
    ∧ ((0 + 65536 - 0) % 65536 < 32768 ∧ (4 + 65536 - 5) % 65536 ≥ 32768)
    ∧ (BitVec.ofNat 8 (1 % 256 % 2 ^ blocksOf wN ⟨0, 0⟩) ≠ 0 ∧ BitVec.ofNat 8 (2 % 256 % 2 ^ blocksOf wN ⟨0, 0⟩) = 0)
    ∧ (((out0 wN).block? home0).any (fun b => !b.inGang) = true) := by
  refine ⟨?_, by decide, by decide, by decide, by decide⟩
  simp only [List.forall_mem_cons, List.not_mem_nil, false_imp_iff, implies_true, and_true]
  refine ⟨?_, ?_, ?_, ?_⟩ <;> exact ⟨_, _, rfl, rfl, by decide, rfl, rfl, rfl, rfl, rfl, rfl⟩

def forkMx (m : Mx) : State := wN.setMx 0 m
theorem witness_ForkAndFeed :
    (∀ m ∈ [({ owner := some ⟨0, 0⟩ } : Mx), {}, { owner := some ⟨0, 0⟩, run := true }, { owner := some ⟨5, 0⟩ }],
      ∃ gr, (forkMx m).group? 0 = some gr ∧ agentBusy (forkMx m) 0 = false ∧ tilesOwed (forkMx m) 0 = false ∧ matrixMay (release (forkMx m) 0 3) 0 0 gr 4 = true
        ∧ (forkMx m).mxD (mxOf (forkMx m) gr) = m)
    ∧ (∃ gr, (withMx wN).group? 0 = some gr ∧ ((withMx wN).mxD (mxOf (withMx wN) gr)).watched = none ∧ mxFault (withMx wN) gr = none
        ∧ maEmpty (withMx wN) gr 5 = true ∧ matrixMay (withMx wN) 0 0 gr 1 = true) := by
  refine ⟨?_, _, rfl, rfl, rfl, rfl, rfl⟩
  simp only [List.forall_mem_cons, List.not_mem_nil, false_imp_iff, implies_true, and_true]
  refine ⟨?_, ?_, ?_, ?_⟩ <;> exact ⟨_, rfl, rfl, rfl, rfl, rfl⟩

def acc0 : Acc := { lane := 96, va := 0, pa := 0x8000, size := 128 }
/-- The page at 0x8000 has type `ty`; CU 0 holds its first line with one dirty byte. -/
def flushAt (ty : BitVec 2) : State :=
  { wN with m := { frames := [(8, { ty := ty })], l1 := [((0, 256), { valid := 1, dirty := 1, data := [(0, 7)] })] } }
def flushHyps (ty : BitVec 2) : Prop := ∃ gr v, (flushAt ty).group? 0 = some gr ∧ (flushAt ty).mem.wf = true
    ∧ (flushAt ty).m.reqs = [] ∧ l1At (flushAt ty) gr.cu (acc0.pa / 128) = some v ∧ (v.data.map (·.1)).Nodup ∧ (∀ x ∈ v.data, x.1 < 128)
    ∧ isDev acc0.pa = true ∧ homeType (flushAt ty) acc0.pa = ty.toNat
theorem witness_FlushWritesBack : flushHyps 3 ∧ flushHyps 2 := by
  refine ⟨⟨_, _, rfl, rfl, rfl, rfl, ?_, ?_, rfl, rfl⟩, _, _, rfl, rfl, rfl, rfl, ?_, ?_, rfl, rfl⟩ <;> decide

set_option maxRecDepth 20000 in
theorem witness_SystemOperations :
    (∃ gr, wN.group? 0 = some gr ∧ gr.frags.length = 1 ∧ gr.ctl.sig = 0x811C9DC5 ∧ gr.ctl.sig ≠ 7 ∧ gr.ctl.seen = false
      ∧ partOfTask wN gr.block.gang.slot = none ∧ debugged wN 0 = false ∧ 0 < gr.ents.length ∧ agentBusy wN 0 = false ∧ tilesOwed wN 0 = false)
    ∧ debugged (dbgOn wN) 0 = true
    ∧ (∀ k ∈ [0, 1, 2, 3], collState (setColl wN 0 3 k) 0 3 = k)
    ∧ (let s := wN.updTask 0 fun t => { t with keys := [spawnKey (grpOf wN)] }
       ∃ gr, s.group? 0 = some gr ∧ keySeen s gr = true) :=
  ⟨⟨_, rfl, rfl, rfl, by decide, rfl, rfl, rfl, by decide, rfl, rfl⟩, rfl, by decide, _, rfl, rfl⟩
/-! ### Witnesses: holds, the homes, and events of the lane groups -/

theorem witness_ReleaseWidensHolds :
    let s : State := { wN with m := { tags := [(0x2000, { hold := true, owner := 0 }), (0x2001, { hold := true, owner := 9 })] } }
    ((tagAt s 0x2000).hold = true ∧ (tagAt s 0x2000).owner = 0) ∧ ((tagAt s 0x2001).hold = false ∨ (tagAt s 0x2001).owner ≠ 0) := by decide
/-- The page at 0x8000 has type `ty`. -/
def pageAt (ty : BitVec 2) (s : State) : State := { s with m := { s.m with frames := [(8, { ty := ty })], reservedFrames := [] } }
theorem witness_WritesSetHolds : isDev 0x8000 = true ∧ wN.mem.wf = true ∧ homeType (pageAt 0 wN) 0x8000 = 0 ∧ homeType (pageAt 2 wN) 0x8000 = 2 :=
  ⟨by decide, rfl, rfl, rfl⟩

def accW : Acc := { lane := 3, va := 0, pa := 0x8000, size := 4, b := 7 }
/-- The machine with one request of group 0, its page of type `ty`, and word tags. -/
def asks (ty : BitVec 2) (tags : AList Nat WordTag) (q : Req) : State :=
  { wN with m := { frames := [(8, { ty := ty })], tags := tags, reqs := [q] } }
def reqOf (k : RKind) : Req := { id := 5, kind := k, agent := 0, orig := .grp 0 0, cu := 0, seq := 0, accs := [accW] }
def heldBy9 : AList Nat WordTag := [(0x2000, { hold := true, owner := 9 })]
/-- CU 0 holds the line of an IP page, bound to group 0's block. -/
def ipHeld (q : Req) : State :=
  { wN with m := { frames := [(8, { ty := 3, ob := true })], reqs := [q], l1 := [((0, 256), { valid := 15, dirty := 0, data := [] })] } }
set_option maxRecDepth 20000 in
theorem witness_LoadsAndStoresArePerformed :
    (∀ tags ∈ [[], heldBy9], let s := asks 0 tags (reqOf .store)
      findReq s 5 = some (reqOf .store) ∧ reqTurn s (reqOf .store) = true ∧ bindsMay s (reqOf .store) = true ∧ fabricDone s (reqOf .store) = true
      ∧ coreRoom s (reqOf .store) = true ∧ writeTurn s 5 false (reqOf .store).devWords = .go ∧ s.mem.wf = true ∧ sentTurn s (reqOf .store) = true
      ∧ parkForReq s (.grp 0 0) 2 (.done 5) = none ∧ homeType s accW.pa ≠ 3)
    ∧ judgeWrite (storeRelease (bringAll (asks 0 [] (reqOf .store)) (reqOf .store).devWords) (reqOf .store)) 0 accW.pa accW.size = .ok
    ∧ judgeWrite (storeRelease (bringAll (asks 0 heldBy9 (reqOf .store)) (reqOf .store).devWords) (reqOf .store)) 0 accW.pa accW.size = .refuse .race 9
    ∧ (let s := ipHeld (reqOf .store)
       reqTurn s (reqOf .store) = true ∧ sentTurn s (reqOf .store) = true ∧ bindsMay s (reqOf .store) = true ∧ fabricDone s (reqOf .store) = true
       ∧ coreRoom s (reqOf .store) = true ∧ writeTurn s 5 false (reqOf .store).devWords = .go ∧ homeType s accW.pa = 3 ∧ clockRuns s 0 = true ∧ (l1At s 0 256).isSome = true
       ∧ judgeWrite (storeRelease (bringAll s (reqOf .store).devWords) (reqOf .store)) 0 accW.pa accW.size = .ok)
    ∧ (∀ tags ∈ [[], heldBy9], let s := asks 0 tags (reqOf .load)
      findReq s 5 = some (reqOf .load) ∧ reqTurn s (reqOf .load) = true ∧ bindsMay s (reqOf .load) = true
      ∧ ((reqOf .load).accs.all fun a => isDev a.pa && l1Hit s 0 a.pa a.size) = false
      ∧ readTurn s 5 (reqOf .load).devWords = .go ∧ sentTurn s (reqOf .load) = true ∧ promoteMay s 0 0 none (rcWords s (reqOf .load)) = true
      ∧ bindsOf s (reqOf .load) = [] ∧ (∀ w ∈ (reqOf .load).devWords, homeType s (4 * w) = 1 → observesCycle s 0 0 w = false))
    ∧ ((reqOf .load).accs.all fun a => isDev a.pa && l1Hit (ipHeld (reqOf .load)) 0 a.pa a.size) = true
    ∧ accW.readWords = [0x2000] ∧ judgeRead (bringAll (asks 0 [] (reqOf .load)) (reqOf .load).devWords) 0 (4 * 0x2000) 4 = .ok
    ∧ judgeRead (bringAll (asks 0 heldBy9 (reqOf .load)) (reqOf .load).devWords) 0 (4 * 0x2000) 4 = .refuse .race 9 := by
  simp only [List.forall_mem_cons, List.not_mem_nil, false_imp_iff, implies_true, and_true]
  refine ⟨⟨⟨rfl, rfl, rfl, rfl, rfl, rfl, rfl, rfl, rfl, ?_⟩, rfl, rfl, rfl, rfl, rfl, rfl, rfl, rfl, rfl, ?_⟩, rfl, rfl,
    ⟨rfl, rfl, rfl, rfl, rfl, rfl, rfl, rfl, rfl, rfl⟩, ⟨⟨rfl, rfl, rfl, rfl, rfl, rfl, rfl, rfl, ?_⟩, rfl, rfl, rfl, rfl, rfl, rfl, rfl, rfl, ?_⟩, rfl, rfl, rfl,
    rfl⟩ <;> decide

def atomReq : Req := { reqOf .atomic with ty := .n32 }
def relReq : Req := { reqOf .release with ord := 2, scope := 4, accs := [] }
def lineAcc : Acc := { lane := 96, va := 0, pa := 0x8000, size := 128 }
def rangeReq (k : RKind) : Req := { reqOf k with accs := [lineAcc], ord := 2, scope := 4, sent := true }
set_option maxRecDepth 20000 in
theorem witness_AtomicsAndRangesArePerformed :
    (∀ tags ∈ [[], heldBy9], let s := asks 0 tags atomReq
      findReq s 5 = some atomReq ∧ reqTurn s atomReq = true ∧ sentTurn s atomReq = true ∧ atomReq.ty.packed = false ∧ atomReq.half = false ∧ atomReq.accs = [accW]
      ∧ writeTurn s 5 false atomReq.devWords = .go ∧ s.mem.wf = true ∧ isDev accW.pa = true
      ∧ accW.size = atomReq.ty.width / 8 ∧ accW.pa % accW.size = 0 ∧ ¬(atomReq.ord = 1 ∨ atomReq.ord = 3) ∧ agentKind atomReq.agent ≠ 5)
    ∧ (let s1 := bringAll (asks 0 [] atomReq) atomReq.devWords
       judgeAtomic s1 0 accW.pa accW.size = .ok
       ∧ ∃ s0, arbGrant s1 (slotOfAgent s1 0) 1 0 atomReq.split (accW.pa / 128) (wmaskOf (wordsOf accW.pa accW.size).dedup) = some s0)
    ∧ judgeAtomic (bringAll (asks 0 heldBy9 atomReq) atomReq.devWords) 0 accW.pa accW.size = .refuse .race 9
    ∧ (∀ q ∈ [relReq, { relReq with ord := 1 }, rangeReq .seal, rangeReq .reuse], let s := asks 2 [] q
        findReq s 5 = some q ∧ reqTurn s q = true ∧ fabricDone s q = true)
    ∧ (∃ a ∈ (rangeReq .seal).accs, homeType (asks 0 [] (rangeReq .seal)) a.pa ≠ 2)
    ∧ (∀ k ∈ [RKind.seal, .reuse], (∀ a ∈ (rangeReq k).accs, homeType (asks 2 [] (rangeReq k)) a.pa = 2)
        ∧ wordsTaken (asks 2 [] (rangeReq k)) 5 false (rangeReq k).devWords = false
        ∧ (∀ l ∈ linesOfWords (rangeReq k).devWords, l3Room (asks 2 [] (rangeReq k)) l = true)
        ∧ ∃ s0, arbLines (asks 2 [] (rangeReq k)) (rangeReq k) (if k = .seal then 4 else 5) = some s0)
    ∧ (∀ l ∈ ((rangeReq .reuse).accs.map fun a => a.pa / 128).dedup, lineQuiet (asks 2 [] (rangeReq .reuse)) l = true
        ∧ loadsOn (asks 2 [] (rangeReq .reuse)) 5 l = false ∧ (∀ x ∈ (asks 2 [] (rangeReq .reuse)).m.claims, x.2 / 32 ≠ l)
        ∧ (dirAt (asks 2 [] (rangeReq .reuse)) l).host = false ∧ (dirAt (asks 2 [] (rangeReq .reuse)) l).hostx = false) := by
  simp only [List.forall_mem_cons, List.not_mem_nil, false_imp_iff, implies_true, and_true]
  refine ⟨⟨⟨rfl, rfl, rfl, rfl, rfl, rfl, rfl, rfl, rfl, rfl, rfl, ?_, ?_⟩, rfl, rfl, rfl, rfl, rfl, rfl, rfl, rfl, rfl, rfl, rfl, ?_, ?_⟩, ⟨rfl, _, rfl⟩, rfl,
    ⟨⟨rfl, rfl, rfl⟩, ⟨rfl, rfl, rfl⟩, ⟨rfl, rfl, rfl⟩, rfl, rfl, rfl⟩, ⟨lineAcc, by decide, by decide⟩,
    ⟨⟨?_, rfl, ?_, _, rfl⟩, ?_, rfl, ?_, _, rfl⟩, ?_⟩ <;> decide

/-- A quiet machine: nothing cached, nothing reserved. -/
def Q0 : State := { State.reset with m := {}, frz := {} }
def Qpage (ty : BitVec 2) (wst : Nat) : State := { Q0 with m := { frames := [(1, { ty := ty })], tags := [(0x400, { wst := wst })] } }
theorem witness_HostAccesses :
    Q0.mem.wf = true ∧ hostReach Q0 0x1000 4 = true ∧ copiesAnswer Q0 (wordsOf 0x1000 4) = true ∧ eventStalls Q0 = false ∧ hostwReplay Q0 0x1000 [1, 2, 3, 4] = some Q0
    ∧ homeType (Qpage 0 0) 0x1000 = 0 ∧ homeType (Qpage 3 0) 0x1000 = 3
    ∧ (homeType (Qpage 2 1) 0x1000 = 2 ∧ ∃ w ∈ wordsOf 0x1000 4, wstOf (Qpage 2 1) w ≠ 0)
    ∧ hostReadOk (bringIn (Qpage 0 0) (0x1000 / 128)) 0x1000 4 = true ∧ hostReadOk (bringIn (Qpage 3 0) (0x1000 / 128)) 0x1000 4 = false :=
  ⟨rfl, rfl, rfl, rfl, rfl, rfl, rfl, ⟨rfl, 0x400, by decide, by decide⟩, rfl, rfl⟩

/-- Group 0 stands at its first header; page 0 is mapped. -/
def P0 : State := { placePlain State.reset with m := { tlb := [(0, mapped)], ttlb := [(0, mapped)] }, frz := { clus := [(0, { lclu := some 0 })] } }
def P0e (f : Entry → Entry) : State := P0.updGroup 0 fun gr => gr.updEnt 0 f
def nopWord : Word := (encode (.nop ⟨0, .v 0, 0⟩)).getD 0
def nopClause : Clause := { addr := 0, hdr := plainHeader, words := [nopWord] }
/-- The clause of one NOP in memory: its header is zero. -/
def nopMem : Memory := Memory.putN [] 0x8008 (leBytes 8 nopWord.toNat)
def doneCtx : Ctx := { entry := 0, addr := 0, hdr := plainHeader, words := [nopWord], slot := 1, mask := allLanes, am := allLanes, cc := {}, view := {} }
def pendLd : Pend := { tok := some 2, frag := 0, instr := .ldB32 plainM, mask := 3, committed := true }
def refusedLd : Req := { reqOf .load with performed := true, refused := [(.race, 3, 0, 9)] }
def exited2 : State :=
  { P0 with groups := [(0, { grpOf P0 with status := .exited }), (1, { grpOf P0 with lgn := 1 })] }
def drained2 : State :=
  { P0 with groups := [], blocks := [(home0, { id := home0, cu := 0, base := 0, spad := 0, ntiles := 0, drained := true }),
                                     (⟨⟨0, 0⟩, 1⟩, { id := ⟨⟨0, 0⟩, 1⟩, cu := 1, base := 0, spad := 0, ntiles := 0 })] }
set_option maxRecDepth 20000 in
theorem witness_VectorEvents :
    (let s := { P0e (fun x => { x with valid := true, st := .fetching }) with mem := nopMem }
     ∃ gr c s', s.group? 0 = some gr ∧ 0 < gr.ents.length ∧ (gr.ent 0).valid = true ∧ (gr.ent 0).st = .fetching ∧ (gr.ent 0).park = .none ∧ groupRuns s gr = true
       ∧ (gr.ent 0).late = [] ∧ (gr.ent 0).haltReq = false ∧ (gr.ent 0).resume = none ∧ (gr.ent 0).call = none
       ∧ fetchClause s false gr.cu (pasidOf s gr.block.gang.slot) 0 (gr.ent 0).pc = (s', .ok c) ∧ wordsCheck gr.vregs 0 {} c.words = none)
    ∧ (∀ f ∈ [false, true], let s := P0e fun x => { x with st := .ready, clause := some nopClause, forced := f }
       ∃ gr, s.group? 0 = some gr ∧ partBusy s gr.part = false ∧ clockRuns s (cluOfCu (cuOfPart gr.part)) = true ∧ selectFrag s gr.part = some (0, 0)
       ∧ (gr.ent 0).clause = some nopClause ∧ startFault gr 0 nopClause = none)
    ∧ (let s := P0e fun x => { x with st := .ready }
       ∃ gr, s.group? 0 = some gr ∧ (gr.ent 0).valid = true ∧ (gr.ent 0).forced = false ∧ groupRuns s gr = true ∧ recorderHolds s gr 0 = false)
    ∧ (let s := P0.updGroup 0 fun gr => { gr with ctx := some doneCtx }
       ∃ gr, s.group? 0 = some gr ∧ gr.ctx = some doneCtx ∧ commitReady doneCtx = true ∧ commitMay s gr doneCtx = true ∧ groupRuns s gr = true)
    ∧ (∃ c, ((P0.setMx 0 { clause := some { addr := 0, hdr := plainHeader, words := [] } }).mxD 0).clause = some c ∧ c.slot = c.words.length ∧ c.wait = [])
    ∧ (let s := P0.updGroup 0 fun gr => { gr with pend := [pendLd] }
       ∃ gr, s.group? 0 = some gr ∧ groupRuns s gr = true ∧ gr.pend.findIdx? (fun p => p.ready 2) = some 0 ∧ gr.pend[0]? = some pendLd)
    ∧ (let s := { P0 with m := { reqs := [refusedLd] } }
       findReq s 5 = some refusedLd ∧ lateWhole s refusedLd = some (s, refusedLd) ∧ (∃ info, refusedInfo refusedLd = some info) ∧ parkForGroup s 0 0 (.late 5) = none)
    ∧ (∀ st ∈ [FragState.ready, .issuing, .halted], let s := dbgOn (P0e fun x => { x with st := st })
       ∃ gr, s.group? 0 = some gr ∧ mayHalt s 0 0 = true ∧ (gr.ent 0).valid = true ∧ (gr.ent 0).st = st ∧ gr.status = .resident
       ∧ ctxRuns s (lcluOf s gr.block.gang) = true ∧ partOfTask s gr.block.gang.slot = none)
    ∧ (let s := dbgOn ((P0e fun x => { x with st := .ready }).updGroup 0 fun gr => { gr with status := .swapped })
       ∃ gr, s.group? 0 = some gr ∧ mayHalt s 0 0 = true ∧ gr.status = .swapped ∧ ctxRuns s (lcluOf s gr.block.gang) = true ∧ partOfTask s gr.block.gang.slot = none)
    ∧ agentKind 0 ≠ 2
    ∧ (∃ gr, exited2.group? 0 = some gr ∧ gr.status = .exited ∧ groupQuiet exited2 0 = true ∧ ctxRuns exited2 (lcluOf exited2 gr.block.gang) = true ∧ ∃ h ∈ liveGroups exited2 gr.block, h ≠ 0)
    ∧ (∃ y, blockReady drained2 home0 = true ∧ drained2.block? ⟨⟨0, 0⟩, 1⟩ = some y ∧ y.retired = false) := by
  simp only [List.forall_mem_cons, List.not_mem_nil, false_imp_iff, implies_true, and_true]
  refine ⟨⟨_, _, _, rfl, by decide, rfl, rfl, rfl, rfl, rfl, rfl, rfl, rfl, rfl, rfl⟩, ⟨⟨_, rfl, rfl, rfl, rfl, rfl, rfl⟩, _, rfl, rfl, rfl, rfl, rfl, rfl⟩,
    ⟨_, rfl, rfl, rfl, rfl, rfl⟩, ⟨_, rfl, rfl, rfl, rfl, rfl⟩, ⟨_, rfl, rfl, rfl⟩, ⟨_, rfl, rfl, rfl, rfl⟩, ⟨rfl, rfl, ⟨_, rfl⟩, rfl⟩, ?_, ?_, by decide, ⟨_, rfl, rfl, rfl, rfl, 1, ?_, ?_⟩,
    ⟨_, rfl, rfl, rfl⟩⟩
  · refine ⟨?_, ?_, ?_⟩ <;> exact ⟨_, rfl, rfl, rfl, rfl, rfl, rfl, rfl⟩
  · exact ⟨_, rfl, rfl, rfl, rfl, rfl⟩
  · decide
  · decide
/-! ### Witnesses: the dispatch engine. What firmware sizes (Config.retainedStore, graphStore, swapPool) is a hypothesis where it counts. -/

/-- Queue 0 watches a record at 0x20000; PASID 0 maps the first GiB; a kernel's entry word stands at 0x1000. -/
def launchMem (rec : List Host.Cell) : Memory :=
  [(0x1000, 0xFF), (0x1001, 0x10)] ++ rec ++ [(0x40000, 1), (0x40001, 0x10), (0x40002, 4), (0x41000, 0x1F), (0x41007, 0x10)]
def launch (rec : List Host.Cell) : State :=
  { State.reset with
    frz := {}, mem := launchMem rec, m := { pasids := [(0, { root := 0x40000, lv5 := false, en := true })] }
    disp := { queues := [(0, { en := true, win := 0x20000, seqExp := 1 })], graphs := [(5, 0)], versions := [⟨0, 0, []⟩] } }
def recAt (s : State) : LRec := parseRec false (physRead s (watchedSlot (s.queueD 0)) 256)
def bytesAt (s : State) : List Byte := physRead s (watchedSlot (s.queueD 0)) 256
def taskRec : List Host.Cell :=
  [(0x20000, 1), (0x20008, 8), (0x20009, 0x10), (0x20010, 1), (0x20014, 1), (0x20015, 1), (0x20016, 16), (0x200F8, 1)]
/-- The same with a KENTRY that has no entry word. -/
def taskBad : List Host.Cell :=
  [(0x20000, 1), (0x20008, 8), (0x20009, 0x20), (0x20010, 1), (0x20014, 1), (0x20015, 1), (0x20016, 16), (0x200F8, 1)]
def graphRec (ty h : Byte) : List Host.Cell := [(0x20000, ty), (0x20002, h), (0x200F8, 1)]
/-- One node, at 0x30000. -/
def gdefRec : List Host.Cell :=
  [(0x20000, 3), (0x20002, 5), (0x2005A, 3), (0x20060, 1), (0x200F8, 1), (0x30000, 1), (0x30008, 8), (0x30009, 0x10), (0x30010, 1), (0x30014, 1),
   (0x30015, 1), (0x30016, 16)] ++ (List.range 32).map fun k => (0x30038 + k, 0xFF)
/-- A TASK whose dimensions are out of range. -/
def noDims : List Host.Cell := [(0x20000, 1), (0x200F8, 1)]
def wellPlaced (s : State) (ty : Nat) : Prop :=
  s.plat.failed = false ∧ partOfQueue s 0 = none ∧ s.plat.linkUp = true ∧ (s.queueD 0).en = true ∧ (s.queueD 0).parse = none ∧ slotAway s 0 = []
    ∧ engineTurn s (wordsOf (watchedSlot (s.queueD 0) + 0xF0) 8) = .go
    ∧ fieldOf (bytesAt s) 0xF8 8 = (s.queueD 0).seqExp.toNat ∧ (recAt s).ty = ty
set_option maxRecDepth 20000 in
theorem witness_LaunchWindow_refused :
    (wellPlaced (launch noDims) 1 ∧ plainRefusal (launch noDims) (recAt (launch noDims)) (bytesAt (launch noDims)) 0 = some 2)
    ∧ (∀ x ∈ [(taskBad, 1), (graphRec 2 6, 2), (graphRec 4 6, 4)], wellPlaced (launch x.1) x.2 ∧ plainRefusal (launch x.1) (recAt (launch x.1)) (bytesAt (launch x.1)) 0 = none)
    ∧ validate (launch taskBad) 0 (recAt (launch taskBad)) = .refuse 5
    ∧ validate (launch (graphRec 2 6)) 0 (recAt (launch (graphRec 2 6))) = .refuse 8
    ∧ validate (launch (graphRec 4 6)) 0 (recAt (launch (graphRec 4 6))) = .refuse 8 := by
  simp only [List.forall_mem_cons, List.not_mem_nil, false_imp_iff, implies_true, and_true]
  refine ⟨⟨⟨rfl, rfl, rfl, rfl, rfl, rfl, by decide, rfl, rfl⟩, rfl⟩, ⟨⟨⟨rfl, rfl, rfl, rfl, rfl, rfl, by decide, rfl, rfl⟩, rfl⟩, ⟨⟨rfl, rfl, rfl, rfl, rfl, rfl, by decide, rfl, rfl⟩, rfl⟩, ⟨rfl, rfl, rfl, rfl, rfl, rfl, by decide, rfl, rfl⟩, rfl⟩, rfl, rfl, rfl⟩
theorem store_passes {a b c d : Nat} (h1 : c ≤ Config.graphStore) (h2 : d ≤ Config.retainedStore) (ha : a ≤ c) (hb : b ≤ d) (p : Passed) :
    (if a > Config.graphStore || b > Config.retainedStore then Judged.refuse rStore else .good p) = .good p := by
  rw [if_neg]; simp; omega
set_option maxRecDepth 100000 in
theorem gdef_judged : validate (launch gdefRec) 0 (recAt (launch gdefRec))
    = if 256 > Config.graphStore || 512 > Config.retainedStore then Judged.refuse rStore
      else .good { nodes := [(parseRec true (physRead (launch gdefRec) 0x30000 256), [])] } := rfl
set_option maxRecDepth 100000 in
theorem witness_LaunchWindow (h1 : 256 ≤ Config.graphStore) (h2 : 1024 ≤ Config.retainedStore) :
    (∀ x ∈ [(taskRec, 1), (graphRec 2 5, 2), (gdefRec, 3), (graphRec 4 5, 4)],
      wellPlaced (launch x.1) x.2 ∧ plainRefusal (launch x.1) (recAt (launch x.1)) (bytesAt (launch x.1)) 0 = none
      ∧ ∃ p, validate (launch x.1) 0 (recAt (launch x.1)) = .good p ∧ roomFor (launch x.1) 0 (recAt (launch x.1)) p = true)
    ∧ (isDev (watchedSlot ((launch taskRec).queueD 0)) = true ∧ isDev (watchedSlot ((launch taskRec).queueD 0) + 0xF7) = true
        ∧ (launch taskRec).mem.wf = true) := by
  simp only [List.forall_mem_cons, List.not_mem_nil, false_imp_iff, implies_true, and_true]
  refine ⟨⟨?_, ?_, ?_, ?_⟩, by decide, by decide, rfl⟩
  · exact ⟨⟨rfl, rfl, rfl, rfl, rfl, rfl, by decide, rfl, rfl⟩, rfl, _, store_passes (a := 0) (b := 256) h1 h2 (by omega) (by omega) {}, rfl⟩
  · exact ⟨⟨rfl, rfl, rfl, rfl, rfl, rfl, by decide, rfl, rfl⟩, rfl, _, store_passes (a := 0) (b := 256) h1 h2 (by omega) (by omega) { nodes := [] }, rfl⟩
  · refine ⟨⟨rfl, rfl, rfl, rfl, rfl, rfl, by decide, rfl, rfl⟩, rfl, { nodes := [(parseRec true (physRead (launch gdefRec) 0x30000 256), [])] }, ?_, rfl⟩
    rw [gdef_judged]; exact store_passes (a := 256) (b := 512) h1 h2 (by omega) (by omega) _
  · exact ⟨⟨rfl, rfl, rfl, rfl, rfl, rfl, by decide, rfl, rfl⟩, rfl, _, store_passes (a := 0) (b := 256) h1 h2 (by omega) (by omega) {}, rfl⟩
/-- A record of SPAWN waits in queue 0; its SEQ is not judged. -/
def spawnBytes : List Byte := physRead (launch taskRec) 0x20000 256
def spawnRec : SpawnRec := { grp := 0, issuer := 0, pa := 0x30000, bytes := spawnBytes }
def spawnState : State := (launch []).setQueue 0 { en := true, spawned := [spawnRec] }
/-- It has come to a queue that is disabled. -/
def spawnDead : SpawnRec := { spawnRec with dead := true }
set_option maxRecDepth 20000 in
theorem witness_LaunchWindow_spawn (h1 : 256 ≤ Config.graphStore) (h2 : 1024 ≤ Config.retainedStore) :
    let s1 := spawnState.setQueue 0 { spawnState.queueD 0 with spawned := [] }
    let r := parseRec false spawnBytes
    (spawnState.queueD 0).spawned = [spawnRec] ∧ 256 ≤ spawnBytes.length ∧ r.stamp = 0 ∧ engineTurn s1 (wordsOf 0x300F0 8) = .go
      ∧ spawnRefusal s1 0 spawnRec r spawnBytes = none ∧ (∃ n, spawnRefusal s1 0 spawnDead r spawnBytes = some n)
      ∧ ∃ p, validate s1 0 r = .good p ∧ roomFor s1 0 r p = true :=
  ⟨rfl, by decide, rfl, rfl, rfl, ⟨_, rfl⟩, _, store_passes (a := 0) (b := 256) h1 h2 (by omega) (by omega) {}, rfl⟩

/-- A task with one gang of one group to place, whose index die 0 holds. -/
def toPlace : Task := { slot := 0, gen := 1, queue := 0, order := 0, lr := { plainRec with vregs := 16, spad := 0 }, st := .ready, granted := [(0, 0)], nextKid := 1 }
def place0 : Placement := { gang := ⟨0, 0⟩, cluster := 0, lclu := 0, blocks := [{ cu := 0, base := 0, groups := [(0, 0)] }] }
def placing : State :=
  { State.reset with frz := {}, m := {}, tasks := [(0, toPlace)], disp := { turn := some (2, 0, 0), deficit := [0, 0, 1, 0] } }
theorem fits_placing (h : 20000 ≤ Config.swapPool) : gangFits placing toPlace 0 = true := by
  have e : gangFits placing toPlace 0 = (true && decide (0 + 1 * 10240 ≤ Config.swapPool) && true) := rfl
  rw [e, decide_eq_true (by omega)]; rfl
theorem placeable_placing (h : 20000 ≤ Config.swapPool) : placeable placing toPlace = true := by
  have hm : (0 : Nat) ∈ List.range 112 := by decide
  rw [placeable, Bool.and_eq_true]
  exact ⟨rfl, List.any_eq_true.2 ⟨0, hm, by rw [fits_placing h]; rfl⟩⟩
theorem queueTask_placing (h : 20000 ≤ Config.swapPool) : queueTask placing 0 = some toPlace := by
  have e : tasksOfQueue placing 0 = [toPlace] := rfl
  rw [queueTask, e]; simp [List.find?, placeable_placing h]
theorem arbiter_turn {s : State} {c q n : Nat} (ht : s.disp.turn = some (c, q, n))
    (h : n < (s.queueD q).weight ∧ s.disp.deficit.getD c 0 ≥ 1 ∧ (queueTask s q).isSome = true) : arbiter s = some (c, q, s.disp) := by
  unfold arbiter; simp only [ht]; exact if_pos h
theorem nextPlace_placing (h : 20000 ≤ Config.swapPool) : nextPlace placing toPlace place0 = some (countPlaced placing.disp 2) := by
  have a : arbiter placing = some (2, 0, placing.disp) := arbiter_turn rfl ⟨by decide, by decide, by rw [queueTask_placing h]; rfl⟩
  have k : keptFits placing = none := rfl
  simp only [nextPlace, k, a, queueTask_placing h]; rfl
/-- Nine gangs, of which some indices came back from a failed die. -/
def toRange (l : List Nat) : Task := { toPlace with lr := { plainRec with gangs := 9, vregs := 16, spad := 0 }, returned := l }
theorem dieRoom_placing (h : 20000 ≤ Config.swapPool) {l : List Nat} (hl : l = [] ∨ l = [3, 1]) : dieRoom placing (toRange l) 0 = true := by
  have e : gangFits placing (toRange l) 0 = (true && decide (0 + 1 * 10240 ≤ Config.swapPool) && true) := by
    rcases hl with rfl | rfl <;> rfl
  refine List.any_eq_true.2 ⟨0, by decide, ?_⟩
  rw [e, decide_eq_true (by omega)]; rcases hl with rfl | rfl <;> rfl
set_option maxRecDepth 50000 in
theorem witness_GangsArePlaced (h : 20000 ≤ Config.swapPool) :
    (∃ d, nextPlace placing toPlace place0 = some d)
    ∧ placing.task? place0.gang.slot = some toPlace ∧ toPlace.slot = place0.gang.slot
    ∧ nextIndex toPlace (dieOfClu place0.cluster) = some place0.gang.kid ∧ placing.plat.failed = false ∧ placing.plat.capHold = false
    ∧ slotStalls placing toPlace.slot = false
    ∧ placementOk placing toPlace place0 = true ∧ partOfTask placing toPlace.slot = none ∧ (∀ y ∈ toPlace.indexed, y.2.cls ≠ 1) ∧ toPlace.unplaced = true ∧ placedGroups place0 ≠ []
    ∧ (∀ r ∈ [[], [3, 1]], let t := toRange r
        (0 : Nat) < 4 ∧ placing.disp.deadDies.contains 0 = false ∧ t.unplaced = true ∧ t.nextKid + 2 ≤ t.lr.gangs ∧ dieRoom placing t 0 = true) := by
  refine ⟨⟨_, nextPlace_placing h⟩, rfl, rfl, rfl, rfl, rfl, rfl, ?_, rfl, by decide, rfl, by decide, ?_⟩
  · rw [placementOk, show gangFits placing toPlace place0.cluster = true from fits_placing h]; rfl
  · simp only [List.forall_mem_cons, List.not_mem_nil, false_imp_iff, implies_true, and_true]
    refine ⟨⟨?_, ?_, ?_, ?_, dieRoom_placing h (.inl rfl)⟩, ?_, ?_, ?_, ?_, dieRoom_placing h (.inr rfl)⟩ <;> decide
/-! ### Witnesses: reports, swaps, caches, pages -/

def doneTask : Task := { slot := 0, gen := 1, queue := 0, order := 0, lr := plainRec, st := .done }
def doneState : State := { State.reset with frz := {}, m := {}, tasks := [(0, doneTask)], disp := { queues := [(0, { en := true, irq := true, cmp := 0x1000 })] } }
def trapPark (ph aux : Nat) : Entry → Entry := fun x =>
  { x with st := .parked, park := .op { op (.trap ⟨0, .v 0, 0x12⟩) with phase := ph, aux } }
def callSet : ScSet := { en := true, rqb := 0x2000, rpb := 0x3000, rpt := 1, rqt := 1, waitingFor := [(1, 0, 0)] }
def calling : State := { P0e (trapPark 1 0) with disp := { sets := [(0, callSet)] } }
def replied : State := { P0e (trapPark 2 1) with disp := { sets := [(0, callSet)] }, hostMem := [(0x3000, 1), (0x3008, 7), (0x3010, 9)] }
set_option maxRecDepth 50000 in
theorem witness_ReportsAndSystemCalls :
    (reportNext doneState 0 = some doneTask ∧ doneState.task? doneTask.slot = some doneTask ∧ doneState.plat.failed = false
      ∧ queueHalted doneState 0 doneTask = false ∧ (∀ y ∈ reportTasks doneState doneTask, hubOwes doneState (killedKey y.slot) = false)
      ∧ owedDevices doneState doneTask = [] ∧ hubOwes doneState (reportKey doneTask.slot) = false ∧ doneState.plat.linkUp = true ∧ doneState.hostMem.wf = true
      ∧ reportRoom (doneState.queueD 0) = true ∧ (doneState.queueD 0).irq = true)
    ∧ (∃ gr p t, calling.group? 0 = some gr
      ∧ (gr.frags.find? fun e => match trapOf gr e with | some p => p.phase == 1 | none => false) = some 0 ∧ 0 < gr.ents.length ∧ trapOf gr 0 = some p
      ∧ setOfPasid calling (pasidOf calling gr.block.gang.slot) = some (0, callSet) ∧ taskOf calling gr = some t
      ∧ (callSet.rqt + 2 ^ 32 - callSet.rqh % 2 ^ 32) % 2 ^ 32 < 2 ^ callSet.log ∧ calling.plat.linkUp = true ∧ calling.plat.failed = false ∧ reachable calling gr = true)
    ∧ (∃ gr p, loggedCaller replied callSet.pasid = none ∧ callSet.en = true ∧ replied.plat.linkUp = true ∧ replied.plat.failed = false ∧ callSet.rph % 2 ^ 32 ≠ callSet.rpt % 2 ^ 32
      ∧ (callSet.waitingFor.find? fun w => w.1 == fieldOf (replied.hostMem.getN (callSet.rpb + 32 * (callSet.rph % 2 ^ callSet.log)) 32) 0 8) = some (1, 0, 0)
      ∧ replied.group? 0 = some gr ∧ trapOf gr 0 = some p ∧ p.aux = fieldOf (replied.hostMem.getN (callSet.rpb + 32 * (callSet.rph % 2 ^ callSet.log)) 32) 0 8
      ∧ parkForGroup replied 0 0 (.reply 0 0 7 9) = none ∧ partOfTask replied gr.block.gang.slot = none) := by
  refine ⟨⟨rfl, rfl, rfl, rfl, by decide, rfl, rfl, rfl, rfl, by decide, rfl⟩, ⟨_, _, _, rfl, rfl, by decide, rfl, rfl, rfl, by decide, rfl, rfl, rfl⟩,
    ⟨_, _, rfl, rfl, rfl, rfl, by decide, rfl, rfl, rfl, rfl, rfl, rfl⟩⟩

def leaving (w : SwapCause) : State := P0.updBlock home0 fun b => { b with why := w }
def blk (s : State) : Block := (s.block? home0).getD { id := home0, cu := 0, base := 0, spad := 0, ntiles := 0 }
def wantTask : Task :=
  { slot := 1, gen := 1, queue := 1, order := 1, st := .ready, lr := { plainRec with blocks := 8, groups := 16, vregs := 168, spad := 0 } }
/-- A task of a higher class waits, whose eight blocks of 16 groups do not fit beside group 0. -/
def wanted : State :=
  let s := leaving .none
  { s with tasks := s.tasks ++ [(1, wantTask)], disp := { queues := [(1, { cls := 0 })] } }
set_option maxRecDepth 50000 in
theorem fits_wanted (h : 20000000 ≤ Config.swapPool) : gangFits (without wanted (evictable wanted wantTask 0)) wantTask 0 = true := by
  have e : gangFits (without wanted (evictable wanted wantTask 0)) wantTask 0 = (true && decide (184320 + 8 * 1097728 ≤ Config.swapPool) && true) := rfl
  rw [e, decide_eq_true (by omega)]; rfl
set_option maxRecDepth 50000 in
theorem wantsRoom_wanted (h : 20000000 ≤ Config.swapPool) : wantsRoom wanted (blk wanted) [0] = true := by
  refine List.any_eq_true.2 ⟨(1, wantTask), List.mem_append_right _ (List.mem_singleton.2 rfl), ?_⟩
  have f : gangFits (without wanted (evictable wanted wantTask (cluOfCu (blk wanted).cu))) wantTask (cluOfCu (blk wanted).cu) = true := fits_wanted h
  simp only [Bool.and_eq_true]
  exact ⟨⟨⟨⟨⟨⟨⟨rfl, rfl⟩, rfl⟩, rfl⟩, rfl⟩, f⟩, rfl⟩, rfl⟩
def swappedOut : State := P0.updGroup 0 fun gr => { gr with status := .swapped }
def withReq (q : Req) (s : State) : State := { s with m := { s.m with reqs := [q] } }
def failedDev : State := { P0 with plat := { failed := true }, agenda := [.event .hostLinkRetrain] }
set_option maxRecDepth 50000 in
theorem witness_SwapsAndFailures (h : 20000000 ≤ Config.swapPool) :
    (∀ s ∈ [leaving .pgpark, leaving (.fault 0 0 5), wanted], s.block? home0 = some (blk s) ∧ (blk s).retired = false ∧ (blk s).swapped = false
      ∧ (∀ g ∈ [0], ∃ gr, s.group? g = some gr ∧ swapReady gr = true) ∧ clockRuns s (cluOfCu (blk s).cu) = true ∧ blockHere s (blk s) = true
      ∧ [0] = residentDown s home0 ∧ liveGang s home0.gang = true)
    ∧ ((blk wanted).why = .none ∧ [0] = (residentDown wanted home0).take [0].length ∧ wantsRoom wanted (blk wanted) [0] = true ∧ wanted.mem.wf = true)
    ∧ (swappedOut.block? home0 = some (blk swappedOut) ∧ (blk swappedOut).retired = false ∧ (blk swappedOut).swapped = false
      ∧ (∀ p ∈ [(0, 1)], p.1 ∈ ((groupsOfBlock swappedOut home0).filter fun g => match swappedOut.group? g with | some x => decide (x.status = .swapped) | none => false)
          ∧ cuOfPart p.2 = (blk swappedOut).cu) ∧ ([(0, 1)].map (·.1)).Nodup ∧ swapRoom swappedOut [(0, 1)] = true ∧ liveGang swappedOut home0.gang = true
      ∧ physClu swappedOut (lcluOf swappedOut home0.gang) = some (cluOfCu (blk swappedOut).cu) ∧ clockRuns swappedOut (cluOfCu (blk swappedOut).cu) = true)
    ∧ ((∃ x, P0.gang? ⟨0, 0⟩ = some x ∧ x.killed = none) ∧ (P0.task? 0).isSome = true ∧ killCause 0x10 = true
      ∧ (∀ y ∈ P0.m.reqs, y.agent ∈ gangAgents P0 ⟨0, 0⟩ → y.performed = true ∨ y.kind = .load ∨ y.kind = .resv)
      ∧ slotStalls P0 0 = false ∧ P0.insts = []
      ∧ ∃ y ∈ (withReq (reqOf .store) P0).m.reqs, y.agent ∈ gangAgents P0 ⟨0, 0⟩ ∧ y.performed = false ∧ y.kind ≠ .load ∧ y.kind ≠ .resv)
    ∧ (P0.disp.deadDies.contains 0 = false ∧ P0.plat.failed = false ∧ ∃ x c, P0.gang? ⟨0, 0⟩ = some x ∧ physClu P0 x.lclu = some c ∧ dieOfClu c = 0)
    ∧ (failedDev.plat.failed = true ∧ failedDev.agenda = [.event .hostLinkRetrain] ∧ Instr.isWord .hostLinkRetrain = false)
    ∧ (P0.m.failedStacks.contains 3 = false ∧ P0.m.failedChans.contains (3, 7) = false)
    ∧ P0.plat.linkUp = true ∧ ({ linkUp := false } : Plat).linkUp = false := by
  simp only [List.forall_mem_cons, List.not_mem_nil, false_imp_iff, implies_true, and_true]
  refine ⟨⟨?_, ?_, ?_⟩, ⟨rfl, rfl, wantsRoom_wanted h, rfl⟩, ⟨rfl, rfl, rfl, ⟨by decide, rfl⟩, by decide, rfl, rfl, rfl, rfl⟩,
    ⟨⟨_, rfl, rfl⟩, rfl, rfl, by decide, rfl, rfl, reqOf .store, by decide, by decide, rfl, by decide, by decide⟩,
    ⟨rfl, rfl, _, _, rfl, rfl, rfl⟩, ⟨rfl, rfl, rfl⟩, ⟨rfl, rfl⟩, rfl⟩ <;> exact ⟨rfl, rfl, rfl, ⟨_, rfl, rfl⟩, rfl, rfl, rfl, rfl⟩
/-! ### Witnesses: caches and pages -/

def gotLd : Req := { reqOf .load with performed := true, vals := [(3, 9)] }
def gotCore : Req := { reqOf .load with performed := true, vals := [(96, 9)], orig := .core 0, agent := agentOfCore 0 }
def awaiting (w : List Nat) (s : State) : State := s.updGroup 0 fun gr => { gr with ctx := some { doneCtx with wait := w } }
def resv0 : Resv := { id := 6, lgn := 0, e := 0, slot := 0, iaddr := 8, mask := 1, agent := 0, line := 0x100, granted := false, queued := false }
def withResv (r : Resv) : State := awaiting [6] { P0 with m := { resv := [r] } }
/-- `n` lines have a granted reservation. -/
def crowd (n : Nat) : List Resv := (List.range n).map fun k => { resv0 with id := k + 10, line := k + 1000, granted := true }
def crowded (n : Nat) : State := awaiting [6] { P0 with m := { resv := resv0 :: crowd n } }
theorem crowded_full (n : Nat) (hN : 16384 ≤ n) (h : ∀ l, Config.l3Slice l = Config.l3Slice 0) : holdRoom (crowded n) 0 0x100 = false := by
  have hg : ∀ x : Nat × Nat, x ∈ grantedResv (crowded n) ↔ ∃ k, k < n ∧ x = (0, k + 1000) := by
    intro x
    have e : grantedResv (crowded n) = (((resv0 :: (crowd n)).filter fun r => r.granted).map fun r => (r.agent, r.line)).dedup := by
      unfold grantedResv
      simp only [show (crowded n).m.reqs = [] from rfl, show (crowded n).m.resv = resv0 :: (crowd n) from rfl, List.filter_nil, List.flatMap_nil, List.append_nil]
    rw [e, List.mem_dedup, List.mem_map]
    constructor
    · rintro ⟨r, hr, rfl⟩
      rw [List.mem_filter, List.mem_cons] at hr
      obtain ⟨rfl | hr, hq⟩ := hr
      · exact absurd hq (by decide)
      · rw [crowd] at hr
        obtain ⟨k, hk, rfl⟩ := List.mem_map.1 hr
        exact ⟨k, List.mem_range.1 hk, rfl⟩
    · rintro ⟨k, hk, rfl⟩
      exact ⟨{ resv0 with id := k + 10, line := k + 1000, granted := true },
        List.mem_filter.2 ⟨List.mem_cons_of_mem _ (by rw [crowd]; exact List.mem_map.2 ⟨k, List.mem_range.2 hk, rfl⟩), rfl⟩, rfl⟩
  have hm : ∀ l, l ∈ (heldLines (crowded n) ++ (grantedResv (crowded n)).map (·.2)).dedup ↔ ∃ k, k < n ∧ l = k + 1000 := by
    intro l
    rw [List.mem_dedup, show heldLines (crowded n) = [] from rfl, List.nil_append, List.mem_map]
    constructor
    · rintro ⟨x, hx, rfl⟩; obtain ⟨k, hk, rfl⟩ := (hg x).1 hx; exact ⟨k, hk, rfl⟩
    · rintro ⟨k, hk, rfl⟩; exact ⟨(0, k + 1000), (hg _).2 ⟨k, hk, rfl⟩, rfl⟩
  have hlen : ¬ (heldLines (crowded n) ++ (grantedResv (crowded n)).map (·.2)).dedup.length < 16384 := by
    have hsub : (Finset.range n).image (· + 1000) ⊆ ((heldLines (crowded n) ++ (grantedResv (crowded n)).map (·.2)).dedup).toFinset := by
      intro l hl
      rw [List.mem_toFinset, hm]
      obtain ⟨k, hk, rfl⟩ := Finset.mem_image.1 hl
      exact ⟨k, Finset.mem_range.1 hk, rfl⟩
    have hc := Finset.card_le_card hsub
    rw [Finset.card_image_of_injective _ (fun a b h => Nat.add_right_cancel h), Finset.card_range,
      List.toFinset_card_of_nodup (List.nodup_dedup _)] at hc
    omega
  have hn : (heldLines (crowded n) ++ (grantedResv (crowded n)).map (·.2)).dedup.contains 0x100 = false := by
    rw [Bool.eq_false_iff, ne_eq, List.contains_iff_mem, hm]
    rintro ⟨k, _, e⟩; omega
  have hs : ((heldLines (crowded n) ++ (grantedResv (crowded n)).map (·.2)).dedup.filter fun l => Config.l3Slice l == Config.l3Slice 0x100)
      = (heldLines (crowded n) ++ (grantedResv (crowded n)).map (·.2)).dedup := List.filter_eq_self.2 (fun l _ => by rw [h l, h 0x100]; simp)
  rw [holdRoom]
  simp only [hn, hs, hlen]
  rfl
theorem crowd_calm (n : Nat) : ∀ y ∈ (crowded n).m.resv, y.queued = false := by
  intro y hy
  rcases List.mem_cons.1 hy with rfl | hy
  · rfl
  · obtain ⟨k, _, rfl⟩ := List.mem_map.1 hy; rfl
theorem witness_HomesAndCaches_reservation (n : Nat) (hN : 16384 ≤ n) (h : ∀ l, Config.l3Slice l = Config.l3Slice 0) :
    (∀ s ∈ [withResv resv0, crowded n], ∃ gr c, findResv s 6 = some resv0 ∧ agentKind resv0.lgn ≠ 2 ∧ s.group? resv0.lgn = some gr ∧ gr.ctx = some c
      ∧ c.wait = [6] ∧ c.faults = [] ∧ resv0.granted = false ∧ resv0.queued = false ∧ resvParked s 6 = false
      ∧ (∀ y ∈ s.m.resv, y.queued = false) ∧ ∀ t ok, t.groups = s.groups → t.frz = s.frz → t.gangs = s.gangs → parkForGroup t resv0.lgn 3 (.resv 6 ok) = none)
    ∧ holdRoom (withResv resv0) resv0.agent resv0.line = true ∧ holdRoom (crowded n) resv0.agent resv0.line = false := by
  simp only [List.forall_mem_cons, List.not_mem_nil, false_imp_iff, implies_true, and_true]
  refine ⟨⟨⟨_, _, rfl, by decide, rfl, rfl, rfl, rfl, rfl, rfl, rfl, by decide, ?_⟩, _, _, rfl, by decide, rfl, rfl, rfl, rfl, rfl, rfl, rfl, crowd_calm n, ?_⟩,
    rfl, crowded_full n hN h⟩ <;>
  · rintro ⟨⟩ ok h1 h2 h3
    dsimp only at h1 h2 h3; subst h1 h2 h3; rfl

def queuedResv : Resv := { resv0 with queued := true }
def lineX : L1Line := { valid := 3, dirty := 0, data := [] }
def invals (whole : Bool) : State := { P0 with m := { inval := [⟨0, 0x100, 1, whole⟩], l1 := [((0, 0x100), lineX)] } }
def evicts (d : Bool) : State := { P0 with m := { l3 := [0x100], dir := [(0x100, { noc := true })], tags := [(0x2000, { dirty := d, valid := true })] } }
def stacksDown (l : List Nat) : State := { P0 with m := { failedStacks := l } }
set_option maxRecDepth 50000 in
theorem witness_HomesAndCaches :
    (∃ gr c, findReq (withReq gotLd P0) 5 = some gotLd ∧ refusedInfo gotLd = none ∧ (withReq gotLd P0).group? 0 = some gr ∧ gr.ctx = none
      ∧ parkForGroup (withReq gotLd P0) 0 0 (.load 5) = none ∧ ((awaiting [5] (withReq gotLd P0)).group? 0).bind (·.ctx) = some c ∧ c.wait = [5]
      ∧ c.faults = [] ∧ c.slot = c.words.length
      ∧ commitMay (awaiting [5] (withReq gotLd P0)) gr c = true)
    ∧ (findReq (withReq gotCore P0) 5 = some gotCore ∧ parkAt (withReq gotCore P0) 0 0 (.load 5) = none)
    ∧ (findResv (withResv queuedResv) 6 = some queuedResv ∧ holdRoom (withResv queuedResv) 0 0x100 = true)
    ∧ (∀ w ∈ [false, true], ((invals w).m.inval.find? fun i => i.cu == 0 && i.line == 0x100) = some ⟨0, 0x100, 1, w⟩ ∧ l1Answers (invals w) 0 = true)
    ∧ (((withReq gotLd P0).m.reqs.any fun q => q.isLoad && q.cu == 0 && q.performed && q.lines.contains 0x100) = true ∧ isDev (0x100 * 128) = true
      ∧ clockRuns (withReq gotLd P0) 0 = true ∧ (dirAt (withReq gotLd P0) 0x100).noc = false ∧ (dirAt (withReq gotLd P0) 0x100).pend = false
      ∧ (dirAt (withReq gotLd P0) 0x100).hostx = false
      ∧ lineQuiet (withReq gotLd P0) 0x100 = true ∧ l1May (withReq gotLd P0) 0 0x100 ≠ 0)
    ∧ (let s := { withReq gotLd P0 with m := { reqs := [gotLd], l3 := [0x100] } }
       s.m.l3.contains 0x100 = true ∧ l1May s 0 0x100 ≠ 0 ∧ l1HasRoom (l1Room s 0 0x100) 0 0x100 = true)
    ∧ (∀ d ∈ [false, true], (evicts d).m.l3.contains 0x100 = true ∧ lineKept (evicts d) 0x100 = false ∧ frozenByRetype (evicts d) (0x100 * 128) = false
      ∧ (dirAt (evicts d) 0x100).noc = true ∧ lineQuiet (evicts d) 0x100 = true ∧ entriesOf (evicts d) 0x100 = [] ∧ (evicts d).m.reqs = []
      ∧ (dirAt (evicts d) 0x100).host = false ∧ (dirAt (evicts d) 0x100).hostx = false ∧ (dirAt (evicts d) 0x100).shv = 0 ∧ (evicts d).hbm.wf = true ∧ (evicts d).parity.wf = true
      ∧ parityOk (evicts d) 0x100 = true
      ∧ ((List.range 32).any fun k => (tagAt (evicts d) (0x100 * 32 + k)).dirty) = d)
    ∧ (healthy P0 0 = true ∧ stripeBroken P0 0 = false ∧ P0.m.l3.contains 0 = false ∧ l3Room P0 0 = true ∧ P0.plat.failed = false ∧ P0.hbm.wf = true)
    ∧ (healthy (stacksDown [stackOf 0, parityStack 0]) 0 = false ∧ stripeBroken (stacksDown [stackOf 0, parityStack 0]) 0 = true
      ∧ stripeBroken (stacksDown [parityStack 0]) 0 = true)
    ∧ (hostReach Q0 (0x100 * 128) 64 = true ∧ hostShared Q0 0x100 = true ∧ hostExcl Q0 0x100 = true
      ∧ (let s : State := { Q0 with m := { frames := [(8, { ty := 3 })] } }; hostShared s 0x100 = false)
      ∧ (let s : State := { Q0 with m := { tags := [(0x2000, { hold := true })] } }; hostShared s 0x100 = true ∧ hostExcl s 0x100 = false)
      ∧ copiesAnswer Q0 ((List.range 32).map fun k => 0x100 * 32 + k) = true)
    ∧ (let s : State := { Q0 with m := { bi := [0x100], dir := [(0x100, { host := true, hostx := true })] } }
       s.m.bi.contains 0x100 = true ∧ s.m.biAgain.contains 0x100 = false ∧ recordingParts s = [] ∧ nextHostw s = none
       ∧ copiesAnswer s ((List.range 32).map fun k => 0x100 * 32 + k) = true
       ∧ ((List.replicate 128 (7 : Byte)).length = 128 ∧ (dirAt s 0x100).hostx = true)) := by
  simp only [List.forall_mem_cons, List.not_mem_nil, false_imp_iff, implies_true, and_true]
  refine ⟨⟨_, _, rfl, rfl, rfl, rfl, rfl, rfl, rfl, rfl, rfl, rfl⟩, ⟨rfl, rfl⟩, ⟨rfl, rfl⟩, ⟨⟨rfl, rfl⟩, rfl, rfl⟩, ⟨rfl, by decide, rfl, rfl, rfl, rfl, rfl, by decide⟩,
    ⟨rfl, by decide, rfl⟩, ⟨⟨rfl, rfl, rfl, rfl, rfl, rfl, rfl, rfl, rfl, rfl, rfl, rfl, rfl, rfl⟩, rfl, rfl, rfl, rfl, rfl, rfl, rfl, rfl, rfl, rfl, rfl, rfl, rfl, rfl⟩,
    ⟨rfl, rfl, rfl, rfl, rfl, rfl⟩, ⟨rfl, rfl, rfl⟩, ⟨rfl, rfl, rfl, rfl, ⟨rfl, rfl⟩, rfl⟩, rfl, rfl, rfl, rfl, rfl, rfl, rfl⟩
theorem witness_HomesAndCaches_grant :
    ((withResv queuedResv).m.resv.find? fun y => y.queued && Config.l3Slice y.line == Config.l3Slice queuedResv.line).map (·.id) = some 6 := by
  have e : (withResv queuedResv).m.resv = [queuedResv] := rfl
  simp only [e, List.find?_cons, beq_self_eq_true, Bool.and_true]
  rfl

def preq0 : PReq := { pasid := 0, page := 9, write := false, exec := false }
def asking : State := { P0 with m := { preqs := [preq0] } }
def pparked (ps : List (Nat × Nat × Bool)) : State := (P0e fun x => { x with st := .parked, park := .pages ps })
theorem witness_PagesAndFrames (h : 1 ≤ Config.pageAllowance) :
    (P0.disp.deadDies.contains (dieOfClu (cluOfCu 0)) = false ∧ clockRuns P0 (cluOfCu 0) = true)
    ∧ ((unsent asking).head?.map (·.pasid) = some 0 ∧ 1 ≤ asking.m.prgmax ∧ 1 ≤ ((unsent asking).filter fun p => p.pasid == 0).length ∧ asking.m.rf = false
      ∧ asking.plat.linkUp = true ∧ preqsSent asking + 1 ≤ Config.pageAllowance)
    ∧ (let s := { pparked [(0, 9, false)] with m := { preqs := [preq0] } }
       s.group? 0 = some (grpOf s) ∧ s.block? (grpOf s).block = some (blk s) ∧ ((grpOf s).ent 0).valid = true ∧ ((grpOf s).ent 0).st = .parked ∧ ((grpOf s).ent 0).park = .pages [(0, 9, false)]
       ∧ (parkedPages ((grpOf s).ent 0)).1.any (waitsUnsent s) = true ∧ 0 < (grpOf s).ents.length ∧ (blk s).why = .none
       ∧ groupRuns s (grpOf s) = true ∧ ∀ p ∈ [(0, 9, false)], answers [preq0] p = true)
    ∧ ((P0.m.prgs.any fun p => p.1 == 3) = false ∧ (P0.m.preqs.filter fun p => p.grp == some 3) = [])
    ∧ (({ P0 with m := { prgs := [(3, 0)] } } : State).m.prgs.any fun p => p.1 == 3) = true
    ∧ P0.m.tlbi.busy = false
    ∧ (let s : State := { P0 with m := { tlbi := { busy := true } } }
       s.m.tlbi.busy = true ∧ (∀ i ∈ s.m.tlbi.pendingReqs, ∀ q, findReq s i = some q → q.performed = true) ∧ tlbiHeld s = false)
    ∧ ((∀ x ∈ [({ state := 0 } : Retype), { state := 3 }, { state := 4 }], (x.state = 0 ∨ x.state = 3 ∨ x.state = 4 ∧ x.rtSet = false)
        ∧ isDev (x.base + 1 * 4096 - 1) = true) ∧ isDev (({ base := 0x10000000000 } : Retype).base + 1 * 4096 - 1) = false)
    ∧ (∀ x ∈ [({ state := 1 } : Retype), { state := 2 }, { state := 4, rtSet := true }], x.state = 1 ∨ x.state = 2 ∨ x.state = 4 ∧ x.rtSet = true)
    ∧ (∀ x ∈ [({ state := 1 } : Retype), { state := 4, rtSet := true }], x.state = 1 ∨ x.state = 4 ∧ x.rtSet = true)
    ∧ (∀ hold ∈ [false, true], let s : State := { P0 with m := { retype := { state := 2, cmdCount := 1 }, tags := [(5, { hold := hold })] } }
       s.m.retype.state = 2 ∧ retypeOwed s = false ∧ retypeLines s = [] ∧ retypeWords s = [5] ∧ homeType s (4 * 5) = 0 ∧ (tagAt s 5).hold = hold
       ∧ retypeClaims s = false ∧ s.m.reqs = [] ∧ retypeMay s = true)
    ∧ (let s : State := { P0 with m := { retype := { state := 2, cmdCount := 1, since := 6 }, reqs := [{ reqOf .load with accs := [{ accW with pa := 0 }] }] } }
       s.m.retype.state = 2 ∧ retypeOwed s = true) := by
  simp only [List.forall_mem_cons, List.not_mem_nil, false_imp_iff, implies_true, and_true]
  repeat' apply And.intro
  all_goals first | rfl | decide | exact h
/-! ### Witnesses: copies, packets, links -/

/-- PASID 0 maps the first GiB to itself; group 0's block has tile 2, whose one chunk a stream copy still owns. -/
def C0 : State :=
  { P0 with mem := launchMem [], m := { pasids := [(0, { root := 0x40000, lv5 := false, en := true })] }
            blocks := [(home0, { id := home0, cu := 0, base := 0, spad := 0, ntiles := 32,
                                 tiles := [(2, { rows := 1, cols := 4, esz := 4, level := .cu, alloc := 0, owned := [0] })] })] }
def vec4 (base : Nat) : ShapeRec :=
  { base, rank := 1, ety := some .f32, xform := 0, padval := 0, ext := [4], stride := [], padl0 := 0, padh0 := 0, padl1 := 0, padh1 := 0, gidx := 0, ok := true }
def desc (cls fkind : Nat) (base : Nat) : CopyDesc :=
  { cls, queue := 0, dkind := 1, fkind, tile := 2, level := 0, dst := 0x3000, kstride := 0, bstride := 0, flag := 0x3100, fval := 7, gcount := 0, shape := vec4 base }
def inst (cls fkind base next : Nat) : Inst := { slot := 0, copy := 0, desc := desc cls fkind base, kid := 0, bid := 0, clu := 0, startNo := 0, nextChunk := next }
def copying (x : Inst) : State := { C0 with insts := [x] }
/-- Byte 0x41008 makes the second GiB a leaf without backing. -/
def halfBacked (x : Inst) : State :=
  { copying x with mem := launchMem [] ++ [(0x41008, 0x1F), (0x4100B, 0x40)] }
/-- What a move is, as a Bool can say it. -/
def isTile (p : List Byte → Bool) (m : Move) : Bool := match m with | .tile bs _ => p bs | _ => false
def isMem (p : List (Nat × Nat × Byte) → Bool) (m : Move) : Bool := match m with | .mem _ _ ps => p ps | _ => false
theorem tile_of {p : List Byte → Bool} {m : Move} (h : isTile p m = true) : ∃ bs rd, m = .tile bs rd ∧ p bs = true := by
  cases m <;> simp only [isTile, Bool.false_eq_true] at h; exact ⟨_, _, rfl, h⟩
theorem mem_of {p : List (Nat × Nat × Byte) → Bool} {m : Move} (h : isMem p m = true) : ∃ bs rd ps, m = .mem bs rd ps ∧ p ps = true := by
  cases m <;> simp only [isMem, Bool.false_eq_true] at h; exact ⟨_, _, _, rfl, h⟩
theorem ask_of {m : Move} (h : (match m with | .ask _ _ => true | _ => false) = true) : ∃ p w, m = .ask p w := by
  cases m <;> simp only [Bool.false_eq_true] at h; exact ⟨_, _, rfl⟩
theorem fault_of {m : Move} (h : (match m with | .fault _ _ _ _ => true | _ => false) = true) : ∃ c a d w, m = .fault c a d w := by
  cases m <;> simp only [Bool.false_eq_true] at h; exact ⟨_, _, _, _, rfl⟩
/-- Copy 0 is the next that its engine serves. -/
def isNext (s : State) (x : Inst) : Bool :=
  (copyNext s x.clu 9 (arbOf s x.clu)).any (fun r => r.1 == x) && findInst s 0 == some x && (loggedCopyFault s x).isNone
theorem next_of {s : State} {x : Inst} (h : isNext s x = true) :
    findInst s 0 = some x ∧ (∃ a, copyNext s x.clu 9 (arbOf s x.clu) = some (x, a)) ∧ loggedCopyFault s x = none := by
  simp only [isNext, Bool.and_eq_true, beq_iff_eq, Option.isNone_iff_eq_none, Option.any_eq_true] at h
  obtain ⟨⟨⟨⟨y, a⟩, hy, rfl⟩, hf⟩, hl⟩ := h
  exact ⟨hf, ⟨a, hy⟩, hl⟩
def inTile : Inst := inst 1 0 0x2000 0
def outMem : Inst := inst 2 0 0x2000 0
def inNone : Inst := inst 1 0 0x80000000 0
def inAway : Inst := inst 1 0 0x40000000 0
/-- CU 0 holds a word of the line that the output writes. -/
def cached (x : Inst) : State := let s := copying x; { s with m := { s.m with l1 := [((0, 0x60), { valid := 1, dirty := 0, data := [] })] } }
theorem witness_CopiesMove_chunk :
    (isNext (copying inTile) inTile = true ∧ isTile (fun bs => bs.length == 16) (nextMove (copying inTile) inTile) = true)
    ∧ (isNext (copying outMem) outMem = true
      ∧ isMem (fun ps => ps.map (·.2.1) == (List.range 16).map (0x3000 + ·) && ps.all fun p => isDev p.2.1) (nextMove (copying outMem) outMem) = true)
    ∧ (isNext (halfBacked inAway) inAway = true ∧ (match nextMove (halfBacked inAway) inAway with | .ask _ _ => true | _ => false) = true)
    ∧ (isNext (copying inNone) inNone = true ∧ (match nextMove (copying inNone) inNone with | .fault _ _ _ _ => true | _ => false) = true)
    ∧ (isNext (cached outMem) outMem = true ∧ (match nextMove (cached outMem) outMem with | .inval _ _ => true | _ => false) = true) := by
  refine ⟨⟨?_, ?_⟩, ⟨?_, ?_⟩, ⟨?_, ?_⟩, ⟨?_, ?_⟩, ?_, ?_⟩ <;> decide +kernel
def flagged (x : Inst) : Bool :=
  findInst (copying x) 0 == some x && x.moved && !x.stopped && x.waitPage == none && !x.flagDone && x.runs (copying x) && (loggedCopyFault (copying x) x).isNone
def flag1 : Inst := inst 2 1 0x2000 1
theorem witness_CopiesMove_flag :
    (∀ x ∈ [flag1, inst 1 2 0x2000 1, inst 1 0 0x2000 1], flagged x = true)
    ∧ flag1.flagVa (copying flag1) % 8 = 0 ∧ agentKind (flag1.agent (copying flag1)) ≠ 5
    ∧ isMem (fun ps => ps.map (·.2.1) == (List.range 8).map (0x3100 + ·) && ps.all fun p => homeType (copying flag1) p.2.1 == 0 && isDev p.2.1)
        (memMove (copying flag1) { flag1 with part := [] } 2 (flagBytesAt (copying flag1) flag1) [] []) = true
    ∧ (let x := { inst 1 2 0x2000 1 with desc := { desc 1 2 0x2000 with flag := 2 } }
       let t : Tile := { rows := 1, cols := 4, esz := 4, level := .cu, alloc := 0 }
       let s := (copying x).updBlock home0 fun b => { b with tiles := [(2, t)] }
       (elemAt s x.block 2 0 4).isSome = true ∧ t.owned.contains (0 * t.esz / 2048) = false) := by
  refine ⟨?_, ?_, ?_, ?_, ?_⟩ <;> decide +kernel
def outPage : Want := .page 3 true
/-- The unit has a leaf for the page, whose words it may claim. -/
def walks (x : Inst) (page : Nat) : Bool :=
  let r := leafAhead (copying x) x.clu (x.pasid (copying x)) (page * 4096)
  r.2.any fun v => claimMay r.1 (x.noteWalk (v.va / 4096) (v.size / 4096)) v && decide (v.va / 4096 ≤ page) && (pageWords x v != [] || x.desc.cls == 2)
theorem witness_CopiesMove_walk :
    (inTile.stopped = false ∧ inTile.moved = false ∧ inTile.runs (copying inTile) = true ∧ inTile.walked.length < 64 ∧ inTile.walked.contains 2 = false
      ∧ nextWant inTile = some (.page 2 false) ∧ pageReads inTile 0 16384 ≠ [])
    ∧ walks inTile 2 = true
    ∧ (outMem.moved = false ∧ outMem.runs (copying outMem) = true ∧ nextWant outMem = some outPage)
    ∧ walks outMem 3 = true
    ∧ nextWant inNone = some (.page 0x80000 false) ∧ (leafAhead (copying inNone) 0 0 (0x80000 * 4096)).2 = none := by
  refine ⟨?_, ?_, ?_, ?_, ?_⟩ <;> decide +kernel

/-- The steps that the copy engines take by themselves have the states of the statement on copies. -/
theorem witness_ReportsAndSystemCalls_copies :
    (isNext (copying inTile) inTile = true ∧ isTile (fun bs => bs.length == 16) (nextMove (copying inTile) inTile) = true)
    ∧ (∀ x ∈ [flag1, inst 1 2 0x2000 1, inst 1 0 0x2000 1], flagged x = true)
    ∧ inTile.moved = false ∧ nextWant inTile = some (.page 2 false) :=
  ⟨witness_CopiesMove_chunk.1, witness_CopiesMove_flag.1, witness_CopiesMove_walk.1.2.1, witness_CopiesMove_walk.1.2.2.2.2.2.1⟩

/-- A packet of a kind from device 0 to itself, by loopback. -/
def pkt (k : Nat) : Packet :=
  { kind := k, src := 0, dst := 0, tag := 1, addr := 0x8000, wmask := 1, ty := some .n32, x := 0, ord := 0, scope := 0, part := 0, npart := 1, status := 0, holder := 0,
    words := [7], ents := [], flag := 0, raw := [] }
def looped (pk : Packet) (wins : AList Nat FWin) : State :=
  { P0 with m := {}, fab := { en := true, wins := wins, ports := [(24, { outq := [{ pk := pk, inp := 24, flits := flitsOf pk }] })] } }
def openWin : AList Nat FWin := [(0, { v := true, w := true, rd := true, size := 16, base := 0 })]
def atPk : Packet := { pkt 2 with ents := [⟨0, 3, 5, 0, 0, 0⟩] }
def ready (pk : Packet) (s : State) : Prop := Accepted s 24 pk ∧ s.mem.wf = true ∧ pkFits pk.kind pk = true
def coll0 : Coll :=
  { slot := 0, n := 0, srcb := 0, dstb := 0, count := 1, op := 4, ty := .f32, redop := 0, devs := [0, 1], cid := 0, root := 0, pasid := 0, got := [(0, 0, 7)], agreed := [0, 1], dpas := [0x9000] }
def cctlPk : Packet := { pkt 0xA with raw := collParams coll0, flag := collTag coll0 }
def cdataPk : Packet := { pkt 9 with flag := collTag coll0 }
def withColl (pk : Packet) : State := let s := looped pk []; { s with fab := { s.fab with colls := [coll0] } }
def logPk : Packet := { pkt 0xB with raw := [1] }
def asTwin (pk : Packet) : State := { looped pk [] with damask := { parts := [(0, { mode := 3 })] } }
def ckPk : Packet := { pkt 0xC with raw := [1, 2, 3, 4] }
def passing : State := { P0 with fab := { en := true, ports := [(0, { up := true })] } }
set_option maxRecDepth 100000 in
theorem witness_PacketsAreServed :
    (∀ k ∈ [1, 3, 4, 5, 6, 7, 8, 9, 0xA, 0xB, 0xC], comes passing 0 { pkt k with dst := 5 } = true ∧ 5 ≠ passing.fab.devno ∧ pkFits k { pkt k with dst := 5 } = true)
    ∧ (ready (pkt 3) (looped (pkt 3) []) ∧ ((pkWords (pkt 3)).all (winOk (forgetRsp (looped (pkt 3) []) (pkt 3)) false true)) = false)
    ∧ (let s := looped (pkt 3) openWin
       let s0 := forgetRsp s (pkt 3)
       ready (pkt 3) s ∧ ((pkWords (pkt 3)).all (winOk s0 false true)) = true ∧ storeRoom s0 (agentRemote 0) (0x8000 / 128) 0 0 = true
       ∧ engineTurn s0 (pkWords (pkt 3)) = .go
       ∧ ∀ w ∈ pkWords (pkt 3), judgeWrite (bringAll (takePk s0 24 (pkt 3)) (pkWords (pkt 3))) (agentRemote 0) (4 * w) 4 = .ok)
    ∧ (ready (pkt 1) (looped (pkt 1) []) ∧ ((pkWords (pkt 1)).all (winOk (forgetRsp (looped (pkt 1) []) (pkt 1)) true false)) = false)
    ∧ (let s := looped (pkt 1) openWin
       let s0 := forgetRsp s (pkt 1)
       let s1 := takePk s0 24 (pkt 1)
       let rc := (pkWords (pkt 1)).filter fun w => homeType s1 (4 * w) == 0
       ready (pkt 1) s ∧ ((pkWords (pkt 1)).all (winOk s0 true false)) = true ∧ engineRead s0 (pkWords (pkt 1)) = .go
       ∧ promoteMay s1 (agentRemote 0) 0 none rc = true
       ∧ ∀ w ∈ pkWords (pkt 1), judgeRead (promoteWords (bringAll s1 (pkWords (pkt 1))) (agentRemote 0) 0 none rc) (agentRemote 0) (4 * w) 4 = .ok)
    ∧ (let s := looped atPk openWin
       let s0 := forgetRsp s atPk
       let ws := (wordsOf 0x8000 4).dedup
       ready atPk s ∧ findGather s0 atPk = none ∧ Ty.n32.packed = false ∧ (ws.all (winOk s0 true true)) = true ∧ engineTurn s0 ws = .go
       ∧ (∀ p, (rpart s p).mode = 0) ∧ promoteMay s0 (agentRemote 0) 0 none (ws.filter fun w => homeType s0 (4 * w) == 0) = true
       ∧ judgeAtomic (promoteWords (bringAll (takePk s0 24 atPk) ws) (agentRemote 0) 0 none (ws.filter fun w => homeType (bringAll s0 ws) (4 * w) == 0))
          (agentRemote 0) 0x8000 4 = .ok)
    ∧ ready { pkt 7 with ty := none } (looped { pkt 7 with ty := none } [])
    ∧ (let s := looped (pkt 7) openWin
       let s0 := forgetRsp s (pkt 7)
       let ws := wordsOf 0x8000 4
       ready (pkt 7) s ∧ (ws.all (winOk s0 false true)) = true ∧ homeType s0 0x8000 ≤ 1 ∧ engineTurn s0 ws = .go
       ∧ judgeWrite (release (takePk s0 24 (pkt 7)) (agentRemote 0) 5) (agentRemote 0) 0x8000 4 = .ok)
    ∧ (ready logPk (looped logPk []) ∧ twinPart (forgetRsp (looped logPk []) logPk) logPk = none)
    ∧ (let s := looped ckPk openWin
       ready ckPk s ∧ ((wordsOf ckPk.addr ckPk.raw.length).all (winOk (forgetRsp s ckPk) false true)) = true)
    ∧ (findColl (withColl cctlPk) 0 0 = some coll0 ∧ collReady (withColl cctlPk) coll0 = true
       ∧ engineTurn (withColl cctlPk) (coll0.dpas.flatMap fun pa => wordsOf pa 4).dedup = .go ∧ ∀ pa ∈ coll0.dpas, isDev pa = true) := by
  refine ⟨by decide, ⟨⟨⟨rfl, rfl, rfl, rfl, rfl, fun _ => rfl⟩, rfl, rfl⟩, rfl⟩, ⟨⟨⟨rfl, rfl, rfl, rfl, rfl, fun _ => rfl⟩, rfl, rfl⟩, rfl, rfl, rfl, ?_⟩,
    ⟨⟨⟨rfl, rfl, rfl, rfl, rfl, fun _ => rfl⟩, rfl, rfl⟩, rfl⟩, ⟨⟨⟨rfl, rfl, rfl, rfl, rfl, fun _ => rfl⟩, rfl, rfl⟩, rfl, rfl, rfl, ?_⟩,
    ⟨⟨⟨rfl, rfl, rfl, rfl, rfl, fun _ => rfl⟩, rfl, rfl⟩, rfl, rfl, rfl, rfl, fun _ => rfl, rfl, rfl⟩, ⟨⟨rfl, rfl, rfl, rfl, rfl, fun _ => rfl⟩, rfl, rfl⟩,
    ⟨⟨⟨rfl, rfl, rfl, rfl, rfl, fun _ => rfl⟩, rfl, rfl⟩, rfl, by decide, rfl, rfl⟩, ⟨⟨⟨rfl, rfl, rfl, rfl, rfl, fun _ => rfl⟩, rfl, rfl⟩, rfl⟩,
    ⟨⟨⟨rfl, rfl, rfl, rfl, rfl, fun _ => rfl⟩, rfl, rfl⟩, rfl⟩, rfl, rfl, rfl, by decide⟩ <;> decide
set_option maxRecDepth 100000 in
theorem witness_PacketsAreServed_collective : ∀ pk ∈ [cdataPk, cctlPk],
    ready pk (withColl pk) ∧ pkColl (forgetRsp (withColl pk) pk) pk = some coll0 ∧ findColl (withColl pk) 0 0 = some coll0 := by
  simp only [List.forall_mem_cons, List.not_mem_nil, false_imp_iff, implies_true, and_true]
  refine ⟨⟨⟨⟨?_, rfl, rfl, ?_, rfl, fun _ => rfl⟩, rfl, rfl⟩, ?_, rfl⟩, ⟨⟨?_, rfl, rfl, ?_, rfl, fun _ => rfl⟩, rfl, rfl⟩, ?_, rfl⟩ <;> decide +kernel

/-- A request of group 0 for the word at 0x8000 of device 0, and the packets that answer it. -/
def freq (kind : Nat) : FReq :=
  { id := 9, dst := 0, tag := 1, pk := [pkt 1], port := 24, lgn := 0, e := 0, seq := 0, iaddr := 8, tok := some 2, kind, line := 0x100
    accs := if kind = 1 then [{ lane := 3, va := 0, pa := 0x8000, size := 4 }] else [] }
def answered (pk : Packet) (r : List FReq) : State := let s := looped pk []; { s with fab := { s.fab with outstanding := r } }
set_option maxRecDepth 100000 in
theorem witness_PacketsAreServed_answers :
    (∀ k ∈ [4, 5, 6, 8], comes (answered (pkt k) []) 24 (pkt k) = true ∧ behind (answered (pkt k) []) 24 (pkt k) = false
      ∧ answersReq (answered (pkt k) []) (pkt k) = none)
    ∧ (∀ x ∈ [(4, 1), (5, 2), (6, 0), (8, 3)], ready (pkt x.1) (answered (pkt x.1) [freq x.2])
      ∧ answersReq (answered (pkt x.1) [freq x.2]) (pkt x.1) = some (freq x.2)
      ∧ (∃ gr, (answered (pkt x.1) [freq x.2]).group? 0 = some gr)
      ∧ parkForGroup (takePk (answered (pkt x.1) [freq x.2]) 24 (pkt x.1)) 0 4 (.fabric 24 (pkt x.1)) = none
      ∧ (answered (pkt x.1) [freq x.2]).fab.unsent = []
      ∧ (x.1 = 4 → ∀ y ∈ (freq x.2).accs, (laneVal (pkt x.1) y).isSome = true) ∧ (freq x.2).parts = [] ∧ (pkt x.1).status = 0)
    ∧ (twinPart (asTwin logPk) logPk = some 0 ∧ (rpart (asTwin logPk) 0).halted = false
      ∧ nextFrame { rpart (asTwin logPk) 0 with inbox := [(0x8000, [1])] } = none) := by
  simp only [List.forall_mem_cons, List.not_mem_nil, false_imp_iff, implies_true, and_true]
  refine ⟨⟨?_, ?_, ?_, ?_⟩, ⟨?_, ?_, ?_, ?_⟩, rfl, rfl, rfl⟩ <;>
    first | exact ⟨rfl, rfl, rfl⟩ | exact ⟨⟨⟨rfl, rfl, rfl, rfl, rfl, fun _ => rfl⟩, rfl, rfl⟩, rfl, ⟨_, rfl⟩, rfl, rfl, by decide, rfl, rfl⟩

def live (p : Port) : State := { P0 with fab := { en := true, ports := [(0, { p with up := true })] } }
def qpk : QPkt := { pk := pkt 3, inp := 24, flits := 2 }
def rfl1 : RFlit := { seq := 0, pk := pkt 3 }
def waiting (r : FReq) : State :=
  { P0e (fun x => { x with st := .issuing }) with fab := { en := true, outstanding := [r] } }
theorem witness_LinksAndTimeouts :
    (portLive (live {}).fab 0 = true ∧ (ackFlits ((live {}).fab.portD 0) 4095).resends < 16)
    ∧ (((live { retry := [rfl1] }).fab.portD 0).retry ≠ [] ∧ ((live { retry := [rfl1] }).fab.portD 0).resends < 16)
    ∧ (((live { retry := [rfl1], resends := 16 }).fab.portD 0).retry ≠ [] ∧ ((live { retry := [rfl1], resends := 16 }).fab.portD 0).resends ≥ 16)
    ∧ (∃ x p1, decideGrant (live { outq := [qpk] }).fab ((live { outq := [qpk] }).fab.portD 0) = some (x, p1)
      ∧ ((live { outq := [qpk] }).fab.portD 0).retry.length + x.2.flits ≤ 1024)
    ∧ ((waiting (freq 1)).fab.en = true ∧ ((waiting (freq 1)).fab.portD 3).up = false ∧ ((waiting (freq 1)).fab.portD 3).failed = false)
    ∧ (((waiting (freq 1)).fab.outstanding.find? fun x => x.id == 9) = some (freq 1) ∧ fabPort (waiting (freq 1)).fab (freq 1).dst = some 24
      ∧ (freq 1).resent = false ∧ rspParked (waiting (freq 1)) (freq 1) = false)
    ∧ fabPort (waiting { freq 1 with dst := 5 }).fab 5 = none
    ∧ ((freq 1).kind < 4 ∧ ∃ gr, (waiting (freq 1)).group? (freq 1).lgn = some gr ∧ (freq 1).e < gr.ents.length ∧ (freq 1).e < 16
      ∧ (gr.ent (freq 1).e).st = .issuing ∧ lostByPart (waiting (freq 1)) (freq 1).dst = false ∧ (waiting (freq 1)).fab.unsent = []
      ∧ parkForGroup (errLog (waiting (freq 1)) 7 Cause.fabric.code (freq 1).lgn 0 0) (freq 1).lgn 4 (.lost 9) = none) := by
  refine ⟨⟨rfl, by decide⟩, ⟨by decide, by decide⟩, ⟨by decide, by decide⟩, ⟨_, _, rfl, by decide⟩, ⟨rfl, rfl, rfl⟩, ⟨rfl, rfl, rfl, rfl⟩, rfl, by decide, _, rfl, by decide, by decide, rfl, rfl, rfl, rfl⟩

/-! ### Witnesses: the recorder, freezing, checkpoints, debug, the platform -/

/-- An ORIGIN record that the hub emitted, and a frame's body that says it in one token of 32 literal bytes. -/
def row1 : List Byte := rowBytes 0xC 1 0 0 0 0 0 5
def body1 : List Byte := 0xF0 :: 17 :: row1
def recPart : RPart := { mode := 1, unwritten := [⟨hubSrc, row1, none⟩] }
def pRec (r : RPart) : State := { P0 with damask := { parts := [(0, r)] } }
/-- A logged chunk of group 0's fragment 0, with stamp 1. -/
def chunkRow : List Byte := rowBytes 1 1 0 0 0 1 1 8
def replayed (l : List (List Byte)) (rbk : AList Nat Rbk) : State :=
  { P0e (fun x => { x with chunk := {} }) with damask := { parts := [(0, { mode := 2, qm := 1, log := l })], rbk := rbk }, frz := { clus := [(0, { lclu := some 0, state := .running })] } }
set_option maxRecDepth 50000 in
theorem witness_RecordingAndReplay :
    (let s := pRec recPart
     (rpart s 0).mode ≤ 1 ∧ decodeTokens (body1.length + 1) body1 [] = some row1 ∧ decodeBody row1.length body1 = some [row1] ∧ body1.length ≤ 4032
      ∧ ringFull (rpart s 0) = false ∧ (rpart s 0).pair = false
      ∧ (((rpart s 0).unwritten.filter fun x => x.src == hubSrc).take 1).map (finalRow s) = [some row1] ∧ sourceRuns s hubSrc = true ∧ s.mem.wf = true
      ∧ (∀ x ∈ [row1], 1 ≤ fieldOf x 0 1 ∧ fieldOf x 0 1 ≤ 0xC))
    ∧ (let r := rpart (pRec { mode := 1, pair := true, ended := 3 }) 0
       r.mode = 1 ∧ r.pair = true ∧ r.unpaired = false ∧ r.compared ≤ 2 ∧ 2 ≤ r.ended)
    ∧ (rpart (pRec { mode := 3 }) 0).mode = 3
    ∧ (let s := replayed [chunkRow] []
       atChunk s 0 0 = some 0 ∧ nextChunk s 0 0 0 = some chunkRow ∧ admitted s 0 (fieldOf chunkRow 0x10 8) = true
       ∧ chunkHeld s 0 0 0 (fieldOf chunkRow 0x10 8) = false ∧ ∃ gr, s.group? 0 = some gr ∧ groupRuns s gr = true)
    ∧ (let s := replayed [] []
       atChunk s 0 0 = some 0 ∧ nextChunk s 0 0 0 = none ∧ (rpart s 0).mode ≠ 3)
    ∧ (let s := replayed [chunkRow] [(0, { v := true, all := true, stamp := 1 })]
       (cluD s 0).state = .running ∧ clockRuns s 0 = true ∧ (rbkD s 0 0).v = true ∧ admitted s 0 (rbkD s 0 0).stamp.toNat = true ∧ 0 ∈ partClusters s 0)
    ∧ (let s := replayed [chunkRow] [(0, { v := true, stamp := 1 })]
       (cluD s 0).state = .running ∧ clockRuns s 0 = true ∧ (rbkD s 0 0).v = true ∧ (rbkD s 0 0).all = false ∧ 0 ∈ breaksAt s 0 (rbkD s 0 0)
       ∧ ∃ gr, s.group? 0 = some gr ∧ physClu s (lcluOf s gr.block.gang) = some 0)
    ∧ ((rpart (replayed [chunkRow] []) 0).mode ≥ 2 ∧ (rpart (replayed [chunkRow] []) 0).halted = false ∧ (rpart (replayed [chunkRow] []) 0).log ≠ []) := by
  refine ⟨⟨by decide, by decide, by decide, by decide, by decide, rfl, by decide, by decide, by decide, by decide⟩, ⟨rfl, rfl, rfl, by decide, by decide⟩, rfl,
    ⟨by decide, by decide, by decide, by decide, _, rfl, rfl⟩, ⟨by decide, by decide, by decide⟩, ⟨rfl, rfl, rfl, by decide, by decide⟩,
    ⟨rfl, rfl, rfl, rfl, by decide, _, rfl, rfl⟩, by decide, rfl, by decide⟩

/-- Cluster 0 with context 0, its clock and its image as given. -/
def clu0 (x : Clu) (ims : List Image) : State := { P0 with frz := { clus := [(0, x)], slots := [0x1000, 0x2000], images := ims } }
def im0 : Image := { base := 0x1000, lclu := 0, rev := Config.revid, srcClu := 0, src := 0, time := 0, gangs := [⟨0, 0⟩], groups := [(0, ⟨0, 0⟩)] }
def stopping0 : Clu := { lclu := some 0, state := .stopping, imgbase := 0x1000 }
def scanning0 : Clu := { lclu := some 0, state := .scanning, stopped := true }
def line0 : L1Line := { valid := 1, dirty := 1, data := [(3, 7)] }
def withL1 : State := let s := clu0 scanning0 []; { s with m := { s.m with l1 := [((0, 2), line0)] } }
def idle0 : Clu := { state := .idle }
def restoring0 : State :=
  let s := clu0 { lclu := some 0, state := .restoring, stopped := true, drained := true } []
  { s with frz := { s.frz with restoring := [(0, im0)] }, groups := [(0, { grpOf P0 with status := .frozen })] }

theorem leBytes_length (n x : Nat) : (leBytes n x).length = n := by
  induction n generalizing x with
  | zero => rfl
  | succ n ih => simp [leBytes, ih]
theorem leNat_leBytes (n x : Nat) : leNat (leBytes n x) = x % 256 ^ n := by
  induction n generalizing x with
  | zero => simp [leBytes, leNat, Nat.mod_one]
  | succ n ih =>
    simp only [leBytes, leNat, ih, BitVec.toNat_ofNat]
    rw [show 256 ^ (n + 1) = 256 * 256 ^ n by ring, Nat.mod_mul]
/-- What a header without groups says, whatever the free values are. -/
theorem header_fields (rev fl : Nat) (dig x a : List Byte) (hd : dig.length = 16)
    (ha : a = leBytes 4 0x47465A49 ++ (leBytes 2 1 ++ (leBytes 2 0 ++ (leBytes 4 rev ++ (leBytes 4 fl ++ (dig ++ x)))))) (hl : a.length = 252) :
    let h := a ++ leBytes 4 (crc32c a).toNat
    fieldOf h 0 4 = 0x47465A49 ∧ fieldOf h 4 2 = 1 ∧ fieldOf h 8 4 = rev % 2 ^ 32 ∧ (h.drop 0x10).take 16 = dig
      ∧ fieldOf h 0xFC 4 = (crc32c (h.take 0xFC)).toNat ∧ fieldOf h 6 2 = 0 := by
  intro h
  have h1 : h.take 0xFC = a := by show List.take 252 _ = a; rw [← hl]; exact List.take_left
  have h2 : (h.drop 0xFC).take 4 = leBytes 4 (crc32c a).toNat := by
    show List.take 4 (List.drop 252 _) = _; rw [← hl, List.drop_left]; rfl
  have h3 : (h.drop 8).take 4 = leBytes 4 rev := by subst ha; rfl
  have h4 : h.drop 0x10 = dig ++ (x ++ leBytes 4 (crc32c a).toNat) := by subst ha; show (dig ++ x) ++ _ = _; simp
  refine ⟨?_, ?_, ?_, ?_, ?_, ?_⟩
  · rw [fieldOf, show (h.drop 0).take 4 = leBytes 4 0x47465A49 by subst ha; rfl, leNat_leBytes]; norm_num
  · rw [fieldOf, show (h.drop 4).take 2 = leBytes 2 1 by subst ha; rfl, leNat_leBytes]; norm_num
  · rw [fieldOf, h3, leNat_leBytes]; norm_num
  · rw [h4, ← hd]; exact List.take_left
  · rw [fieldOf, h2, h1, leNat_leBytes]; exact Nat.mod_eq_of_lt (lt_of_lt_of_le (BitVec.isLt _) (by norm_num))
  · rw [fieldOf, show (h.drop 6).take 2 = leBytes 2 0 by subst ha; rfl, leNat_leBytes]; norm_num
def im1 : Image := { im0 with staged := true }
/-- An image of this chip's revision and scan map that is not yet stored is not refused. -/
theorem im1_accepted (s : State) (h5 : (s.frz.clus.any fun x => x.2.lclu == some 0 && decide (x.2.state = .running ∨ x.2.state = .restoring)) = false) : imageRefused s im1 = none := by
  have hh : ∃ a fl x, imageHeader s im1 = a ++ leBytes 4 (crc32c a).toNat
      ∧ a = leBytes 4 0x47465A49 ++ (leBytes 2 1 ++ (leBytes 2 0 ++ (leBytes 4 Config.revid ++ (leBytes 4 fl ++ (leBytes 16 Config.smdig ++ x)))))
      ∧ a.length = 252 := by
    refine ⟨_, _, _, rfl, by simp only [List.append_assoc]; rfl, ?_⟩
    simp [leBytes_length, im1, im0, flagBytes]
  obtain ⟨a, fl, x, h, ha, hl⟩ := hh
  obtain ⟨f1, f2, f3, f4, f5, f6⟩ := header_fields Config.revid fl _ x a (leBytes_length 16 _) ha hl
  simp only [imageRefused, show im1.stored = false from rfl, Bool.false_eq_true, if_false, h, headerRefused, or_false]
  rw [if_neg (by simp only [f1, f2, f5]; simp), if_neg (by simp only [f3]; simp), if_neg (by simp [f4]), if_neg (by rw [f6, h5]; simp)]

set_option maxRecDepth 20000 in
theorem witness_ClustersFreeze :
    (let s := clu0 { lclu := some 0, state := .running } []
     cluAlive s 0 = true ∧ (cluD s 0).state = .running ∧ slotFreeFor s 0 0x1000 = true ∧ slotFreeFor s 0 0x3000 = false
      ∧ slotFreeFor (clu0 { imgbase := 0x1000, state := .running } []) 0 (cluD (clu0 { imgbase := 0x1000, state := .running } []) 0).imgbase = true)
    ∧ (cluD (clu0 idle0 []) 0).state = .idle ∧ (cluD (clu0 stopping0 []) 0).state = .stopping
    ∧ ((cluD (clu0 { scanning0 with noSlot := true } []) 0).noSlot = true ∧ slotFreeFor (clu0 { scanning0 with noSlot := true } []) 0 0x1000 = true)
    ∧ ((cluD (clu0 stopping0 []) 0).lclu = some 0 ∧ (cluD (clu0 stopping0 []) 0).stopped = false)
    ∧ ((cluD withL1 0).state = .scanning ∧ (cluD withL1 0).stopped = true ∧ (cluD withL1 0).drained = false ∧ withL1.mem.wf = true
      ∧ l1At withL1 0 2 = some line0 ∧ scanImage withL1 0 = none ∧ (cluD withL1 0).lclu ≠ none)
    ∧ (let s := clu0 { scanning0 with lclu := none } []
       (cluD s 0).state = .scanning ∧ (cluD s 0).stopped = true ∧ (cluD s 0).drained = false ∧ (cluD s 0).lclu = none ∧ s.mem.wf = true)
    ∧ (∀ x ∈ [scanning0, { scanning0 with drained := true }], let s := clu0 x [im0]
      scanImage s 0 = some im0 ∧ (cluD s 0).state = .scanning ∧ (cluD s 0).stopped = true ∧ (cluD s 0).noSlot = false ∧ im0.staged = false
      ∧ ∃ gr, s.group? 0 = some gr ∧ gr.block.gang ∈ im0.gangs ∧ gr.status = .resident)
    ∧ (let s := clu0 scanning0 (im0 :: [1, 2, 3].map fun c => { im1 with srcClu := c, lclu := c })
       scanImage s 0 = some im0 ∧ 3 ≤ (s.frz.images.filter fun y => y.staged && !y.stored).length)
    ∧ (let im := im1
       ((clu0 idle0 [im]).frz.images.find? fun im => im.srcClu == 0 && im.staged && !im.stored) = some im ∧ (clu0 idle0 [im]).mem.wf = true
       ∧ im.rev = Config.revid ∧ im.outreq.length = 4 ∧ im.parkn.length = 4 ∧ im.parkCount < 2 ^ 32
       ∧ ∃ gr, imageGroup (clu0 idle0 [im]) im 0 = some gr)
    ∧ ((clu0 idle0 []).frz.images.find? fun im => im.base == 0x1000 && im.staged) = none
    ∧ (let im := { im1 with stored := true }
       ((clu0 idle0 [im]).frz.images.find? fun im => im.base == 0x1000 && im.staged) = some im ∧ imageRefused (clu0 idle0 [im]) im = some 4)
    ∧ (let im := im1
       0x1000 ∈ (clu0 idle0 [im]).frz.slots ∧ 0x3000 ∉ (clu0 idle0 [im]).frz.slots
       ∧ ((clu0 idle0 [im]).frz.images.find? fun im => im.base == 0x1000 && im.staged) = some im ∧ imageRefused (clu0 idle0 [im]) im = none
       ∧ ((clu0 idle0 [im]).frz.images.find? fun im => im.base == 0x1000) = some im ∧ ((clu0 idle0 [im]).task? 0).isSome = true
       ∧ (clu0 idle0 [im]).m.l1 = []
       ∧ ∃ gr, (clu0 idle0 [im]).group? 0 = some gr ∧ gr.block.gang ∈ im.gangs)
    ∧ ((restoring0.frz.restoring.find? fun r => r.1 == 0) = some (0, im0) ∧ (cluD restoring0 0).park = [] ∧ im0.owed = []
      ∧ (restoring0.gangs.any fun p => p.2.lclu == im0.lclu) = true
      ∧ ∃ gr, restoring0.group? 0 = some gr ∧ gr.block.gang ∈ im0.gangs ∧ gr.status = .frozen) := by
  simp only [List.forall_mem_cons, List.not_mem_nil, false_imp_iff, implies_true, and_true]
  refine ⟨⟨rfl, rfl, rfl, rfl, rfl⟩, rfl, rfl, ⟨rfl, rfl⟩, ⟨rfl, rfl⟩, ⟨rfl, rfl, rfl, rfl, rfl, rfl, by decide⟩, ⟨rfl, rfl, rfl, rfl, rfl⟩,
    ⟨⟨rfl, rfl, rfl, rfl, rfl, _, rfl, by decide, rfl⟩, ⟨rfl, rfl, rfl, rfl, rfl, _, rfl, by decide, rfl⟩⟩, ⟨rfl, by decide⟩, ⟨rfl, rfl, rfl, rfl, rfl, by decide, _, rfl⟩, rfl, ⟨rfl, ?_⟩,
    ⟨by decide, by decide, rfl, im1_accepted _ rfl, rfl, rfl, rfl, _, rfl, by decide⟩, ⟨rfl, rfl, rfl, rfl, _, rfl, by decide, rfl⟩⟩
  rfl

/-- A command of one tensor of 32 elements at 0x4000 and one pool of 1 MiB, of a kind, on device 5, which has no shard. -/
def ckMem (o k : Byte) : Memory :=
  [(0x1000, o), (0x1001, 1), (0x1004, 1), (0x1008, 1), (0x1011, 0x20), (0x1019, 0x30), (0x2000, 1), (0x2009, 0x40), (0x2010, 0x0D), (0x2011, 1), (0x2018, 32), (0x2038, 32),
   (0x3000, k), (0x3004, 5), (0x3012, 0x10), (0x4001, 9)]
def ckState2 (o k : Byte) (pool : Memory) : State :=
  { Q0 with mem := ckMem o k, ck := { go := true, cmd := 0x1000, pools := [((k.toNat, 5, 0), pool)] } }
def ckState (o : Byte) (pool : Memory) : State := ckState2 o 1 pool
def emptyPool : Memory := [(0, 0x50), (1, 0x4F), (2, 0x4F), (3, 0x4C), (10, 1)]
/-- The pool with one base shard of step 1, laid out by R402 and R403; the two CRCs were computed outside Lean. -/
def filledPool : Memory :=
  [(0x0, 0x50), (0x1, 0x4f), (0x2, 0x4f), (0x3, 0x4c), (0x4, 0x1), (0x9, 0x10), (0xa, 0x1), (0x20, 0x1), (0x28, 0x1), (0x32, 0x1), (0x38, 0x1), (0x3c,
   0x1), (0x3d, 0x1), (0x10000, 0x53), (0x10001, 0x50), (0x10002, 0x43), (0x10003, 0x4b), (0x10004, 0x1), (0x10005, 0xd), (0x10006, 0x1), (0x10008, 0x1),
   (0x10010, 0x1), (0x10018, 0x1), (0x10020, 0x20), (0x10040, 0x20), (0x10050, 0x1), (0x1005c, 0x60), (0x1005d, 0x37), (0x1005e, 0xde), (0x1005f, 0xa4),
   (0x1007c, 0xb), (0x1007d, 0xcb), (0x1007e, 0xb6), (0x1007f, 0xfb), (0x10081, 0x9)]
def ckCmd (s : State) : CkCmd := readCmd s s.ck.cmd
def loaded (s : State) : Option (List Byte × Nat) :=
  match loadOneTensor s (cmdTargets s (ckCmd s)) (ckCmd s).step (readTensor s (ckCmd s).ttab) with | .ok x => some x | .error _ => none
set_option maxRecDepth 1000000 in
theorem witness_PartitionsAndCheckpoints :
    (∀ x ∈ [(0 : Byte), 2], let s : State := { Q0 with mem := [(0x1000, x)], ck := { go := true, cmd := 0x1000 } }
      s.ck.go = true ∧ (ckCmd s).op = x.toNat ∧ ckRefusal s (ckCmd s) = some 6)
    ∧ (∀ k ∈ [(1 : Byte), 2], let s := ckState2 1 k emptyPool
       let c := ckCmd s
       let t := readTensor s c.ttab
       (cmdTargets s c).map (fun x => (x.kind, x.dev, x.base, x.size)) = [(k.toNat, 5, 0, 2 ^ 20)] ∧ 5 ≠ s.fab.devno ∧ hubOwes s ckKey = false ∧ c.op = 1 ∧ ckRefusal s c = none ∧ c.ntens = 1
       ∧ findShards s (cmdTargets s c) t.id false = some [] ∧ s.ck.pending.isNone = true ∧ Memory.wf emptyPool = true
       ∧ (∀ tg ∈ cmdTargets s c, poolField s tg 8 8 = 65536 ∧ poolField s tg 4 4 = 0) ∧ t.bytes = 128)
    ∧ (let s : State := { ckState 1 emptyPool with ck := { (ckState 1 emptyPool).ck with pending := some ([(1, 5, 0, 1)], [128]) } }
       s.ck.go = true ∧ (ckCmd s).op ≠ 2 ∧ s.ck.pending.isSome = true ∧ hubOwes s ckKey = false)
    := by decide +kernel
set_option maxRecDepth 1000000 in
theorem witness_PartitionsAndCheckpoints_load :
    (let s := ckState 2 filledPool;
       (ckCmd s).op = 2 ∧ ckRefusal s (ckCmd s) = none ∧ (ckCmd s).ntens = 1 ∧ (ckCmd s).step ≠ 0 ∧ s.mem.wf = true
       ∧ ((loaded s).map fun x => (x.1.take 3, x.1.length, x.2)) = some ([0, 9, 0], 128, 1) ∧ copiesAnswer s (wordsOf 0x4000 128) = true)
    ∧ (loaded (ckState 2 emptyPool)).isNone = true := by
  decide +kernel

def vCtl (size mode : Nat) : Word := BitVec.ofNat 64 (size * 2 ^ 48 + mode)
def qRec (r : RPart) : State := { Q0 with damask := { parts := [(0, r)] } }
theorem witness_PartitionsAndCheckpoints_control :
    (wbits (vCtl 32 0) 1 0 = 0 ∧ wbits (vCtl 32 1) 1 0 = 1 ∧ wbits (vCtl 2 1) 55 48 < 4 ∧ wbits (vCtl 32 1) 55 48 = 32)
    ∧ (rpart (qRec { mode := 1 }) 0).mode ≠ 0 ∧ (rpart (qRec {}) 0).mode = 0
    ∧ ringOk (qRec {}) 0 (rpart (qRec {}) 0).base 32 = true ∧ queuesFree (qRec {}) 0 (rpart (qRec {}) 0).qm = true
    ∧ ringOk (qRec { base := devSize }) 0 devSize 32 = false
    ∧ framesLog (ringFrames (qRec {}) (rpart (qRec {}) 0)) = some [] ∧ framesLog (ringFrames (qRec {}) { (rpart (qRec {}) 0) with head := 4096 }) = none
    ∧ (let r : RPart := { head := 8192 }
       let size := r.size * 2 ^ 30
       let t := wbits 4096 36 12 * 4096
       t < size ∧ (t + size - r.tail) % size ≤ (r.head + size - r.tail) % size)
    ∧ (let r : RPart := { head := 4096 }
       let size := r.size * 2 ^ 30
       (r.head + size - r.tail) % size < (wbits 8192 36 12 * 4096 + size - r.tail) % size)
    ∧ (let s : State := qRec { mode := 2, qm := 1 }
       (rpart s (0 / 16)).mode ≥ 2 ∧ wbit (2 ^ 63) 63 = true ∧ (capD s (wbits (2 ^ 63) 35 28)).has 5 = false)
    ∧ (let s := dbgOn (qRec { mode := 2, qm := 1 })
       (rpart s (0 / 16)).mode ≥ 2 ∧ (capD s (wbits (2 ^ 63) 35 28)).has 5 = true
       ∧ ∀ q, q < 128 → (rpart s (0 / 16)).qm.getLsbD q = true → (s.queueD q).pasid = (capD s (wbits (2 ^ 63) 35 28)).subject) := by
  decide +kernel

def sess0 (h dropped : Nat) : Sess := { en := true, sper := 1, kinds := 8, head := h, dropped := dropped }
def sampling (s : State) (x : Sess) : State := let d := dbgOn s; { d with dbg := { d.dbg with sess := [(0, x)] } }
def match0 : Match := { wp := 0, what := 1, srcKind := 1, agent := 0, task := 0, line := 0x100, words := 1, extra := 0, grp := some (0, 0) }
def matched : State := let d := dbgOn P0; { d with dbg := { d.dbg with wps := [(0, { rd := true, act := true, lines := 1 })], pending := [match0] } }
set_option maxRecDepth 20000 in
/-- Whether a full session's ring has room is a free value, so a lost sample is witnessed under a hypothesis. -/
theorem witness_DebugAndTrace (h : Config.traceRoom 0 2000 = false) :
    (freeCap Q0 = some 0 ∧ ∀ k, k < 256 → (capD Q0 k).v = false)
    ∧ (let s := dbgOn Q0
       ((capD s 0).v = true ∧ (capD s 0).root = true ∧ (capD s 0).subject = 0 ∧ freeCap s = some 1 ∧ (capD s 0).holder = 7 ∧ (capD s 0).has 6 = true
        ∧ (0x10 : BitVec 7) &&& ~~~(capD s 0).rights = 0 ∧ (chainOf s 0).length < 8)
       ∧ ¬((capD s 0).holder = 8) ∧ ((capD s 0).subject = 0) ∧ 0 ∈ descendants s 0 ∧ ¬((capD s 0).subject = 9 ∨ ∃ i ∈ chainOf s 0, (capD s i).holder = 9))
    ∧ (∀ x ∈ [sess0 0 0, sess0 2000 0], let s := sampling P0 x
       (sessD s 0).en = true ∧ (sessD s 0).sper ≠ 0 ∧ (sessD s 0).kinds.getLsbD 3 = true ∧ (capD s (sessD s 0).cap).has 3 = true
       ∧ clockRuns s (cluOfCu (cuOfPart 0)) = true ∧ sampleFrag s 0 0 = some (0, 0) ∧ (s.group? 0).isSome = true ∧ s.mem.wf = true
       ∧ traceRoom (sessD s 0) 0 = decide (x.head = 0) ∧ (sessD s 0).dropped = 0)
    ∧ (let s := sampling Q0 (sess0 0 0)
       (capD s (sessD s 0).cap).has 3 = true ∧ clockRuns s (cluOfCu (cuOfPart 0)) = true ∧ sampleFrag s 0 0 = none)
    ∧ (let s := matched
       s.dbg.pending[0]? = some match0 ∧ (sessD s (watchD s 0).sess).en = false ∧ (watchD s 0).act = true ∧ mayHalt s (watchD s 0).cap 0 = true
       ∧ ∃ gr, s.group? 0 = some gr ∧ (gr.ent 0).valid = true ∧ (gr.ent 0).st ≠ .joinWait ∧ (gr.ent 0).st ≠ .halted) := by
  have h2 : traceRoom (sess0 2000 0) 0 = false := h
  have h3 : traceRoom (sessD (sampling P0 (sess0 2000 0)) 0) 0 = decide ((sess0 2000 0).head = 0) := h2
  simp only [List.forall_mem_cons, List.not_mem_nil, false_imp_iff, implies_true, and_true]
  refine ⟨by decide +kernel, by decide +kernel, ⟨⟨rfl, by decide, rfl, rfl, rfl, rfl, rfl, rfl, rfl, rfl⟩, rfl, by decide, rfl, rfl, rfl, rfl, rfl, rfl, h3, rfl⟩,
    ⟨rfl, rfl, rfl⟩, rfl, rfl, rfl, rfl, _, rfl, rfl, by decide, by decide⟩

/-- An image of one page; its signature is accepted under the hypotheses. -/
def img0 (magic : Nat) : PoxisImage :=
  { magic, fmt := 1, svn := 2, version := 3, bodyLen := 4096, entry := 0, pubkey := List.replicate 133 0, sig := List.replicate 132 0, reservedZero := true
    signed := leBytes 4 magic ++ leBytes 2 1 ++ leBytes 2 2 ++ leBytes 8 3 ++ leBytes 4 4096 ++ leBytes 12 0 ++ List.replicate 136 0 ++ List.replicate 4096 0 }
theorem witness_PlatformEvents (h1 : Config.keyDigests.contains (Config.sha512 (img0 0x53495850).pubkey) = true)
    (h2 : Config.ecdsaOk (img0 0x53495850).pubkey (Config.sha512 (img0 0x53495850).signed) (img0 0x53495850).sig = true) :
    (State.reset.plat.ptop ≤ 2 ∧ 2 ≠ State.reset.plat.pnow ∧ State.reset.plat.changing = none ∧ State.reset.plat.failed = false)
    ∧ (∃ s : State, s.plat.changing = some 1) ∧ (∃ s : State, s.plat.pnow = 3) ∧ State.reset.plat.pnow ≠ 3
    ∧ State.reset.plat.staged = none ∧ (∃ s : State, s.plat.staged = some (img0 0x53495850))
    ∧ imageConsistent (img0 0x53495850) = true ∧ imageAccepted (img0 0x53495850) State.reset.plat.minSvn = true
    ∧ imageConsistent (img0 7) = true ∧ imageAccepted (img0 7) State.reset.plat.minSvn = false := by
  have len : ∀ m, (img0 m).signed.length = 0xA8 + 4096 := by
    intro m; simp only [img0, List.length_append, leBytes_length, List.length_replicate]
  have f0 : ∀ m, fieldOf (img0 m).signed 0 4 = m % 256 ^ 4 := by
    intro m; rw [← leNat_leBytes]; rfl
  have f1 : ∀ m, fieldOf (img0 m).signed 4 2 = 1 := fun m => rfl
  have f2 : ∀ m, fieldOf (img0 m).signed 6 2 = 2 := fun m => rfl
  have f3 : ∀ m, fieldOf (img0 m).signed 8 8 = 3 := fun m => rfl
  have f4 : ∀ m, fieldOf (img0 m).signed 0x10 4 = 4096 := fun m => rfl
  have f5 : ∀ m, fieldOf (img0 m).signed 0x14 4 = 0 := fun m => rfl
  have f6 : ∀ m, ((img0 m).signed.drop 0x20).take 133 = List.replicate 133 0 := fun m => rfl
  have f7 : ∀ m, fieldOf (img0 m).signed 0x18 8 = 0 := fun m => rfl
  have f8 : ∀ m, fieldOf (img0 m).signed 0xA5 3 = 0 := fun m => rfl
  have con : ∀ m, m < 2 ^ 32 → imageConsistent (img0 m) = true := by
    intro m hm
    have g0 : (m % 256 ^ 4 == (img0 m).magic) = true := by
      rw [Nat.mod_eq_of_lt (lt_of_lt_of_le hm (by norm_num))]; exact beq_self_eq_true m
    rw [imageConsistent, f0, f1, f2, f3, f4, f5, f6, f7, f8, len, g0]
    simp only [img0, List.length_replicate, beq_self_eq_true, Bool.and_true]
    decide
  have acc : imageAccepted (img0 0x53495850) State.reset.plat.minSvn = true := by
    rw [imageAccepted, h1, h2]; rfl
  exact ⟨by decide, ⟨{ State.reset with plat := { changing := some 1 } }, rfl⟩, ⟨{ State.reset with plat := { pnow := 3 } }, rfl⟩, by decide, rfl,
    ⟨{ State.reset with plat := { staged := some (img0 0x53495850) } }, rfl⟩, con _ (by norm_num), acc, con _ (by norm_num), rfl⟩

theorem witness_HubRegisters :
    (let s : State := Q0.setQueue 0 { en := true }
     (s.queueD 0).en = true ∧ (Q0.queueD 0).en = false ∧ wbit 1 0 = true)
    ∧ wbits 0 43 40 < 4 ∧ (let v : Word := 0x0000044140000001
       4 ≤ wbits v 43 40 ∧ wbits v 43 40 ≤ 12 ∧ wbits v 39 36 ≤ 10 ∧ wbits v 35 32 ≠ 0 ∧ wbit v 0 = true)
    ∧ (let v : Word := 0x00100001
       10 ≤ wbits v 31 16 ∧ wbits v 31 16 ≤ 1000 ∧ 1 ≤ wbits v 5 0 ∧ wbits v 5 0 ≤ 32)
    ∧ wbits 5 3 0 ≤ 13 ∧ wbits 14 3 0 > 13 ∧ (let s : State := { Q0 with fab := { en := true } }
       s.fab.en = true ∧ wbit 0 30 = false)
    ∧ (∀ r ∈ [HubReg.qhead, .qwin, .scrqh, .scrpt, .scstat, .rtstat, .rtctl, .l2pin, .rfront, .tlbis, .tlbic, .devrt, .ftime, .rqmlo, .rpart, .rrbase, .rrhead,
        .fzstat, .ckctl, .ckstat, .tsctl, .tsstat, .eltail, .elhead, .pwrctl], ownRow r = false ∧ 0 < regCount r)
    ∧ wbits 0 43 42 = 0 ∧ wbits (2 ^ 42) 43 42 ≠ 0 ∧ Q0.m.tlbi.busy = false ∧ wbits 0 61 60 = 0 ∧ wbits (2 ^ 60) 61 60 ≠ 0 ∧ wbit 0 0 = false
    ∧ (Q0.disp.sets.get 0 {}).en = false ∧ 4 ≤ wbits (2 ^ 42) 43 40 ∧ wbits (2 ^ 42) 43 40 ≤ 12 ∧ wbits (2 ^ 40) 43 40 < 4
    ∧ (rpart (qRec { mode := 1 }) 0).mode ≠ 0 ∧ (rpart (qRec {}) 0).mode = 0 ∧ (ckState 1 []).ck.go = true ∧ Q0.ck.go = false ∧ anyL2 Q0 = false ∧ wbits 65 7 0 > 64
    ∧ wbits 0xFFF00000000 43 32 > 4000 := by
  decide +kernel

def hostAcc : Acc := { lane := 0, va := 0, pa := 2 ^ 56 + 0x40, size := 4, b := 7 }
def hostReq : Req := { reqOf .hostAtomic with accs := [hostAcc] }
def waiting1 : State := P0e fun x => { x with st := .parked, park := .op { op (.waita plainA) with accs := [hostAcc] } }
/-- The clock of its cluster is stopped. -/
def stopped1 : State := { waiting1 with frz := { clus := [(0, { lclu := some 0, state := .scanning, stopped := true })] } }
def job (b : Bool) : MxJob := { mma := b, mc := 0, ma := 0, bs := 0 }
def working (l : List MxJob) : State := { P0 with mx := [(0, { jobs := l })] }
theorem witness_OutsideCompletions :
    (∃ gr p, waiting1.group? 0 = some gr ∧ hostWait gr 0 = some p ∧ groupRuns waiting1 gr = true ∧ waiting1.plat.linkUp = true)
    ∧ (let s := withReq hostReq P0
       findReq s 5 = some hostReq ∧ hostReq.accs = [hostAcc] ∧ hostReq.orig = .grp 0 0 ∧ hostReq.kind = .hostAtomic ∧ reqTurn s hostReq = true
       ∧ s.plat.linkUp = true ∧ pcieNext s hostReq = true ∧ slotStalls s (slotOfAgent s 0) = false ∧ logValue s 0 hostReq.split 8 = none ∧ isDev hostAcc.pa = false ∧ isHostPa hostAcc.pa = true
       ∧ s.hostMem.wf = true ∧ ∃ gr, s.group? 0 = some gr ∧ ctxRuns s (lcluOf s gr.block.gang) = true)
    ∧ (∃ gr p, stopped1.group? 0 = some gr ∧ hostWait gr 0 = some p ∧ gr.status ≠ .swapped ∧ groupRuns stopped1 gr = false
      ∧ ctxRuns stopped1 (lcluOf stopped1 gr.block.gang) = false ∧ stopped1.plat.linkUp = true)
    ∧ (let s := { stopped1 with mx := [(0, { jobs := [{ job false with mem := true }] })] }
       coreRuns s 0 = false ∧ parkedAt s 0 = [] ∧ (parkAt s 0 0 (.mldb 0 0)).isSome = true)
    ∧ (∀ l ∈ [[job true, job false], [job false, job true]], ((working l).mxD 0).jobs = l ∧ coreRuns (working l) 0 = true ∧ parkedAt (working l) 0 = []) := by
  simp only [List.forall_mem_cons, List.not_mem_nil, false_imp_iff, implies_true, and_true]
  exact ⟨⟨_, _, rfl, rfl, rfl, rfl⟩, ⟨rfl, rfl, rfl, rfl, rfl, rfl, rfl, rfl, rfl, by decide, by decide, rfl, _, rfl, rfl⟩,
    ⟨_, _, rfl, rfl, by decide, rfl, rfl, rfl⟩, ⟨rfl, rfl, rfl⟩, ⟨rfl, rfl, rfl⟩, rfl, rfl, rfl⟩

/-- The invariant's premises: a state with canonical memories from which a step answers a next state. -/
theorem witness_MemoriesStayCanonical :
    MemoriesCanonical (at1 (.nop plainS) {}) ∧ ∃ t, step (at1 (.nop plainS) {}) = .next t :=
  ⟨⟨rfl, rfl, rfl, rfl⟩, _, rfl⟩

end Sys2Proof.Tests
end

/-! Writes of the hub's registers: what a write can change, and what each register takes and reads back. -/

namespace Sys2Proof.Machine
open Sys2Proof

/-! ### What the end of a collective changes

A write of the fabric's routes, or of FCFG, ends the collectives it cuts off (`failCut`), and the other participants are told. -/

/-- Nothing differs but the task table, the memory engine's records, the counter of new numbers, and what the fabric engine carries: the fabric's own
registers stay, and every port that is up stays up. -/
structure OnlyTraffic (s t : State) : Prop where
  eq : t = { s with
    tasks := t.tasks, m := t.m, ids := t.ids
    fab := { s.fab with ports := t.fab.ports, outstanding := t.fab.outstanding, unsent := t.fab.unsent, tags := t.fab.tags, colls := t.fab.colls } }
  up : ∀ p, (t.fab.portD p).up = (s.fab.portD p).up

namespace OnlyTraffic
variable {s t u : State}

theorem refl (s : State) : OnlyTraffic s s := ⟨rfl, fun _ => rfl⟩

theorem trans (h : OnlyTraffic s t) (k : OnlyTraffic t u) : OnlyTraffic s u :=
  ⟨by rw [k.eq, h.eq], fun p => (k.up p).trans (h.up p)⟩

theorem foldS {α : Type} (s : State) (l : List α) (f : State → α → State) (h : ∀ x a, OnlyTraffic x (f x a)) :
    OnlyTraffic s (foldS s l f) := by
  unfold Machine.foldS
  induction l generalizing s with
  | nil => exact refl s
  | cons a l ih => exact (h s a).trans (ih _)

theorem mem (h : OnlyTraffic s t) : t.mem = s.mem := by rw [h.eq]
theorem hostMem (h : OnlyTraffic s t) : t.hostMem = s.hostMem := by rw [h.eq]
theorem groups (h : OnlyTraffic s t) : t.groups = s.groups := by rw [h.eq]
theorem mesh (h : OnlyTraffic s t) : t.fab.mesh = s.fab.mesh := by rw [h.eq]
theorem en (h : OnlyTraffic s t) : t.fab.en = s.fab.en := by rw [h.eq]
theorem devno (h : OnlyTraffic s t) : t.fab.devno = s.fab.devno := by rw [h.eq]
theorem devrt (h : OnlyTraffic s t) : t.fab.devrt = s.fab.devrt := by rw [h.eq]

/-- What the fabric engine awaits, has to send, and takes part in is no register of its own. -/
theorem fab (s : State) (o l : List FReq) (c : List Coll) :
    OnlyTraffic s { s with fab := { s.fab with outstanding := o, unsent := l, colls := c } } := ⟨rfl, fun _ => rfl⟩

end OnlyTraffic

theorem portD_setPort (s : State) (p p' : Nat) (x : Port) :
    (setPort s p x).fab.portD p' = if p' = p then x else s.fab.portD p' := AList.get_put ..

theorem onlyTraffic_enqueue (s : State) (pk : Packet) (port inp : Nat) : OnlyTraffic s (enqueue s pk port inp) := by
  refine ⟨rfl, fun p => ?_⟩
  unfold enqueue
  rw [portD_setPort]
  split
  next h => rw [h]
  next => rfl

theorem onlyTraffic_sendFab (s : State) (r : FReq) (mk : Nat → Nat → List Packet) : OnlyTraffic s (sendFab s r mk).2 := by
  have htag : OnlyTraffic s (newTag (freshId s).2 r.dst).2 := ⟨rfl, fun _ => rfl⟩
  unfold sendFab
  dsimp only
  split
  · exact (htag.trans (.foldS _ _ _ fun x pk => onlyTraffic_enqueue x pk _ 25)).trans ⟨rfl, fun _ => rfl⟩
  · exact htag.trans ⟨rfl, fun _ => rfl⟩

theorem onlyTraffic_flowFab (s : State) : OnlyTraffic s (flowFab s) := by
  refine (OnlyTraffic.fab s _ [] _).trans (.foldS _ _ _ fun x r => ?_)
  split
  · exact onlyTraffic_sendFab ..
  · exact .fab ..

theorem onlyTraffic_hubSend (s : State) (lgn kind line : Nat) (accs : List Acc) (pk : Packet) :
    OnlyTraffic s (hubSend s lgn kind line accs pk) :=
  (OnlyTraffic.fab ..).trans (onlyTraffic_flowFab _)

theorem onlyTraffic_setTag (s : State) (w : Nat) (t : WordTag) : OnlyTraffic s (setTag s w t) := ⟨rfl, fun _ => rfl⟩

theorem onlyTraffic_dropClaim (s : State) (a w : Nat) : OnlyTraffic s (dropClaim s a w) := by
  unfold dropClaim
  dsimp only
  split <;> exact ⟨rfl, fun _ => rfl⟩

theorem onlyTraffic_collFree (s : State) (w : Nat) : OnlyTraffic s (collFree s w) := by
  unfold collFree
  split
  · exact onlyTraffic_setTag ..
  · split
    · exact onlyTraffic_setTag ..
    · exact .refl s

theorem onlyTraffic_setColl (s : State) (slot n v : Nat) : OnlyTraffic s (setColl s slot n v) := ⟨rfl, fun _ => rfl⟩

theorem onlyTraffic_endColl (s : State) (c : Coll) (v : Nat) : OnlyTraffic s (endColl s c v) := by
  have hlist := OnlyTraffic.fab s s.fab.outstanding s.fab.unsent (s.fab.colls.filter fun x => !(x.slot == c.slot && x.n == c.n))
  have hsrc := hlist.trans (.foldS _ c.srcWords _ fun x w => onlyTraffic_dropClaim x (agentRemote x.fab.devno) w)
  exact (hsrc.trans (.foldS _ c.dstWords _ onlyTraffic_collFree)).trans (onlyTraffic_setColl _ c.slot c.n v)

theorem onlyTraffic_failColl (s : State) (c : Coll) (tell : Bool) (v : Nat) : OnlyTraffic s (failColl s c tell v) := by
  have hend := fun o l => (OnlyTraffic.fab s o l s.fab.colls).trans (onlyTraffic_endColl _ c v)
  unfold failColl
  dsimp only
  split
  · exact hend _ _
  · exact (hend _ _).trans (.foldS _ _ _ fun x d => onlyTraffic_hubSend x (2 ^ 25) 7 0 [] _)

/-- Collectives that fail leave all memory, every group and the fabric's registers as they were. -/
theorem onlyTraffic_failCut (s : State) : OnlyTraffic s (failCut s) :=
  .foldS _ _ _ fun x c => onlyTraffic_failColl x c true _

/-! ### QCTL and SCCTL (R85, R106) -/

/-- A queue after a write of QCTL that takes all its fields. -/
def queueAfterQctl (s : State) (q : Nat) (v : Word) : Queue :=
  let x := s.queueD q
  let cmplog := if queuePending s q then x.cmplog else wbits v 39 36
  let y := { x with
    pasid := if queuePending s q then x.pasid else wbits v 63 44
    slotlog := wbits v 43 40, cmplog, weight := wbits v 35 32, cls := wbits v 31 30, irq := wbit v 1, en := wbit v 0 }
  if wbit v 0 then
    { y with seqExp := 1, pass0 := x.written / 2 ^ (cmplog + 4) % 2, parse := y.parse.map fun p => { p with old := true } }
  else y

/-- The fields written read back; the window, the ring and HEAD stay; a queue that becomes enabled expects sequence number 1. -/
theorem queueAfterQctl_fields (s : State) (q : Nat) (v : Word) :
    let x := s.queueD q
    let y := queueAfterQctl s q v
    y.en = wbit v 0 ∧ y.irq = wbit v 1 ∧ y.cls = wbits v 31 30 ∧ y.weight = wbits v 35 32 ∧ y.slotlog = wbits v 43 40
      ∧ y.pasid = (if queuePending s q then x.pasid else wbits v 63 44) ∧ y.cmplog = (if queuePending s q then x.cmplog else wbits v 39 36)
      ∧ y.win = x.win ∧ y.cmp = x.cmp ∧ y.head = x.head ∧ (wbit v 0 = true → y.seqExp = 1) := by
  unfold queueAfterQctl
  dsimp only
  split
  next => exact ⟨rfl, rfl, rfl, rfl, rfl, rfl, rfl, rfl, rfl, rfl, fun _ => rfl⟩
  next h => exact ⟨rfl, rfl, rfl, rfl, rfl, rfl, rfl, rfl, rfl, rfl, fun h' => absurd h' h⟩

section Queue
variable {s : State} {q : Nat} {v : Word} (hq : q < 128)
include hq

theorem qctlWrite_of_enabled (hen : (s.queueD q).en = true) (hv : wbit v 0 = true) :
    exec (.qctlWrite q v) s = .next (wakeAll (s.setQueue q { s.queueD q with irq := wbit v 1 })) := by
  rw [exec_qctlWrite, execQctlWrite, if_neg (by omega), if_pos hen]
  dsimp only
  rw [if_pos hv]

theorem qctlWrite_of_disabling (hen : (s.queueD q).en = true) (hv : wbit v 0 = false) :
    exec (.qctlWrite q v) s = .next (wakeAll (disableQueue (s.setQueue q { s.queueD q with irq := wbit v 1 }) q)) := by
  rw [exec_qctlWrite, execQctlWrite, if_neg (by omega), if_pos hen]
  dsimp only
  rw [hv, if_neg Bool.false_ne_true]

theorem qctlWrite_of_bad_field (hen : (s.queueD q).en = false)
    (h : wbits v 43 40 < 4 ∨ wbits v 43 40 > 12 ∨ wbits v 39 36 > 10 ∨ wbits v 35 32 = 0) : exec (.qctlWrite q v) s = .next s := by
  rw [exec_qctlWrite, execQctlWrite, if_neg (by omega), if_neg (by simp [hen]), if_pos h]

theorem qctlWrite_of_disabled (hen : (s.queueD q).en = false)
    (h : ¬(wbits v 43 40 < 4 ∨ wbits v 43 40 > 12 ∨ wbits v 39 36 > 10 ∨ wbits v 35 32 = 0)) :
    exec (.qctlWrite q v) s = .next (wakeAll (s.setQueue q (queueAfterQctl s q v))) := by
  rw [exec_qctlWrite, execQctlWrite, if_neg (by omega), if_neg (by simp [hen]), if_neg h]
  rfl

end Queue

/-- A disabled queue keeps its parse, and what awaits parse is dead. -/
theorem queueD_disableQueue (s : State) (q : Nat) :
    (disableQueue s q).queueD q = { s.queueD q with en := false, spawned := (s.queueD q).spawned.map fun r => { r with dead := true } } := by
  simp [disableQueue]

/-- A ring set after a write of SCCTL that takes all its fields. -/
def setAfterScctl (x : ScSet) (v : Word) : ScSet :=
  let y := { x with pasid := wbits v 63 44, log := wbits v 43 40, en := wbit v 0 }
  if wbit v 0 then { y with rqt := 0, rph := 0, rqh := 0, rpt := 0 } else y

theorem setAfterScctl_fields (x : ScSet) (v : Word) :
    let y := setAfterScctl x v
    y.en = wbit v 0 ∧ y.pasid = wbits v 63 44 ∧ y.log = wbits v 43 40 ∧ y.rqb = x.rqb ∧ y.rpb = x.rpb
      ∧ (wbit v 0 = true → y.rqt = 0 ∧ y.rph = 0 ∧ y.rqh = 0 ∧ y.rpt = 0) := by
  unfold setAfterScctl
  dsimp only
  split
  next => exact ⟨rfl, rfl, rfl, rfl, rfl, fun _ => ⟨rfl, rfl, rfl, rfl⟩⟩
  next h => exact ⟨rfl, rfl, rfl, rfl, rfl, fun h' => absurd h' h⟩

/-- The state with a ring set put in its place. -/
abbrev withScSet (s : State) (n : Nat) (x : ScSet) : State := putScSet s n true x

theorem sets_withScSet (s : State) (n : Nat) (x : ScSet) : (withScSet s n x).disp.sets.get n {} = x := by
  simp [putScSet, AList.get_put]

section ScSet
variable {s : State} {n : Nat} {v : Word} (hn : n < 128)
include hn

theorem scctlWrite_of_refused (h : wbits v 43 40 < 4 ∨ wbits v 43 40 > 12 ∨ ((s.disp.sets.get n {}).en = true ∧ wbit v 0 = true)) :
    exec (.scctlWrite n v) s = .next s := by
  rw [exec_scctlWrite, execScctlWrite, if_neg (by omega), if_pos]
  simp only [Bool.or_eq_true, Bool.and_eq_true, decide_eq_true_eq]
  tauto

theorem scctlWrite_of_taken (h4 : 4 ≤ wbits v 43 40) (h12 : wbits v 43 40 ≤ 12)
    (hen : (s.disp.sets.get n {}).en = false ∨ wbit v 0 = false) :
    exec (.scctlWrite n v) s = .next (wakeAll (withScSet s n (setAfterScctl (s.disp.sets.get n {}) v))) := by
  rw [exec_scctlWrite, execScctlWrite, if_neg (by omega), if_neg]
  · rfl
  · rcases hen with h | h <;> simp [h] <;> omega

end ScSet

/-! ### PGCTL (R327, R328), ELRING (R435) -/

section Limits
variable {s : State} {v : Word}

theorem pgctlWrite_of_taken (h : ¬(wbits v 31 16 < 10 ∨ wbits v 31 16 > 1000 ∨ wbits v 5 0 = 0 ∨ wbits v 5 0 > 32)) : exec (.pgctlWrite v) s =
    .next { s with m := { s.m with pgpto := wbits v 31 16, prgmax := wbits v 5 0, rf := s.m.rf && !wbit v 15 } } :=
  congrArg Host.Outcome.next (if_neg h)

theorem pgctlWrite_of_bad_field (h : wbits v 31 16 < 10 ∨ wbits v 31 16 > 1000 ∨ wbits v 5 0 = 0 ∨ wbits v 5 0 > 32) :
    exec (.pgctlWrite v) s = .next s :=
  congrArg Host.Outcome.next (if_pos h)

theorem elringWrite_of_taken (h : wbits v 3 0 ≤ 13) : exec (.elringWrite v) s =
    .next { s with plat := { s.plat with elBase := wbits v 56 12 * 4096, elLog := wbits v 3 0, elHead := 0, elTail := 0 } } :=
  congrArg Host.Outcome.next (if_neg (Nat.not_lt.mpr h))

theorem elringWrite_of_bad_field (h : wbits v 3 0 > 13) : exec (.elringWrite v) s = .next s :=
  congrArg Host.Outcome.next (if_pos h)

end Limits

/-! ### FCFG (R337) -/

/-- Once every port goes down, none is up: not one that is unlisted either. -/
theorem portsDown_up (s : State) (p : Nat) : ((portsDown s).fab.portD p).up = false := by
  unfold portsDown Fab.portD AList.get
  dsimp only
  induction s.fab.ports with
  | nil => rfl
  | cons x l ih =>
    simp only [List.map_cons, AList.find?]
    split
    · rfl
    · exact ih

/-- The state in which FCFG holds `v`, before the ports and the collectives follow. -/
def withFcfg (s : State) (v : Word) : State :=
  { s with fab := { s.fab with mesh := wbit v 31, en := wbit v 30, devno := if s.fab.en then s.fab.devno else wbits v 17 0 } }

/-- The state after a write of FCFG. -/
def afterFcfg (s : State) (v : Word) : State :=
  failCut (if s.fab.en && !wbit v 30 then portsDown (withFcfg s v) else withFcfg s v)

theorem exec_fcfgWrite_eq (s : State) (v : Word) : exec (.fcfgWrite v) s = .next (wakeAll (afterFcfg s v)) := rfl

/-- FCFG reads back as written, but for DEVNO while the fabric is enabled; no byte of memory changes. -/
theorem afterFcfg_registers (s : State) (v : Word) :
    (afterFcfg s v).fab.mesh = wbit v 31 ∧ (afterFcfg s v).fab.en = wbit v 30 ∧ (afterFcfg s v).mem = s.mem
      ∧ (afterFcfg s v).fab.devno = if s.fab.en then s.fab.devno else wbits v 17 0 := by
  have h := onlyTraffic_failCut (if s.fab.en && !wbit v 30 then portsDown (withFcfg s v) else withFcfg s v)
  unfold afterFcfg
  rw [h.mesh, h.en, h.mem, h.devno]
  split <;> exact ⟨rfl, rfl, rfl, rfl⟩

/-- A fabric that is disabled has no port up. -/
theorem afterFcfg_up {s : State} {v : Word} (hen : s.fab.en = true) (hv : wbit v 30 = false) (p : Nat) :
    ((afterFcfg s v).fab.portD p).up = false := by
  unfold afterFcfg
  rw [(onlyTraffic_failCut _).up, if_pos (by simp [hen, hv])]
  exact portsDown_up _ p

/-! ### What a register write leaves as it was -/

/-- No byte of memory, no group and no task differs. -/
def OnlyRegisters (s t : State) : Prop := t.mem = s.mem ∧ t.hostMem = s.hostMem ∧ t.groups = s.groups ∧ t.tasks = s.tasks

theorem OnlyRegisters.refl (s : State) : OnlyRegisters s s := ⟨rfl, rfl, rfl, rfl⟩

theorem OnlyRegisters.ite {s t u : State} {c : Prop} [Decidable c] (ht : OnlyRegisters s t) (hu : OnlyRegisters s u) :
    OnlyRegisters s (if c then t else u) := by
  split
  · exact ht
  · exact hu

theorem onlyRegisters_putQueue (s : State) (q : Nat) (ok : Bool) (x : Queue) : OnlyRegisters s (putQueue s q ok x) :=
  .ite (.refl s) (.refl s)

theorem onlyRegisters_putScSet (s : State) (n : Nat) (ok : Bool) (x : ScSet) : OnlyRegisters s (putScSet s n ok x) :=
  .ite (.refl s) (.refl s)

theorem onlyRegisters_putPart (s : State) (p : Nat) (ok : Bool) (f : RPart → RPart) : OnlyRegisters s (putPart s p ok f) :=
  .ite (.refl s) (.refl s)

theorem onlyRegisters_writeHub (s : State) (r : HubReg) (i : Nat) (v : Word) : OnlyRegisters s (writeHub s r i v) := by
  cases r
  case qwin | qcmp | qhead => exact onlyRegisters_putQueue ..
  case scrqb | scrpb | scrqh | scrpt => exact onlyRegisters_putScSet ..
  case clsw | cqnt => unfold writeHub; dsimp only; split <;> exact .refl s
  case l2pin | rtctl | tlbic => exact .ite (.refl s) (.refl s)
  all_goals exact .refl s

theorem onlyRegisters_writeRec (s : State) (r : HubReg) (i : Nat) (v : Word) : OnlyRegisters s (writeRec s r i v) := by
  cases r
  case rqmlo | rqmhi | rpart | rrbase => exact onlyRegisters_putPart ..
  case ckctl => exact .ite (.refl s) (.refl s)
  all_goals exact .refl s

theorem onlyRegisters_writeDbg (s : State) (r : HubReg) (i : Nat) (v : Word) : OnlyRegisters s (writeDbg s r i v) := by
  cases r
  case tsctl | tsring | wpbase | wpctl | pwrctl => exact .ite (.refl s) (.refl s)
  all_goals exact .refl s

/-- The registers whose write can cut off a participant of a collective. -/
def routeRegs : List HubReg := [.fmesh, .devrt, .domrt]

theorem onlyRegisters_writeFab (s : State) {r : HubReg} (hr : r ∉ routeRegs) (i : Nat) (v : Word) : OnlyRegisters s (writeFab s r i v) := by
  cases r
  case fmesh | devrt | domrt => exact absurd (by decide) hr
  case farb =>
    unfold writeFab
    dsimp only
    split
    · exact .ite (.refl s) (.refl s)
    · exact .refl s
  case ftime => exact .ite (.refl s) (.refl s)
  all_goals exact .refl s

/-- Only a register of the fabric's routes touches a task. -/
theorem onlyRegisters_writeReg (s : State) {r : HubReg} (hr : r ∉ routeRegs) (i : Nat) (v : Word) : OnlyRegisters s (writeReg s r i v) := by
  cases r
  case fmesh | devrt | domrt | farb | ftime | fwin => exact onlyRegisters_writeFab s hr i v
  case rqmlo | rqmhi | rpart | rrbase | rbks | ckctl => exact onlyRegisters_writeRec ..
  case tsctl | tstask | tsring | wpbase | wpctl | elhead | pwrctl => exact onlyRegisters_writeDbg ..
  all_goals exact onlyRegisters_writeHub ..

theorem writeReg_route_memory (s : State) {r : HubReg} (hr : r ∈ routeRegs) (i : Nat) (v : Word) :
    (writeReg s r i v).mem = s.mem ∧ (writeReg s r i v).hostMem = s.hostMem ∧ (writeReg s r i v).groups = s.groups := by
  have hcut : ∀ t, t.mem = s.mem ∧ t.hostMem = s.hostMem ∧ t.groups = s.groups →
      (failCut t).mem = s.mem ∧ (failCut t).hostMem = s.hostMem ∧ (failCut t).groups = s.groups := by
    intro t ht
    have h := onlyTraffic_failCut t
    rwa [h.mem, h.hostMem, h.groups]
  simp only [routeRegs, List.mem_cons, List.not_mem_nil, or_false] at hr
  rcases hr with rfl | rfl | rfl
  · exact hcut _ ⟨rfl, rfl, rfl⟩
  all_goals
    simp only [writeReg, writeFab]
    split
    · exact ⟨rfl, rfl, rfl⟩
    · exact hcut _ ⟨rfl, rfl, rfl⟩

/-- A register write changes no byte of device or host memory, and no group. -/
theorem writeReg_memory (s : State) (r : HubReg) (i : Nat) (v : Word) :
    (writeReg s r i v).mem = s.mem ∧ (writeReg s r i v).hostMem = s.hostMem ∧ (writeReg s r i v).groups = s.groups := by
  by_cases hr : r ∈ routeRegs
  · exact writeReg_route_memory s hr i v
  · obtain ⟨hmem, hhost, hgroups, -⟩ := onlyRegisters_writeReg s hr i v
    exact ⟨hmem, hhost, hgroups⟩

theorem writeReg_tasks (s : State) {r : HubReg} (hr : r ∉ routeRegs) (i : Nat) (v : Word) : (writeReg s r i v).tasks = s.tasks := by
  obtain ⟨-, -, -, htasks⟩ := onlyRegisters_writeReg s hr i v
  exact htasks

/-! ### What each register takes, and what it reads as then -/

/-- The read-only registers of the hub. -/
def readOnlyRegs : List HubReg := [.scstat, .rtstat, .tlbis, .rrhead, .rfront, .fzstat, .ckstat, .tsstat, .eltail]

theorem writeReg_readOnly (s : State) {r : HubReg} (hr : r ∈ readOnlyRegs) (i : Nat) (v : Word) : writeReg s r i v = s := by
  simp only [readOnlyRegs, List.mem_cons, List.not_mem_nil, or_false] at hr
  rcases hr with rfl | rfl | rfl | rfl | rfl | rfl | rfl | rfl | rfl <;> rfl

theorem fields_low (n : Nat) : fields [(0, n)] = BitVec.ofNat 64 n := by simp [fields]

section Registers
variable (s : State) (i : Nat) (v : Word)

theorem queueD_write_qhead : (writeReg s .qhead i v).queueD i = { s.queueD i with head := wbits v 31 0 } := by
  simp [writeReg, writeHub, putQueue]

theorem queueD_write_qwin : ((writeReg s .qwin i v).queueD i).win = if (s.queueD i).en then (s.queueD i).win else wbits v 56 8 * 256 := by
  cases hen : (s.queueD i).en <;> simp [writeReg, writeHub, putQueue, hen]

theorem sets_write_scrqh : (writeReg s .scrqh i v).disp.sets.get i {} = { s.disp.sets.get i {} with rqh := wbits v 31 0 } :=
  sets_withScSet ..

theorem sets_write_scrpt : (writeReg s .scrpt i v).disp.sets.get i {} = { s.disp.sets.get i {} with rpt := wbits v 31 0 } :=
  sets_withScSet ..

/-- A register of one 32-bit index reads back its low word. -/
theorem readReg_writeReg_index {r : HubReg} (hr : r ∈ [HubReg.qhead, .scrqh, .scrpt, .elhead]) :
    readReg (writeReg s r i v) r i = BitVec.ofNat 64 (wbits v 31 0) := by
  simp only [List.mem_cons, List.not_mem_nil, or_false] at hr
  rcases hr with rfl | rfl | rfl | rfl
  · simp only [readReg, readQueue, queueD_write_qhead, fields_low]
  · simp only [readReg, readQueue, sets_write_scrqh, fields_low]
  · simp only [readReg, readQueue, sets_write_scrpt, fields_low]
  · exact fields_low _

theorem write_tlbic : (wbits v 43 42 ≠ 0 → writeReg s .tlbic i v = s) ∧ (wbits v 43 42 = 0 → s.m.tlbi.busy = false →
    (writeReg s .tlbic i v).m.tlbi = { s.m.tlbi with pasid := wbits v 63 44, count := wbits v 27 0, op := 0 }) := by
  refine ⟨fun h => ?_, fun h hb => ?_⟩ <;> simp [writeReg, writeHub, *]

theorem write_l2pin : (64 < wbits v 7 0 ∨ anyL2 s = true → writeReg s .l2pin i v = s)
    ∧ (wbits v 7 0 ≤ 64 → anyL2 s = false → (writeReg s .l2pin i v).m.l2pin = wbits v 7 0) := by
  refine ⟨fun h => ?_, fun h hl => ?_⟩
  · simp [writeReg, writeHub, h]
  · simp [writeReg, writeHub, setL2pin, hl, Nat.not_lt.mpr h]

theorem write_rtctl : (wbits v 61 60 ≠ 0 → writeReg s .rtctl i v = s) ∧ (wbits v 61 60 = 0 →
    (writeReg s .rtctl i v).m.retype = { s.m.retype with newct := BitVec.ofNat 2 (wbits v 63 62), count := wbits v 27 0 }) := by
  refine ⟨fun h => ?_, fun h => ?_⟩ <;> simp [writeReg, writeHub, h]

theorem write_devrt : (writeReg s .devrt i v).fab.devrt.get i 0 =
    if v.toNat < 2 ^ 24 then BitVec.ofNat 24 v.toNat else s.fab.devrt.get i 0 := by
  by_cases h : v.toNat < 2 ^ 24
  · have hw : writeReg s .devrt i v = failCut { s with fab := { s.fab with devrt := s.fab.devrt.put i (BitVec.ofNat 24 v.toNat) } } :=
      if_neg (Nat.not_le.mpr h)
    rw [hw, (onlyTraffic_failCut _).devrt, if_pos h, AList.get_put, if_pos rfl]
  · have hw : writeReg s .devrt i v = s := if_pos (Nat.not_lt.mp h)
    rw [hw, if_neg h]

theorem write_ftime : (writeReg s .ftime i v).fab.fto = if 10 ≤ wbits v 15 0 ∧ wbits v 15 0 ≤ 10000 then wbits v 15 0 else s.fab.fto := by
  by_cases h : wbits v 15 0 < 10 ∨ wbits v 15 0 > 10000
  · have hw : writeReg s .ftime i v = s := if_pos h
    rw [hw, if_neg (by omega)]
  · have hw : writeReg s .ftime i v = { s with fab := { s.fab with fto := wbits v 15 0 } } := if_neg h
    rw [hw, if_pos (by omega)]

theorem putPart_of_running {s : State} {p : Nat} (h : (rpart s p).mode ≠ 0) (ok : Bool) (f : RPart → RPart) : putPart s p ok f = s := by
  simp [putPart, h]

/-- A partition that is on keeps its registers. -/
theorem writeReg_of_running {r : HubReg} (hr : r = .rqmlo ∨ r = .rqmhi ∨ r = .rpart ∨ r = .rrbase) (h : (rpart s i).mode ≠ 0) :
    writeReg s r i v = s := by
  rcases hr with rfl | rfl | rfl | rfl <;> simp only [writeReg, writeRec, putPart_of_running h]

theorem rpart_setRpart (x : RPart) : rpart (setRpart s i x) i = x := by simp [rpart, setRpart, AList.get_put]

theorem write_rpart (h : (rpart s i).mode = 0) : (rpart (writeReg s .rpart i v) i).id = v := by
  simp [writeReg, writeRec, putPart, h, rpart_setRpart]

theorem write_ckctl_of_going (h : s.ck.go = true) : writeReg s .ckctl i v = s := if_pos h

theorem write_ckctl_of_go (h : s.ck.go = false) (hv : wbit v 0 = true) :
    (writeReg s .ckctl i v).ck.go = true ∧ (writeReg s .ckctl i v).ck.state = 1 ∧ (writeReg s .ckctl i v).ck.cmd = wbits v 56 6 * 64 := by
  simp [writeReg, writeRec, h, hv]

theorem write_tsctl : (sessD (writeReg s .tsctl i v) i).en =
    if (capD s (wbits v 63 56)).has 3 then wbit v 0 else (sessD s i).en := by
  simp only [writeReg, writeDbg]
  split
  · simp [sessD, setSess, AList.get_put]
  · rfl

theorem write_pwrctl : (wbits v 43 32 > 4000 ∨ wbits v 7 4 > 3 → writeReg s .pwrctl i v = s)
    ∧ (wbits v 43 32 ≤ 4000 → wbits v 7 4 ≤ 3 → (writeReg s .pwrctl i v).plat.cap = wbits v 43 32
      ∧ (writeReg s .pwrctl i v).plat.ptop = wbits v 7 4
      ∧ (s.plat.changing.getD s.plat.pnow < wbits v 7 4 → (writeReg s .pwrctl i v).plat.changing = some (wbits v 7 4))) := by
  refine ⟨fun h => if_pos h, fun hc hp => ?_⟩
  have hw : writeReg s .pwrctl i v =
      { s with plat := { s.plat with cap := wbits v 43 32, ptop := wbits v 7 4, changing := withinPolicy s.plat (wbits v 7 4) } } :=
    if_neg (by omega)
  rw [hw]
  exact ⟨rfl, rfl, fun h => if_pos h⟩

end Registers

theorem exec_registerWrite_of_lt {r : HubReg} (hown : ownRow r = false) {i : Nat} (hi : i < regCount r) (v : Word) (s : State) :
    exec (.registerWrite r i v) s = .next (wakeAll (writeReg s r i v)) := by
  rw [exec_registerWrite, execRegisterWrite, when, if_pos (by simp [hown, hi])]

end Sys2Proof.Machine

namespace Sys2Proof.Proofs
open Sys2Proof Sys2Proof.Machine

/-- Settles O57: each register's clause is the lemma about its write. What every write leaves as it was is `writeReg_memory` and `writeReg_tasks`;
for the routes of the fabric, as for FCFG, it comes from what `failCut` leaves (`onlyTraffic_failCut`). The statement's `Sys2Proof.wbit` is the
registers' own `wbit` by unfolding. -/
theorem hubRegisters : Obligations.HubRegisters := by
  unfold Obligations.HubRegisters
  refine ⟨fun s q v hq => ⟨?_, ?_, ?_, ?_⟩, fun s n v hn => ⟨?_, ?_⟩, fun s v => ⟨?_, ?_, ?_, ?_, ?_⟩, fun s r i v hown hi => ?_⟩
  · exact qctlWrite_of_enabled hq
  · intro hen hv
    refine ⟨_, qctlWrite_of_disabling hq hen hv, ?_⟩
    rw [queueD_disableQueue, queueD_setQueue, if_pos rfl]
    exact ⟨rfl, rfl, rfl⟩
  · exact qctlWrite_of_bad_field hq
  · intro hen h4 h12 h10 hw
    refine ⟨_, qctlWrite_of_disabled hq hen (by omega), fun n hn => by rw [queueD_setQueue, if_neg hn], ?_⟩
    rw [queueD_setQueue, if_pos rfl]
    exact queueAfterQctl_fields s q v
  · exact scctlWrite_of_refused hn
  · intro h4 h12 hen
    refine ⟨_, scctlWrite_of_taken hn h4 h12 hen, ?_⟩
    rw [sets_withScSet]
    exact setAfterScctl_fields _ v
  · intro h1 h2 h3 h4
    exact pgctlWrite_of_taken (by omega)
  · exact pgctlWrite_of_bad_field
  · exact elringWrite_of_taken
  · exact elringWrite_of_bad_field
  · obtain ⟨hmesh, hen, hmem, hdev⟩ := afterFcfg_registers s v
    exact ⟨_, exec_fcfgWrite_eq s v, hmesh, hen, hmem, hdev, fun h hv => afterFcfg_up h hv⟩
  · obtain ⟨hmem, hhost, hgroups⟩ := writeReg_memory s r i v
    refine ⟨_, exec_registerWrite_of_lt hown hi v s, hmem, hhost, hgroups, fun hr => writeReg_tasks s hr i v,
      fun hr => writeReg_readOnly s hr i v, readReg_writeReg_index s i v, ?_, ?_, ?_, ?_, ?_, ?_, ?_, ?_, ?_,
      writeReg_of_running s i v, ?_, ?_, ?_, ?_, ?_⟩
    · rintro rfl hm; exact write_rpart s i v hm
    · rintro rfl; exact write_tlbic s i v
    · rintro rfl; exact write_l2pin s i v
    · rintro rfl; exact write_rtctl s i v
    · rintro rfl; rw [queueD_write_qhead]
    · rintro rfl; exact queueD_write_qwin s i v
    · rintro rfl; rw [sets_write_scrpt]
    · rintro rfl; exact write_devrt s i v
    · rintro rfl; exact write_ftime s i v
    · rintro rfl hm; exact write_rpart s i v hm
    · rintro rfl h; exact write_ckctl_of_going s i v h
    · rintro rfl h hv; exact write_ckctl_of_go s i v h hv
    · rintro rfl; exact write_tsctl s i v
    · rintro rfl; exact write_pwrctl s i v

end Sys2Proof.Proofs

/-! The vector engine between clauses: what fetch, selection, tokens, halts and retirement each leave. -/

namespace Sys2Proof.AList
variable {κ α : Type} [DecidableEq κ]

/-- A change of the values that meet a condition. -/
theorem find?_map_if (t : AList κ α) (c : α → Bool) (f : α → α) (k : κ) :
    find? (t.map fun p => if c p.2 then (p.1, f p.2) else p) k = (t.find? k).map fun v => if c v then f v else v := by
  induction t with
  | nil => rfl
  | cons p t ih =>
    obtain ⟨a, v⟩ := p
    by_cases ha : a = k <;> by_cases hv : c v = true <;> simp_all [find?]

theorem mem_of_find? {t : AList κ α} {k : κ} {v : α} (h : t.find? k = some v) : (k, v) ∈ t := by
  induction t with
  | nil => cases h
  | cons p t ih =>
    obtain ⟨a, w⟩ := p
    by_cases ha : a = k
    · simp_all [find?]
    · exact List.mem_cons_of_mem _ (ih (by simpa [find?, ha] using h))

end Sys2Proof.AList

namespace Sys2Proof.Machine
open Sys2Proof Sys2Proof.Safety

/-! ### Entries of a group -/

/-- What each step of a fold keeps, the fold keeps. -/
theorem foldS_keeps {α : Type} {P : State → Prop} {f : State → α → State} (h : ∀ x a, P x → P (f x a)) (l : List α) {s : State} (hs : P s) :
    P (foldS s l f) := by
  unfold foldS
  induction l generalizing s with
  | nil => exact hs
  | cons a l ih => exact ih (h s a hs)

theorem ent_updEnt_self {gr : Group} {e : Nat} (f : Entry → Entry) (he : e < gr.ents.length) : (gr.updEnt e f).ent e = f (gr.ent e) := by
  simp [Group.ent, Group.updEnt, List.getD_eq_getElem?_getD, he]

theorem group?_putEnt {s : State} {g : Nat} {gr : Group} (hg : s.group? g = some gr) (e : Nat) (f : Entry → Entry) :
    (putEnt s g e f).group? g = some (gr.updEnt e f) := by
  simp [putEnt, hg]

/-! ### Fetching (R39) -/

theorem onlyEngine_fetchWord (s : State) (ttu : Bool) (u pasid va : Nat) : OnlyEngine s (fetchWord s ttu u pasid va).1 := by
  have h := onlyEngine_translateIn s ttu u pasid va { x := true }
  unfold fetchWord
  dsimp only
  split <;> exact h

theorem onlyEngine_fetchWords (s : State) (ttu : Bool) (u pasid va n : Nat) : OnlyEngine s (fetchWords s ttu u pasid va n).1 := by
  induction n generalizing s va with
  | zero => exact .refl s
  | succ n ih => exact (onlyEngine_fetchWord ..).trans (ih ..)

/-- A fetch changes translation caches only. -/
theorem onlyEngine_fetchClause (s : State) (ttu : Bool) (u pasid eng va : Nat) : OnlyEngine s (fetchClause s ttu u pasid eng va).1 := by
  have hhdr := onlyEngine_fetchWord s ttu u pasid va
  unfold fetchClause
  dsimp only
  split
  · split
    · exact hhdr
    · split
      · exact hhdr
      · split <;> exact hhdr.trans (onlyEngine_fetchWords ..)
  · exact hhdr

section Fetch
variable {s s' : State} {g e : Nat} {gr : Group} {c : Clause}

/-- At a header that no call leads to, a clause that is fetched whole goes to the decoder. -/
theorem fetchAt_of_ok {x : Entry} (hcall : x.call = none) (hf : fetchClause s false gr.cu (pasidOf s gr.block.gang.slot) 0 x.pc = (s', .ok c)) :
    fetchAt s g e gr x = clauseIn s' g e gr x c := by
  unfold fetchAt
  simp only [hcall, hf]

theorem clauseIn_of_checked (x : Entry) (hw : wordsCheck gr.vregs 0 {} c.words = none) :
    clauseIn s g e gr x c = recheck (putEnt s g e fun x => { x with st := .waiting, clause := some c, call := none }) g := by
  simp only [clauseIn, hw]

/-- A fragment that stands at its header with no late fault, halt or interrupted operation fetches. -/
theorem clauseFetch_of_fetching (hk : agentKind g ≠ 2) (hg : s.group? g = some gr) (hv : (gr.ent e).valid = true) (hst : (gr.ent e).st = .fetching)
    (hp : (gr.ent e).park = .none) (hrun : groupRuns s gr = true) (hl : (gr.ent e).late = []) (hh : (gr.ent e).haltReq = false)
    (hr : (gr.ent e).resume = none) : exec (.clauseFetch g e) s = .next (fetchAt s g e gr (gr.ent e)) := by
  rw [exec_clauseFetch, execClauseFetch, if_neg hk]
  simp [hg, hv, hst, hp, hrun, hl, hh, hr]

end Fetch

/-! ### Selection (R121 to R123) -/

theorem earliest_mem {l : List (Nat × Nat × Entry)} {x : Nat × Nat × Entry} (h : earliest l = some x) : x ∈ l := by
  induction l generalizing x with
  | nil => cases h
  | cons y l ih =>
    simp only [earliest] at h
    split at h
    · exact List.mem_cons.mpr (.inl (Option.some.inj h).symm)
    next z hz =>
      split at h
      · exact List.mem_cons_of_mem _ (Option.some.inj h ▸ ih hz)
      · exact List.mem_cons.mpr (.inl (Option.some.inj h).symm)

/-- A ready fragment is listed with its own entry. -/
theorem ent_of_mem_readyFrags {s : State} {p : Nat} {x : Nat × Nat × Entry} {gr : Group} (h : x ∈ readyFrags s p) (hg : s.group? x.1 = some gr) :
    x.2.2 = gr.ent x.2.1 := by
  obtain ⟨g, -, hx⟩ := List.mem_flatMap.mp h
  split at hx
  next gr' hg' =>
    obtain ⟨e, -, rfl⟩ := List.mem_map.mp hx
    rw [hg'] at hg
    rw [Option.some.inj hg]
  · cases hx

/-- While a fragment is forced, a forced one is chosen. -/
theorem selectFrag_forced {s : State} {p g e : Nat} {gr : Group} (hsel : selectFrag s p = some (g, e)) (hg : s.group? g = some gr)
    (hf : ∃ x ∈ readyFrags s p, x.2.2.forced = true) : (gr.ent e).forced = true := by
  obtain ⟨y, hy, hyf⟩ := hf
  have hne : ((readyFrags s p).filter (fun x => x.2.2.forced) != []) = true := by
    simpa using ⟨y.1, y.2.1, y.2.2, hy, hyf⟩
  unfold selectFrag at hsel
  dsimp only at hsel
  rw [if_pos hne] at hsel
  obtain ⟨x, hx, hxe⟩ := Option.map_eq_some_iff.mp hsel
  obtain ⟨hmem, hxf⟩ := List.mem_filter.mp (earliest_mem hx)
  obtain ⟨rfl, rfl⟩ := Prod.mk.inj hxe
  rw [← ent_of_mem_readyFrags hmem hg]
  exact hxf

/-- A group of which no fragment is the one that STAY keeps. -/
def Group.unstay (gr : Group) : Group := { gr with ents := gr.ents.map fun y => { y with stayed := false } }

@[simp] theorem unstay_unstay (gr : Group) : gr.unstay.unstay = gr.unstay := by simp [Group.unstay]

@[simp] theorem ent_unstay (gr : Group) (e : Nat) : gr.unstay.ent e = { gr.ent e with stayed := false } := by
  simp only [Group.ent, Group.unstay, List.getD_eq_getElem?_getD, List.getElem?_map]
  cases gr.ents[e]? <;> rfl

/-- STAY's mark is all that a group can lose when another clause of its partition begins. -/
theorem group?_clearStay {s : State} {g : Nat} {gr : Group} (hg : s.group? g = some gr) (p : Nat) :
    (clearStay s p).group? g = some gr ∨ (clearStay s p).group? g = some gr.unstay := by
  refine foldS_keeps (P := fun t => t.group? g = some gr ∨ t.group? g = some gr.unstay) (fun t h ht => ?_) _ (.inl hg)
  change (t.updGroup h Group.unstay).group? g = _ ∨ (t.updGroup h Group.unstay).group? g = _
  rw [group?_updGroup]
  split
  next heq => subst heq; rcases ht with ht | ht <;> simp [ht]
  next => exact ht

theorem mem_clearStay (s : State) (p : Nat) : (clearStay s p).mem = s.mem :=
  foldS_keeps (P := fun t => t.mem = s.mem) (fun t g h => (updGroup_mem t g _).trans h) _ rfl

theorem mem_startClause (s : State) (g e : Nat) (c : Clause) : (startClause s g e c).mem = s.mem := by
  unfold startClause
  dsimp only
  split
  · exact mem_clearStay ..
  · rfl

/-- The clause begins in the group as it was, but for STAY's mark. -/
theorem group?_startClause {s : State} {g : Nat} {gr : Group} (hg : s.group? g = some gr) (e : Nat) (c : Clause) :
    ∃ ix gr0, (gr0 = gr ∨ gr0 = gr.unstay) ∧ (startClause s g e c).group? g = some (beginClause gr0 e c ix) := by
  have hfree : (freshFree s).2.group? g = some gr := hg
  unfold startClause
  dsimp only
  rw [hg]
  rcases group?_clearStay hfree gr.part with h | h
  · exact ⟨(freshFree s).1, gr, .inl rfl, by simp [h]⟩
  · exact ⟨(freshFree s).1, gr.unstay, .inr rfl, by simp [h]⟩

/-- A fragment's clause begins at its first slot, with the fragment's mask and flags and the group's registers as its view; a region begins
with it where its header says so. -/
theorem beginClause_starts {gr : Group} {e : Nat} (c : Clause) (ix : Nat) (he : e < gr.ents.length) :
    ∃ x, (beginClause gr e c ix).regs = gr.regs ∧ (beginClause gr e c ix).ctx = some x ∧ x.entry = e ∧ x.addr = c.addr ∧ x.words = c.words
      ∧ x.slot = 0 ∧ x.mask = (gr.ent e).mask ∧ x.am = (gr.ent e).mask ∧ x.cc = (gr.ent e).cc ∧ x.view = gr.regs
      ∧ ((beginClause gr e c ix).ent e).st = .issuing
      ∧ (c.hdr.rgn = true → (beginClause gr e c ix).ctl.region = c.addr ∧ (beginClause gr e c ix).ctl.sig = 0x811C9DC5
        ∧ (beginClause gr e c ix).ctl.seen = false) := by
  refine ⟨_, rfl, rfl, rfl, rfl, rfl, rfl, rfl, rfl, rfl, rfl, ?_, fun hrgn => ?_⟩
  · simp [beginClause, Group.ent, List.getD_eq_getElem?_getD, he]
  · simp [beginClause, hrgn, sigReset]

theorem fragmentSelect_of_selected {s : State} {p g e : Nat} {gr : Group} {c : Clause} (hb : partBusy s p = false)
    (hclk : clockRuns s (cluOfCu (cuOfPart p)) = true) (hsel : selectFrag s p = some (g, e)) (hg : s.group? g = some gr)
    (hc : (gr.ent e).clause = some c) (hf : startFault gr e c = none) :
    exec (.fragmentSelect p) s = .next { startClause s g e c with cur := some (.grp g) } := by
  rw [exec_fragmentSelect, execFragmentSelect, if_neg (by simp [hb, hclk])]
  simp only [hsel, hg, hc, hf]

/-! ### Ageing, commit, tokens and late faults (R41, R47, R123, R192) -/

section Group
variable {s : State} {g e : Nat} {gr : Group} (hg : s.group? g = some gr)
include hg

theorem ageingForce_of_ready (hv : (gr.ent e).valid = true) (hst : (gr.ent e).st = .ready) (hf : (gr.ent e).forced = false)
    (hrun : groupRuns s gr = true) (hrec : recorderHolds s gr e = false) :
    exec (.ageingForce g e) s = .next (putEnt s g e fun x => { x with forced := true, age := 256 }) := by
  rw [exec_ageingForce, execAgeingForce]
  simp [hg, hv, hst, hf, hrun, hrec, when]

theorem clauseCommit_of_ready {c : Ctx} (hk : agentKind g ≠ 2) (hc : gr.ctx = some c) (hready : commitReady c = true) (hmay : commitMay s gr c = true)
    (hrun : groupRuns s gr = true) : exec (.clauseCommit g) s = .next (commitClause s g) := by
  have hnofault : c.faults = [] := by
    simp only [commitReady, Bool.and_eq_true, beq_iff_eq] at hready
    exact hready.2
  rw [exec_clauseCommit, execClauseCommit, if_neg hk]
  simp [hg, hc, hnofault, hready, hmay, hrun, when]

/-- The first result that is ready for a token leaves the queue, and its writes land. -/
theorem tokenClear_of_ready {t k : Nat} {p : Pend} (hrun : groupRuns s gr = true) (hk : gr.pend.findIdx? (fun p => p.ready t) = some k)
    (hp : gr.pend[k]? = some p) (hd : p.dead = false) :
    exec (.tokenClear g t) s =
      .next (wakeAll (recheck (landAll (s.updGroup g fun gr => { gr with pend := gr.pend.eraseIdx k }) g p.frag p.writes) g)) := by
  rw [exec_tokenClear, execTokenClear]
  simp [hg, hk, hrun, List.getD_eq_getElem?_getD, hp, hd]

end Group

theorem agentKind_agentOfCore {l : Nat} (hl : l < 2 ^ 21) : agentKind (agentOfCore l) = 2 := by
  unfold agentKind agentOfCore; omega

theorem agentIndex_agentOfCore {l : Nat} (hl : l < 2 ^ 21) : agentIndex (agentOfCore l) = l := by
  unfold agentIndex agentOfCore; omega

theorem clauseCommit_core {s : State} {l : Nat} {c : CoreClause} (hl : l < 2 ^ 21) (hc : (s.mxD l).clause = some c)
    (hs : c.slot = c.words.length) (hw : c.wait = []) : exec (.clauseCommit (agentOfCore l)) s = .next (coreSettle s l) := by
  rw [exec_clauseCommit, execClauseCommit, if_pos (agentKind_agentOfCore hl)]
  simp [agentIndex_agentOfCore hl, hc, hs, hw, when]

/-- A 32-bit load writes its destination in the lanes that executed, each with the value that came for it. -/
theorem writes_ldB32 {p : Pend} {f : FM} (hi : p.instr = .ldB32 f) (hnw : f.nw = false) :
    ∃ v q, p.writes = { v := [(f.d.toNat, p.mask, v)], q := q } ∧ ∀ i, i < 96 → lane v i = BitVec.ofNat 32 (p.val i) :=
  ⟨vec fun i => BitVec.ofNat 32 (p.val i), flagLand p f, by simp [Pend.writes, hi, loadLand, hnw, landV], fun i h => lane_vec _ i h⟩

theorem lateFaultReport_of_refused {s s1 : State} {r g e : Nat} {q q1 : Req} {info : FaultInfo} (hq : findReq s r = some q)
    (hw : lateWhole s q = some (s1, q1)) (hi : refusedInfo q1 = some info) (ho : q1.orig = .grp g e)
    (hp : parkForGroup s g 0 (.late r) = none) : exec (.lateFaultReport r) s = .next (wakeAll (groupLate s1 g e q1 info)) := by
  rw [exec_lateFaultReport, execLateFaultReport]
  simp [hq, hw, hi, ho, hp, parkForReq, lateTo]

/-! ### Halts (R124, R410) -/

/-- A task of no partition has nothing recorded of it. -/
theorem delivery_of_unrecorded {s : State} {g : Nat} {gr : Group} (hg : s.group? g = some gr) (hp : partOfTask s gr.block.gang.slot = none)
    (e kind cause : Nat) : delivery s g e kind cause = s := by
  simp only [delivery, hg, recording, replaying, hp, Option.bind_none]

theorem releaseFault_kept (s : State) (g e : Nat) : (releaseFault s g e).groups = s.groups ∧ (releaseFault s g e).mem = s.mem := by
  unfold releaseFault
  split <;> exact ⟨rfl, rfl⟩

section Halt
variable {s : State} {cap g e : Nat} {gr : Group} (hg : s.group? g = some gr) (hmay : mayHalt s cap g = true) (hv : (gr.ent e).valid = true)
  (hst : gr.status = .resident ∨ gr.status = .swapped) (hctx : ctxRuns s (lcluOf s gr.block.gang) = true)
include hg hmay hv hst hctx

/-- A halt takes effect at once, but for a fragment that issues or is parked. -/
theorem debugHalt_of_may (hp : partOfTask s gr.block.gang.slot = none) (hj : (gr.ent e).st ≠ .joinWait) (hh : (gr.ent e).st ≠ .halted) :
    exec (.debugHalt cap g e) s = .next (if (gr.ent e).st = .issuing ∨ (gr.ent e).st = .parked
      then putEnt s g e fun x => { x with haltReq := true, haltOn := some cap } else haltFrag s g e cap) := by
  have hnone : delivery (haltFrag s g e cap) g e 7 0 = haltFrag s g e cap :=
    delivery_of_unrecorded (gr := gr.updEnt e _) (group?_putEnt hg e _) hp e 7 0
  have hstat : (decide (gr.status = .resident) || decide (gr.status = .swapped)) = true := by simpa using hst
  rw [exec_debugHalt, execDebugHalt]
  simp only [hg, hnone]
  rw [if_neg (by simp [hmay, hv, hctx, hj, hh, hstat, slotStalls, recording, hp])]
  split <;> rfl

theorem debugResume_of_halted (h : (gr.ent e).st = .halted) :
    exec (.debugResume cap g e) s = .next (releaseFault (resumeFrag s g e) g e) := by
  have hstat : (decide (gr.status = .resident) || decide (gr.status = .swapped)) = true := by simpa using hst
  rw [exec_debugResume, execDebugResume]
  simp only [hg, when]
  rw [if_pos (by simp [hmay, hv, hctx, h, hstat])]

end Halt

/-! ### Retirement (R17, R268) -/

/-- Nothing differs but the gangs' cells and the tasks. -/
def OnlyBarriers (s t : State) : Prop := t = { s with gangs := t.gangs, tasks := t.tasks }

namespace OnlyBarriers
variable {s t u : State}

theorem refl (s : State) : OnlyBarriers s s := rfl
theorem trans (h : OnlyBarriers s t) (k : OnlyBarriers t u) : OnlyBarriers s u := by
  unfold OnlyBarriers at *; rw [k, h]
theorem groups (h : OnlyBarriers s t) : t.groups = s.groups := by rw [h]
theorem m (h : OnlyBarriers s t) : t.m = s.m := by rw [h]
theorem mem (h : OnlyBarriers s t) : t.mem = s.mem := by rw [h]

end OnlyBarriers

theorem onlyBarriers_nbSettle (s : State) (g : GId) (n bid : Nat) : OnlyBarriers s (nbSettle s g n bid) := by
  unfold nbSettle
  split
  · split
    · rfl
    · exact .refl s
  · exact .refl s

theorem onlyBarriers_ndSettle (s : State) (t n : Nat) : OnlyBarriers s (ndSettle s t n) := by
  unfold ndSettle
  split
  · rfl
  · exact .refl s

theorem onlyBarriers_barrierEvent (s : State) (b : BlockId) : OnlyBarriers s (barrierEvent s b) := by
  unfold barrierEvent
  exact foldS_keeps (P := OnlyBarriers s) (fun _ _ h => h.trans (onlyBarriers_ndSettle ..)) _
    (foldS_keeps (P := OnlyBarriers s) (fun _ _ h => h.trans (onlyBarriers_nbSettle ..)) _ (.refl s))

/-- A release at device scope leaves the agent no hold. -/
theorem tagAt_release_hold {s : State} {a w : Nat} (hh : (tagAt s w).hold = true) (ho : (tagAt s w).owner = a) :
    (tagAt (release s a 4) w).hold = false := by
  have hfind : (release s a 4).m.tags.find? w =
      (s.m.tags.find? w).map fun t => if t.hold && t.owner == a then widenTag 4 t else t :=
    AList.find?_map_if s.m.tags (fun t => t.hold && t.owner == a) (widenTag 4) w
  simp only [tagAt, AList.get, hfind] at hh ho ⊢
  cases ht : s.m.tags.find? w with
  | none => rfl
  | some t =>
    simp only [ht, Option.getD_some] at hh ho
    simp [hh, ho, widenTag]

/-- A block with a live group is not over. -/
theorem retireBlock_of_live {s : State} {b : BlockId} (h : liveGroups s b ≠ []) : retireBlock s b = s := by
  have hnot : blockReady s b = false := by
    unfold blockReady
    split
    · rfl
    · simp [h]
  simp [retireBlock, hnot]

theorem mem_liveGroups_updGroup {s : State} {g h : Nat} {b : BlockId} (f : Group → Group) (hne : h ≠ g) (hl : h ∈ liveGroups s b) :
    h ∈ liveGroups (s.updGroup g f) b := by
  simp only [liveGroups, List.mem_map, List.mem_filter] at hl ⊢
  obtain ⟨p, ⟨hmem, hlive⟩, rfl⟩ := hl
  refine ⟨p, ⟨?_, hlive⟩, rfl⟩
  exact List.mem_map.mpr ⟨p, hmem, if_neg hne⟩

/-- The state after a group of a block that lives on has retired: its holds are released, and the barriers see it gone. -/
def afterRetire (s : State) (g : Nat) (b : BlockId) : State :=
  barrierEvent ((release s g 4).updGroup g fun x => { x with status := .retired }) b

theorem retireGroup_of_live {s : State} {g : Nat} {gr : Group} (hg : s.group? g = some gr) (hx : gr.status = .exited) (hq : groupQuiet s g = true)
    (hctx : ctxRuns s (lcluOf s gr.block.gang) = true) (hlive : ∃ h ∈ liveGroups s gr.block, h ≠ g) :
    retireGroup s g = afterRetire s g gr.block := by
  obtain ⟨h, hl, hne⟩ := hlive
  have hkept : h ∈ liveGroups (afterRetire s g gr.block) gr.block := by
    have hgroups := (onlyBarriers_barrierEvent ((release s g 4).updGroup g fun x => { x with status := .retired }) gr.block).groups
    unfold afterRetire liveGroups
    rw [hgroups]
    exact mem_liveGroups_updGroup (s := release s g 4) _ hne hl
  rw [retireGroup, hg]
  dsimp only
  rw [if_neg (by simp [hx, hq, hctx])]
  exact retireBlock_of_live (List.ne_nil_of_mem hkept)

theorem afterRetire_kept {s : State} {g : Nat} {gr : Group} (hg : s.group? g = some gr) (b : BlockId) :
    (afterRetire s g b).group? g = some { gr with status := .retired } ∧ (afterRetire s g b).mem = s.mem
      ∧ ∀ w, (tagAt s w).hold = true → (tagAt s w).owner = g → (tagAt (afterRetire s g b) w).hold = false := by
  have h := onlyBarriers_barrierEvent ((release s g 4).updGroup g fun x => { x with status := .retired }) b
  have hrel : (release s g 4).group? g = some gr := hg
  refine ⟨?_, h.mem, fun w hh ho => ?_⟩
  · rw [State.group?, afterRetire, h.groups]
    exact (group?_updGroup ..).trans (by simp [hrel])
  · rw [tagAt, afterRetire, h.m]
    exact tagAt_release_hold hh ho

/-- A gang with a block that has not retired is not over. -/
theorem retireGang_of_open {s : State} {b : BlockId} {y : Block} (hb : s.block? b = some y) (hy : y.retired = false) :
    retireGang s b.gang = s := by
  have hmem : b ∈ blocksOfGang s b.gang := by
    simp only [blocksOfGang, List.mem_map, List.mem_filter]
    exact ⟨(b, y), ⟨AList.mem_of_find? hb, by simp⟩, rfl⟩
  have hnot : gangReady s b.gang = false := by
    unfold gangReady
    split
    · rfl
    · refine Bool.and_eq_false_iff.mpr (.inl (Bool.and_eq_false_iff.mpr (.inr (List.all_eq_false.mpr ⟨b, hmem, ?_⟩))))
      simp [hb, hy]
  simp [retireGang, hnot]

/-- An array's leaving is a matter of its matrix context. -/
theorem leaveArray_kept (s : State) (b : BlockId) (lost : Bool) : (leaveArray s b lost).blocks = s.blocks ∧ (leaveArray s b lost).mem = s.mem := by
  unfold leaveArray
  split
  · dsimp only
    split <;> exact ⟨rfl, rfl⟩
  · exact ⟨rfl, rfl⟩

/-- A block retires, and its tiles go; its gang, of which another block is still there, does not. -/
theorem retireBlock_of_open {s : State} {b b' : BlockId} {y : Block} (hr : blockReady s b = true) (hgang : b'.gang = b.gang) (hne : b' ≠ b)
    (hb : s.block? b' = some y) (hy : y.retired = false) :
    retireBlock s b = leaveArray (s.updBlock b fun x => { x with retired := true, tiles := [] }) b true := by
  have hb' : (leaveArray (s.updBlock b fun x => { x with retired := true, tiles := [] }) b true).block? b' = some y := by
    rw [State.block?, (leaveArray_kept ..).1]
    exact (block?_updBlock ..).trans (by rw [if_neg hne, hb])
  simp only [retireBlock, hr, Bool.not_true, Bool.false_eq_true, if_false, ← hgang]
  exact retireGang_of_open hb' hy

end Sys2Proof.Machine

namespace Sys2Proof.Proofs
open Sys2Proof Sys2Proof.Machine

/-- Settles O42: each clause is the lemma about its event. What a fetch leaves in memory comes from `onlyEngine_fetchClause`; that a forced
fragment goes first, from `selectFrag_forced`; that the view begins with the fragment's mask and the group's registers, from
`beginClause_starts`; what a retirement leaves, from `afterRetire_kept` and `leaveArray_kept`. -/
theorem vectorEvents : Obligations.VectorEvents := by
  unfold Obligations.VectorEvents
  intro s g e gr hg he hk
  refine ⟨?_, ?_, ?_, ?_, ?_, ?_, ?_, ?_, ?_, ?_⟩
  · intro c s' hv hst hp hrun hl hh hr hcall hf hw
    have honly : Safety.OnlyEngine s s' := by
      have h := onlyEngine_fetchClause s false gr.cu (pasidOf s gr.block.gang.slot) 0 (gr.ent e).pc
      rwa [hf] at h
    have hfetch := clauseFetch_of_fetching hk hg hv hst hp hrun hl hh hr
    rw [fetchAt_of_ok hcall hf, clauseIn_of_checked _ hw] at hfetch
    exact ⟨_, hfetch, honly.mem, group?_putEnt ((honly.group? g).trans hg) e _⟩
  · intro p c hb hclk hsel hc hf
    refine ⟨selectFrag_forced hsel hg, ?_⟩
    obtain ⟨ix, gr0, hgr0, hstart⟩ := group?_startClause hg e c
    have hsel' := fragmentSelect_of_selected hb hclk hsel hg hc hf
    rcases hgr0 with rfl | rfl
    · obtain ⟨x, hx⟩ := beginClause_starts c ix he
      exact ⟨_, _, x, hsel', rfl, mem_startClause s g e c, hstart, hx⟩
    · obtain ⟨x, hx⟩ := beginClause_starts (gr := gr.unstay) c ix (by simpa [Group.unstay] using he)
      rw [ent_unstay] at hx
      exact ⟨_, _, x, hsel', rfl, mem_startClause s g e c, hstart, hx⟩
  · intro hv hst hf hrun hrec
    exact ⟨_, ageingForce_of_ready hg hv hst hf hrun hrec, group?_putEnt hg e _⟩
  · intro c hc hready hmay hrun
    exact clauseCommit_of_ready hg hk hc hready hmay hrun
  · intro l c hl hc hs hw
    exact clauseCommit_core hl hc hs hw
  · intro t k hrun hfind p hp hd
    exact ⟨_, tokenClear_of_ready hg hrun hfind hp hd, rfl, fun f => writes_ldB32⟩
  · intro r q s1 q1 info hq hw hi ho hp
    exact lateFaultReport_of_refused hq hw hi ho hp
  · intro cap hmay hv hst hctx hp
    refine ⟨fun h => ?_, fun h => ?_, fun h => ?_⟩
    · have hhalt := debugHalt_of_may hg hmay hv hst hctx hp (by simp [h]) (by simp [h])
      rw [if_neg (by simp [h])] at hhalt
      refine ⟨_, _, hhalt, group?_putEnt hg e _, ?_, ?_, rfl, rfl⟩ <;> rw [ent_updEnt_self _ he]
    · have hhalt := debugHalt_of_may hg hmay hv hst hctx hp (by simp [h]) (by simp [h])
      rw [if_pos (.inl h)] at hhalt
      refine ⟨_, _, hhalt, group?_putEnt hg e _, ?_, ?_, rfl⟩ <;> rw [ent_updEnt_self _ he]
      exact h
    · obtain ⟨hgroups, hmem⟩ := releaseFault_kept (resumeFrag s g e) g e
      have hg' : (releaseFault (resumeFrag s g e) g e).group? g = _ := (congrArg (·.find? g) hgroups).trans (group?_putEnt hg e _)
      refine ⟨_, _, debugResume_of_halted hg hmay hv hst hctx h, hg', ?_, ?_, rfl, hmem⟩ <;> rw [ent_updEnt_self _ he]
  · intro hx hq hctx hlive
    obtain ⟨hgroup, hmem, hholds⟩ := afterRetire_kept hg gr.block
    refine ⟨_, _, ?_, hgroup, rfl, hmem, hholds⟩
    rw [exec_groupRetire, execGroupRetire]
    simp [hg, hx, hq, hctx, when, retireGroup_of_live hg hx hq hctx hlive]
  · intro b b' y hr hgang hne hb hy
    obtain ⟨hblocks, hmem⟩ := leaveArray_kept (s.updBlock b fun x => { x with retired := true, tiles := [] }) b true
    obtain ⟨x, hx⟩ : ∃ x, s.block? b = some x := by
      cases h : s.block? b with
      | none => simp [blockReady, h] at hr
      | some x => exact ⟨x, rfl⟩
    refine ⟨_, { x with retired := true, tiles := [] }, ?_, ?_, rfl, rfl, hmem⟩
    · rw [exec_blockRetire, execBlockRetire, when, if_pos hr, retireBlock_of_open hr hgang hne hb hy]
    · rw [State.block?, hblocks]
      exact (block?_updBlock ..).trans (by simp [hx])

end Sys2Proof.Proofs

/-! Operating points, resets and firmware: what each operation of the platform leaves. -/

namespace Sys2Proof.Machine
open Sys2Proof

/-! ### Operating points (R420 to R422) -/

theorem operatingPointChange_of_allowed {s : State} {p : Nat} (h3 : p ≤ 3) (htop : s.plat.ptop ≤ p) (hnow : p ≠ s.plat.pnow)
    (hidle : s.plat.changing = none) (hlive : s.plat.failed = false) :
    exec (.operatingPointChange p) s = .next { s with plat := { s.plat with changing := some p } } := by
  rw [exec_operatingPointChange, execOperatingPointChange, when, if_pos (by simp [h3, htop, hnow, hidle, hlive])]

theorem changeOfPointComplete_of_changing {s : State} {p : Nat} (h : s.plat.changing = some p) :
    exec .changeOfPointComplete s = .next { s with plat := { s.plat with pnow := p, changing := none } } := by
  rw [exec_changeOfPointComplete, execChangeOfPointComplete, h]

/-- The cap lowers the point until P3, where it holds back new gangs. -/
theorem powerLimit_averageCap (s : State) : exec (.powerLimit .averageCap) s =
    .next (if s.plat.pnow = 3 then { s with plat := { s.plat with capHold := true } } else lowerPoint s) := rfl

/-! ### Reset and power (R429, R430) -/

/-- Nothing that ran is left, every engine is as at reset, and host memory is that of `s`. -/
def CleanAfter (s t : State) : Prop :=
  t.groups = [] ∧ t.blocks = [] ∧ t.gangs = [] ∧ t.tasks = [] ∧ t.insts = [] ∧ t.mx = [] ∧ t.cur = none ∧ t.disp = State.reset.disp
  ∧ t.m = State.reset.m ∧ t.fab = State.reset.fab ∧ t.damask = State.reset.damask ∧ t.frz = State.reset.frz ∧ t.dbg = State.reset.dbg
  ∧ t.ck.marks = [] ∧ t.ck.go = false ∧ t.hostMem = s.hostMem ∧ t.plat.failed = false ∧ t.plat.time = 0 ∧ t.plat.staged = none

/-- Bring-up leaves a clean device, whatever image and fuses it starts with. -/
theorem cleanAfter_afterReset (s : State) {p : Plat} (hfailed : p.failed = false) (htime : p.time = 0) (hstaged : p.staged = none) :
    CleanAfter s (afterReset s p) :=
  ⟨rfl, rfl, rfl, rfl, rfl, rfl, rfl, rfl, rfl, rfl, rfl, rfl, rfl, rfl, rfl, rfl, hfailed, htime, hstaged⟩

/-- The platform after a reset with no update staged: the image that ran runs on. -/
def platKept (p : Plat) : Plat :=
  { svn := p.svn, version := p.version, minSvn := max p.minSvn p.svn, bodyLen := p.bodyLen, imgDigest := p.imgDigest,
    measured := p.measured, recovery := p.recovery }

/-- The platform in recovery: no image runs, and the fuses stay. -/
def platRecovery (p : Plat) : Plat := { svn := 0, version := 0, minSvn := p.minSvn, measured := p.measured, recovery := true }

theorem reset_of_unstaged {s : State} (h : s.plat.staged = none) : exec .reset s = .next (afterReset s (platKept s.plat)) := by
  rw [exec_reset, execReset, h]
  rfl

theorem reset_of_staged {s : State} {i : PoxisImage} (h : s.plat.staged = some i) :
    exec .reset s = .next (afterReset s (platWith s.plat.minSvn s.plat.measured i)) := by
  rw [exec_reset, execReset, h]

section PowerOn
variable {s : State} {img : PoxisImage} {fail : Option Nat} (hc : imageConsistent img = true)
include hc

theorem powerOn_of_accepted (ha : imageAccepted img s.plat.minSvn = true) :
    exec (.powerOn none img) s = .next (afterReset s (platWith s.plat.minSvn s.plat.measured img)) := by
  rw [exec_powerOn, execPowerOn]
  simp [hc, ha]

/-- A step of start-up that fails, 1 to 7, or a refused image. -/
theorem powerOn_of_failed (hf : ∀ n, fail = some n → 1 ≤ n ∧ n ≤ 7) (h : fail ≠ none ∨ imageAccepted img s.plat.minSvn = false) :
    exec (.powerOn fail img) s = .next (afterReset s (platRecovery s.plat)) := by
  have hstep : (fail.any fun n => decide (n = 0 ∨ n > 7)) = false := by
    cases fail with
    | none => rfl
    | some n => simpa using (by have := hf n rfl; omega : ¬(n = 0 ∨ n > 7))
  have hbad : (fail.isSome || !imageAccepted img s.plat.minSvn) = true := by
    rcases h with h | h
    · rw [Option.isSome_iff_ne_none.mpr h, Bool.true_or]
    · rw [h, Bool.not_false, Bool.or_true]
  rw [exec_powerOn, execPowerOn, if_neg (by rw [hc, hstep]; decide), if_pos hbad]
  rfl

theorem firmwareUpdate_of_consistent : exec (.firmwareUpdate img) s =
    .next (if imageAccepted img s.plat.minSvn then { s with plat := { s.plat with staged := some img } } else s) := by
  rw [exec_firmwareUpdate, execFirmwareUpdate, if_neg (by simp [hc])]

end PowerOn

/-- The five measurements of R433. -/
theorem spdmMeasurement_of_index {idx : Nat} (h1 : 1 ≤ idx) (h5 : idx ≤ 5) (nonce : List Byte) (s : State) :
    exec (.spdmMeasurementRequest idx nonce) s =
      .next { s with plat := { s.plat with measured := (idx, nonce, measurement s idx) :: s.plat.measured } } := by
  rw [exec_spdmMeasurementRequest, execSpdmMeasurementRequest, when, if_pos (by simp [h1, h5])]

end Sys2Proof.Machine

namespace Sys2Proof.Proofs
open Sys2Proof Sys2Proof.Machine

/-- Settles O56: every reset and every power-on is `afterReset` with one of three platforms (the kept image, an accepted one, recovery), and
`afterReset` is clean for each (`cleanAfter_afterReset`). -/
theorem platformEvents : Obligations.PlatformEvents := by
  unfold Obligations.PlatformEvents
  refine ⟨fun s p => operatingPointChange_of_allowed, fun s p => changeOfPointComplete_of_changing, fun s => ?_, fun s fail img => ?_,
    fun s idx nonce h1 h5 => ?_⟩
  · refine ⟨rfl, rfl, fun h => ?_, fun h => ?_, rfl⟩
    · rw [powerLimit_averageCap, if_neg h]; rfl
    · rw [powerLimit_averageCap, if_pos h]
  · intro clean
    refine ⟨?_, fun hc hfail => ?_, fun hc ha => ?_, fun hc ha => ?_⟩
    · cases hst : s.plat.staged with
      | none => exact ⟨_, reset_of_unstaged hst, cleanAfter_afterReset s rfl rfl rfl, fun _ => ⟨rfl, rfl, rfl, rfl⟩, nofun⟩
      | some i =>
        refine ⟨_, reset_of_staged hst, cleanAfter_afterReset s rfl rfl rfl, nofun, ?_⟩
        rintro _ ⟨⟩
        exact ⟨rfl, rfl, rfl, rfl⟩
    · have hsteps : ∀ n, fail = some n → 1 ≤ n ∧ n ≤ 7 := by
        rintro n rfl
        simpa using hfail
      by_cases hbad : fail ≠ none ∨ imageAccepted img s.plat.minSvn = false
      · refine ⟨_, powerOn_of_failed hc hsteps hbad, cleanAfter_afterReset s rfl rfl rfl, fun hf ha => ?_, fun _ => ⟨rfl, rfl⟩⟩
        simp [hf, ha] at hbad
      · obtain ⟨rfl, ha⟩ : fail = none ∧ imageAccepted img s.plat.minSvn = true := by simpa using hbad
        exact ⟨_, powerOn_of_accepted hc ha, cleanAfter_afterReset s rfl rfl rfl, fun _ _ => ⟨rfl, rfl, rfl⟩, fun h => absurd h hbad⟩
    · rw [firmwareUpdate_of_consistent hc, if_pos ha]
    · rw [firmwareUpdate_of_consistent hc, ha, if_neg Bool.false_ne_true]
  · refine ⟨_, _, spdmMeasurement_of_index h1 h5 nonce s, rfl, rfl, rfl, ?_⟩
    rintro rfl
    rfl

end Sys2Proof.Proofs

/-! Encoding and decoding: every format packs and unpacks to itself, and the opcode maps of R57 and R58 lead each word to the format of its
instruction. -/

namespace Sys2Proof
open WF
open BitVec (extractLsb'_append_eq_of_le extractLsb'_append_eq_left extractLsb'_append_eq_right extractLsb'_eq_self getLsbD_append
  extractLsb'_append_extractLsb'_eq_extractLsb')

/-! ### The codes of fields -/

theorem decSrc_encSrc (x : Src) : decSrc (encSrc x) = some x := by
  cases x <;> simp only [decSrc, encSrc, extractLsb'_append_eq_of_le, extractLsb'_append_eq_right, extractLsb'_eq_self,
    Nat.reduceLeDiff, Nat.reduceSub] <;> rfl

theorem decTok_encTok (t : Option (BitVec 3)) : decTok (encTok t) = some t := by
  cases t with
  | none => rfl
  | some n => simp only [decTok, encTok, extractLsb'_append_eq_left, extractLsb'_append_eq_right]; rfl

theorem decTy_encTy (t : Ty) : decTy (encTy t) = some t := by cases t <;> rfl

theorem decTyOpt_encTyOpt (t : Option Ty) : decTyOpt (encTyOpt t) = some t := by
  cases t with
  | none => rfl
  | some t => cases t <;> rfl

theorem encSrc_of_decSrc {b : BitVec 9} {x : Src} (h : decSrc b = some x) : encSrc x = b := by
  revert b x; decide

theorem encTok_of_decTok {b : BitVec 4} {t : Option (BitVec 3)} (h : decTok b = some t) : encTok t = b := by
  revert b t; decide

theorem encTy_of_decTy {b : BitVec 5} {t : Ty} (h : decTy b = some t) : encTy t = b := by
  revert b t; decide

theorem encTyOpt_of_decTyOpt {b : BitVec 5} {t : Option Ty} (h : decTyOpt b = some t) : encTyOpt t = b := by
  revert b t; decide

theorem getLsbD_bit1 (b : Bool) : (bit1 b).getLsbD 0 = b := by cases b <;> rfl

theorem bit1_wbit (w : Word) (i : Nat) : bit1 (wbit w i) = w.extractLsb' i 1 := by
  ext k hk
  obtain rfl : k = 0 := by omega
  simp [bit1, wbit]

/-! ### A packed word unpacks to its fields -/

section Unpack
variable (op : BitVec 8)

theorem unpackF3_packF3 (f : F3) : unpackF3 (packF3 op f) = .ok f := by
  simp only [unpackF3, packF3, wbit, extractLsb'_append_eq_of_le, extractLsb'_append_eq_right, extractLsb'_eq_self, getLsbD_append,
    Nat.reduceLeDiff, Nat.reduceLT, Nat.reduceSub, decSrc_encSrc, decTok_encTok, decTy_encTy, getLsbD_bit1, if_false, if_true]

theorem unpackFI_packFI (f : FI) : unpackFI (packFI op f) = .ok f := by
  simp only [unpackFI, packFI, wbit, extractLsb'_append_eq_of_le, extractLsb'_append_eq_right, extractLsb'_eq_self, getLsbD_append,
    Nat.reduceLeDiff, Nat.reduceLT, Nat.reduceSub, decSrc_encSrc, getLsbD_bit1, if_false, if_true]

theorem unpackFM_packFM (f : FM) : unpackFM (packFM op f) = .ok f := by
  simp only [unpackFM, packFM, wbit, extractLsb'_append_eq_of_le, extractLsb'_append_eq_right, extractLsb'_eq_self, getLsbD_append,
    Nat.reduceLeDiff, Nat.reduceLT, Nat.reduceSub, decSrc_encSrc, decTok_encTok, getLsbD_bit1, if_false, if_true]

theorem unpackFA_packFA (f : FA) : unpackFA (packFA op f) = .ok f := by
  simp only [unpackFA, packFA, wbit, extractLsb'_append_eq_of_le, extractLsb'_append_eq_right, extractLsb'_eq_self, getLsbD_append,
    Nat.reduceLeDiff, Nat.reduceLT, Nat.reduceSub, decSrc_encSrc, decTok_encTok, decTy_encTy, getLsbD_bit1, if_false, if_true]
  rfl

theorem unpackFB_packFB (f : FB) : unpackFB (packFB op f) = .ok f := by
  simp only [unpackFB, packFB, extractLsb'_append_eq_of_le, extractLsb'_append_eq_right, extractLsb'_eq_self, Nat.reduceLeDiff,
    Nat.reduceSub]
  rfl

theorem unpackFS_packFS (f : FS) : unpackFS (packFS op f) = .ok f := by
  simp only [unpackFS, packFS, extractLsb'_append_eq_of_le, extractLsb'_append_eq_right, extractLsb'_eq_self, Nat.reduceLeDiff,
    Nat.reduceSub, decSrc_encSrc]
  rfl

theorem unpackCA_packCA (f : CA) : unpackCA (packCA op f) = .ok f := by
  simp only [unpackCA, packCA, wbit, extractLsb'_append_eq_of_le, extractLsb'_append_eq_right, extractLsb'_eq_self, getLsbD_append,
    Nat.reduceLeDiff, Nat.reduceLT, Nat.reduceSub, getLsbD_bit1, if_false, if_true]
  rfl

theorem unpackCB_packCB (f : CB) : unpackCB (packCB op f) = .ok f := by
  simp only [unpackCB, packCB, extractLsb'_append_eq_of_le, extractLsb'_append_eq_right, extractLsb'_eq_self, Nat.reduceLeDiff,
    Nat.reduceSub]
  rfl

theorem unpackCM_packCM (f : CM) : unpackCM (packCM op f) = .ok f := by
  simp only [unpackCM, packCM, wbit, extractLsb'_append_eq_of_le, extractLsb'_append_eq_right, extractLsb'_eq_self, getLsbD_append,
    Nat.reduceLeDiff, Nat.reduceLT, Nat.reduceSub, decTyOpt_encTyOpt, getLsbD_bit1, if_false, if_true]
  rfl

end Unpack

/-! ### A word that unpacks is packed again from its fields

Each field is packed as the bits it was read from, and a reserved field as the bits that were checked to be zero; adjacent ranges of one word
join. -/

section Pack
variable {w : Word}

theorem packF3_unpackF3 {f : F3} (h : unpackF3 w = .ok f) : packF3 (w.extractLsb' 0 8) f = w := by
  unfold unpackF3 at h
  split at h <;> cases h
  next htok hty hc hb ha =>
  simp (disch := decide) only [packF3, encTok_of_decTok htok, encTy_of_decTy hty, encSrc_of_decSrc hc, encSrc_of_decSrc hb,
    encSrc_of_decSrc ha, bit1_wbit, extractLsb'_append_extractLsb'_eq_extractLsb']
  exact extractLsb'_eq_self

theorem packFI_unpackFI {f : FI} (h : unpackFI w = .ok f) : packFI (w.extractLsb' 0 8) f = w := by
  unfold unpackFI at h
  split at h <;> cases h
  next ha =>
  simp (disch := decide) only [packFI, encSrc_of_decSrc ha, bit1_wbit, extractLsb'_append_extractLsb'_eq_extractLsb']
  exact extractLsb'_eq_self

theorem packFM_unpackFM {f : FM} (h : unpackFM w = .ok f) : packFM (w.extractLsb' 0 8) f = w := by
  unfold unpackFM at h
  split at h <;> cases h
  next htok hb ha =>
  simp (disch := decide) only [packFM, encTok_of_decTok htok, encSrc_of_decSrc hb, encSrc_of_decSrc ha, bit1_wbit,
    extractLsb'_append_extractLsb'_eq_extractLsb']
  exact extractLsb'_eq_self

theorem packFA_unpackFA {f : FA} (h : unpackFA w = .ok f) : packFA (w.extractLsb' 0 8) f = w := by
  unfold unpackFA at h
  split at h <;> [cases h; skip]
  next hres =>
  have h48 : w.extractLsb' 48 3 = 0#3 := not_ne_iff.1 hres
  split at h <;> cases h
  next htok hty hc hb ha =>
  simp (disch := decide) only [packFA, ← h48, encTok_of_decTok htok, encTy_of_decTy hty, encSrc_of_decSrc hc, encSrc_of_decSrc hb,
    encSrc_of_decSrc ha, bit1_wbit, extractLsb'_append_extractLsb'_eq_extractLsb']
  exact extractLsb'_eq_self

theorem packFB_unpackFB {f : FB} (h : unpackFB w = .ok f) : packFB (w.extractLsb' 0 8) f = w := by
  unfold unpackFB at h
  split at h <;> cases h
  next hres =>
  obtain ⟨h48, h12⟩ : w.extractLsb' 48 16 = 0#16 ∧ w.extractLsb' 12 4 = 0#4 := by simpa using hres
  simp (disch := decide) only [packFB, ← h48, ← h12, extractLsb'_append_extractLsb'_eq_extractLsb']
  exact extractLsb'_eq_self

theorem packFS_unpackFS {f : FS} (h : unpackFS w = .ok f) : packFS (w.extractLsb' 0 8) f = w := by
  unfold unpackFS at h
  split at h <;> [cases h; skip]
  next hres =>
  have h41 : w.extractLsb' 41 19 = 0#19 := not_ne_iff.1 hres
  split at h <;> cases h
  next ho =>
  simp (disch := decide) only [packFS, ← h41, encSrc_of_decSrc ho, extractLsb'_append_extractLsb'_eq_extractLsb']
  exact extractLsb'_eq_self

theorem packCA_unpackCA {f : CA} (h : unpackCA w = .ok f) : packCA (w.extractLsb' 0 8) f = w := by
  unfold unpackCA at h
  split at h <;> cases h
  next hres =>
  have h23 : w.extractLsb' 23 4 = 0#4 := not_ne_iff.1 hres
  simp (disch := decide) only [packCA, ← h23, bit1_wbit, extractLsb'_append_extractLsb'_eq_extractLsb']
  exact extractLsb'_eq_self

theorem packCB_unpackCB {f : CB} (h : unpackCB w = .ok f) : packCB (w.extractLsb' 0 8) f = w := by
  unfold unpackCB at h
  split at h <;> cases h
  next hres =>
  obtain ⟨h53, h12⟩ : w.extractLsb' 53 11 = 0#11 ∧ w.extractLsb' 12 4 = 0#4 := by simpa using hres
  simp (disch := decide) only [packCB, ← h53, ← h12, extractLsb'_append_extractLsb'_eq_extractLsb']
  exact extractLsb'_eq_self

theorem packCM_unpackCM {f : CM} (h : unpackCM w = .ok f) : packCM (w.extractLsb' 0 8) f = w := by
  unfold unpackCM at h
  split at h <;> [cases h; skip]
  next hres =>
  obtain ⟨h53, h44, h18, h15, h11⟩ : w.extractLsb' 53 6 = 0#6 ∧ w.extractLsb' 44 4 = 0#4 ∧ w.extractLsb' 18 3 = 0#3
      ∧ w.extractLsb' 15 1 = 0#1 ∧ w.extractLsb' 11 1 = 0#1 := by simpa using hres
  split at h <;> cases h
  next hty =>
  rw [packCM]
  nth_rw 1 [← h15]
  simp (disch := decide) only [encTyOpt_of_decTyOpt hty, ← h53, ← h44, ← h18, ← h11, bit1_wbit,
    extractLsb'_append_extractLsb'_eq_extractLsb']
  exact extractLsb'_eq_self

end Pack

/-! ### From a word to what it decodes to (R57, R58) -/

theorem build_eq_ok {α : Type} {r : Except Reject α} {mk : α → Instr} {i : Instr} :
    build r mk = .ok i ↔ ∃ f, r = .ok f ∧ mk f = i ∧ i.wellFormed = true := by
  cases r with
  | error e => simp [build]
  | ok f =>
    simp only [build, checked, Except.ok.injEq, exists_eq_left']
    split
    next h => simp only [Except.ok.injEq]; exact ⟨fun hi => ⟨hi, hi ▸ h⟩, And.left⟩
    next h => simp only [reduceCtorEq, false_iff]; rintro ⟨rfl, hi⟩; exact h hi

/-- `mk` makes instructions of fields of one format, and all of them have the opcode of the word. -/
def MakesOpcodeOf (w : Word) {α : Type} (fmt : α → Fields) (mk : α → Instr) : Prop :=
  ∀ f, (mk f).fields = fmt f ∧ (mk f).opcode = w.extractLsb' 0 8

/-- What a decoder, of vector or of core clauses, can answer to a word: an instruction in one of its formats, or that the opcode is unassigned. -/
inductive DecoderArm (w : Word) : Bool → Except Reject Instr → Prop
  | f3 {mk : F3 → Instr} (h : MakesOpcodeOf w .f3 mk) : DecoderArm w false (ofF3 w mk)
  | fi {mk : FI → Instr} (h : MakesOpcodeOf w .fi mk) : DecoderArm w false (ofFI w mk)
  | fm {mk : FM → Instr} (h : MakesOpcodeOf w .fm mk) : DecoderArm w false (ofFM w mk)
  | fa {mk : FA → Instr} (h : MakesOpcodeOf w .fa mk) : DecoderArm w false (ofFA w mk)
  | fb {mk : FB → Instr} (h : MakesOpcodeOf w .fb mk) : DecoderArm w false (ofFB w mk)
  | fs {mk : FS → Instr} (h : MakesOpcodeOf w .fs mk) : DecoderArm w false (ofFS w mk)
  | ca {mk : CA → Instr} (h : MakesOpcodeOf w .ca mk) : DecoderArm w true (ofCA w mk)
  | cb {mk : CB → Instr} (h : MakesOpcodeOf w .cb mk) : DecoderArm w true (ofCB w mk)
  | cm {mk : CM → Instr} (h : MakesOpcodeOf w .cm mk) : DecoderArm w true (ofCM w mk)
  | unassigned (core : Bool) : DecoderArm w core (.error .opcode)

theorem eq_low8_of_toNat {w : Word} {op : BitVec 8} (h : (w.extractLsb' 0 8).toNat = op.toNat) : op = w.extractLsb' 0 8 :=
  (BitVec.eq_of_toNat_eq h).symm

/-- The arms whose opcode serves several instructions choose by a field. -/
theorem decoderArm_decodeVec (w : Word) : DecoderArm w false (decodeVec w) := by
  fun_cases decodeVec w <;> constructor <;> intro f <;> beta_reduce <;> (repeat' split) <;> exact ⟨rfl, eq_low8_of_toNat ‹_›⟩

theorem decoderArm_decodeCore (w : Word) : DecoderArm w true (decodeCore w) := by
  fun_cases decodeCore w <;> constructor <;> intro f <;> beta_reduce <;> (repeat' split) <;> exact ⟨rfl, eq_low8_of_toNat ‹_›⟩

theorem DecoderArm.encode {w : Word} {core : Bool} {r : Except Reject Instr} {i : Instr} (h : DecoderArm w core r) (hi : r = .ok i) :
    encode i = some w ∧ i.wellFormed = true ∧ i.isCore = core := by
  cases h
  case unassigned => cases hi
  all_goals
    rename_i mk h
    obtain ⟨f, hf, rfl, hwf⟩ := build_eq_ok.1 hi
    obtain ⟨hfields, hop⟩ := h f
    simp only [Sys2Proof.encode, Instr.isCore, hfields, hop, hwf, Option.some.injEq, and_self, and_true]
  · exact packF3_unpackF3 hf
  · exact packFI_unpackFI hf
  · exact packFM_unpackFM hf
  · exact packFA_unpackFA hf
  · exact packFB_unpackFB hf
  · exact packFS_unpackFS hf
  · exact packCA_unpackCA hf
  · exact packCB_unpackCB hf
  · exact packCM_unpackCM hf

/-! ### From an instruction to what its word decodes to -/

/-- `r` is the reading of the word in the format of the instruction, by a map from fields that gives the instruction back. -/
def Instr.ReadBy (i : Instr) (w : Word) (r : Except Reject Instr) : Prop :=
  match i.fields with
  | .f3 f => ∃ mk, mk f = i ∧ r = ofF3 w mk
  | .fi f => ∃ mk, mk f = i ∧ r = ofFI w mk
  | .fm f => ∃ mk, mk f = i ∧ r = ofFM w mk
  | .fa f => ∃ mk, mk f = i ∧ r = ofFA w mk
  | .fb f => ∃ mk, mk f = i ∧ r = ofFB w mk
  | .fs f => ∃ mk, mk f = i ∧ r = ofFS w mk
  | .ca f => ∃ mk, mk f = i ∧ r = ofCA w mk
  | .cb f => ∃ mk, mk f = i ∧ r = ofCB w mk
  | .cm f => ∃ mk, mk f = i ∧ r = ofCM w mk
  | .none => True

theorem Instr.ReadBy.eq_ok {i : Instr} {w : Word} {r : Except Reject Instr} (h : i.ReadBy w r) (hwf : i.wellFormed = true)
    (hw : encode i = some w) : r = .ok i := by
  unfold Instr.ReadBy at h
  unfold encode at hw
  cases hf : i.fields <;> simp only [hf, Option.some.injEq] at h hw
  case none => cases hw
  all_goals
    obtain ⟨mk, rfl, rfl⟩ := h
    subst hw
    refine build_eq_ok.2 ⟨_, ?_, rfl, hwf⟩
  · exact unpackF3_packF3 ..
  · exact unpackFI_packFI ..
  · exact unpackFM_packFM ..
  · exact unpackFA_packFA ..
  · exact unpackFB_packFB ..
  · exact unpackFS_packFS ..
  · exact unpackCA_packCA ..
  · exact unpackCB_packCB ..
  · exact unpackCM_packCM ..

theorem x_of_f3Ok {sh : Shape} {f : F3} (h : f3Ok sh f = true) : f.x.toNat ∈ sh.xs := by
  simp only [f3Ok, Bool.and_eq_true, List.contains_iff_mem] at h
  tauto

theorem sub_of_fsOk {sh : Shape} {f : FS} (h : fsOk sh f = true) : f.sub.toNat ∈ sh.xs := by
  simp only [fsOk, Bool.and_eq_true, List.contains_iff_mem] at h
  tauto

theorem ok_of_fsOk {sh : Shape} {f : FS} (h : fsOk sh f = true) : sh.ok = true := by
  simp only [fsOk, Bool.and_eq_true] at h
  tauto

theorem coreOk_of_wellFormed {i : Instr} (hc : i.isCore = true) (h : i.wellFormed = true) : coreOk i = true := by
  unfold Instr.isCore at hc
  unfold Instr.wellFormed at h
  cases hf : i.fields <;> simp_all

theorem eq_of_toNat_mem_singleton {w n : Nat} {x : BitVec w} (h : x.toNat ∈ [n]) : x = BitVec.ofNat w n := by
  rw [← List.mem_singleton.1 h, BitVec.ofNat_toNat, BitVec.setWidth_eq]

/-- Where several instructions share an opcode, the field that tells them apart is one that a well-formed instruction fixes: X of format F3, the
sub-opcode of FS, the top bit of a TRAP code. An operation of an engine has no format, and nothing is said of it. -/
theorem readBy_decodeVec {i : Instr} {w : Word} (hwf : i.wellFormed = true) (hvec : i.isCore = false)
    (hop : (w.extractLsb' 0 8).toNat = i.opcode.toNat) : i.ReadBy w (decodeVec w) := by
  unfold decodeVec
  generalize (w.extractLsb' 0 8).toNat = n at hop
  cases i <;> first
    | exact True.intro
    | exact Bool.noConfusion hvec
    | dsimp only [Instr.opcode, BitVec.reduceToNat] at hop; subst hop
  case tld f | tldXp8 f | tldXp16 f | mdrain f | mdrainTl f =>
    have hx := eq_of_toNat_mem_singleton (x_of_f3Ok hwf)
    exact ⟨_, by rw [hx]; rfl, rfl⟩
  case barv f | bwait f | barw f =>
    have hsub := eq_of_toNat_mem_singleton (sub_of_fsOk hwf)
    exact ⟨_, by rw [hsub]; rfl, rfl⟩
  case trap f =>
    have hmsb : (!f.imm.msb) = true := ok_of_fsOk hwf
    exact ⟨_, if_neg (by simpa using hmsb), rfl⟩
  case trapAbort f => exact ⟨_, if_pos (ok_of_fsOk hwf), rfl⟩
  all_goals exact ⟨_, rfl, rfl⟩

/-- The same of the control core, whose shared opcodes are told apart by X. -/
theorem readBy_decodeCore {i : Instr} {w : Word} (hwf : i.wellFormed = true) (hcore : i.isCore = true)
    (hop : (w.extractLsb' 0 8).toNat = i.opcode.toNat) : i.ReadBy w (decodeCore w) := by
  unfold decodeCore
  generalize (w.extractLsb' 0 8).toNat = n at hop
  cases i <;> first
    | exact Bool.noConfusion hcore
    | dsimp only [Instr.opcode, BitVec.reduceToNat] at hop; subst hop
  case cmovi | cmoviHi | mscaleA | mscaleB | mldb | mldbM | mwaitPub | mwaitA =>
    have hx := coreOk_of_wellFormed hcore hwf
    unfold coreOk at hx
    simp only [Bool.and_eq_true, beq_iff_eq] at hx
    exact ⟨_, by simp [hx], rfl⟩
  all_goals exact ⟨_, rfl, rfl⟩

/-! ### Reserved bits (R37, R54 to R56, R231) -/

section Reserved
variable {w : Word}

theorem ofFA_reserved (h : w.extractLsb' 48 3 ≠ 0) (mk : FA → Instr) : ofFA w mk = .error .reserved := by
  rw [ofFA, unpackFA, if_pos h]; rfl

theorem ofFB_reserved (h : w.extractLsb' 48 16 ≠ 0 ∨ w.extractLsb' 12 4 ≠ 0) (mk : FB → Instr) : ofFB w mk = .error .reserved := by
  rw [ofFB, unpackFB, if_pos h]; rfl

theorem ofFS_reserved (h : w.extractLsb' 41 19 ≠ 0) (mk : FS → Instr) : ofFS w mk = .error .reserved := by
  rw [ofFS, unpackFS, if_pos h]; rfl

theorem ofCA_reserved (h : w.extractLsb' 23 4 ≠ 0) (mk : CA → Instr) : ofCA w mk = .error .reserved := by
  rw [ofCA, unpackCA, if_pos h]; rfl

theorem ofCB_reserved (h : w.extractLsb' 53 11 ≠ 0 ∨ w.extractLsb' 12 4 ≠ 0) (mk : CB → Instr) : ofCB w mk = .error .reserved := by
  rw [ofCB, unpackCB, if_pos h]; rfl

theorem ofCM_reserved (h : w.extractLsb' 53 6 ≠ 0 ∨ w.extractLsb' 44 4 ≠ 0 ∨ w.extractLsb' 18 3 ≠ 0 ∨ w.extractLsb' 15 1 ≠ 0
    ∨ w.extractLsb' 11 1 ≠ 0) (mk : CM → Instr) : ofCM w mk = .error .reserved := by
  rw [ofCM, unpackCM, if_pos h]; rfl

theorem decodeVec_fa (h : (w.extractLsb' 0 8).toNat ∈ [0xB0, 0xB1, 0xB2, 0xC4, 0xC5, 0xC8, 0xC9, 0xCA, 0xCB]) :
    ∃ mk, decodeVec w = ofFA w mk := by
  unfold decodeVec
  generalize (w.extractLsb' 0 8).toNat = n at h
  fin_cases h <;> exact ⟨_, rfl⟩

theorem decodeVec_fb (h : (w.extractLsb' 0 8).toNat ∈ [0xD0, 0xD1, 0xD2, 0xD3, 0xD7, 0xD8]) : ∃ mk, decodeVec w = ofFB w mk := by
  unfold decodeVec
  generalize (w.extractLsb' 0 8).toNat = n at h
  fin_cases h <;> exact ⟨_, rfl⟩

theorem decodeVec_fs (h : (w.extractLsb' 0 8).toNat ∈
      [0xC0, 0xC1, 0xC2, 0xC3, 0xC6, 0xCC, 0xCD, 0xE3, 0xF0, 0xF1, 0xF3, 0xF4, 0xF5, 0xF6, 0xF7, 0xF8, 0xF9, 0xFA, 0xFB]) :
    ∃ mk, decodeVec w = ofFS w mk := by
  unfold decodeVec
  generalize (w.extractLsb' 0 8).toNat = n at h
  fin_cases h <;> exact ⟨_, rfl⟩

theorem decodeCore_ca (h : (w.extractLsb' 0 8).toNat ∈ [0, 1, 2, 3, 4, 5, 6, 7, 8, 9, 0xA, 0xB, 0x12, 0x13, 0x14]) :
    ∃ mk, decodeCore w = ofCA w mk := by
  unfold decodeCore
  generalize (w.extractLsb' 0 8).toNat = n at h
  fin_cases h <;> exact ⟨_, rfl⟩

theorem decodeCore_cb (h : (w.extractLsb' 0 8).toNat ∈ [0x10, 0x11]) : ∃ mk, decodeCore w = ofCB w mk := by
  unfold decodeCore
  generalize (w.extractLsb' 0 8).toNat = n at h
  fin_cases h <;> exact ⟨_, rfl⟩

theorem decodeCore_cm (h : (w.extractLsb' 0 8).toNat ∈ [0x20, 0x21, 0x22, 0x23, 0x24, 0x25, 0x26, 0x27]) :
    ∃ mk, decodeCore w = ofCM w mk := by
  unfold decodeCore
  generalize (w.extractLsb' 0 8).toNat = n at h
  fin_cases h <;> exact ⟨_, rfl⟩

theorem decodeHeader_reserved (h : w.extractLsb' 18 46 ≠ 0) : decodeHeader w = none := if_pos (.inl h)

theorem decodeEntry_reserved (h : w.extractLsb' 22 42 ≠ 0) : decodeEntry w = none := if_pos (.inr (.inl h))

end Reserved
end Sys2Proof

namespace Sys2Proof.Machine
open Sys2Proof

theorem wordsCheck_undecoded {w : Word} {e : Reject} (h : decodeVec w = .error e) (vregs k : Nat) (seen : Seen) (t : List Word) :
    wordsCheck vregs k seen (w :: t) = some (k, .illop) := by
  simp only [wordsCheck, h]

theorem coreCheck_undecoded {w : Word} {e : Reject} (h : decodeCore w = .error e) (k : Nat) (t : List Word) :
    coreCheck k (w :: t) = some (k, .illop) := by
  simp only [coreCheck, h]

/-! ### The step of a word and of an event (R39, R40, R57, R58) -/

theorem nextWord_of_group {s : State} {g : Nat} {gr : Group} {c : Ctx} {i : Instr} (hcur : s.cur = some (.grp g)) (hg : s.group? g = some gr)
    (hc : gr.ctx = some c) (hslot : c.slot < c.words.length) (hrun : groupRuns s gr = true)
    (hdec : decodeVec (c.words.getD c.slot 0) = .ok i) : nextWord s = some (.run i s) := by
  simp only [nextWord, hcur, hg, hc, hslot, hrun, and_self, if_true, hdec]

theorem nextWord_of_core {s : State} {l : Nat} {c : CoreClause} {i : Instr} (hcur : s.cur = some (.core l)) (hc : (s.mxD l).clause = some c)
    (hslot : c.slot < c.words.length) (hrun : (physClu s l).any (clockRuns s) = true)
    (hdec : decodeCore (c.words.getD c.slot 0) = .ok i) : nextWord s = some (.run i s) := by
  simp only [nextWord, hcur, hc, hslot, hrun, and_self, if_true, hdec]

theorem step_of_word {s : State} {i : Instr} (ha : s.agenda = []) (hw : nextWord s = some (.run i s)) : step s = exec i s := by
  simp only [step, nextTodo, ha, hw]

theorem step_of_issue {s : State} {r : Runner} {t : List Action} {i : Instr} (ha : s.agenda = .issue r :: t)
    (hw : nextWord { s with agenda := t, cur := some r } = some (.run i { s with agenda := t, cur := some r })) :
    step s = exec i { s with agenda := t, cur := some r } := by
  simp only [step, nextTodo, ha, hw]

theorem step_of_event {s : State} {t : List Action} {i : Instr} (ha : s.agenda = .event i :: t) (hop : Instr.isWord i = false)
    (hlive : s.plat.failed = false) (hrec : s.plat.recovery = false) : step s = exec i { s with agenda := t } := by
  simp [step, nextTodo, ha, hop, hlive, hrec]

end Sys2Proof.Machine

namespace Sys2Proof.Proofs
open Sys2Proof Sys2Proof.Machine

/-- Settles O2: the word has the opcode of its instruction (`Laws.opcode_of_encode`), so the decoder reads it in the instruction's format, and the
format's fields read back. -/
theorem encodeDecodeRoundTrip : Obligations.EncodeDecodeRoundTrip := by
  unfold Obligations.EncodeDecodeRoundTrip
  have hop : ∀ {i : Instr} {w : Word}, encode i = some w → (w.extractLsb' 0 8).toNat = i.opcode.toNat := fun hw =>
    congrArg BitVec.toNat (Laws.opcode_of_encode _ _ hw)
  exact ⟨fun i w hwf hvec hw => (readBy_decodeVec hwf hvec (hop hw)).eq_ok hwf hw,
    fun i w hwf hcore hw => (readBy_decodeCore hwf hcore (hop hw)).eq_ok hwf hw⟩

/-- Settles O3: each arm of a decoder unpacks a format, checks the instruction it makes, and packs to the same word. -/
theorem decodedWordIsEncoding : Obligations.DecodedWordIsEncoding := by
  unfold Obligations.DecodedWordIsEncoding
  exact fun i w => ⟨(decoderArm_decodeVec w).encode, (decoderArm_decodeCore w).encode⟩

/-- Settles O4: the opcode leads to its format, whose reserved bits are looked at before anything else. -/
theorem reservedBitsAreIllop : Obligations.ReservedBitsAreIllop := by
  unfold Obligations.ReservedBitsAreIllop
  refine ⟨fun w hop hres => ?_, fun w hop hres => ?_, fun w hop hres => ?_, fun w hop hres => ?_, fun w hop hres => ?_, fun w hop hres => ?_,
    fun w => decodeHeader_reserved, fun w => decodeEntry_reserved⟩
  · obtain ⟨mk, h⟩ := decodeVec_fa hop
    exact wordsCheck_undecoded (h.trans (ofFA_reserved hres mk))
  · obtain ⟨mk, h⟩ := decodeVec_fb hop
    exact wordsCheck_undecoded (h.trans (ofFB_reserved hres mk))
  · obtain ⟨mk, h⟩ := decodeVec_fs hop
    exact wordsCheck_undecoded (h.trans (ofFS_reserved hres mk))
  · obtain ⟨mk, h⟩ := decodeCore_ca hop
    exact coreCheck_undecoded (h.trans (ofCA_reserved hres mk))
  · obtain ⟨mk, h⟩ := decodeCore_cb hop
    exact coreCheck_undecoded (h.trans (ofCB_reserved hres mk))
  · obtain ⟨mk, h⟩ := decodeCore_cm hop
    exact coreCheck_undecoded (h.trans (ofCM_reserved hres mk))

/-- Settles O1: closed words, which the decoder evaluates. -/
theorem decodeWrittenWords : Obligations.DecodeWrittenWords := by
  unfold Obligations.DecodeWrittenWords
  decide

/-- Settles O5: the agenda's head, or with an empty agenda the word of the agent under way (`nextWord_of_group`, `nextWord_of_core`). -/
theorem stepRunsDecoded : Obligations.StepRunsDecoded := by
  unfold Obligations.StepRunsDecoded
  refine ⟨?_, ?_, ?_, fun s t i => step_of_event⟩
  · intro s g gr c i ha hcur hg hc hslot hrun hdec
    exact step_of_word ha (nextWord_of_group hcur hg hc hslot hrun hdec)
  · intro s t g gr c i ha hg hc hslot hrun hdec
    exact step_of_issue ha (nextWord_of_group rfl hg hc hslot hrun hdec)
  · intro s l c i ha hcur hc hslot hrun hdec
    exact step_of_word ha (nextWord_of_core hcur hc hslot hrun hdec)

end Sys2Proof.Proofs

/-! ### Slots of commit-class instructions (R41 step 3) -/

namespace Sys2Proof.Machine
open Sys2Proof Sys2Proof.Safety

section Tail
variable {i : Instr} {s s0 : State} {g : Nat} {gr : Group} {c : Ctx} {p : POp}

/-- The slot of a commit-class or transfer instruction hands its record to what the instruction does. -/
theorem tailSlot_ready (h : Ready s g gr c i) (k : State → Nat → Group → Ctx → POp → (State → Ctx → Tail → State) → State) :
    tailSlot s i k = .next (k s g gr (c.noting gr i) (opRecord i gr c) fun s c t =>
      tryCommit (s.setCtx g (some { c.finish i none with tail := t })) g) := by
  simp only [tailSlot, slot_ready h, Ctx.iaddr, noting_addr, noting_slot, noting_words, seqOf, opRecord]

/-- A commit-class instruction commits with the operation that its slot ends with. -/
theorem commitsOp_of_tailSlot {k : State → Nat → Group → Ctx → POp → (State → Ctx → Tail → State) → State} (hl : LastSlot c)
    (h : Ready s g gr c i) (hg : s0.group? g = some gr) (he : exec i s = tailSlot s i k)
    (hk : ∀ fin, k s g gr (c.noting gr i) (opRecord i gr c) fin = fin s0 (c.noting gr i) (.commitOp p)) : CommitsOp i s s0 g gr c p :=
  commitsOp_of hl hg (by rw [he, tailSlot_ready h, hk]; rfl)

theorem commitsOp_of_opSlot {k : Group → Ctx → POp → POp} (hl : LastSlot c) (h : Ready s g gr c i) (he : exec i s = opSlot s i k)
    (hk : k gr (c.noting gr i) (opRecord i gr c) = p) : CommitsOp i s s g gr c p :=
  commitsOp_of_tailSlot hl h (issuing_group h.1).1 he fun _ => by rw [hk]

/-! ### Checks that are passed -/

/-- Checks leave the fabric as it is. -/
theorem checked_fab {cu pasid : Nat} {al : Bool} {need : Need} {accs l n : List Acc} (hc : checkAccs s cu pasid al need accs = (s0, .ok l n)) :
    s0.fab = s.fab := by
  have honly : OnlyEngine s s0 := by simpa only [hc] using onlyEngine_checkAccs s cu pasid al need accs
  rw [honly]

theorem withChecked_of_ok {al : Bool} {need : Need} {accs l n : List Acc} (hc : checkAccs s gr.cu (groupPasid s gr) al need accs = (s0, .ok l n))
    (k : State → List Acc → List Acc → State) : withChecked s g gr c al need accs k = k s0 l n := by
  simp only [withChecked, hc]

theorem withAccs_of_ok {al : Bool} {need : Need} {accs l : List Acc} (hc : checkAccs s gr.cu (groupPasid s gr) al need accs = (s0, .ok l []))
    (k : State → List Acc → State) : withAccs s g gr c al need accs k = k s0 l := by
  rw [groupPasid] at hc
  simp only [withAccs, hc]

theorem fabFold_eq_none {accs : List Acc} (h : ∀ a ∈ accs, fabCause s a = none) :
    accs.foldl (fun m a => Cause.first m (fabCause s a)) none = none := by
  induction accs with
  | nil => rfl
  | cons a l ih =>
    rw [List.foldl_cons, h a (List.mem_cons_self ..)]
    exact ih fun b hb => h b (List.mem_cons_of_mem _ hb)

theorem withFab_of_none {accs : List Acc} (h : ∀ a ∈ accs, fabCause s a = none) (w : Bool) (k : List Acc → State) :
    withFab s g c accs w k = k (accs.map fun a => { a with pa := a.va }) := by
  simp only [withFab, fabFold_eq_none h]

/-! ### Ranges and atomics (R279, R304 to R306) -/

theorem rangeSlot_commits {need : Need} {skip : Bool} {f : FM} {l n : List Acc} (hl : LastSlot c) (h : Ready s g gr c i)
    (he : exec i s = rangeSlot s i f need skip) (hb : rangeBase c f % 128 = 0) (hn : rangeLen c f % 128 = 0)
    (hc : checkAccs s gr.cu (groupPasid s gr) false need (rangeAccs (rangeBase c f) (rangeLen c f)) = (s0, .ok l n))
    (hskip : skip = true ∨ n = []) :
    CommitsOp i s s0 g gr c
      { opRecord i gr c with a := BitVec.ofNat 64 (rangeBase c f), b := BitVec.ofNat 64 (rangeLen c f), accs := l } := by
  refine commitsOp_of_tailSlot hl h (checked_group h hc) he fun fin => ?_
  have hbase : rangeBase (c.noting gr i) f = rangeBase c f := by simp only [rangeBase, noting_uni]
  have hlen : rangeLen (c.noting gr i) f = rangeLen c f := by simp only [rangeLen, noting_uni]
  simp only [hbase, hlen, hb, hn, ne_eq, not_true_eq_false, or_self, if_false]
  cases skip with
  | true => rw [if_pos rfl, withChecked_of_ok hc]
  | false =>
    obtain rfl : n = [] := by simpa using hskip
    rw [if_neg Bool.false_ne_true, withAccs_of_ok hc]

theorem atomSlot_commits {need : Need} {accs : Ctx → List Acc} {l : List Acc} (hl : LastSlot c) (h : Ready s g gr c i)
    (he : exec i s = atomSlot s i need accs) (ha : accs (c.noting gr i) = accs c)
    (hc : checkAccs s gr.cu (groupPasid s gr) true need (accs c) = (s0, .ok l [])) :
    CommitsOp i s s0 g gr c { opRecord i gr c with accs := l, mask := c.mask } := by
  refine commitsOp_of_tailSlot hl h (checked_group h hc) he fun fin => ?_
  rw [ha, withAccs_of_ok hc, noting_mask]

theorem laneAtoms_noting (f : FA) : laneAtoms (c.noting gr i) f = laneAtoms c f := by
  simp only [laneAtoms, noting_mask, noting_src64, noting_srcT]

theorem fmAddr_noting (f : FM) (size k : Nat) : fmAddr (c.noting gr i) f size k = fmAddr c f size k := by
  simp only [fmAddr, noting_src64, noting_src32]

/-! ### Tiles and the matrix unit (R190, R256) -/

theorem mxSlot_commits {tile : State → Group → Ctx → Option (Cause × Nat)}
    {k : State → Nat → Group → Ctx → POp → (State → Ctx → Tail → State) → State} (hl : LastSlot c) (h : Ready s g gr c i)
    (he : exec i s = mxSlot s i tile k) (ho : ownsMx s gr = true) (ht : tile s gr (c.noting gr i) = none)
    (hk : ∀ fin, k s g gr (c.noting gr i) (opRecord i gr c) fin = fin s (c.noting gr i) (.commitOp p)) : CommitsOp i s s g gr c p :=
  commitsOp_of_tailSlot hl h (issuing_group h.1).1 he fun fin => by simp only [ht, ho, Bool.not_true, Bool.false_eq_true, if_false, hk]

theorem mxBase_noting (f : F3) : mxBase (c.noting gr i) f = mxBase c f := by simp only [mxBase, noting_uni]

/-- An MFEEDT whose elements all lie in its tile is refused nothing. -/
theorem feedTile_eq_none {f : F3} {esz : Nat} (he : tileEsz (tileOps s gr.block c.tops) gr.block f.a.field = some esz)
    (hin : ∀ k, k < 4096 / esz → (elemAt (tileOps s gr.block c.tops) gr.block f.a.field (mxBase c f + k) esz).isSome = true) :
    feedTile f s gr c = none := by
  have hfind : (List.range (4096 / esz)).find?
      (fun k => (elemAt (tileOps s gr.block c.tops) gr.block f.a.field (mxBase c f + k) esz).isNone) = none :=
    List.find?_eq_none.mpr fun k hk => by simpa [Option.isSome_iff_ne_none] using hin k (List.mem_range.mp hk)
  simp only [feedTile, he, hfind, Option.map_none]

/-- An MDRAIN.TL whose elements all lie in its tile, in chunks that no copy owns, is refused nothing. -/
theorem drainTile_eq_none {f : F3}
    (hin : ∀ k, k < drainCount f.ty →
      (elemAt (tileOps s gr.block c.tops) gr.block f.c.field (mxBase c f + k) (f.ty.width / 8)).isSome = true
      ∧ chunkOwned (tileOps s gr.block c.tops) gr.block f.c.field (mxBase c f + k) (f.ty.width / 8) = false) :
    drainTile f s gr c = none := by
  have hfind : ∀ q : Nat → Bool, (∀ k, k < drainCount f.ty → q (mxBase c f + k) = false) →
      ((List.range (drainCount f.ty)).map fun k => mxBase c f + k).find? q = none := fun q hq =>
    List.find?_eq_none.mpr fun j hj => by
      obtain ⟨k, hk, rfl⟩ := List.mem_map.mp hj
      simp [hq k (List.mem_range.mp hk)]
  have hinside := hfind (fun i => (elemAt (tileOps s gr.block c.tops) gr.block f.c.field i (f.ty.width / 8)).isNone) fun k hk => by
    simpa [Option.isNone_eq_false_iff] using (hin k hk).1
  have hfree := hfind (fun i => chunkOwned (tileOps s gr.block c.tops) gr.block f.c.field i (f.ty.width / 8)) fun k hk => (hin k hk).2
  simp only [drainTile, hinside, hfree]

/-! ### The fabric (R347) -/

theorem fabSlot_commits {w : Bool} {accs : Ctx → List Acc} {l : List Acc} (hl : LastSlot c) (h : Ready s g gr c i)
    (he : exec i s = fabSlot s i w accs) (ha : accs (c.noting gr i) = l) (hc : ∀ a ∈ l, fabCause s a = none) :
    CommitsOp i s s g gr c { opRecord i gr c with accs := l.map fun a => { a with pa := a.va }, mask := c.mask } :=
  commitsOp_of_tailSlot hl h (issuing_group h.1).1 he fun fin => by rw [ha, withFab_of_none hc, noting_mask]

/-- A fabric instruction with one access for each active lane, none of which the fabric refuses. -/
theorem fabLanes_commits {w : Bool} {accs : Ctx → List Acc} {acc : Nat → Acc} (hl : LastSlot c) (h : Ready s g gr c i)
    (he : exec i s = fabSlot s i w accs) (ha : accs (c.noting gr i) = (lanesOf c.mask).map acc)
    (hc : ∀ k ∈ lanesOf c.mask, fabCause s (acc k) = none) :
    CommitsOp i s s g gr c
      { opRecord i gr c with accs := (lanesOf c.mask).map fun k => { acc k with pa := (acc k).va }, mask := c.mask } := by
  have hcommits := fabSlot_commits hl h he ha (List.forall_mem_map.mpr hc)
  rwa [List.map_map] at hcommits

theorem fabAccs_noting (f : FA) (x y : Nat → Word) : fabAccs (c.noting gr i) f x y = fabAccs c f x y := by
  simp only [fabAccs, noting_mask, noting_src64, noting_src32]

theorem fabReg_noting (f : FA) : fabReg (c.noting gr i) f = fabReg c f := by
  funext k; simp only [fabReg, noting_srcT]

end Tail

end Sys2Proof.Machine

namespace Sys2Proof.Proofs
open Sys2Proof Sys2Proof.Machine Sys2Proof.Safety

/-- Settles O20: each slot hands its record to `tryCommit` once its checks are passed; one law for each kind of slot, applied to each instruction. -/
theorem commitClassRuns : Obligations.CommitClassRuns := by
  unfold Obligations.CommitClassRuns
  refine ⟨fun s g gr c hl => ⟨?fence, ?sigchk, ?plain, ?fwaitc, ?operand, ?fork⟩,
    fun s g gr c s0 l hl => ⟨?atom, ?satom, ?waita, ?range, ?flush, ?pgreq, ?descriptor⟩,
    fun s g gr c hl => ⟨?waitat, ?mfeed, ?mfeedt, ?mdrain, ?mdrainTl, ?fabric, ?ffence⟩⟩
  case fence => exact fun f h => commitsOp_of_opSlot hl h (exec_fence f s) rfl
  case sigchk => exact fun f h => commitsOp_of_opSlot hl h (exec_sigchk f s) rfl
  case plain =>
    intro f
    simp only [List.forall_mem_cons]
    exact ⟨fun h => commitsOp_of_opSlot hl h (exec_barv f s) rfl, fun h => commitsOp_of_opSlot hl h (exec_barw f s) rfl,
      fun h => commitsOp_of_opSlot hl h (exec_gjoin f s) rfl, fun h => commitsOp_of_opSlot hl h (exec_gleave f s) rfl,
      fun h => commitsOp_of_opSlot hl h (exec_rdv f s) rfl, fun h => commitsOp_of_opSlot hl h (exec_trap f s) rfl,
      fun h => commitsOp_of_opSlot hl h (exec_trapAbort f s) rfl, fun h => commitsOp_of_opSlot hl h (exec_brk f s) rfl,
      List.forall_mem_nil _⟩
  case fwaitc =>
    exact fun f h hen => commitsOp_of_tailSlot hl h (issuing_group h.1).1 (exec_fwaitc f s) fun fin => by
      simp only [hen, Bool.not_true, Bool.false_eq_true, if_false]
  case operand =>
    intro f
    simp only [List.forall_mem_cons]
    exact ⟨fun h => commitsOp_of_opSlot hl h (exec_bwait f s) (by rw [noting_uni]),
      fun h => commitsOp_of_opSlot hl h (exec_bgrp f s) (by rw [noting_uni]),
      fun h => commitsOp_of_opSlot hl h (exec_recmark f s) (by rw [noting_uni]),
      fun h => commitsOp_of_opSlot hl h (exec_tdep f s) (by rw [noting_uni]), List.forall_mem_nil _⟩
  case fork =>
    exact fun f h ha => commitsOp_of_tailSlot hl h (issuing_group h.1).1 (exec_fork f s) fun fin => by
      simp only [noting_uni, ha, ne_eq, not_true_eq_false, if_false]
  case atom =>
    intro f
    simp only [List.forall_mem_cons]
    exact ⟨fun h hc => atomSlot_commits (accs := fun c => laneAtoms c f) hl h (exec_atom f s) (laneAtoms_noting f) hc,
      fun h hc => atomSlot_commits (accs := fun c => laneAtoms c f) hl h (exec_redM f s) (laneAtoms_noting f) hc, List.forall_mem_nil _⟩
  case satom =>
    exact fun f h hc => atomSlot_commits hl h (exec_satom f s) (by simp only [noting_uni, noting_uniT]) hc
  case waita =>
    exact fun f h hc ht => commitsOp_of_tailSlot hl h (checked_group h hc) (exec_waita f s) fun fin => by
      simp only [noting_uni, noting_uniT, withAccs_of_ok hc, ht, Bool.false_eq_true, if_false]
  case range =>
    intro f
    simp only [List.forall_mem_cons]
    exact ⟨fun h hb hn hc => rangeSlot_commits hl h (exec_seal f s) hb hn hc (.inr rfl),
      fun h hb hn hc => rangeSlot_commits hl h (exec_reuse f s) hb hn hc (.inr rfl), List.forall_mem_nil _⟩
  case flush => exact fun f n h hb hn hc => rangeSlot_commits hl h (exec_flush f s) hb hn hc (.inl rfl)
  case pgreq =>
    exact fun f n h hc => commitsOp_of_tailSlot hl h (checked_group h hc) (exec_pgreq f s) fun fin => by
      simp only [fmAccs, fmAddr_noting, noting_exec, Bool.false_eq_true, if_false, withChecked_of_ok hc]
  case descriptor =>
    intro f
    simp only [List.forall_mem_cons]
    refine ⟨fun h hen hc => commitsOp_of_tailSlot hl h (checked_group h hc) (exec_coll f s) fun fin => ?coll,
      fun h _ hc => commitsOp_of_tailSlot hl h (checked_group h hc) (exec_spawn f s) fun fin => ?spawn, List.forall_mem_nil _⟩
    case coll =>
      have hen0 : s0.fab.en = true := by rw [checked_fab hc]; exact hen trivial
      simp only [noting_uni, withChecked_of_ok hc, hen0, Bool.not_true, Bool.false_eq_true, if_false]
    case spawn => simp only [noting_uni, withAccs_of_ok hc]
  case waitat =>
    intro f h ht
    obtain ⟨spot, hspot⟩ := Option.isSome_iff_exists.mp ht
    exact commitsOp_of_tailSlot hl h (issuing_group h.1).1 (exec_waitat f s) fun fin => by
      simp only [noting_tops, noting_uni, noting_uniT, hspot]
  case mfeed =>
    exact fun f h ho hr => mxSlot_commits hl h (exec_mfeed f s) ho rfl fun fin => by
      simp only [noting_uni, noting_exec, Nat.not_lt.mpr hr, if_false]
  case mfeedt =>
    exact fun f esz h ho he hin => mxSlot_commits hl h (exec_mfeedt f s) ho (feedTile_eq_none (c := c.noting gr (.mfeedt f))
      (by rwa [noting_tops]) (by simp only [noting_tops, mxBase_noting]; exact hin)) fun fin => by
      simp only [noting_tops, mxBase_noting, he, Option.getD_some]; rfl
  case mdrain =>
    intro f h ho sel hs hw hn
    refine mxSlot_commits hl h (exec_mdrain f s) ho rfl fun fin => ?_
    have hok : ¬(sel ≥ 128 ∨ (f.ty = .b64 ∧ sel ≥ 64) ∨ sel % 64 + (f.c.field - 384) > 64) := by
      rintro (h1 | ⟨hty, h2⟩ | h3)
      · exact Nat.not_le.mpr hs h1
      · exact Nat.not_le.mpr (hw hty) h2
      · exact Nat.not_lt.mpr hn h3
    simp only [noting_uni, noting_exec]
    exact if_neg hok
  case mdrainTl =>
    exact fun f h ho hin => mxSlot_commits hl h (exec_mdrainTl f s) ho (drainTile_eq_none
      (by simp only [noting_tops, mxBase_noting]; exact hin)) fun fin => by
      simp only [mxBase_noting, noting_mask]; rfl
  case fabric =>
    intro f acc reg
    simp only [List.forall_mem_cons]
    exact ⟨fun h hc => fabLanes_commits hl h (exec_fst f s) (by rw [fabAccs_noting, fabReg_noting]; rfl) hc,
      fun h hc => fabLanes_commits hl h (exec_fld f s) (fabAccs_noting f _ _) hc,
      fun h hc => fabLanes_commits hl h (exec_fatom f s) (by simp only [fabAccs_noting, fabReg_noting, noting_srcT]; rfl) hc,
      List.forall_mem_nil _⟩
  case ffence =>
    intro f h a hc
    exact fabSlot_commits (l := [a]) hl h (exec_ffence f s) (by simp only [noting_uni, noting_uniT]; rfl) (List.forall_mem_singleton.mpr hc)

end Sys2Proof.Proofs

/-! ### Slots that queue their result (R47, R160 to R165, R169) -/

namespace Sys2Proof.Machine
open Sys2Proof Sys2Proof.Safety

section Queue
variable {i : Instr} {f : F3}

/-- A tokened slot that reads its operands from the view and touches no flag. -/
theorem tokSlot_queues_plain {m : Ctx → Mask} {fn fn' : Group → Ctx → Land} (hrs : i.isRs = false)
    (he : ∀ s, exec i s = tokSlot s i m fn fun c _ => c) (hm : ∀ gr c, m (c.noting gr i) = m c)
    (hn : ∀ gr c, fn gr (c.noting gr i) = fn' gr c) : QueuesResult i m (fun c => c.cc) fn' :=
  tokSlot_queues hrs he (fun gr c _ => by rw [← noting_cc (c := c) (gr := gr) (i := i)]) hm hn

theorem tokVec_queues {p : Pred} {d : BitVec 7} {wide : Bool} {fn : Group → Ctx → Nat → Nat} {fn' : Group → Ctx → Land}
    (hrs : i.isRs = false) (he : ∀ s, exec i s = tokVec s i p d wide fn)
    (hn : ∀ gr c, landV d (c.exec p) wide (fn gr (c.noting gr i)) = fn' gr c) :
    QueuesResult i (fun c => c.exec p) (fun c => c.cc) fn' :=
  tokSlot_queues_plain hrs he (fun _ _ => noting_exec ..) fun gr c => by rw [← hn, noting_exec]

/-- A special function queues one 32-bit value for each executing lane (R160). -/
theorem sfLane_queues {n : Nat} (hrs : i.isRs = false) (he : ∀ s, exec i s = sfLane s i f n) :
    QueuesResult i (fun c => c.exec f.p) (fun c => c.cc) (fun gr c =>
      { v := [(f.d.toNat, c.exec f.p, vec fun k => BitVec.ofNat 32 (specialFn n f.ty gr.ctl.ftz (c.srcT f.ty f.a k)))] }) :=
  tokVec_queues hrs he fun gr c => by simp only [landV, noting_srcT, Bool.false_eq_true, if_false]

theorem readableLane_iff (gr : Group) (c : Ctx) (j : Nat) :
    readableLane gr c j = true ↔ j < 96 ∧ (gr.ent c.entry).own.getLsbD j = true := by
  simp [readableLane]

/-- A shuffle queues, for each executing lane, A of the lane it names, if its fragment owns that lane, else C of its own (R162, R163). -/
theorem shuffle_queues {kind : Nat} (src : Nat → Nat → Option Nat) (hrs : i.isRs = false) (he : ∀ s, exec i s = shuffle s i f kind)
    (hsrc : shuffleSrc kind = src) :
    QueuesResult i (fun c => c.exec f.p) (fun c => c.cc) (fun gr c =>
      landV f.d (c.exec f.p) f.ty.wide fun k =>
        match src (c.src32 f.b k).toNat k with
        | some j => if j < 96 ∧ (gr.ent c.entry).own.getLsbD j = true then c.srcT f.ty f.a j else c.srcT f.ty f.c k
        | none => c.srcT f.ty f.c k) := by
  refine tokVec_queues hrs he fun gr c => congrArg (landV f.d (c.exec f.p) f.ty.wide) (funext fun k => ?_)
  rw [hsrc, noting_src32]
  cases src (c.src32 f.b k).toNat k with
  | none => exact noting_srcT ..
  | some j => simp only [noting_srcT, readableLane_iff, noting_entry]

/-- RED and SCAN queue their result and set E exactly when no lane takes part (R164, R165). -/
theorem collect_queues {fn fn' : Group → Ctx → Land} (hrs : i.isRs = false)
    (he : ∀ s, exec i s = tokSlot s i (fun c => c.exec f.p) fn fun c _ => ccEmpty c (c.exec f.p))
    (hn : ∀ gr c, fn gr (c.noting gr i) = fn' gr c) :
    QueuesResult i (fun c => c.exec f.p) (fun c => { c.cc with e := c.exec f.p == 0 }) fn' :=
  tokSlot_queues hrs he (fun _ _ _ => by simp only [ccEmpty, Ctx.putCC, noting_exec, noting_cc]) (fun _ _ => noting_exec ..) hn

end Queue

end Sys2Proof.Machine

namespace Sys2Proof.Proofs
open Sys2Proof Sys2Proof.Machine Sys2Proof.Safety

theorem specialFunctionsQueue (f : F3) :
    ∀ p ∈ [(Instr.exp2 f, 0), (.log2 f, 1), (.rcp f, 2), (.rsq f, 3), (.sqrt f, 4), (.sin f, 5), (.cos f, 6), (.tanh f, 7)],
      QueuesResult p.1 (fun c => c.exec f.p) (fun c => c.cc) (fun gr c =>
        { v := [(f.d.toNat, c.exec f.p, vec fun k => BitVec.ofNat 32 (specialFn p.2 f.ty gr.ctl.ftz (c.srcT f.ty f.a k)))] }) := by
  simp only [List.forall_mem_cons]
  exact ⟨sfLane_queues rfl (exec_exp2 f), sfLane_queues rfl (exec_log2 f), sfLane_queues rfl (exec_rcp f), sfLane_queues rfl (exec_rsq f),
    sfLane_queues rfl (exec_sqrt f), sfLane_queues rfl (exec_sin f), sfLane_queues rfl (exec_cos f),
    sfLane_queues rfl (exec_tanh f), List.forall_mem_nil _⟩

theorem shufflesQueue (f : F3) :
    ∀ p ∈ [(Instr.shfl f, fun (x _ : Nat) => some x), (.shflup f, fun x k => if x ≤ k then some (k - x) else none),
        (.shfldn f, fun x k => some (k + x)), (.shflx f, fun x k => some (k ^^^ x)), (.bcast f, fun x _ => some x)],
      QueuesResult p.1 (fun c => c.exec f.p) (fun c => c.cc) (fun gr c =>
        landV f.d (c.exec f.p) f.ty.wide fun k =>
          match p.2 (c.src32 f.b k).toNat k with
          | some j => if j < 96 ∧ (gr.ent c.entry).own.getLsbD j = true then c.srcT f.ty f.a j else c.srcT f.ty f.c k
          | none => c.srcT f.ty f.c k) := by
  simp only [List.forall_mem_cons]
  exact ⟨shuffle_queues (fun x _ => some x) rfl (exec_shfl f) rfl,
    shuffle_queues (fun x k => if x ≤ k then some (k - x) else none) rfl (exec_shflup f) rfl,
    shuffle_queues (fun x k => some (k + x)) rfl (exec_shfldn f) rfl,
    shuffle_queues (fun x k => some (k ^^^ x)) rfl (exec_shflx f) rfl,
    shuffle_queues (fun x _ => some x) rfl (exec_bcast f) rfl, List.forall_mem_nil _⟩

/-- Settles O13: each is a tokened slot, which reads its operands from the view as it stands. -/
theorem tokenedResults : Obligations.TokenedResults := by
  unfold Obligations.TokenedResults
  refine ⟨fun f => ⟨specialFunctionsQueue f, shufflesQueue f⟩, fun f => ⟨?red, ?scan, ?rdlane, ?sfn⟩⟩
  case red => exact collect_queues rfl (exec_red f) fun gr c => by simp only [noting_exec, noting_srcT]; rfl
  case scan => exact collect_queues rfl (exec_scan f) fun gr c => by simp only [noting_exec, noting_srcT]
  case rdlane =>
    exact tokSlot_queues_plain rfl (exec_rdlane f) (fun _ _ => noting_mask ..) fun gr c => by
      simp only [noting_uni, noting_uniT, noting_srcT, noting_entry, readableLane_iff, landS]
  case sfn => exact tokSlot_queues_plain rfl (exec_sfn f) (fun _ _ => noting_mask ..) fun gr c => by simp only [noting_uniT, landS]

end Sys2Proof.Proofs

/-! ### What a commit leaves of a group (R41 step 1) -/

namespace Sys2Proof.Machine
open Sys2Proof

section Commit
variable {gr : Group} {c : Ctx}

/-- The committing fragment's entry after a commit. -/
def Ctx.committedEntry (c : Ctx) (x : Entry) : Entry :=
  { x with
    mask := if c.amDirty then c.am else x.mask
    cc := ccAfter c, pc := c.addr + 8 * (c.words.length + 1), st := .fetching, fresh := false, stayed := c.hdr.stay, holdcap := 0
    chunk := { x.chunk with count := x.chunk.count + c.ops.length, last := c.ops.length, prevHdr := x.chunk.lastHdr, lastHdr := c.addr / 8 } }

theorem commitGroup_regs (hm : c.marks = []) : (commitGroup gr c).regs = c.view := by
  simp only [commitGroup, hm, List.foldl_nil]

theorem commitGroup_ctx (hm : c.marks = []) : (commitGroup gr c).ctx = none := by
  simp only [commitGroup, hm, List.foldl_nil]

theorem commitGroup_ents (hm : c.marks = []) : (commitGroup gr c).ents = gr.ents.modify c.entry c.committedEntry := by
  simp only [commitGroup, hm, List.foldl_nil]
  rfl

theorem commitGroup_ent_self (hm : c.marks = []) (he : c.entry < gr.ents.length) :
    (commitGroup gr c).ent c.entry = c.committedEntry (gr.ent c.entry) := by
  simp [Group.ent, commitGroup_ents hm, List.getD_eq_getElem?_getD, he]

theorem commitGroup_ent_of_ne (hm : c.marks = []) {k : Nat} (hk : k ≠ c.entry) : (commitGroup gr c).ent k = gr.ent k := by
  simp [Group.ent, commitGroup_ents hm, List.getD_eq_getElem?_getD, hk.symm]

theorem ccAfter_of_noCsrw (hw : c.csrw = []) : ccAfter c = c.cc := by
  simp only [ccAfter, hw, List.foldl_nil]

/-- A clause that draws no random bits and holds no CSRW leaves the random-number registers as they are (R71, R128). -/
theorem commitGroup_srctr_srseed (hm : c.marks = []) (hr : c.rs = 0) (hw : c.csrw = []) :
    (commitGroup gr c).ctl.srctr = gr.ctl.srctr ∧ (commitGroup gr c).ctl.srseed = gr.ctl.srseed := by
  simp only [commitGroup, hm, hw, hr, List.foldl_nil, if_true, and_self]

end Commit

end Sys2Proof.Machine

namespace Sys2Proof.Proofs
open Sys2Proof Sys2Proof.Machine

/-- Settles O23: with no MARK held, a commit is the update of the committing entry, and the registers are the view's. -/
theorem commitMakesViewArchitectural : Obligations.CommitMakesViewArchitectural := by
  unfold Obligations.CommitMakesViewArchitectural
  intro gr c hm he
  have hself := commitGroup_ent_self hm he
  refine ⟨commitGroup_regs hm, commitGroup_ctx hm, ?pc, ?mask, ?own, ?cc, fun k hk => commitGroup_ent_of_ne hm hk,
    fun hr hw => commitGroup_srctr_srseed hm hr hw⟩
  case cc => intro hw; rw [hself]; exact ccAfter_of_noCsrw hw
  all_goals rw [hself]; rfl

end Sys2Proof.Proofs

/-! ### Sums of lanes (R78, R130, R164) -/

namespace Sys2Proof.Machine
open Sys2Proof Sys2Proof.Safety

theorem extInt_modEq (t : Ty) (x : Nat) : extInt t x ≡ x [ZMOD 2 ^ t.width] := by
  have hmod : (x : Int) % 2 ^ t.width ≡ x [ZMOD 2 ^ t.width] := Int.mod_modEq ..
  simp only [extInt]
  split <;> push_cast
  · exact (Int.sub_modulus_modEq_iff).mpr hmod
  · exact hmod

/-- Addition that does not clamp wraps, for signed and unsigned types alike (R130 rule 1). -/
theorem arithBits_opAdd_wraps (t : Ty) {md : Nat} (hmd : md ≠ 1) (a b c : Nat) :
    arithBits opAdd t md a b c = (a + b) % 2 ^ t.width := by
  have hsum : extInt t a + extInt t b ≡ ((a + b : Nat) : Int) [ZMOD ((2 ^ t.width : Nat) : Int)] := by
    push_cast
    exact (extInt_modEq t a).add (extInt_modEq t b)
  simp only [arithBits, if_neg hmd, wrapInt, opAdd, hsum.eq, ← Int.natCast_emod, Int.toNat_natCast]

section Tree
variable {f : Nat → Nat → Nat} {M : Nat} (hf : ∀ a b, f a b = (a + b) % M)
include hf

theorem treeLevel_sum_modEq : ∀ l : List Nat, (treeLevel f l).sum ≡ l.sum [MOD M]
  | [] | [_] => rfl
  | a :: b :: t => by
    simp only [treeLevel, List.sum_cons, hf, ← Nat.add_assoc]
    exact (Nat.mod_modEq ..).add (treeLevel_sum_modEq t)

theorem treeLevel_lt (hM : 0 < M) : ∀ {l : List Nat}, (∀ x ∈ l, x < M) → ∀ x ∈ treeLevel f l, x < M
  | [], hl | [_], hl => hl
  | a :: b :: t, hl => by
    simp only [List.forall_mem_cons, treeLevel] at hl ⊢
    obtain ⟨-, -, ht⟩ := hl
    exact ⟨hf a b ▸ Nat.mod_lt _ hM, treeLevel_lt hM ht⟩

omit hf in
theorem treeLevel_length : ∀ l : List Nat, (treeLevel f l).length = (l.length + 1) / 2
  | [] => rfl
  | [_] => by simp [treeLevel]
  | a :: b :: t => by
    simp only [treeLevel, List.length_cons, treeLevel_length t]
    omega

/-- A tree of additions modulo `M` is the sum modulo `M`: each level keeps it, and halves the number of values. -/
theorem treeRed_eq_sum_mod {n : Nat} {l : List Nat} (hM : 0 < M) (hlen : l.length ≤ 2 ^ n) (hl : ∀ x ∈ l, x < M) :
    treeRed f n l = l.sum % M := by
  induction n generalizing l with
  | zero =>
    match l, hlen with
    | [], _ => rfl
    | [x], _ => exact (Nat.mod_eq_of_lt (hl x (List.mem_singleton_self x))).symm
  | succ n ih =>
    calc treeRed f n (treeLevel f l)
        = (treeLevel f l).sum % M := ih (by rw [treeLevel_length]; omega) (treeLevel_lt hf hM hl)
      _ = l.sum % M := treeLevel_sum_modEq hf l

end Tree

/-- A lane that takes no part adds zero. -/
theorem sum_masked_eq_sum_lanesOf (m : Mask) (src : Nat → Nat) :
    ((List.range 96).map fun i => if m.getLsbD i then src i else 0).sum = ((lanesOf m).map src).sum := by
  simp [List.sum_map_ite, lanesOf]

theorem combine_add_wraps {t : Ty} (ht : t.isFloat = false) {md : Nat} (hmd : md ≠ 1) (z : Bool) (a b : Nat) :
    combine 0 t md z a b = (a + b) % 2 ^ t.width := by
  simp only [combine, ht, Bool.false_eq_true, if_false, arithBits_opAdd_wraps t hmd]

/-- RED by addition for every integer type: signed or unsigned, of any width, it wraps unless MOD clamps (R164). -/
theorem redBits_add {f : F3} {m : Mask} {src : Nat → Nat} (z : Bool) (hop : f.x.toNat = 0) (hmd : f.md.toNat ≠ 1) (ht : f.ty.isFloat = false)
    (hsrc : ∀ k, src k < 2 ^ f.ty.width) : redBits f z m src = ((lanesOf m).map src).sum % 2 ^ f.ty.width := by
  have hid : identityOf 0 f.ty = 0 := by simp only [identityOf, ht, Bool.false_eq_true, if_false]
  simp only [redBits, hop]
  split
  case isTrue hm => simp [emptyOf, hm, lanesOf]
  case isFalse =>
    rw [treeRed_eq_sum_mod (combine_add_wraps ht hmd z) (Nat.two_pow_pos _) (by simp), hid, sum_masked_eq_sum_lanesOf]
    simp only [List.forall_mem_map, hid]
    intro i _
    split
    · exact hsrc i
    · exact Nat.two_pow_pos _

/-! ### Scalar registers that are not masks, and BALLOT (R112, R166) -/

/-- The context with a new value of a scalar register below the masks. -/
def Ctx.withScalar (c : Ctx) (d : Nat) (x : Word) : Ctx := { c with view := c.view.setS d x, sWritten := d :: c.sWritten }

theorem putS_fst_eq_withScalar (c : Ctx) (own : Mask) {d : Nat} (hd : d < 60) (x : Word) : (c.putS own d false x).1 = c.withScalar d x := by
  simp [Ctx.putS, Ctx.withScalar, show d ≠ 63 by omega, show ¬ 60 ≤ d by omega]

theorem withScalar_getS (c : Ctx) {d : Nat} (hd : d < 60) (x : Word) (n : Nat) :
    (c.withScalar d x).getS n = if n = d then x else c.getS n := by
  by_cases hn : n = d
  · subst hn; simp [Ctx.getS, Ctx.withScalar, show n ≠ 63 by omega, show ¬ 60 ≤ n by omega]
  · simp [Ctx.getS, Ctx.withScalar, hn]

/-- The context with a mask in the three scalar registers from `d` on, 32 lanes to a register. -/
def Ctx.withMaskAt (c : Ctx) (d : Nat) (m : Mask) : Ctx :=
  ((c.withScalar d ((maskWord m 0).setWidth 64)).withScalar (d + 1) ((maskWord m 1).setWidth 64)).withScalar (d + 2)
    ((maskWord m 2).setWidth 64)

section MaskAt
variable {c : Ctx} {d : Nat} {m : Mask}

theorem withMaskAt_getS_word (hd : d ≤ 57) {b : Nat} (hb : b < 3) :
    (c.withMaskAt d m).getS (d + b) = (maskWord m b).setWidth 64 := by
  rw [Ctx.withMaskAt, withScalar_getS _ (by omega), withScalar_getS _ (by omega), withScalar_getS _ (by omega)]
  match b, hb with
  | 0, _ | 1, _ | 2, _ => simp

theorem withMaskAt_getS_of_outside (hd : d ≤ 57) {n : Nat} (hn : n < d ∨ n > d + 2) : (c.withMaskAt d m).getS n = c.getS n := by
  rw [Ctx.withMaskAt, withScalar_getS _ (by omega), withScalar_getS _ (by omega), withScalar_getS _ (by omega),
    if_neg (by omega), if_neg (by omega), if_neg (by omega)]

theorem latch_finish_none_of_slot {n : Nat} (hslot : c.slot = n) (i : Instr) : (c.finish i none).latch (n % 8) = none :=
  hslot ▸ latch_finish_none c i

/-- BALLOT leaves its latch unwritten and the lanes it collects in three registers. -/
theorem execBallot_ready {f : F3} {s : State} {g : Nat} {gr : Group} (h : Ready s g gr c (.ballot f)) (hd : f.d.toNat ≤ 57) :
    exec (.ballot f) s = .next (s.setCtx g (some
      (((c.noting gr (.ballot f)).withMaskAt f.d.toNat (c.exec f.p &&& c.view.getQ (f.a.field % 16))).finish (.ballot f) none))) := by
  rw [exec_ballot, execBallot, slot_ready h]
  simp only [takeQ, noting_exec, noting_view, Nat.add_zero, Ctx.withMaskAt, endSlot]
  rw [putS_fst_eq_withScalar _ _ (by omega), putS_fst_eq_withScalar _ _ (by omega), putS_fst_eq_withScalar _ _ (by omega)]

end MaskAt

end Sys2Proof.Machine

namespace Sys2Proof.Proofs
open Sys2Proof Sys2Proof.Machine Sys2Proof.Safety

/-- The slot of BALLOT, whole (R166). -/
theorem ballotWritesLanes (f : F3) (s : State) (g : Nat) (gr : Group) (c : Ctx) (h : Ready s g gr c (.ballot f)) (hd : f.d.toNat ≤ 57) :
    ∃ c', exec (.ballot f) s = .next (s.setCtx g (some c'))
      ∧ SlotKept (.ballot f) c c' ∧ HeldKept c c' ∧ VectorsKept c c' ∧ PredicatesKept c c' ∧ FlagsKept c c'
      ∧ (∀ b, b < 3 → c'.getS (f.d.toNat + b) = (maskWord (c.exec f.p &&& c.view.getQ (f.a.field % 16)) b).setWidth 64)
      ∧ (∀ n, n < f.d.toNat ∨ n > f.d.toNat + 2 → c'.getS n = c.getS n)
      ∧ c'.latch (c.slot % 8) = none := by
  have hrs : (Instr.ballot f).isRs = false := rfl
  refine ⟨_, execBallot_ready h hd, ?slot, ?held, ?vectors, ?predicates, ?flags, ?written, ?others, ?latch⟩
  case slot => apply slotKept_finish <;> simp [Ctx.withMaskAt, Ctx.withScalar, hrs]
  case held => simp [HeldKept, Ctx.withMaskAt, Ctx.withScalar]
  case vectors => intro n; simp [Ctx.withMaskAt, Ctx.withScalar]
  case predicates => intro n; simp [Ctx.withMaskAt, Ctx.withScalar]
  case flags => simp [FlagsKept, Ctx.withMaskAt, Ctx.withScalar]
  case written => intro b hb; rw [finish_getS, withMaskAt_getS_word hd hb]
  case others => intro n hn; rw [finish_getS, withMaskAt_getS_of_outside hd hn, noting_getS]
  case latch => exact latch_finish_none_of_slot (by simp [Ctx.withMaskAt, Ctx.withScalar]) _

/-- Settles O14: a tree of wrapping additions is a sum (`redBits_add`); BALLOT is three scalar writes. -/
theorem collectedLanes : Obligations.CollectedLanes := by
  unfold Obligations.CollectedLanes
  refine ⟨fun f z m src hop hmd hty hsrc => ?_, ballotWritesLanes⟩
  have hsum := redBits_add (f := f) (m := m) (src := src) z (by simp [hop]) (by simp [hmd]) (by rw [hty]; rfl) (by rw [hty]; exact hsrc)
  rwa [hty] at hsum

end Sys2Proof.Proofs

/-! The machine after reset. -/

namespace Sys2Proof.Proofs
open Sys2Proof Sys2Proof.Machine

/-- Settles O60: each register reads its default. A table that lists nothing (queues, tags, frames, partitions, clusters, capabilities) answers
every key with the default of its entries, so those clauses hold for every key by computing. -/
theorem resetState : Obligations.ResetState := by
  unfold Obligations.ResetState
  have hcanonical : Safety.MemoriesCanonical State.reset := ⟨rfl, rfl, rfl, rfl⟩
  refine ⟨hcanonical, rfl, rfl, rfl, rfl, rfl, fun _ => rfl, rfl, rfl, rfl, fun _ => rfl, fun _ => ⟨rfl, rfl, rfl⟩, fun _ => rfl, fun _ _ => rfl,
    rfl, rfl, rfl, rfl, rfl, rfl, rfl, rfl, rfl, rfl, fun _ => rfl, fun _ => ⟨rfl, rfl, rfl⟩, fun _ => ⟨rfl, rfl, rfl⟩, fun _ => ⟨rfl, rfl, rfl⟩,
    rfl, rfl, rfl, rfl, rfl, rfl, rfl⟩

end Sys2Proof.Proofs

/-! The launch window: what is compared with the watchpoints when a record is refused by its own fields. -/

namespace Sys2Proof.Machine
open Sys2Proof

/-- Host memory holds, in slot 0 of the window of queue 0, a TASK record of no gangs (R89: at least 1) with one input; device memory maps the
first GiB of PASID 0 to itself, and a watchpoint takes reads of line 0, where the record's COPYTAB points. -/
def watchedRefusal : State :=
  { State.reset with
    hostMem := [(0x0, 1), (0x1E, 1), (0xF8, 1)]
    mem := [(0x1000, 1), (0x1001, 0x20), (0x2000, 0x13), (0x2007, 0x10)]
    disp := { queues := [(0, { en := true, win := 2 ^ 56, seqExp := 1 })] }
    m := { pasids := [(0, { root := 0x1000, lv5 := false, en := true })] }
    dbg := { wps := [(0, { lines := 1, rd := true })] } }

/-- Where the record lies. -/
abbrev watchedPlace : Nat := watchedSlot (watchedRefusal.queueD 0)

/-- The bytes of the record, as the parse reads them. -/
abbrev watchedBytes : List Byte := physRead watchedRefusal watchedPlace 256

/-- The words of its STAMP in device memory: none. -/
abbrev watchedStamp : List Nat := (fun pa => if isDev (pa + 0xF0) then wordsOf (pa + 0xF0) 8 else []) watchedPlace

/-- The state that O43 names as the next one: its parse holds the refusal's code. -/
abbrev refusedByCode : State :=
  let y : Parse := { at_ := watchedPlace, bytes := watchedBytes }
  wakeAll (parsed (bringAll watchedRefusal watchedStamp) 0 { y with code := some rRange } (stampWord 2 rRange 0))

/-- The matches that a step leaves to be reported (R416). -/
def pendingMatches (o : Out) : Nat := match o with | .next t => t.dbg.pending.length | _ => 0

theorem watchedBytes_seq : fieldOf watchedBytes 0xF8 8 = (watchedRefusal.queueD 0).seqExp.toNat := by decide +kernel

theorem watchedBytes_type : (parseRec false watchedBytes).ty = 1 := by decide +kernel

theorem watchedRefusal_turn : engineTurn watchedRefusal watchedStamp = .go := by decide +kernel

/-- GANGS is out of range. -/
theorem watchedRefusal_refused :
    plainRefusal watchedRefusal (parseRec false watchedBytes) watchedBytes (watchedRefusal.queueD 0).pasid = some rRange := by decide +kernel

/-- The step takes the record's tables for read, and reports a read of its descriptor and one of that one's shape record. -/
theorem pendingMatches_exec_task_watchedRefusal : pendingMatches (exec (.task 0 0) watchedRefusal) = 2 := by decide +kernel

/-- Of a record refused by its own fields nothing but its slot has been read. -/
theorem pendingMatches_refusedByCode : pendingMatches (.next refusedByCode) = 0 := by decide +kernel

end Sys2Proof.Machine

namespace Sys2Proof.Proofs
open Sys2Proof Sys2Proof.Machine

/-- Refutes O43: a record refused by its own fields. The obligation writes its STAMP through `parsed` for a parse that holds the refusal code, for
which `watchTables` compares nothing; `parseWindow` calls `parsed` for the parse without the code, for which the record's tables count as read. So
where a watchpoint covers COPYTAB (`watchedRefusal`), the step leaves two matches to be reported, and the obligation's next state none. -/
theorem not_launchWindow : ¬ Obligations.LaunchWindow := by
  unfold Obligations.LaunchWindow
  intro h
  obtain ⟨hwindow, -⟩ := h watchedRefusal 0 0 rfl rfl (by decide) rfl rfl
  obtain ⟨hplain, -, -⟩ := hwindow rfl rfl watchedBytes_seq watchedRefusal_turn
  obtain ⟨hrefused, -, -⟩ := hplain (1, .task 0 0) List.mem_cons_self watchedBytes_type.symm
  have hstep : exec (.task 0 0) watchedRefusal = .next refusedByCode := hrefused rRange watchedRefusal_refused
  have hsame := congrArg pendingMatches hstep
  rw [pendingMatches_exec_task_watchedRefusal, pendingMatches_refusedByCode] at hsame
  exact absurd hsame (by decide)

end Sys2Proof.Proofs

/-! Placement: which indices a die is granted, and what a placed gang starts with. -/

namespace Sys2Proof.Machine
open Sys2Proof

/-! ### Lists of numbers -/

theorem mem_insertNat {x y : Nat} {l : List Nat} : y ∈ insertNat x l ↔ y = x ∨ y ∈ l := by
  induction l with
  | nil => simp [insertNat]
  | cons z l ih =>
    unfold insertNat
    split
    · exact List.mem_cons
    · rw [List.mem_cons, ih, List.mem_cons]; tauto

theorem mem_sortNat {y : Nat} {l : List Nat} : y ∈ sortNat l ↔ y ∈ l := by
  induction l with
  | nil => rfl
  | cons x l ih =>
    change y ∈ insertNat x (sortNat l) ↔ _
    rw [mem_insertNat, ih, List.mem_cons]

/-- The number that a sorted list begins with is in the list. -/
theorem sortNat_headD_mem {l : List Nat} (h : l ≠ []) : (sortNat l).headD 0 ∈ l := by
  rw [← mem_sortNat]
  cases hs : sortNat l with
  | nil =>
    obtain ⟨x, l', rfl⟩ := List.exists_cons_of_ne_nil h
    have hx : x ∈ sortNat (x :: l') := mem_sortNat.mpr List.mem_cons_self
    rw [hs] at hx
    cases hx
  | cons y l' => exact List.mem_cons_self

/-! ### RANGE_REQUEST (R102) -/

theorem task?_updTask_of_some {s : State} {k : Nat} {t : Task} (h : s.task? k = some t) (f : Task → Task) :
    (s.updTask k f).task? k = some (f t) := by
  rw [task?_updTask, if_pos rfl, h, Option.map_some]

/-- What a failed die gave back goes out from its least index on, as far as it has no gap, and never empty. -/
theorem returnedRun_eq_range {t : Task} (h : t.returned ≠ []) (n : Nat) :
    ∃ m, m ≤ n ∧ (0 < n → 0 < m) ∧ returnedRun t n = (List.range m).map fun j => (sortNat t.returned).headD 0 + j := by
  set k := (sortNat t.returned).headD 0 with hk
  have hhead : k ∈ t.returned := sortNat_headD_mem h
  suffices hrun : ∃ m, m ≤ n ∧ (0 < n → 0 < m) ∧ ((∀ i < n, k + i ∈ t.returned) → m = n) ∧ returnedRun t n = (List.range m).map fun j => k + j by
    obtain ⟨m, hm, hpos, -, heq⟩ := hrun
    exact ⟨m, hm, hpos, heq⟩
  induction n with
  | zero => exact ⟨0, le_rfl, id, fun _ => rfl, rfl⟩
  | succ n ih =>
    obtain ⟨m, hm, hpos, hfull, heq⟩ := ih
    have hcond : (t.returned != [] && (List.range (n + 1)).all (fun i => t.returned.contains (k + n - i))) = true ↔ ∀ i < n + 1, k + i ∈ t.returned := by
      have hall : (∀ i < n + 1, k + n - i ∈ t.returned) ↔ ∀ i < n + 1, k + i ∈ t.returned := by
        refine ⟨fun ha i hi => ?_, fun ha i hi => ?_⟩
        · have := ha (n - i) (by omega)
          rwa [show k + n - (n - i) = k + i by omega] at this
        · have := ha (n - i) (by omega)
          rwa [show k + (n - i) = k + n - i by omega] at this
      simpa [h] using hall
    simp only [returnedRun, ← hk]
    by_cases hc : ∀ i < n + 1, k + i ∈ t.returned
    · have hmn : m = n := hfull fun i hi => hc i (by omega)
      rw [if_pos (hcond.mpr hc), heq, hmn]
      exact ⟨n + 1, le_rfl, fun _ => n.succ_pos, fun _ => rfl, by simp [List.range_succ]⟩
    · rw [if_neg (mt hcond.mp hc), heq]
      refine ⟨m, by omega, fun _ => ?_, fun ha => absurd ha hc, rfl⟩
      rcases n.eq_zero_or_pos with rfl | hn
      · exact absurd (fun i hi => by rw [show i = 0 by omega]; exact hhead) hc
      · exact hpos hn

section RangeRequest
variable {s : State} {die slot n : Nat} {t : Task} (ht : s.task? slot = some t) (hlive : s.plat.failed = false) (hdie : die < 4)
  (hup : s.disp.deadDies.contains die = false) (hn : 0 < n) (hn' : n ≤ 64) (hun : t.unplaced = true) (hroom : dieRoom s t die = true)
include ht hlive hdie hup hn hn' hun hroom

theorem rangeRequest_of_returned (h : t.returned ≠ []) : exec (.rangeRequest die slot n) s = .next (s.updTask slot fun t' =>
    { t' with returned := t'.returned.filter (!(returnedRun t n).contains ·), granted := t'.granted ++ (returnedRun t n).map fun k => (die, k) }) := by
  rw [exec_rangeRequest, execRangeRequest, ht]
  dsimp only
  have hup' : die ∉ s.disp.deadDies := by simpa using hup
  rw [if_neg (by simp [hlive, hup', hun, hroom]; omega), if_pos (by simpa using h)]

theorem rangeRequest_of_new (h : t.returned = []) (hk : t.nextKid + n ≤ t.lr.gangs) : exec (.rangeRequest die slot n) s = .next (s.updTask slot fun t' =>
    { t' with nextKid := t'.nextKid + n, granted := t'.granted ++ (List.range n).map fun k => (die, t'.nextKid + k) }) := by
  rw [exec_rangeRequest, execRangeRequest, ht]
  dsimp only
  have hup' : die ∉ s.disp.deadDies := by simpa using hup
  rw [if_neg (by simp [hlive, hup', hun, hroom]; omega), if_neg (by simpa using h), if_pos hk]

end RangeRequest

/-! ### What placement leaves as it was -/

/-- Nothing differs but blocks, tasks, copies, the dispatcher and its choices, and the recorder's data. -/
def OnlyPlacing (s t : State) : Prop := t = { s with
  free := t.free, ids := t.ids, blocks := t.blocks, tasks := t.tasks, disp := t.disp, insts := t.insts, copyArb := t.copyArb, damask := t.damask }

namespace OnlyPlacing
variable {s t u : State}

theorem refl (s : State) : OnlyPlacing s s := rfl
theorem trans (h : OnlyPlacing s t) (k : OnlyPlacing t u) : OnlyPlacing s u := by
  unfold OnlyPlacing at *; rw [k, h]
theorem mem (h : OnlyPlacing s t) : t.mem = s.mem := by rw [h]
theorem groups (h : OnlyPlacing s t) : t.groups = s.groups := by rw [h]
theorem gangs (h : OnlyPlacing s t) : t.gangs = s.gangs := by rw [h]

theorem foldS {α : Type} (s : State) (l : List α) (f : State → α → State) (h : ∀ x a, OnlyPlacing x (f x a)) : OnlyPlacing s (foldS s l f) :=
  foldS_keeps (P := OnlyPlacing s) (fun x a hx => hx.trans (h x a)) l (refl s)

theorem updTask (s : State) (k : Nat) (f : Task → Task) : OnlyPlacing s (s.updTask k f) := rfl
theorem updBlock (s : State) (b : BlockId) (f : Block → Block) : OnlyPlacing s (s.updBlock b f) := rfl
theorem disp (s : State) (d : Disp) : OnlyPlacing s { s with disp := d } := rfl
theorem freshFree (s : State) : OnlyPlacing s (freshFree s).2 := rfl

end OnlyPlacing

/-- What every step of a fold that can stop keeps, a fold that does not stop keeps. -/
theorem foldBind_keeps {α : Type} {P : State → Prop} {f : State → α → Option State} (h : ∀ s a u, P s → f s a = some u → P u) (l : List α)
    {s u : State} (hs : P s) (hu : l.foldl (fun o a => o.bind fun s => f s a) (some s) = some u) : P u := by
  have hnone : ∀ l : List α, l.foldl (fun o a => o.bind fun s => f s a) none = none := fun l => by induction l <;> simp_all
  induction l generalizing s with
  | nil => cases hu; exact hs
  | cons a l ih =>
    rw [List.foldl_cons, Option.bind_some] at hu
    cases ha : f s a with
    | none => rw [ha, hnone] at hu; cases hu
    | some v => exact ih (h s a v hs ha) (ha ▸ hu)

/-- A fold no step of which can stop does not stop. -/
theorem foldBind_isSome {α : Type} {f : State → α → Option State} (h : ∀ s a, (f s a).isSome = true) (l : List α) (s : State) :
    (l.foldl (fun o a => o.bind fun s => f s a) (some s)).isSome = true := by
  induction l generalizing s with
  | nil => rfl
  | cons a l ih =>
    obtain ⟨v, hv⟩ := Option.isSome_iff_exists.mp (h s a)
    rw [List.foldl_cons, Option.bind_some, hv]
    exact ih v

theorem onlyPlacing_emptyQueue (s : State) (clu q : Nat) : OnlyPlacing s (emptyQueue s clu q) := by
  unfold emptyQueue
  split
  · rfl
  · exact .refl s

theorem onlyPlacing_addInst (s : State) (t : Task) (k : Nat) (d : CopyDesc) (kid bid clu : Nat) : OnlyPlacing s (addInst s t k d kid bid clu) :=
  (onlyPlacing_emptyQueue s clu d.queue).trans rfl

/-- A tile of a stream input is the block's own: no tile of the gang is touched. -/
theorem onlyPlacing_tileAlloc {s u : State} {b : BlockId} {o : TileOp} (hl : o.level ≠ .gang) (h : tileAlloc s b o = .ok u) : OnlyPlacing s u := by
  unfold tileAlloc at h
  split at h
  next bl g hb hg =>
    split at h
    · cases h
    split at h
    · split at h
      · cases h; exact .refl s
      · cases h
    split at h
    · cases h
    dsimp only at h
    split at h
    next => split at h <;> cases h; rfl
    next => split at h <;> cases h; rfl
    next hgang => exact absurd hgang hl
  next => cases h

theorem onlyPlacing_startStreams {s u : State} {t : Task} {b : BlockId} {clu : Nat} (h : startStreams s t b clu = some u) : OnlyPlacing s u := by
  refine foldBind_keeps (P := OnlyPlacing s) (fun x a v hx hv => ?_) _ (.refl s) h
  dsimp only at hv
  split at hv
  · cases hv
  next s1 hs1 =>
    cases hv
    have htile := onlyPlacing_tileAlloc (by dsimp only; split <;> simp) hs1
    exact ((hx.trans htile).trans (.updBlock ..)).trans (onlyPlacing_addInst ..)

/-- A block without stream inputs has no tile to be allocated. -/
theorem startStreams_of_none {t : Task} (h : ∀ y ∈ t.indexed, y.2.cls ≠ 1) (s : State) (b : BlockId) (clu : Nat) : startStreams s t b clu = some s := by
  have hnil : (t.indexed.filter fun x => x.2.cls == 1) = [] := List.filter_eq_nil_iff.mpr fun y hy => by simpa using h y hy
  simp only [startStreams, hnil, List.foldl_nil]

theorem onlyPlacing_replayPlace {s u : State} {t : Task} {p : Placement} (h : replayPlace s t p = some u) : OnlyPlacing s u := by
  unfold replayPlace at h
  split at h
  · cases h; exact .refl s
  · refine foldBind_keeps (P := OnlyPlacing s) (fun x a v hx hv => ?_) _ (.refl s) h
    dsimp only at hv
    split at hv
    · cases hv
    · cases hv; exact hx.trans rfl

theorem onlyPlacing_ageHeads (s : State) (placed clu : Nat) : OnlyPlacing s (ageHeads s placed clu) := by
  unfold ageHeads
  dsimp only
  have hages (l : List Nat) : OnlyPlacing s
      (foldS (s.updTask placed fun t => { t with age := 0 }) l fun s h => s.updTask h fun t => { t with age := t.age + 1 }) :=
    (OnlyPlacing.updTask ..).trans (.foldS _ _ _ fun _ _ => .updTask ..)
  exact ((hages _).trans (.disp ..)).trans (.foldS _ _ _ fun x h => (OnlyPlacing.freshFree x).trans (.disp ..))

/-! ### The groups of a placed gang (R96) -/

/-- A group as the placement starts it, with its first chunk. -/
def startedGroup (t : Task) (p : Placement) (x : Nat × Nat × BlockPlace × Nat × Nat) (ch : Chunk) : Group :=
  (freshGroup x.2.2.2.2 ⟨p.gang, x.1⟩ x.2.1 (4 * x.2.2.1.cu + x.2.2.2.1) t.lr).updEnt 0 fun e => { e with chunk := ch }

/-- It starts on its own partition, with s0 the ARGPTR and every other register zero, and one fragment with all lanes at KENTRY. -/
theorem startedGroup_starts (t : Task) (p : Placement) (x : Nat × Nat × BlockPlace × Nat × Nat) (ch : Chunk) :
    let gr := startedGroup t p x ch
    gr.block = ⟨p.gang, x.1⟩ ∧ gr.gix = x.2.1 ∧ gr.part = 4 * x.2.2.1.cu + x.2.2.2.1 ∧ gr.vregs = t.lr.vregs ∧ gr.status = .resident
      ∧ (∀ n, gr.regs.getS n = if n = 0 then t.lr.argptr else 0) ∧ (∀ n, gr.regs.getV n = vzero) ∧ (∀ n, n ≠ 15 → gr.regs.getQ n = 0)
      ∧ (gr.ent 0).valid = true ∧ (gr.ent 0).pc = t.lr.kentry ∧ (gr.ent 0).mask = allLanes ∧ (gr.ent 0).own = allLanes
      ∧ ∀ k, k ≠ 0 → (gr.ent k).valid = false := by
  refine ⟨rfl, rfl, rfl, rfl, rfl, fun n => ?_, fun _ => rfl, fun n hn => if_neg hn, rfl, rfl, rfl, rfl, fun k hk => ?_⟩
  · by_cases h : n = 0
    · subst h; rfl
    · rw [if_neg h]
      exact congrArg (Option.getD · 0) (if_neg (Ne.symm h))
  · obtain ⟨j, rfl⟩ := Nat.exists_eq_add_one_of_ne_zero hk
    simp only [startedGroup, Group.ent, Group.updEnt, freshGroup, groupEnts, List.modify_zero_cons, List.getD_eq_getElem?_getD,
      List.getElem?_cons_succ, List.getElem?_replicate]
    split <;> rfl

/-- A group of the gang starts, and its PLACE record goes to the recorder. -/
theorem startGroup_eq (s : State) (t : Task) (p : Placement) (x : Nat × Nat × BlockPlace × Nat × Nat) :
    ∃ ch d, startGroup s t p x = { s with groups := s.groups.put x.2.2.2.2 (startedGroup t p x ch), damask := d } := by
  unfold startGroup
  dsimp only
  split <;> exact ⟨_, _, rfl⟩

/-- Only groups start. -/
theorem startGroups_only (s : State) (t : Task) (p : Placement) (l : List (Nat × Nat × BlockPlace × Nat × Nat)) :
    ∃ gs d, foldS s l (fun s x => startGroup s t p x) = { s with groups := gs, damask := d } := by
  refine foldS_keeps (P := fun u => ∃ gs d, u = { s with groups := gs, damask := d }) (fun u x hu => ?_) l ⟨_, _, rfl⟩
  obtain ⟨gs, d, rfl⟩ := hu
  obtain ⟨ch, d', hx⟩ := startGroup_eq { s with groups := gs, damask := d } t p x
  exact ⟨_, _, hx⟩

theorem group?_startGroup (s : State) (t : Task) (p : Placement) (x : Nat × Nat × BlockPlace × Nat × Nat) :
    ∃ ch, ∀ g, (startGroup s t p x).group? g = if g = x.2.2.2.2 then some (startedGroup t p x ch) else s.group? g := by
  obtain ⟨ch, d, hx⟩ := startGroup_eq s t p x
  exact ⟨ch, fun g => by rw [hx]; exact AList.find?_put ..⟩

/-- Under numbers of their own, all of them are there in the end. -/
theorem group?_startGroups {t : Task} {p : Placement} {l : List (Nat × Nat × BlockPlace × Nat × Nat)} (hl : (l.map fun x => x.2.2.2.2).Nodup) (s : State) :
    (∀ x ∈ l, ∃ ch, (foldS s l fun s x => startGroup s t p x).group? x.2.2.2.2 = some (startedGroup t p x ch))
      ∧ ∀ g, g ∉ (l.map fun x => x.2.2.2.2) → (foldS s l fun s x => startGroup s t p x).group? g = s.group? g := by
  induction l generalizing s with
  | nil => exact ⟨nofun, fun _ _ => rfl⟩
  | cons y l ih =>
    obtain ⟨hy, hl'⟩ := List.nodup_cons.mp hl
    obtain ⟨ch, hstart⟩ := group?_startGroup s t p y
    obtain ⟨hin, hout⟩ := ih hl' (startGroup s t p y)
    refine ⟨fun x hx => ?_, fun g hg => ?_⟩
    · rcases List.mem_cons.mp hx with rfl | hx
      · exact ⟨ch, (hout _ hy).trans ((hstart _).trans (if_pos rfl))⟩
      · exact hin x hx
    · obtain ⟨hne, hg⟩ := not_or.mp (mt List.mem_cons.mpr hg)
      exact (hout g hg).trans ((hstart g).trans (if_neg hne))

theorem placedGroups_nodup {s : State} {t : Task} {p : Placement} (h : placementOk s t p = true) :
    ((placedGroups p).map fun x => x.2.2.2.2).Nodup := by
  have hn : numbersOk s t p = true := by
    simp only [placementOk, Bool.and_eq_true] at h
    exact h.1.2
  simp only [numbersOk, Bool.and_eq_true, beq_iff_eq] at hn
  have hd := (List.dedup_sublist ((placedGroups p).map fun x => x.2.2.2.2)).eq_of_length hn.1
  exact hd ▸ List.nodup_dedup _

/-! ### GANG_PLACE -/

/-- The gang is there under its logical cluster, its groups are started, and memory is as it was. -/
theorem placeGang_places {s u : State} {t : Task} {p : Placement} (hn : ((placedGroups p).map fun x => x.2.2.2.2).Nodup)
    (h : placeGang s t p = some u) : u.mem = s.mem ∧ u.gang? p.gang = some { id := p.gang, lclu := p.lclu }
      ∧ ∀ x ∈ placedGroups p, ∃ ch, u.group? x.2.2.2.2 = some (startedGroup t p x ch) := by
  unfold placeGang at h
  dsimp only at h
  set s1 : State := { s with gangs := _, blocks := _, frz := _ } with hs1
  have honly := foldBind_keeps (P := OnlyPlacing _) (fun x a v hx hv => hx.trans (onlyPlacing_startStreams hv)) _ (.refl _) h
  obtain ⟨gs, d, heq⟩ := startGroups_only s1 t p (placedGroups p)
  obtain ⟨hin, -⟩ := group?_startGroups (t := t) hn s1
  refine ⟨?_, ?_, fun x hx => ?_⟩
  · rw [honly.mem, updTask_mem, heq]
  · rw [State.gang?, honly.gangs, updTask_gangs, heq]
    exact AList.find?_put_self ..
  · rw [State.group?, honly.groups, updTask_groups]
    exact hin x hx

theorem placeGang_of_no_streams {t : Task} (h : ∀ y ∈ t.indexed, y.2.cls ≠ 1) (s : State) (p : Placement) : (placeGang s t p).isSome = true :=
  foldBind_isSome (fun s b => by rw [startStreams_of_none h]; rfl) _ _

section GangPlace
variable {s s0 u : State} {p : Placement} {d : Disp} {t : Task} (ht : s.task? p.gang.slot = some t) (hnext : nextPlace s t p = some d)
  (hindex : t.relaunchPending.contains p.gang.kid = true ∨ nextIndex t (dieOfClu p.cluster) = some p.gang.kid) (hlive : s.plat.failed = false)
  (hcap : s.plat.capHold = false) (hstall : slotStalls s t.slot = false) (hun : t.unplaced = true) (hok : placementOk s t p = true)
  (hlog : replayPlace s t p = some s0) (hfit : placeGang { s0 with disp := d } t p = some u)
include ht hnext hindex hlive hcap hstall hun hok hlog hfit

theorem gangPlace_of_fits : exec (.gangPlace p) s = .next (ageHeads u t.slot p.cluster) := by
  have hix : (t.relaunchPending.contains p.gang.kid || nextIndex t (dieOfClu p.cluster) == some p.gang.kid) = true := by
    rcases hindex with h | h
    · rw [h, Bool.true_or]
    · rw [h, beq_self_eq_true, Bool.or_true]
  rw [exec_gangPlace, execGangPlace, ht]
  dsimp only
  rw [if_neg (by rw [hlive, hcap, hstall, hun, hix, hok]; decide), hnext, hlog]
  dsimp only
  rw [hfit]

omit ht hnext hindex hlive hcap hstall hun in
/-- The gang and its groups as the step leaves them. -/
theorem gangPlaced : (ageHeads u t.slot p.cluster).mem = s.mem ∧ (ageHeads u t.slot p.cluster).gang? p.gang = some { id := p.gang, lclu := p.lclu }
    ∧ ∀ x ∈ placedGroups p, ∃ ch, (ageHeads u t.slot p.cluster).group? x.2.2.2.2 = some (startedGroup t p x ch) := by
  obtain ⟨hmem, hgang, hgroups⟩ := placeGang_places (placedGroups_nodup hok) hfit
  have hage := onlyPlacing_ageHeads u t.slot p.cluster
  refine ⟨hage.mem.trans (hmem.trans (onlyPlacing_replayPlace hlog).mem), ?_, fun x hx => ?_⟩
  · rw [State.gang?, hage.gangs]; exact hgang
  · rw [State.group?, hage.groups]; exact hgroups x hx

end GangPlace

end Sys2Proof.Machine

namespace Sys2Proof.Proofs
open Sys2Proof Sys2Proof.Machine

/-- Settles O44: a placement that fits places its gang and starts its groups (`gangPlaced`, `startedGroup_starts`), and one without stream inputs
fits (`placeGang_of_no_streams`); what a failed die gave back goes out as one run (`returnedRun_eq_range`). -/
theorem gangsArePlaced : Obligations.GangsArePlaced := by
  unfold Obligations.GangsArePlaced
  refine ⟨fun s p d t s0 ht hslot hnext hindex hlive hcap hstall hun hok hlog => ⟨fun h => placeGang_of_no_streams h _ p, fun hfits => ?_⟩,
    fun s die slot n t ht hlive hdie hup hn hn' hun hroom => ⟨fun h hk => ?_, fun h => ?_⟩⟩
  · obtain ⟨u, hfit⟩ := Option.isSome_iff_exists.mp hfits
    obtain ⟨hmem, hgang, hgroups⟩ := gangPlaced hok hlog hfit
    refine ⟨_, gangPlace_of_fits ht hnext hindex hlive hcap hstall hun hok hlog hfit, hmem, ⟨_, hgang, rfl, rfl⟩, fun x hx => ?_⟩
    obtain ⟨ch, hgr⟩ := hgroups x hx
    exact ⟨_, hgr, startedGroup_starts t p x ch⟩
  · refine ⟨_, _, rangeRequest_of_new ht hlive hdie hup hn hn' hun hroom h hk, task?_updTask_of_some ht _, rfl, rfl⟩
  · obtain ⟨m, hm, hpos, hrun⟩ := returnedRun_eq_range h n
    have hfirst := sortNat_headD_mem h
    refine ⟨_, _, rangeRequest_of_returned ht hlive hdie hup hn hn' hun hroom h, task?_updTask_of_some ht _, rfl,
      ⟨_, m, hpos hn, hm, hfirst, ?_⟩, fun j => ?_⟩
    · rw [hrun, List.map_map]; rfl
    · simp

end Sys2Proof.Proofs

/-! Reports, system calls, and the steps that the dispatcher and the copy engines take by themselves. -/

namespace Sys2Proof.Machine
open Sys2Proof Sys2Proof.Safety

/-! ### Chunks and flags (R219, R220) -/

theorem startNo_of_findInst {s : State} {i : Nat} {x : Inst} (h : findInst s i = some x) : x.startNo = i := by
  simpa using List.find?_some h

/-- A move that lands in a tile, or writes some of its lines. -/
def Move.moves (m : Move) : Prop := (∃ bs rd, m = .tile bs rd) ∨ ∃ bs rd ps, m = .mem bs rd ps

theorem copyChunk_of_moves {s : State} {i : Nat} {x : Inst} {a : CopyArb} (hx : findInst s i = some x)
    (hnext : copyNext s x.clu 9 (arbOf s x.clu) = some (x, a)) (hlog : loggedCopyFault s x = none) (hmove : (nextMove s x).moves) :
    ∃ t, exec (.copyChunk i) s = .next t := by
  rw [exec_copyChunk, execCopyChunk, hx]
  dsimp only
  rw [hnext]
  dsimp only
  rw [if_neg (not_not.mpr (startNo_of_findInst hx)), hlog]
  dsimp only
  rcases hmove with ⟨bs, rd, h⟩ | ⟨bs, rd, ps, h⟩ <;> rw [h]
  · exact ⟨_, rfl⟩
  · dsimp only
    split <;> exact ⟨_, rfl⟩

/-- A flag in memory is written, or its fault is found, once the write has its turn. -/
theorem flagMem_of_turn {s : State} {x : Inst} (h : ∃ bs rd ps, flagMove s x = .mem bs rd ps) : ∃ t, flagMem s x = .next t := by
  obtain ⟨bs, rd, ps, hmove⟩ := h
  unfold flagMem
  dsimp only
  split
  · exact ⟨_, rfl⟩
  · rw [hmove]
    dsimp only
    split <;> exact ⟨_, rfl⟩

theorem copyFlagWrite_of_moved {s : State} {i : Nat} {x : Inst} (hx : findInst s i = some x) (hmoved : x.moved = true) (hgo : x.stopped = false)
    (hpage : x.waitPage = none) (hflag : x.flagDone = false) (hrun : x.runs s = true) (hlog : loggedCopyFault s x = none)
    (hturn : x.desc.fkind ≠ 1 ∨ ∃ bs rd ps, flagMove s x = .mem bs rd ps) : ∃ t, exec (.copyFlagWrite i) s = .next t := by
  rw [exec_copyFlagWrite, execCopyFlagWrite, hx]
  dsimp only
  rw [if_neg (by rw [hmoved, hgo, hflag, hrun]; decide), hlog]
  dsimp only
  rw [if_neg (by rw [hpage]; decide)]
  split
  · exact ⟨_, rfl⟩
  split
  next hmem => exact flagMem_of_turn (hturn.resolve_left (not_not.mpr hmem))
  next => exact ⟨_, rfl⟩

/-! ### The translation ahead (R217, R221) -/

theorem onlyEngine_addClaim (s : State) (a w : Nat) : OnlyEngine s (addClaim s a w) := rfl

theorem onlyEngine_dropWords (s : State) (cu line : Nat) (words : BitVec 32) : OnlyEngine s (dropWords s cu line words) := by
  unfold dropWords
  split
  · exact .refl s
  · dsimp only
    split <;> rfl

theorem onlyEngine_dropEverywhere (s : State) (ws : List Nat) : OnlyEngine s (dropEverywhere s ws) :=
  onlyEngine_foldS _ _ _ fun _ _ => onlyEngine_dropWords ..

/-- A claim is the memory engine's record. -/
theorem onlyEngine_claimPage (s : State) (x : Inst) (e : TlbEnt) : OnlyEngine s (claimPage s x e).1 :=
  (onlyEngine_foldS _ _ _ fun _ _ => onlyEngine_addClaim ..).trans (onlyEngine_dropEverywhere ..)

theorem onlyEngine_leafAhead (s : State) (clu pasid va : Nat) : OnlyEngine s (leafAhead s clu pasid va).1 := by
  unfold leafAhead
  split
  · exact .refl s
  · split
    · exact .refl s
    · dsimp only
      split
      · exact OnlyEngine.trans (t := cacheWalk s (dieOfClu clu) pasid (walkCached s (dieOfClu clu) pasid va).2) rfl (onlyEngine_setTlb _ true clu _)
      · rfl

/-- A page that may be claimed, or whose walk fails, is noted, and no byte of memory changes. -/
theorem walkAhead_of_claimMay {s : State} {x : Inst} {page : Nat} (h : ∀ e, (leafAhead s x.clu (x.pasid s) (page * 4096)).2 = some e →
    claimMay (leafAhead s x.clu (x.pasid s) (page * 4096)).1 (x.noteWalk (e.va / 4096) (e.size / 4096)) e = true) :
    ∃ t, walkAhead s x page = .next t ∧ t.mem = s.mem := by
  have hleaf := onlyEngine_leafAhead s x.clu (x.pasid s) (page * 4096)
  unfold walkAhead
  dsimp only
  split
  next e he =>
    rw [if_neg (by rw [h e he]; decide)]
    exact ⟨_, rfl, (hleaf.trans (onlyEngine_claimPage ..)).mem⟩
  next => exact ⟨_, rfl, hleaf.mem⟩

theorem ttuTranslate_of_wanted {s : State} {i page : Nat} {x : Inst} {w : Bool} (hx : findInst s i = some x) (hgo : x.stopped = false)
    (hmoved : x.moved = false) (hrun : x.runs s = true) (hahead : x.walked.length < 64) (hnew : x.walked.contains page = false)
    (hwant : nextWant x = some (.page page w)) : exec (.ttuTranslate i page) s = walkAhead s x page := by
  rw [exec_ttuTranslate, execTtuTranslate, hx]
  dsimp only
  rw [if_neg (by rw [hgo, hmoved, hrun]; decide), hnew, Bool.false_and, if_neg Bool.false_ne_true, hwant]
  dsimp only
  rw [if_neg (by omega)]

/-! ### Reports (R107) -/

theorem leBytes_length (n x : Nat) : (leBytes n x).length = n := by
  induction n generalizing x with
  | zero => rfl
  | succ n ih => rw [leBytes, List.length_cons, ih]

/-- A change of tasks that is done twice is done once. -/
theorem task?_foldS_updTask {f : Task → Task} (hf : ∀ t, f (f t) = f t) (l : List Nat) (s : State) (k : Nat) :
    (foldS s l fun s k => s.updTask k f).task? k = if k ∈ l then (s.task? k).map f else s.task? k := by
  unfold foldS
  induction l generalizing s with
  | nil => rfl
  | cons a l ih =>
    rw [List.foldl_cons, ih, task?_updTask]
    by_cases ha : k = a
    · subst ha
      cases s.task? k <;> simp [hf]
    · simp [ha]

theorem foldS_updTask_only (f : Task → Task) (l : List Nat) (s : State) :
    ∃ ts, (foldS s l fun s k => s.updTask k f) = { s with tasks := ts } :=
  foldS_keeps (P := fun u => ∃ ts, u = { s with tasks := ts }) (fun u k hu => by obtain ⟨ts, rfl⟩ := hu; exact ⟨_, rfl⟩) l ⟨_, rfl⟩

theorem reportEntry_length (s : State) (x : Queue) (t : Task) : (reportEntry s x t).length = 32 := by
  simp [reportEntry, leBytes_length]

/-- A report stands for its own task. -/
theorem mem_reportTasks_self {s : State} {t : Task} (ht : s.task? t.slot = some t) : t.slot ∈ (reportTasks s t).map (·.slot) := by
  have hself : t ∈ reportTasks s t := by
    simp only [reportTasks, List.mem_map, List.mem_filter]
    exact ⟨(t.slot, t), ⟨AList.mem_of_find? ht, by simp⟩, rfl⟩
  exact List.mem_map_of_mem hself

/-- Tasks give their slots back, the graph store is swept, and the queue's interrupt is raised if it asks for one. -/
def giveSlotsBack (s : State) (l : List Nat) (q : Nat) (irq : Bool) : State :=
  let s1 := sweepVersions (foldS s l fun s k => s.updTask k fun y => { y with reported := true })
  if irq then raiseMsi s1 q else s1

theorem giveSlotsBack_only (s : State) (l : List Nat) (q : Nat) (irq : Bool) : ∃ ts vs ms, giveSlotsBack s l q irq =
    { s with tasks := ts, disp := { s.disp with versions := vs }, plat := { s.plat with msix := ms } } ∧ (irq = true → ms = q :: s.plat.msix) := by
  obtain ⟨ts, hts⟩ := foldS_updTask_only (fun y => { y with reported := true }) l s
  unfold giveSlotsBack
  rw [hts]
  cases irq
  · exact ⟨_, _, _, rfl, nofun⟩
  · exact ⟨_, _, _, rfl, fun _ => rfl⟩

theorem task?_giveSlotsBack (s : State) {l : List Nat} {k : Nat} (hk : k ∈ l) (q : Nat) (irq : Bool) :
    (giveSlotsBack s l q irq).task? k = (s.task? k).map fun y => { y with reported := true } := by
  have hfold := task?_foldS_updTask (f := fun y => { y with reported := true }) (fun _ => rfl) l s k
  rw [if_pos hk] at hfold
  rw [← hfold]
  cases irq <;> rfl

/-- The entry is in its ring; the tasks that it stands for still hold their slots. -/
def withEntry (s : State) (q : Nat) (x : Queue) (t : Task) : State :=
  { s with hostMem := s.hostMem.putN (x.cmp + 32 * (x.written % 2 ^ (x.cmplog + 4))) (reportEntry s x t) }.setQueue q
    { x with written := (x.written + 1) % 2 ^ 32 }

theorem writeReport_eq (s : State) (q : Nat) (x : Queue) (t : Task) :
    writeReport s q x t = giveSlotsBack (withEntry s q x t) ((reportTasks s t).map (·.slot)) q x.irq := rfl

/-- The entry lies at its place in the completion ring. -/
theorem hostMem_withEntry {s : State} (hwf : s.hostMem.wf = true) (q : Nat) (x : Queue) (t : Task) {k : Nat} (hk : k < 32) :
    (withEntry s q x t).hostMem.get (x.cmp + 32 * (x.written % 2 ^ (x.cmplog + 4)) + k) = (reportEntry s x t).getD k 0 := by
  have hin : k < (reportEntry s x t).length := (reportEntry_length s x t).symm ▸ hk
  rw [withEntry, setQueue_hostMem]
  dsimp only
  generalize x.cmp + 32 * (x.written % 2 ^ (x.cmplog + 4)) = a
  exact Memory.get_putN_of_inside a k _ hwf hin

/-- A task that gives its slot back leaves memory, the rings and the queues. -/
theorem giveSlotsBack_effect {w : State} {k : Nat} {t : Task} {l : List Nat} (ht : w.task? k = some t) (hk : k ∈ l) (q : Nat) (irq : Bool) :
    (giveSlotsBack w l q irq).task? k = some { t with reported := true } ∧ (giveSlotsBack w l q irq).mem = w.mem
      ∧ (giveSlotsBack w l q irq).queueD q = w.queueD q ∧ (irq = true → (giveSlotsBack w l q irq).plat.msix = q :: w.plat.msix)
      ∧ (giveSlotsBack w l q irq).hostMem = w.hostMem := by
  obtain ⟨ts, vs, ms, hu, hirq⟩ := giveSlotsBack_only w l q irq
  refine ⟨by rw [task?_giveSlotsBack w hk, ht]; rfl, ?_⟩
  rw [hu]
  exact ⟨rfl, rfl, hirq, rfl⟩

/-- A report is in its ring, and its task has given its slot back. -/
theorem writeReport_effect {s : State} {t : Task} (ht : s.task? t.slot = some t) (hwf : s.hostMem.wf = true) (q : Nat) (x : Queue) :
    ∃ t', (writeReport s q x t).task? t.slot = some t' ∧ t'.reported = true ∧ (writeReport s q x t).mem = s.mem
      ∧ ((writeReport s q x t).queueD q).written = (x.written + 1) % 2 ^ 32 ∧ (x.irq = true → (writeReport s q x t).plat.msix = q :: s.plat.msix)
      ∧ ∀ k, k < 32 → (writeReport s q x t).hostMem.get (x.cmp + 32 * (x.written % 2 ^ (x.cmplog + 4)) + k) = (reportEntry s x t).getD k 0 := by
  have hcount : ((withEntry s q x t).queueD q).written = (x.written + 1) % 2 ^ 32 := by
    simp only [withEntry, queueD_setQueue, if_pos]
  have htask : (withEntry s q x t).task? t.slot = some t := by rw [withEntry, State.task?, setQueue_tasks]; exact ht
  have hkeep : (withEntry s q x t).mem = s.mem ∧ (withEntry s q x t).plat = s.plat := by
    rw [withEntry, setQueue_mem, setQueue_plat]; exact ⟨rfl, rfl⟩
  obtain ⟨hback, hmem, hqueue, hirq, hhost⟩ := giveSlotsBack_effect htask (mem_reportTasks_self ht) q x.irq
  rw [writeReport_eq]
  refine ⟨_, hback, rfl, hmem.trans hkeep.1, by rw [hqueue, hcount], fun h => by rw [hirq h, hkeep.2], fun k hk => ?_⟩
  rw [hhost]
  exact hostMem_withEntry hwf q x t hk

theorem reportWrite_of_ready {s : State} {q : Nat} {t : Task} (hnext : reportNext s q = some t) (hdone : t.st = .done) (hlive : s.plat.failed = false)
    (hhalt : queueHalted s q t = false) (hkilled : ∀ y ∈ reportTasks s t, hubOwes s (killedKey y.slot) = false) (howed : owedDevices s t = [])
    (hfab : hubOwes s (reportKey t.slot) = false) (hlink : s.plat.linkUp = true) (hroom : reportRoom (s.queueD q) = true) :
    exec (.reportWrite q) s = .next (wakeAll (writeReport s q (s.queueD q) t)) := by
  have hnone : (((reportTasks s t).map (·.slot)).any fun k => hubOwes s (killedKey k)) = false := by
    simpa using hkilled
  rw [exec_reportWrite, execReportWrite, hnext]
  dsimp only
  rw [if_neg (by rw [hlive, hhalt]; simp [hdone]), if_neg (by rw [hnone]; decide), howed, if_neg (by decide),
    if_neg (by rw [hfab, hlink, hroom]; decide)]

/-! ### System calls (R106) -/

theorem scRequest_length (j handle g : Nat) (p : POp) : (scRequest j handle g p).length = 64 := by
  simp [scRequest, leBytes_length, List.range_succ]

/-- The state with a request in its ring, and the fragment waiting for the reply. -/
def withRequest (s : State) (g e n : Nat) (x : ScSet) (t : Task) (p : POp) : State :=
  putEnt (putSet { s with hostMem := s.hostMem.putN (x.rqb + 64 * (x.rqt % 2 ^ x.log)) (scRequest (x.rqt + 1) t.handle g p) } n
    { x with rqt := x.rqt + 1, waitingFor := x.waitingFor ++ [(x.rqt + 1, g, e)] }) g e fun y => { y with park := .op { p with phase := 2, aux := x.rqt + 1 } }

theorem syscallRequest_of_room {s : State} {g e n : Nat} {gr : Group} {p : POp} {x : ScSet} {t : Task} (hg : s.group? g = some gr)
    (he : (gr.frags.find? fun e => match trapOf gr e with | some p => p.phase == 1 | none => false) = some e) (hp : trapOf gr e = some p)
    (hset : setOfPasid s (pasidOf s gr.block.gang.slot) = some (n, x)) (ht : taskOf s gr = some t)
    (hroom : (x.rqt + 2 ^ 32 - x.rqh % 2 ^ 32) % 2 ^ 32 < 2 ^ x.log) (hlink : s.plat.linkUp = true) (hlive : s.plat.failed = false)
    (hreach : reachable s gr = true) : exec (.syscallRequest g) s = .next
      (if (s.queueD t.queue).irq then raiseMsi (withRequest s g e n x t p) t.queue else withRequest s g e n x t p) := by
  rw [exec_syscallRequest, execSyscallRequest, hg]
  dsimp only
  split
  next hnone => exact absurd (he.symm.trans hnone) (Option.some_ne_none e)
  next e' he' =>
  obtain rfl := Option.some.inj (he.symm.trans he')
  rw [hp, hset, ht]
  dsimp only
  rw [decide_eq_true hroom, hlink, hlive, hreach]
  unfold withRequest
  exact if_pos rfl

theorem withRequest_effect {s : State} {g e : Nat} {gr : Group} (hg : s.group? g = some gr) (he : e < gr.ents.length) (hwf : s.hostMem.wf = true)
    (n : Nat) (x : ScSet) (t : Task) (p : POp) :
    ∃ gr', (withRequest s g e n x t p).group? g = some gr' ∧ gr'.regs = gr.regs ∧ (gr'.ent e).park = .op { p with phase := 2, aux := x.rqt + 1 }
      ∧ ((withRequest s g e n x t p).disp.sets.get n {}).rqt = x.rqt + 1
      ∧ ∀ k, k < 64 → (withRequest s g e n x t p).hostMem.get (x.rqb + 64 * (x.rqt % 2 ^ x.log) + k) = (scRequest (x.rqt + 1) t.handle g p).getD k 0 := by
  have hset (h : Memory) (y : ScSet) : (putSet { s with hostMem := h } n y).group? g = some gr := hg
  refine ⟨gr.updEnt e fun y => { y with park := .op { p with phase := 2, aux := x.rqt + 1 } }, ?_, rfl, ?_, ?_, fun k hk => ?_⟩
  · exact group?_putEnt (hset _ _) e _
  · rw [ent_updEnt_self _ he]
  · simp only [withRequest, putEnt, putSet, updGroup_disp, AList.get_put, if_pos]
  · have hin : k < (scRequest (x.rqt + 1) t.handle g p).length := (scRequest_length ..).symm ▸ hk
    simp only [withRequest, putEnt, putSet, updGroup_hostMem]
    generalize x.rqb + 64 * (x.rqt % 2 ^ x.log) = a
    exact Memory.get_putN_of_inside a k _ hwf hin

/-- A step is parked nowhere when its cluster runs and its context is in no image. -/
theorem parkAt_eq_none_iff {s : State} {l vc : Nat} {ev : ParkEv} : parkAt s l vc ev = none ↔
    match physClu s l with | some c => (cluD s c).stopped = false | none => (s.frz.images.any fun im => im.lclu == l) = false := by
  unfold parkAt
  cases physClu s l <;> simp

/-- A step that is parked nowhere is parked nowhere whatever the rest of the state. -/
theorem parkForGroup_eq_none {s t : State} {g vc : Nat} {ev : ParkEv} (hgroups : t.groups = s.groups) (hgangs : t.gangs = s.gangs) (hfrz : t.frz = s.frz)
    (h : parkForGroup s g vc ev = none) : parkForGroup t g vc ev = none := by
  have hgroup : t.group? g = s.group? g := congrArg (AList.find? · g) hgroups
  unfold parkForGroup at *
  rw [hgroup]
  split at h
  next gr hgr =>
    rw [parkAt_eq_none_iff] at h
    simp only [hgr, parkAt_eq_none_iff, physClu, cluD, lcluOf, State.gang?, hgangs, hfrz] at *
    exact h
  next => rfl

theorem parkForGroup_putSet_eq_none {s : State} {g vc : Nat} {ev : ParkEv} (h : parkForGroup s g vc ev = none) (n : Nat) (y : ScSet) :
    parkForGroup (putSet s n y) g vc ev = none :=
  parkForGroup_eq_none (s := s) rfl rfl rfl h

theorem recording_of_no_partition {s : State} {slot : Nat} (h : partOfTask s slot = none) : recording s slot = none := by
  rw [recording, h, Option.bind_none]

/-- Of a task of no partition no value is recorded. -/
theorem valueRec_of_no_partition {s : State} {g : Nat} {gr : Group} (hg : s.group? g = some gr) (hp : partOfTask s gr.block.gang.slot = none)
    (e kind v aux : Nat) (data : List Byte) : valueRec s g e kind v aux data = s := by
  unfold valueRec
  rw [hg]
  dsimp only
  rw [recording_of_no_partition hp]

/-- A scalar register of a group is written, and its writer noted. -/
def Group.setScalar (gr : Group) (e n : Nat) (v : Word) : Group := { gr.landRegs (·.setS n v) with stag := AList.put gr.stag n e }

theorem writeS_of_no_partition {s : State} {g : Nat} {gr : Group} (hg : s.group? g = some gr) (hp : partOfTask s gr.block.gang.slot = none)
    {n : Nat} (hn : n < 60) (e : Nat) (v : Word) : writeS s g e n v = s.updGroup g fun gr => gr.setScalar e n v := by
  unfold writeS
  rw [if_neg (by omega), if_neg (by omega), noteShared, group?_updGroup, if_pos rfl, hg]
  dsimp only [Option.map_some]
  rw [recording_of_no_partition]
  · rfl
  · exact hp

/-- The state after a reply's two scalar registers have been written, the reply taken from its ring. -/
def withReply (s : State) (n : Nat) (y : ScSet) (g e : Nat) (v0 v1 : Word) : State :=
  ((putSet s n y).updGroup g fun gr => gr.setScalar e 0 v0).updGroup g fun gr => gr.setScalar e 1 v1

theorem syscallDone_of_no_partition {s : State} {g : Nat} {gr : Group} (hg : s.group? g = some gr) (hp : partOfTask s gr.block.gang.slot = none)
    (n : Nat) (y : ScSet) (e : Nat) (p : POp) (v0 v1 : Word) :
    syscallDone (putSet s n y) g e p v0 v1 true = wakeAll (settleRan g e p (.done (withReply s n y g e v0 v1))) := by
  have hg0 : (putSet s n y).group? g = some gr := hg
  have hg1 : ((putSet s n y).updGroup g fun gr => gr.setScalar e 0 v0).group? g = some (gr.setScalar e 0 v0) := by
    rw [group?_updGroup, if_pos rfl, hg0]; rfl
  rw [syscallDone, if_pos rfl, valueRec_of_no_partition hg0 hp, writeS_of_no_partition hg0 hp (by decide), writeS_of_no_partition hg1 hp (by decide)]
  rfl

theorem slotStalls_of_no_partition {s : State} {slot : Nat} (h : partOfTask s slot = none) : slotStalls s slot = false := by
  rw [slotStalls, recording_of_no_partition h, Option.any_none]

/-- A ring set whose reply to a request has been read. -/
def ScSet.answered (x : ScSet) (j : Nat) : ScSet := { x with rph := (x.rph + 1) % 2 ^ 32, waitingFor := x.waitingFor.filter fun w => w.1 != j }

theorem syscallReply_of_named {s : State} {n : Nat} {x : ScSet} {b : List Byte} {w : Nat × Nat × Nat} {gr : Group} {p : POp}
    (hx : s.disp.sets.get n {} = x) (hb : s.hostMem.getN (x.rpb + 32 * (x.rph % 2 ^ x.log)) 32 = b)
    (hlog : loggedCaller s x.pasid = none) (hen : x.en = true) (hlink : s.plat.linkUp = true) (hlive : s.plat.failed = false)
    (hmore : x.rph % 2 ^ 32 ≠ x.rpt % 2 ^ 32) (hw : (x.waitingFor.find? fun w => w.1 == fieldOf b 0 8) = some w)
    (hg : s.group? w.2.1 = some gr) (hp : trapOf gr w.2.2 = some p) (haux : p.aux = fieldOf b 0 8) (hstall : slotStalls s gr.block.gang.slot = false) :
    exec (.syscallReply n) s = .next ((parkForGroup (putSet s n (x.answered (fieldOf b 0 8))) w.2.1 0
        (.reply w.2.1 w.2.2 (BitVec.ofNat 64 (fieldOf b 8 8)) (BitVec.ofNat 64 (fieldOf b 0x10 8)))).getD
      (syscallDone (putSet s n (x.answered (fieldOf b 0 8))) w.2.1 w.2.2 p (BitVec.ofNat 64 (fieldOf b 8 8)) (BitVec.ofNat 64 (fieldOf b 0x10 8)) true)) := by
  subst hx hb
  rw [exec_syscallReply, execSyscallReply]
  dsimp only
  rw [hlog]
  dsimp only
  rw [if_neg (by rw [hen, hlink, hlive]; simpa using hmore), hw]
  dsimp only
  rw [hg]
  dsimp only
  rw [hp]
  dsimp only
  rw [if_neg (not_not.mpr haux), hstall, if_neg Bool.false_ne_true]
  rfl

/-- A reply replaces s0 and s1 of its group, and takes its entry off the ring. -/
theorem withReply_effect {s : State} {g : Nat} {gr : Group} (hg : s.group? g = some gr) (n : Nat) (y : ScSet) (e : Nat) (v0 v1 : Word) :
    ∃ gr', (withReply s n y g e v0 v1).group? g = some gr' ∧ gr'.regs.getS 0 = v0 ∧ gr'.regs.getS 1 = v1
      ∧ (∀ k, k ≠ 0 → k ≠ 1 → gr'.regs.getS k = gr.regs.getS k) ∧ gr'.ents = gr.ents
      ∧ ((withReply s n y g e v0 v1).disp.sets.get n {}).rph = y.rph := by
  have hset : (putSet s n y).group? g = some gr := hg
  refine ⟨(gr.setScalar e 0 v0).setScalar e 1 v1, ?_, ?_, ?_, ?_, rfl, ?_⟩
  · simp [withReply, hset]
  · simp [Group.setScalar, Group.landRegs]
  · simp [Group.setScalar, Group.landRegs]
  · intro k h0 h1
    simp [Group.setScalar, Group.landRegs, h0, h1]
  · simp only [withReply, putSet, updGroup_disp, AList.get_put, if_pos]

end Sys2Proof.Machine

namespace Sys2Proof.Proofs
open Sys2Proof Sys2Proof.Machine

/-- Settles O45, one lemma a clause: `gangPlace_of_fits`, `rangeRequest_of_returned` and `rangeRequest_of_new`, `copyChunk_of_moves`,
`copyFlagWrite_of_moved`, `walkAhead_of_claimMay`, `reportWrite_of_ready`, `syscallRequest_of_room`, and `syscallReply_of_named`. -/
theorem reportsAndSystemCalls : Obligations.ReportsAndSystemCalls := by
  unfold Obligations.ReportsAndSystemCalls
  refine ⟨fun s p d t s0 ht hslot hnext hlive hcap hstall hun hindex hok hlog hstream => ?_,
    fun s die slot n t ht hlive hdie hup hn hn' hun hroom hnew => ?_,
    fun s i x a hx hnext hlog hmove => copyChunk_of_moves hx hnext hlog hmove,
    fun s i x hx hmoved hgo hpage hflag hrun hlog hturn => copyFlagWrite_of_moved hx hmoved hgo hpage hflag hrun hlog hturn,
    fun s i x page w hx hgo hmoved hrun hahead hnew hwant hclaim => ?_,
    fun s q t hnext ht hdone hlive hhalt hkilled howed hfab hlink hwf hroom => ?_,
    fun s g gr e p n x t hg hfind he hp hset ht hroom hlink hlive hreach hwf => ?_,
    fun s n w gr p hlog hen hlink hlive hmore hw hg hp haux hpark hpart => ?_⟩
  · obtain ⟨u, hfit⟩ := Option.isSome_iff_exists.mp (placeGang_of_no_streams hstream { s0 with disp := d } p)
    obtain ⟨-, hgang, -⟩ := gangPlaced hok hlog hfit
    exact ⟨_, gangPlace_of_fits ht hnext hindex hlive hcap hstall hun hok hlog hfit, by rw [hgang]; rfl⟩
  · by_cases h : t.returned = []
    · exact ⟨_, rangeRequest_of_new ht hlive hdie hup hn hn' hun hroom h (hnew.resolve_left (not_not.mpr h)), rfl, rfl⟩
    · exact ⟨_, rangeRequest_of_returned ht hlive hdie hup hn hn' hun hroom h, rfl, rfl⟩
  · rw [ttuTranslate_of_wanted hx hgo hmoved hrun hahead hnew hwant]
    exact walkAhead_of_claimMay hclaim
  · obtain ⟨t', heffect⟩ := writeReport_effect ht hwf q (s.queueD q)
    exact ⟨_, t', reportWrite_of_ready hnext hdone hlive hhalt hkilled howed hfab hlink hroom, heffect⟩
  · obtain ⟨gr', hgr', hregs, hwait, hcount, hmem⟩ := withRequest_effect hg he hwf n x t p
    refine ⟨_, gr', syscallRequest_of_room hg hfind hp hset ht hroom hlink hlive hreach, ?_⟩
    generalize withRequest s g e n x t p = w at *
    split
    · exact ⟨hgr', hregs, hwait, hcount, hmem⟩
    · exact ⟨hgr', hregs, hwait, hcount, hmem⟩
  · have hstep := syscallReply_of_named rfl rfl hlog hen hlink hlive hmore hw hg hp haux (slotStalls_of_no_partition hpart)
    rw [parkForGroup_putSet_eq_none hpark n, Option.getD_none, syscallDone_of_no_partition hg hpart] at hstep
    obtain ⟨gr', heffect⟩ := withReply_effect hg n _ w.2.2 _ _
    exact ⟨_, gr', hstep, heffect⟩

end Sys2Proof.Proofs

/-! What the steps of O46 leave unchanged: the error log, the caches, an engine's write, and a CU's write-back. -/

namespace Sys2Proof.Machine
open Sys2Proof

/-! ### The caches and the error log -/

/-- Nothing differs but the caches and HBM, the host's memory, and the records of the debug unit and the platform: no byte of memory, no request. -/
structure OnlyCaches (s t : State) : Prop where
  eq : t = { s with hostMem := t.hostMem, hbm := t.hbm, parity := t.parity, m := t.m, ids := t.ids, dbg := t.dbg, plat := t.plat }
  reqs : t.m.reqs = s.m.reqs
  failed : t.plat.failed = s.plat.failed

namespace OnlyCaches
variable {s t u : State}

theorem refl (s : State) : OnlyCaches s s := ⟨rfl, rfl, rfl⟩

theorem trans (h : OnlyCaches s t) (k : OnlyCaches t u) : OnlyCaches s u :=
  ⟨by rw [k.eq, h.eq], k.reqs.trans h.reqs, k.failed.trans h.failed⟩

theorem foldS {α : Type} (s : State) (l : List α) {f : State → α → State} (h : ∀ x a, OnlyCaches x (f x a)) : OnlyCaches s (foldS s l f) :=
  foldS_keeps (fun x a hx => hx.trans (h x a)) l (refl s)

theorem mem (h : OnlyCaches s t) : t.mem = s.mem := by rw [h.eq]
theorem groups (h : OnlyCaches s t) : t.groups = s.groups := by rw [h.eq]
theorem gangs (h : OnlyCaches s t) : t.gangs = s.gangs := by rw [h.eq]
theorem tasks (h : OnlyCaches s t) : t.tasks = s.tasks := by rw [h.eq]
theorem disp (h : OnlyCaches s t) : t.disp = s.disp := by rw [h.eq]
theorem insts (h : OnlyCaches s t) : t.insts = s.insts := by rw [h.eq]
theorem mx (h : OnlyCaches s t) : t.mx = s.mx := by rw [h.eq]
theorem damask (h : OnlyCaches s t) : t.damask = s.damask := by rw [h.eq]
theorem frz (h : OnlyCaches s t) : t.frz = s.frz := by rw [h.eq]

end OnlyCaches

/-- Nothing differs but the host's memory and the platform's records. -/
structure OnlyLogged (s t : State) : Prop where
  eq : t = { s with hostMem := t.hostMem, plat := t.plat }
  failed : t.plat.failed = s.plat.failed

theorem OnlyLogged.trans {s t u : State} (h : OnlyLogged s t) (k : OnlyLogged t u) : OnlyLogged s u := ⟨by rw [k.eq, h.eq], k.failed.trans h.failed⟩

theorem onlyLogged_elWrite (s : State) (e : List Byte) : OnlyLogged s (elWrite s e) := ⟨rfl, rfl⟩

theorem onlyLogged_dropped (s : State) (n : Nat) : OnlyLogged s { s with plat := { s.plat with elDropped := n } } := ⟨rfl, rfl⟩

theorem onlyLogged_elPut (s : State) (e : List Byte) : OnlyLogged s (elPut s e) := by
  have hagain : OnlyLogged s (elWrite { s with plat := { s.plat with elDropped := 0 } } (elEntry 9 0 0xFFFFFF 0 s.plat.elDropped s.plat.time)) :=
    .trans (onlyLogged_dropped s 0) (onlyLogged_elWrite _ _)
  unfold elPut
  dsimp only
  generalize elWrite { s with plat := { s.plat with elDropped := 0 } } (elEntry 9 0 0xFFFFFF 0 s.plat.elDropped s.plat.time) = t at *
  split
  · exact onlyLogged_dropped ..
  split
  · exact onlyLogged_dropped ..
  split
  · exact onlyLogged_elWrite ..
  split
  · exact hagain.trans (onlyLogged_dropped ..)
  · exact hagain.trans (onlyLogged_elWrite ..)

theorem OnlyLogged.m {s t : State} (h : OnlyLogged s t) : t.m = s.m := by rw [h.eq]

theorem OnlyLogged.caches {s t : State} (h : OnlyLogged s t) : OnlyCaches s t := ⟨by rw [h.eq], by rw [h.eq], h.failed⟩

theorem onlyCaches_elPut (s : State) (e : List Byte) : OnlyCaches s (elPut s e) := (onlyLogged_elPut s e).caches

theorem onlyCaches_errLog (s : State) (kind cause agent task addr : Nat) : OnlyCaches s (errLog s kind cause agent task addr) := onlyCaches_elPut ..

theorem onlyCaches_memRecord (s : State) (pa kind stack chan : Nat) : OnlyCaches s (memRecord s pa kind stack chan) := by
  unfold memRecord
  extract_lets key n r
  exact OnlyCaches.trans (t := { s with m := { s.m with errCnt := s.m.errCnt.put key n, errRecs := s.m.errRecs ++ [r] } }) ⟨rfl, rfl, rfl⟩ (onlyCaches_elPut ..)

theorem onlyCaches_setTag (s : State) (w : Nat) (t : WordTag) : OnlyCaches s (setTag s w t) := ⟨rfl, rfl, rfl⟩

theorem onlyCaches_poisonLine (s : State) (line : Nat) : OnlyCaches s (poisonLine s line) := ⟨rfl, rfl, rfl⟩

theorem onlyCaches_withHbm (s : State) (h : Memory) : OnlyCaches s { s with hbm := h } := ⟨rfl, rfl, rfl⟩

theorem onlyCaches_hbmFetch (s : State) (line : Nat) (c : HbmCond) : OnlyCaches s (hbmFetch s line c) := by
  unfold hbmFetch
  extract_lets record second bad
  have hrecord (t : State) (kind : Nat) : OnlyCaches t (record t kind) := onlyCaches_memRecord ..
  split
  · split
    · exact (onlyCaches_poisonLine s line).trans (hrecord ..)
    · split
      · exact (onlyCaches_withHbm ..).trans (hrecord ..)
      · exact hrecord ..
  · split
    · exact hrecord ..
    · exact .refl s

theorem onlyCaches_enterL3 (s : State) (line : Nat) : OnlyCaches s (enterL3 s line) := by
  unfold enterL3
  exact OnlyCaches.trans (t := { s with m := { s.m with l3 := line :: s.m.l3 } }) ⟨rfl, rfl, rfl⟩ (.foldS _ _ fun _ _ => onlyCaches_setTag ..)

theorem onlyCaches_bringIn (s : State) (line : Nat) : OnlyCaches s (bringIn s line) := by
  unfold bringIn
  split
  · exact .refl s
  · exact (onlyCaches_hbmFetch s line .clean).trans (onlyCaches_enterL3 ..)

/-! ### What an engine of the hub writes -/

theorem watch_only (s : State) (what srcKind agent slot line : Nat) (words : BitVec 32) (extra : Nat) (grp : Option (Nat × Nat)) (blk : Option BlockId) :
    ∃ d, watch s what srcKind agent slot line words extra grp blk = { s with dbg := d } := by
  unfold watch
  split
  · exact ⟨_, rfl⟩
  · refine foldS_keeps (P := fun t => ∃ d, t = { s with dbg := d }) (fun t i ht => ?_) _ ⟨_, rfl⟩
    obtain ⟨d, rfl⟩ := ht
    dsimp only
    split <;> exact ⟨_, rfl⟩

/-- An access of the hub is compared with the watchpoints: only the debug unit may take note. -/
theorem watchHub_only (s : State) (what srcKind agent extra : Nat) (ws : List Nat) : ∃ d, watchHub s what srcKind agent extra ws = { s with dbg := d } := by
  unfold watchHub
  split
  · exact ⟨_, rfl⟩
  · refine foldS_keeps (P := fun t => ∃ d, t = { s with dbg := d }) (fun t l ht => ?_) _ ⟨_, rfl⟩
    obtain ⟨d, rfl⟩ := ht
    obtain ⟨d', h⟩ := watch_only { s with dbg := d } what srcKind agent (2 ^ 17) l (wmaskOf (ws.filter fun w => w / 32 == l)) extra none none
    exact ⟨d', h⟩

theorem onlyCaches_watchHub (s : State) (what srcKind agent extra : Nat) (ws : List Nat) : OnlyCaches s (watchHub s what srcKind agent extra ws) := by
  obtain ⟨d, h⟩ := watchHub_only s what srcKind agent extra ws
  rw [h]
  exact ⟨rfl, rfl, rfl⟩

/-- A memory with other bytes. -/
def State.withMem (s : State) (m : Memory) : State := { s with mem := m }

/-- An engine's write changes the bytes it names, and the caches. -/
theorem onlyCaches_engineStore (s : State) (pa : Nat) (bs : List Byte) : OnlyCaches (s.withMem (s.mem.putN pa bs)) (engineStore s pa bs) := by
  have hlines : OnlyCaches s (foldS s (linesOfWords (wordsOf pa bs.length)) bringIn) := .foldS _ _ onlyCaches_bringIn
  unfold engineStore
  dsimp only
  rw [hlines.mem]
  generalize foldS s (linesOfWords (wordsOf pa bs.length)) bringIn = t at *
  have hput : OnlyCaches (s.withMem (s.mem.putN pa bs)) (t.withMem (s.mem.putN pa bs)) :=
    ⟨by rw [State.withMem, hlines.eq]; rfl, hlines.reqs, hlines.failed⟩
  exact (hput.trans (.foldS _ _ fun _ _ => onlyCaches_setTag ..)).trans ⟨rfl, rfl, rfl⟩

theorem onlyCaches_engineWrite (s : State) (pa : Nat) (bs : List Byte) : OnlyCaches (s.withMem (s.mem.putN pa bs)) (engineWrite s pa bs) :=
  (onlyCaches_engineStore s pa bs).trans (onlyCaches_watchHub ..)

/-! ### A CU's L1 writes back -/

/-- Nothing differs but memory, the memory engine's records and the checkpoint's marks; a memory that is well formed stays so. -/
structure OnlyWrittenBack (s t : State) : Prop where
  eq : t = { s with mem := t.mem, m := t.m, ck := t.ck }
  wf : s.mem.wf = true → t.mem.wf = true

namespace OnlyWrittenBack
variable {s t u : State}

theorem refl (s : State) : OnlyWrittenBack s s := ⟨rfl, id⟩

theorem trans (h : OnlyWrittenBack s t) (k : OnlyWrittenBack t u) : OnlyWrittenBack s u := ⟨by rw [k.eq, h.eq], k.wf ∘ h.wf⟩

theorem foldS {α : Type} (s : State) (l : List α) {f : State → α → State} (h : ∀ x a, OnlyWrittenBack x (f x a)) : OnlyWrittenBack s (foldS s l f) :=
  foldS_keeps (fun x a hx => hx.trans (h x a)) l (refl s)

theorem groups (h : OnlyWrittenBack s t) : t.groups = s.groups := by rw [h.eq]
theorem gangs (h : OnlyWrittenBack s t) : t.gangs = s.gangs := by rw [h.eq]
theorem tasks (h : OnlyWrittenBack s t) : t.tasks = s.tasks := by rw [h.eq]
theorem disp (h : OnlyWrittenBack s t) : t.disp = s.disp := by rw [h.eq]

end OnlyWrittenBack

theorem onlyWrittenBack_writeBackLine (s : State) (cu line : Nat) : OnlyWrittenBack s (writeBackLine s cu line) := by
  unfold writeBackLine
  split
  · exact .refl s
  next l _ =>
    dsimp only
    have hbytes : OnlyWrittenBack s (l.data.foldl (fun s p => { s with mem := s.mem.put (line * 128 + p.1) p.2 }) s) :=
      OnlyWrittenBack.foldS s l.data fun x a => ⟨rfl, Memory.wf_put _ _⟩
    refine hbytes.trans ?_
    generalize l.data.foldl (fun s p => { s with mem := s.mem.put (line * 128 + p.1) p.2 }) s = t
    have htags (ks : List Nat) : OnlyWrittenBack t (foldS t ks fun s k =>
        let t := tagAt s (line * 32 + k); setTag s (line * 32 + k) { t with dirty := true, valid := true }) :=
      .foldS _ _ fun _ _ => ⟨rfl, id⟩
    split
    · exact (htags _).trans ⟨rfl, id⟩
    · exact (htags _).trans ⟨rfl, id⟩

theorem onlyWrittenBack_writeBackAll (s : State) (is : Nat → Bool) : OnlyWrittenBack s (writeBackAll s is) :=
  .foldS _ _ fun _ _ => onlyWrittenBack_writeBackLine ..

end Sys2Proof.Machine

/-! Swaps (R104, R105, R117), and the failures of the device, a stack and the link (R35, R334). -/

namespace Sys2Proof.Machine
open Sys2Proof

/-! ### Swapping out -/

/-- What a group keeps on its way to its reservation: its registers, and its place in the block. -/
structure KeepsRegs (gr gr' : Group) : Prop where
  regs : gr'.regs = gr.regs
  block : gr'.block = gr.block
  gix : gr'.gix = gr.gix
  vregs : gr'.vregs = gr.vregs

theorem KeepsRegs.refl (gr : Group) : KeepsRegs gr gr := ⟨rfl, rfl, rfl, rfl⟩

theorem KeepsRegs.trans {a b c : Group} (h : KeepsRegs a b) (k : KeepsRegs b c) : KeepsRegs a c :=
  ⟨k.regs.trans h.regs, k.block.trans h.block, k.gix.trans h.gix, k.vregs.trans h.vregs⟩

/-- A group whose clause is abandoned. -/
def Group.abandoned (gr : Group) (c : Ctx) : Group := { gr with
  ctx := none
  pend := gr.pend.filter fun p => !(p.frag == c.entry && !p.committed)
  perf := AList.put gr.perf 7 (AList.get gr.perf 7 0 + 1)
  ents := gr.ents.modify c.entry fun x =>
    { x with st := .fetching, clause := none, chunk := { x.chunk with split := false, count := x.chunk.count - (if x.chunk.split then c.ops.length else 0) } } }

theorem abandon_of_ctx {s : State} {g : Nat} {gr : Group} {c : Ctx} (hg : s.group? g = some gr) (hc : gr.ctx = some c) :
    ∃ m cur, abandon s g = { s.updGroup g fun gr => gr.abandoned c with m, cur } := by
  rw [abandon, hg]
  dsimp only
  rw [hc]
  exact ⟨_, _, rfl⟩

theorem abandon_of_no_ctx {s : State} {g : Nat} (h : ∀ gr, s.group? g = some gr → gr.ctx = none) : abandon s g = s := by
  unfold abandon
  split
  · rfl
  next gr hg =>
    rw [h gr hg]

theorem group?_abandon {s : State} (g : Nat) {h : Nat} {gr : Group} (hg : s.group? h = some gr) :
    ∃ gr', (abandon s g).group? h = some gr' ∧ KeepsRegs gr gr' ∧ gr'.status = gr.status ∧ (h = g ∨ gr.ctx = none → gr'.ctx = none) := by
  by_cases hno : ∀ gr, s.group? g = some gr → gr.ctx = none
  · rw [abandon_of_no_ctx hno]
    exact ⟨gr, hg, .refl gr, rfl, fun hor => hor.elim (fun he => hno gr (he ▸ hg)) id⟩
  · push Not at hno
    obtain ⟨gr0, hg0, hctx⟩ := hno
    obtain ⟨c, hc⟩ := Option.ne_none_iff_exists'.mp hctx
    obtain ⟨m, cur, hu⟩ := abandon_of_ctx hg0 hc
    have hupd : (abandon s g).group? h = if h = g then (s.group? g).map fun gr => gr.abandoned c else s.group? h := by
      rw [hu]
      exact group?_updGroup (s := s) g h fun gr => gr.abandoned c
    by_cases he : h = g
    · subst he
      rw [hupd, if_pos rfl, hg]
      exact ⟨_, rfl, ⟨rfl, rfl, rfl, rfl⟩, rfl, fun _ => rfl⟩
    · rw [hupd, if_neg he]
      exact ⟨gr, hg, .refl gr, rfl, fun hor => hor.resolve_left he⟩

theorem mem_abandon (s : State) (g : Nat) : (abandon s g).mem = s.mem := by
  unfold abandon
  split
  · rfl
  · split <;> rfl

/-- In its swap reservation, with no clause under way. -/
def Group.away (gr : Group) : Prop := gr.status = .swapped ∧ gr.ctx = none

theorem group?_swapGroup {s : State} (g : Nat) {h : Nat} {gr : Group} (hg : s.group? h = some gr) :
    ∃ gr', (swapGroup s g).group? h = some gr' ∧ KeepsRegs gr gr' ∧ (h = g ∨ gr.away → gr'.away) := by
  obtain ⟨gr', hgr', hkeep, hstatus, hctx⟩ := group?_abandon g hg
  rw [swapGroup, group?_updGroup]
  by_cases he : h = g
  · subst he
    rw [if_pos rfl, hgr']
    exact ⟨_, rfl, hkeep.trans ⟨rfl, rfl, rfl, rfl⟩, fun _ => ⟨rfl, hctx (.inl rfl)⟩⟩
  · rw [if_neg he]
    refine ⟨gr', hgr', hkeep, fun hor => ?_⟩
    obtain ⟨hst, hnone⟩ := hor.resolve_left he
    exact ⟨hstatus.trans hst, hctx (.inr hnone)⟩

theorem mem_swapGroup (s : State) (g : Nat) : (swapGroup s g).mem = s.mem := mem_abandon s g

/-- All the groups that leave are away, each with its registers. -/
theorem group?_swapGroups (gs : List Nat) {s : State} {h : Nat} {gr : Group} (hg : s.group? h = some gr) :
    ∃ gr', (foldS s gs swapGroup).group? h = some gr' ∧ KeepsRegs gr gr' ∧ (h ∈ gs ∨ gr.away → gr'.away) := by
  unfold foldS
  induction gs generalizing s gr with
  | nil => exact ⟨gr, hg, .refl gr, fun hor => hor.resolve_left (List.not_mem_nil)⟩
  | cons g gs ih =>
    obtain ⟨gr1, hg1, hkeep1, haway1⟩ := group?_swapGroup g hg
    obtain ⟨gr2, hg2, hkeep2, haway2⟩ := ih hg1
    refine ⟨gr2, hg2, hkeep1.trans hkeep2, fun hor => ?_⟩
    rcases hor with hmem | haway
    · rcases List.mem_cons.mp hmem with he | hin
      · exact haway2 (.inr (haway1 (.inl he)))
      · exact haway2 (.inl hin)
    · exact haway2 (.inr (haway1 (.inr haway)))

theorem mem_swapGroups (gs : List Nat) (s : State) : (foldS s gs swapGroup).mem = s.mem :=
  foldS_keeps (P := fun t => t.mem = s.mem) (fun t g ht => (mem_swapGroup t g).trans ht) gs rfl

/-- The groups have left their CU, whose L1 is written back; their images are not written yet. -/
def leftCu (s : State) (cu : Nat) (gs : List Nat) : State := writeBackAll (foldS s gs swapGroup) (· == cu)

theorem group?_leftCu {s : State} (cu : Nat) {gs : List Nat} {g : Nat} {gr : Group} (hg : s.group? g = some gr) (hin : g ∈ gs) :
    ∃ gr', (leftCu s cu gs).group? g = some gr' ∧ KeepsRegs gr gr' ∧ gr'.away := by
  obtain ⟨gr', hgr', hkeep, haway⟩ := group?_swapGroups gs hg
  refine ⟨gr', ?_, hkeep, haway (.inl hin)⟩
  rw [leftCu, State.group?, (onlyWrittenBack_writeBackAll _ _).groups]
  exact hgr'

theorem wf_leftCu {s : State} (cu : Nat) (gs : List Nat) (h : s.mem.wf = true) : (leftCu s cu gs).mem.wf = true :=
  (onlyWrittenBack_writeBackAll _ _).wf (by rwa [mem_swapGroups])

theorem groups_engineWrite (s : State) (pa : Nat) (bs : List Byte) : (engineWrite s pa bs).groups = s.groups := (onlyCaches_engineWrite s pa bs).groups

theorem groups_saveGroup (s : State) (g : Nat) : (saveGroup s g).groups = s.groups := by
  unfold saveGroup
  split
  · exact groups_engineWrite ..
  · rfl

theorem groups_saveGroups (s : State) (gs : List Nat) : (foldS s gs saveGroup).groups = s.groups :=
  foldS_keeps (P := fun t => t.groups = s.groups) (fun t g ht => (groups_saveGroup t g).trans ht) gs rfl

theorem groups_saveSpad (s : State) (b : BlockId) : (saveSpad s b).groups = s.groups := by
  unfold saveSpad
  split
  · exact groups_engineWrite ..
  · rfl

/-- A group's image lies in its share of the reservation. -/
theorem mem_saveGroup {s : State} {g : Nat} {gr : Group} (hg : s.group? g = some gr) (hwf : s.mem.wf = true) {k : Nat} (hk : k < (swapImage gr).length) :
    (saveGroup s g).mem.get (swapBase gr.block + gr.gix * gr.share + k) = (swapImage gr).getD k 0 := by
  rw [saveGroup, hg]
  dsimp only
  rw [(onlyCaches_engineWrite ..).mem, State.withMem]
  dsimp only
  generalize swapBase gr.block + gr.gix * gr.share = a
  exact Memory.get_putN_of_inside a k _ hwf hk

section SwapOut
variable {s : State} {b : BlockId} {bl : Block} {gs : List Nat} (hb : s.block? b = some bl) (hret : bl.retired = false) (hhere : bl.swapped = false)
  (hsome : gs ≠ []) (hlive : liveGang s b.gang = true) (hready : ∀ g ∈ gs, ∃ gr, s.group? g = some gr ∧ swapReady gr = true)
  (hclk : clockRuns s (cluOfCu bl.cu) = true) (hblk : blockHere s bl = true)
include hb hret hhere hsome hlive hready hclk hblk

omit hb in
/-- Nothing is in the way of a swap. -/
theorem swapOut_guard : ¬(bl.retired || bl.swapped || decide (gs = []) || !(gs.all fun g => match s.group? g with | some gr => swapReady gr | none => false)
    || !(clockRuns s (cluOfCu bl.cu) && blockHere s bl) || !liveGang s b.gang) = true := by
  have hall : (gs.all fun g => match s.group? g with | some gr => swapReady gr | none => false) = true :=
    List.all_eq_true.mpr fun g hg => by
      obtain ⟨gr, hgr, hr⟩ := hready g hg
      rw [hgr]
      exact hr
  rw [hret, hhere, decide_eq_false hsome, hall, hclk, hblk, hlive]
  decide

/-- A block that waits for a page or in a fault leaves whole. -/
theorem swapOut_of_whole (hwhy : bl.why = .pgpark ∨ ∃ g e code, bl.why = .fault g e code) (hgs : gs = residentDown s b) :
    exec (.swapOut b gs) s = .next ((saveSpad (foldS (leftCu s bl.cu gs) gs saveGroup) b).updBlock b fun x => { x with swapped := true }) := by
  rw [exec_swapOut, execSwapOut, hb]
  refine (if_neg (swapOut_guard hret hhere hsome hlive hready hclk hblk)).trans ?_
  rcases hwhy with h | ⟨g, e, code, h⟩ <;> rw [h] <;> exact if_pos (beq_iff_eq.mpr hgs)

/-- Groups are evicted for a task of a higher class. -/
theorem swapOut_of_evicted (hwhy : bl.why = .none ∨ bl.why = .evicted) (hgs : gs = (residentDown s b).take gs.length) (hroom : wantsRoom s bl gs = true) :
    exec (.swapOut b gs) s = .next ((foldS (leftCu s bl.cu gs) gs saveGroup).updBlock b fun x => { x with why := .evicted }) := by
  have hok : (gs == (residentDown s b).take gs.length && wantsRoom s bl gs) = true := by rw [hroom, Bool.and_true, beq_iff_eq]; exact hgs
  rw [exec_swapOut, execSwapOut, hb]
  refine (if_neg (swapOut_guard hret hhere hsome hlive hready hclk hblk)).trans ?_
  rcases hwhy with h | h <;> rw [h] <;> exact if_pos hok

end SwapOut

/-! ### Swapping in -/

theorem readSaved_only (s : State) (b : BlockId) (gs : List Nat) : ∃ d, readSaved s b gs = { s with dbg := d } := by
  unfold readSaved
  generalize hread : foldS s gs _ = t
  obtain ⟨d, rfl⟩ : ∃ d, t = { s with dbg := d } := by
    rw [← hread]
    refine foldS_keeps (P := fun t => ∃ d, t = { s with dbg := d }) (fun t g ht => ?_) gs ⟨_, rfl⟩
    obtain ⟨d, rfl⟩ := ht
    split
    · exact watchHub_only { s with dbg := d } ..
    · exact ⟨d, rfl⟩
  dsimp only
  split
  · split
    · exact watchHub_only { s with dbg := d } ..
    · exact ⟨d, rfl⟩
  · exact ⟨d, rfl⟩

/-- A group that returns to a partition, where its fragments count as ready from now on. -/
def Group.returnTo (gr : Group) (now part : Nat) : Group := { gr with
  status := .resident, part
  ents := gr.ents.map fun x => { x with since := if x.st = .ready then now else x.since, stayed := x.stayed && gr.part == part } }

theorem swapBack_cons (s : State) (p : Nat × Nat) (gs : List (Nat × Nat)) :
    swapBack s (p :: gs) = swapBack ((freshId s).2.updGroup p.1 fun gr => gr.returnTo s.ids p.2) gs := rfl

theorem group?_returned (s : State) (p : Nat × Nat) (g : Nat) : ((freshId s).2.updGroup p.1 fun gr => gr.returnTo s.ids p.2).group? g
    = if g = p.1 then (s.group? p.1).map fun gr => gr.returnTo s.ids p.2 else s.group? g := group?_updGroup ..

theorem group?_swapBack_of_not_mem {gs : List (Nat × Nat)} {g : Nat} (h : g ∉ gs.map (·.1)) (s : State) : (swapBack s gs).group? g = s.group? g := by
  induction gs generalizing s with
  | nil => rfl
  | cons p gs ih =>
    rw [List.map_cons, List.mem_cons, not_or] at h
    rw [swapBack_cons, ih h.2, group?_returned, if_neg h.1]

/-- Each group that returns does so once. -/
theorem group?_swapBack {gs : List (Nat × Nat)} (hnd : (gs.map (·.1)).Nodup) {s : State} {p : Nat × Nat} (hp : p ∈ gs) {gr : Group}
    (hg : s.group? p.1 = some gr) : ∃ n, (swapBack s gs).group? p.1 = some (gr.returnTo n p.2) := by
  induction gs generalizing s with
  | nil => exact absurd hp List.not_mem_nil
  | cons q gs ih =>
    rw [List.map_cons, List.nodup_cons] at hnd
    obtain ⟨hq, hnd⟩ := hnd
    rw [swapBack_cons]
    rcases List.mem_cons.mp hp with rfl | hin
    · rw [group?_swapBack_of_not_mem hq, group?_returned, if_pos rfl, hg]
      exact ⟨_, rfl⟩
    · refine ih hnd hin ?_
      rw [group?_returned, if_neg, hg]
      exact fun he => hq (he ▸ List.mem_map_of_mem hin)

/-- A fragment that returns is as it was, but for when it counts as ready and whether STAY prefers it. -/
theorem ent_returnTo (gr : Group) (now part : Nat) {e : Nat} (he : e < gr.ents.length) :
    ∃ n b, (gr.returnTo now part).ent e = { gr.ent e with since := n, stayed := b } := by
  refine ⟨if (gr.ent e).st = .ready then now else (gr.ent e).since, (gr.ent e).stayed && gr.part == part, ?_⟩
  simp [Group.ent, Group.returnTo, he]

theorem swapIn_of_fits {s : State} {b : BlockId} {bl : Block} {gs : List (Nat × Nat)} (hb : s.block? b = some bl) (hret : bl.retired = false) (hsome : gs ≠ [])
    (hswap : bl.swapped = false) (hlive : liveGang s b.gang = true)
    (hmine : ∀ p ∈ gs, p.1 ∈ ((groupsOfBlock s b).filter fun g => match s.group? g with | some x => decide (x.status = .swapped) | none => false)
      ∧ cuOfPart p.2 = bl.cu)
    (hnd : (gs.map (·.1)).Nodup) (hroom : swapRoom s gs = true) (hclu : physClu s (lcluOf s b.gang) = some (cluOfCu bl.cu))
    (hclk : clockRuns s (cluOfCu bl.cu) = true) :
    ∃ f, exec (.swapIn b gs) s = .next (wakeAll ((swapBack (readSaved s b (gs.map (·.1))) gs).updBlock b f)) := by
  have hcus : (gs.all fun p => cuOfPart p.2 == bl.cu) = true := List.all_eq_true.mpr fun p hp => beq_iff_eq.mpr (hmine p hp).2
  generalize hm : ((groupsOfBlock s b).filter fun g => match s.group? g with | some x => decide (x.status = .swapped) | none => false) = mine at hmine
  have hnames : ((gs.map (·.1)).all fun g => mine.contains g) = true := by
    refine List.all_eq_true.mpr fun g hg => ?_
    obtain ⟨p, hp, rfl⟩ := List.mem_map.mp hg
    exact List.contains_iff_mem.mpr (hmine p hp).1
  have hguard : ¬(bl.retired || !((gs.map (·.1)).all (fun g => mine.contains g) && (gs.map (·.1)).dedup.length == (gs.map (·.1)).length
      && (gs.all fun p => cuOfPart p.2 == bl.cu) && swapRoom s gs) || decide (gs = [])
      || !(physClu s (lcluOf s b.gang) == some (cluOfCu bl.cu) && clockRuns s (cluOfCu bl.cu)) || !liveGang s b.gang) = true := by
    rw [hret, hnames, hnd.dedup, beq_self_eq_true, hcus, hroom, decide_eq_false hsome, hclu, beq_self_eq_true, hclk, hlive]
    decide
  subst hm
  rw [exec_swapIn, execSwapIn, hb]
  refine ⟨_, (if_neg hguard).trans ((if_neg (by rw [hswap]; decide)).trans rfl)⟩

theorem group?_of_swapRoom {s : State} {gs : List (Nat × Nat)} (h : swapRoom s gs = true) {p : Nat × Nat} (hp : p ∈ gs) : ∃ gr, s.group? p.1 = some gr := by
  have hone := List.all_eq_true.mp h p hp
  split at hone
  next gr hgr => exact ⟨gr, hgr⟩
  next => cases hone

/-- The groups are back, whatever becomes of the block's cause. -/
theorem group?_swappedIn {s : State} {b : BlockId} {gs : List (Nat × Nat)} (f : Block → Block) (hnd : (gs.map (·.1)).Nodup) {p : Nat × Nat} (hp : p ∈ gs)
    {gr : Group} (hg : s.group? p.1 = some gr) :
    ∃ n, ((swapBack (readSaved s b (gs.map (·.1))) gs).updBlock b f).group? p.1 = some (gr.returnTo n p.2) := by
  have hread : (readSaved s b (gs.map (·.1))).group? p.1 = some gr := by
    obtain ⟨d, hd⟩ := readSaved_only s b (gs.map (·.1))
    rw [hd]
    exact hg
  exact group?_swapBack hnd hp hread

/-! ### Failures of the device, of a stack and of the link -/

/-- A cluster whose clock is stopped, as `failDevice` stops each. -/
def stopClu (m : AList Nat Clu) (c : Nat) : AList Nat Clu := AList.put m c { AList.get m c {} with stopped := true }

theorem stopped_stopClus {c : Nat} (l : List Nat) (m : AList Nat Clu) (h : c ∈ l ∨ (AList.get m c {}).stopped = true) :
    (AList.get (l.foldl stopClu m) c {}).stopped = true := by
  induction l generalizing m with
  | nil => exact h.resolve_left List.not_mem_nil
  | cons a l ih =>
    refine ih _ ?_
    rw [stopClu, AList.get_put]
    by_cases ha : c = a
    · rw [if_pos ha]
      exact .inr rfl
    · rw [if_neg ha]
      exact h.imp_left fun hc => (List.mem_cons.mp hc).resolve_left ha

theorem failDevice_stops (s : State) : (failDevice s).plat.failed = true ∧ (∀ c, c < 112 → clockRuns (failDevice s) c = false)
    ∧ (∀ x ∈ (failDevice s).insts, x.stopped = true) ∧ (failDevice s).mem = s.mem ∧ (failDevice s).groups = s.groups ∧ (failDevice s).m = s.m := by
  have hall (c : Nat) (hc : c < 112) : c ∈ List.range 112 := List.mem_range.mpr hc
  unfold failDevice
  generalize List.range 112 = cs at *
  extract_lets stop fab frz s1 s2
  have hlog : OnlyLogged s1 s2 := onlyLogged_elPut ..
  refine ⟨rfl, fun c hc => ?_, fun x hx => ?_, hlog.caches.mem, hlog.caches.groups, hlog.m⟩
  · have hstop : (cluD s2 c).stopped = true := by
      have hclus : s1.frz.clus = cs.foldl stopClu s.frz.clus := rfl
      rw [cluD, hlog.caches.frz, hclus]
      exact stopped_stopClus cs _ (.inl (hall c hc))
    exact congrArg Bool.not hstop
  · obtain ⟨y, -, rfl⟩ := List.mem_map.mp (hlog.caches.insts ▸ hx)
    rfl

theorem failedParts_memRecord (s : State) (pa kind stack chan : Nat) : (memRecord s pa kind stack chan).m.failedChans = s.m.failedChans
    ∧ (memRecord s pa kind stack chan).m.failedStacks = s.m.failedStacks := by
  unfold memRecord
  dsimp only
  rw [(onlyLogged_elPut ..).eq]
  exact ⟨rfl, rfl⟩

theorem stackFailure_of_channel {s : State} {stack c : Nat} (hstack : stack < 12) (hc : c < 192) (hlive : s.plat.failed = false)
    (hup : s.m.failedStacks.contains stack = false) (hchan : s.m.failedChans.contains (stack, c) = false) : exec (.hbmStackFailure stack (some c)) s
      = .next (memRecord { s with m := { s.m with failedChans := s.m.failedChans ++ [(stack, c)] } } 0 4 stack c) := by
  rw [exec_hbmStackFailure, execHbmStackFailure, decide_eq_true hstack, decide_eq_true hc, hchan, hup, hlive]
  rfl

/-- A stack has failed, and its record is made. -/
def stackFailed (s : State) (stack : Nat) : State := memRecord { s with m := { s.m with failedStacks := s.m.failedStacks ++ [stack] } } 0 5 stack 0

theorem stackFailure_of_stack {s : State} {stack : Nat} (hstack : stack < 12) (hlive : s.plat.failed = false) (hup : s.m.failedStacks.contains stack = false) :
    exec (.hbmStackFailure stack none) s
      = .next (if s.m.failedStacks = [] then stackFailed s stack else failDevice (stackFailed s stack)) := by
  rw [exec_hbmStackFailure, execHbmStackFailure, decide_eq_true hstack, hup, hlive]
  rfl

theorem stackFailed_effect (s : State) (stack : Nat) : (stackFailed s stack).m.failedStacks = s.m.failedStacks ++ [stack]
    ∧ (stackFailed s stack).plat.failed = s.plat.failed ∧ (stackFailed s stack).mem = s.mem := by
  have hrecord := onlyCaches_memRecord { s with m := { s.m with failedStacks := s.m.failedStacks ++ [stack] } } 0 5 stack 0
  exact ⟨(failedParts_memRecord ..).2, hrecord.failed, hrecord.mem⟩

theorem afterFailure_eq_false {i : Instr} (hreset : i ≠ .reset) (hpower : ∀ a b, i ≠ .powerOn a b) : Instr.afterFailure i = false := by
  unfold Instr.afterFailure
  split
  · exact absurd rfl hreset
  · exact absurd rfl (hpower _ _)
  · rfl

/-- A failed device lets nothing but a reset and a power cycle happen. -/
theorem step_of_failed {s : State} {i : Instr} {l : List Action} (hfail : s.plat.failed = true) (ha : s.agenda = .event i :: l) (hw : Instr.isWord i = false)
    (hnot : Instr.afterFailure i = false) : step s = .refused (.notEnabled "DEVICE_FAILURE") := by
  rw [step, nextTodo, ha]
  dsimp only
  rw [hw, hfail, hnot, if_neg Bool.false_ne_true]
  rfl

end Sys2Proof.Machine

/-! What a kill and a completion leave unchanged: the other gangs, the groups, the requests, what a task's recording waits for. -/

namespace Sys2Proof.Machine
open Sys2Proof

/-! ### Gangs and tasks stay -/

/-- The gangs and the dies in service stay, and no task goes. -/
structure KeepsGangs (s t : State) : Prop where
  gangs : t.gangs = s.gangs
  dead : t.disp.deadDies = s.disp.deadDies
  tasks : ∀ k, (s.task? k).isSome = true → (t.task? k).isSome = true

/-- The same, and the groups stay. -/
structure KeepsPlaced (s t : State) : Prop extends KeepsGangs s t where
  groups : t.groups = s.groups

namespace KeepsGangs
variable {s t u : State}

theorem trans (h : KeepsGangs s t) (k : KeepsGangs t u) : KeepsGangs s u :=
  ⟨k.gangs.trans h.gangs, k.dead.trans h.dead, fun n hn => k.tasks n (h.tasks n hn)⟩

/-- A step that leaves the gangs, the dispatcher and the tasks. -/
theorem of_eq (hg : t.gangs = s.gangs) (hd : t.disp = s.disp) (ht : t.tasks = s.tasks) : KeepsGangs s t :=
  ⟨hg, congrArg Disp.deadDies hd, fun k hk => by rwa [State.task?, ht]⟩

theorem refl (s : State) : KeepsGangs s s := of_eq rfl rfl rfl

end KeepsGangs

namespace KeepsPlaced
variable {s t u : State}

theorem of_eq (hg : t.gangs = s.gangs) (hd : t.disp = s.disp) (ht : t.tasks = s.tasks) (hgr : t.groups = s.groups) : KeepsPlaced s t :=
  ⟨.of_eq hg hd ht, hgr⟩

theorem refl (s : State) : KeepsPlaced s s := of_eq rfl rfl rfl rfl

theorem trans (h : KeepsPlaced s t) (k : KeepsPlaced t u) : KeepsPlaced s u := ⟨h.toKeepsGangs.trans k.toKeepsGangs, k.groups.trans h.groups⟩

theorem foldS {α : Type} (s : State) (l : List α) {f : State → α → State} (h : ∀ x a, KeepsPlaced x (f x a)) : KeepsPlaced s (foldS s l f) :=
  foldS_keeps (fun x a hx => hx.trans (h x a)) l (refl s)

theorem updTask (s : State) (k : Nat) (f : Task → Task) : KeepsPlaced s (s.updTask k f) :=
  ⟨⟨rfl, rfl, fun n hn => by rw [task?_updTask]; split <;> simp_all⟩, rfl⟩

end KeepsPlaced

theorem OnlyCaches.placed {s t : State} (h : OnlyCaches s t) : KeepsPlaced s t := .of_eq h.gangs h.disp h.tasks h.groups

theorem OnlyWrittenBack.placed {s t : State} (h : OnlyWrittenBack s t) : KeepsPlaced s t := .of_eq h.gangs h.disp h.tasks h.groups

/-! ### The completion of a task -/

theorem keepsPlaced_addInst (s : State) (t : Task) (k : Nat) (d : CopyDesc) (kid bid clu : Nat) : KeepsPlaced s (addInst s t k d kid bid clu) := by
  have hqueue : KeepsPlaced s (emptyQueue s clu d.queue) := by
    unfold emptyQueue
    split
    · exact .of_eq rfl rfl rfl rfl
    · exact .refl s
  exact hqueue.trans (.of_eq rfl rfl rfl rfl)

theorem keepsPlaced_startGates (s : State) (t : Task) : KeepsPlaced s (startGates s t) := .foldS _ _ fun _ _ => keepsPlaced_addInst ..

theorem keepsPlaced_advanceTask (s : State) (slot : Nat) : KeepsPlaced s (advanceTask s slot) := by
  unfold advanceTask
  split
  · exact .refl s
  split
  · exact .refl s
  split
  · split
    · exact .updTask ..
    · split
      · dsimp only
        split
        · exact .updTask ..
        · exact (KeepsPlaced.updTask ..).trans (keepsPlaced_startGates ..)
      · exact .refl s
  · split
    · exact .updTask ..
    · exact .refl s
  · exact .refl s

theorem keepsPlaced_settleInstance (s : State) (slot : Nat) : KeepsPlaced s (settleInstance s slot) := by
  unfold settleInstance
  split
  · exact .refl s
  · dsimp only
    split
    · exact .refl s
    · exact .updTask ..

theorem keepsPlaced_settleTasksN (n : Nat) (s : State) : KeepsPlaced s (settleTasksN n s) := by
  induction n generalizing s with
  | zero => exact .refl s
  | succ n ih => exact ((KeepsPlaced.foldS _ _ keepsPlaced_advanceTask).trans (.foldS _ _ keepsPlaced_settleInstance)).trans (ih _)

theorem keepsPlaced_clearHolds (s : State) (is : Nat → Bool) : KeepsPlaced s (clearHolds s is) := .of_eq rfl rfl rfl rfl

theorem keepsPlaced_sendBi (s : State) (line : Nat) : KeepsPlaced s (sendBi s line) := by
  unfold sendBi
  split
  · exact .refl s
  · exact .of_eq rfl rfl rfl rfl

theorem keepsPlaced_completeTask (s : State) (slot : Nat) : KeepsPlaced s (completeTask s slot) := by
  unfold completeTask
  extract_lets back s1 s2 m s3
  have h1 : KeepsPlaced s s1 := .foldS _ _ keepsPlaced_sendBi
  have h2 : KeepsPlaced s1 s2 := (onlyWrittenBack_writeBackAll ..).placed.trans (keepsPlaced_clearHolds ..)
  have h3 : KeepsPlaced s2 s3 := .of_eq rfl rfl rfl rfl
  exact ((h1.trans h2).trans h3).trans ((KeepsPlaced.updTask ..).trans (keepsPlaced_settleTasksN ..))

theorem keepsPlaced_settleTask (s : State) (slot : Nat) : KeepsPlaced s (settleTask s slot) := by
  unfold settleTask
  split
  · split
    · exact keepsPlaced_completeTask ..
    · exact .refl s
  · exact .refl s

/-! ### A kill's marks -/

theorem slotStalls_congr {s t : State} (ht : t.tasks = s.tasks) (hd : t.damask = s.damask) (slot : Nat) : slotStalls t slot = slotStalls s slot := by
  have hpart : partOfTask t slot = partOfTask s slot := by
    have hq : partOfQueue t = partOfQueue s := by funext q; rw [partOfQueue, hd]; rfl
    rw [partOfTask, State.task?, ht, hq]; rfl
  have hrpart : rpart t = rpart s := by funext p; rw [rpart, hd]; rfl
  have hrec : recording t slot = recording s slot := by rw [recording, hpart, hrpart]; rfl
  rw [slotStalls, hrec, hrpart]; rfl

theorem gangAgents_congr {s t : State} {g : GId} (hclu : lcluOf t g = lcluOf s g) (hgroups : groupsOfGang t g = groupsOfGang s g)
    (howner : (t.mxD (lcluOf s g)).owner = (s.mxD (lcluOf s g)).owner) : gangAgents t g = gangAgents s g := by
  unfold gangAgents
  dsimp only
  rw [hclu, hgroups, howner]

/-- The groups, the gangs, the control cores and the requests stay, and so does every task's queue and what its partition's recording waits for. -/
structure KeepsAgents (s t : State) : Prop extends KeepsPlaced s t where
  mx : t.mx = s.mx
  reqs : t.m.reqs = s.m.reqs
  queues : ∀ k, (t.task? k).map (·.queue) = (s.task? k).map (·.queue)
  parts : ∀ p, (rpart t p).mode = (rpart s p).mode ∧ (rpart t p).qm = (rpart s p).qm ∧ ringStalls (rpart t p) = ringStalls (rpart s p)

namespace KeepsAgents
variable {s t u : State}

theorem of_eq (h : KeepsPlaced s t) (hmx : t.mx = s.mx) (hreqs : t.m.reqs = s.m.reqs) (ht : t.tasks = s.tasks) (hd : t.damask = s.damask) :
    KeepsAgents s t :=
  ⟨h, hmx, hreqs, fun k => by rw [State.task?, ht]; rfl, fun p => by rw [rpart, hd]; exact ⟨rfl, rfl, rfl⟩⟩

theorem refl (s : State) : KeepsAgents s s := of_eq (.refl s) rfl rfl rfl rfl

theorem trans (h : KeepsAgents s t) (k : KeepsAgents t u) : KeepsAgents s u :=
  ⟨h.toKeepsPlaced.trans k.toKeepsPlaced, k.mx.trans h.mx, k.reqs.trans h.reqs, fun n => (k.queues n).trans (h.queues n), fun p =>
    ⟨(k.parts p).1.trans (h.parts p).1, (k.parts p).2.1.trans (h.parts p).2.1, (k.parts p).2.2.trans (h.parts p).2.2⟩⟩

theorem foldS {α : Type} (s : State) (l : List α) {f : State → α → State} (h : ∀ x a, KeepsAgents x (f x a)) : KeepsAgents s (foldS s l f) :=
  foldS_keeps (fun x a hx => hx.trans (h x a)) l (refl s)

/-- A task may change, but not its queue. -/
theorem updTask (s : State) (k : Nat) {f : Task → Task} (hf : ∀ t, (f t).queue = t.queue) : KeepsAgents s (s.updTask k f) := by
  refine ⟨.updTask .., rfl, rfl, fun n => ?_, fun p => ⟨rfl, rfl, rfl⟩⟩
  rw [task?_updTask]
  split
  next h => rw [h]; cases s.task? k <;> simp [hf]
  next => rfl

/-- A partition's registers may change, but not its mode, its queues and its ring. -/
theorem setRpart (s : State) (p : Nat) {r : RPart} (hmode : r.mode = (rpart s p).mode) (hqm : r.qm = (rpart s p).qm)
    (hring : ringStalls r = ringStalls (rpart s p)) : KeepsAgents s (setRpart s p r) := by
  refine ⟨.of_eq rfl rfl rfl rfl, rfl, rfl, fun _ => rfl, fun q => ?_⟩
  rw [show rpart (Machine.setRpart s p r) q = if q = p then r else rpart s q from AList.get_put ..]
  split
  next h => rw [h]; exact ⟨hmode, hqm, hring⟩
  next => exact ⟨rfl, rfl, rfl⟩

theorem partOfTask (h : KeepsAgents s t) (slot : Nat) : partOfTask t slot = partOfTask s slot := by
  have hq (q : Nat) : partOfQueue t q = partOfQueue s q := by
    have hp (p : Nat) : (AList.get t.damask.parts p {}).mode = (AList.get s.damask.parts p {}).mode
        ∧ (AList.get t.damask.parts p {}).qm = (AList.get s.damask.parts p {}).qm := ⟨(h.parts p).1, (h.parts p).2.1⟩
    simp only [partOfQueue, hp]
  have hbind (x : State) : Machine.partOfTask x slot = ((x.task? slot).map (·.queue)).bind (partOfQueue x) := by
    rw [Machine.partOfTask, Option.bind_map]; rfl
  rw [hbind, hbind, h.queues, funext hq]

theorem slotStalls (h : KeepsAgents s t) (slot : Nat) : slotStalls t slot = slotStalls s slot := by
  have hrec : recording t slot = recording s slot := by
    simp only [recording, h.partOfTask, (h.parts _).1]
  simp only [Machine.slotStalls, hrec, (h.parts _).2.2]

theorem gangAgents (h : KeepsAgents s t) (g : GId) : gangAgents t g = gangAgents s g := by
  have hclu : lcluOf t g = lcluOf s g := by rw [lcluOf, State.gang?, h.gangs]; rfl
  have hmx : t.mxD (lcluOf s g) = s.mxD (lcluOf s g) := by rw [State.mxD, h.mx]; rfl
  have hgroups : groupsOfGang t g = groupsOfGang s g := by rw [groupsOfGang, h.groups]; rfl
  exact gangAgents_congr hclu hgroups (by rw [hmx])

end KeepsAgents

theorem OnlyCaches.agents {s t : State} (h : OnlyCaches s t) : KeepsAgents s t := .of_eq h.placed h.mx h.reqs h.tasks h.damask

theorem keepsAgents_deviceFreeze (s : State) (c src : Nat) : KeepsAgents s (deviceFreeze s c src) := by
  unfold deviceFreeze
  dsimp only
  split
  · exact .of_eq (.of_eq rfl rfl rfl rfl) rfl rfl rfl rfl
  · exact .refl s

theorem insts_deviceFreeze (s : State) (c src : Nat) : (deviceFreeze s c src).insts = s.insts := by
  unfold deviceFreeze
  dsimp only
  split <;> rfl

theorem keepsAgents_haltPart (s : State) (p kind agent split stamp : Nat) (digests : List Byte) : KeepsAgents s (haltPart s p kind agent split stamp digests) := by
  unfold haltPart
  dsimp only
  split
  · exact .refl s
  · refine KeepsAgents.trans (t := setRpart s p _) (.setRpart s p ?_ ?_ ?_) (.foldS _ _ fun _ _ => keepsAgents_deviceFreeze ..)
    all_goals rfl

theorem insts_haltPart (s : State) (p kind agent split stamp : Nat) (digests : List Byte) : (haltPart s p kind agent split stamp digests).insts = s.insts := by
  unfold haltPart
  dsimp only
  split
  · rfl
  · exact foldS_keeps (P := fun t => t.insts = s.insts) (fun t c ht => (insts_deviceFreeze ..).trans ht) _ rfl

theorem keepsAgents_failTask (s : State) (slot cause : Nat) : KeepsAgents s (failTask s slot cause) :=
  .updTask s slot fun t => by split <;> rfl

theorem keepsAgents_failKilled (s : State) (t : Task) (kid cause : Nat) : KeepsAgents s (failKilled s t kid cause) :=
  (keepsAgents_failTask ..).trans (.updTask _ _ fun _ => rfl)

theorem keepsAgents_dropClaim (s : State) (a w : Nat) : KeepsAgents s (dropClaim s a w) := by
  unfold dropClaim
  dsimp only
  split <;> exact .of_eq (.of_eq rfl rfl rfl rfl) rfl rfl rfl rfl

theorem insts_dropClaim (s : State) (a w : Nat) : (dropClaim s a w).insts = s.insts := by
  unfold dropClaim
  dsimp only
  split <;> rfl

theorem keepsAgents_leaveInst (s : State) (x : Inst) : KeepsAgents s (leaveInst s x) :=
  KeepsAgents.trans (.foldS _ _ fun _ _ => keepsAgents_dropClaim ..) (.of_eq (.of_eq rfl rfl rfl rfl) rfl rfl rfl rfl)

theorem insts_leaveInst (s : State) (x : Inst) : (leaveInst s x).insts = s.insts.filter fun y => y.startNo != x.startNo :=
  congrArg (List.filter _) (foldS_keeps (P := fun t => t.insts = s.insts) (fun _ _ ht => (insts_dropClaim ..).trans ht) _ rfl)

theorem keepsAgents_withInsts (s : State) (l : List Inst) : KeepsAgents s { s with insts := l } := .of_eq (.of_eq rfl rfl rfl rfl) rfl rfl rfl rfl

theorem keepsAgents_withImages (s : State) (l : List Image) : KeepsAgents s { s with frz := { s.frz with images := l } } :=
  .of_eq (.of_eq rfl rfl rfl rfl) rfl rfl rfl rfl

theorem keepsAgents_stopInsts (s : State) (is : Inst → Bool) : KeepsAgents s (stopInsts s is) :=
  (keepsAgents_withInsts ..).trans (.foldS _ _ keepsAgents_leaveInst)

theorem mem_insts_leaveInsts {y : Inst} (l : List Inst) (s : State) :
    y ∈ (foldS s l leaveInst).insts ↔ y ∈ s.insts ∧ ∀ x ∈ l, y.startNo ≠ x.startNo := by
  unfold foldS
  induction l generalizing s with
  | nil => simp
  | cons x l ih => rw [List.foldl_cons, ih, insts_leaveInst]; simp [and_assoc]

/-- A copy that is being stopped and stands inside no chunk is gone; the others stay as they were. -/
theorem ending_of_mem_stopInsts {s : State} {is : Inst → Bool} {y : Inst} (h : ∀ i ∈ s.insts, is i = true → i.part = [])
    (hy : y ∈ (stopInsts s is).insts) : y ∈ s.insts ∧ is y = false := by
  obtain ⟨hmem, hleft⟩ := (mem_insts_leaveInsts _ _).mp hy
  obtain ⟨i, hi, rfl⟩ := List.mem_map.mp hmem
  split at hleft
  next his => exact absurd rfl (hleft i (List.mem_filter.mpr ⟨hi, by simp [his, h i hi his]⟩))
  next his =>
    rw [if_neg his]
    exact ⟨hi, by simpa using his⟩

theorem onlyCaches_markKilled (s : State) (im : Image) : ∃ m, OnlyCaches (s.withMem m) (markKilled s im) := by
  unfold markKilled
  split
  · exact ⟨s.mem, .refl s⟩
  · exact ⟨_, onlyCaches_engineWrite ..⟩

theorem keepsAgents_withMem (s : State) (m : Memory) : KeepsAgents s (s.withMem m) := .of_eq (.of_eq rfl rfl rfl rfl) rfl rfl rfl rfl

theorem keepsAgents_markKilled (s : State) (im : Image) : KeepsAgents s (markKilled s im) := by
  obtain ⟨m, h⟩ := onlyCaches_markKilled s im
  exact (keepsAgents_withMem s m).trans h.agents

theorem insts_markKilled (s : State) (im : Image) : (markKilled s im).insts = s.insts := by
  obtain ⟨m, h⟩ := onlyCaches_markKilled s im
  exact h.insts

theorem keepsAgents_noteKill (s : State) (g : GId) : KeepsAgents s (noteKill s g) :=
  (keepsAgents_withImages ..).trans (.foldS _ _ keepsAgents_markKilled)

theorem insts_noteKill (s : State) (g : GId) : (noteKill s g).insts = s.insts :=
  foldS_keeps (P := fun t => t.insts = s.insts) (fun _ _ ht => (insts_markKilled ..).trans ht) _ rfl

theorem keepsAgents_ndEvents (s : State) (slot : Nat) : KeepsAgents s (ndEvents s slot) := by
  have hone (t : State) (n : Nat) : KeepsAgents t (ndSettle t slot n) := by
    unfold ndSettle
    split
    · exact .updTask _ _ fun _ => rfl
    · exact .refl t
  unfold ndEvents
  split
  · exact .foldS _ _ hone
  · exact .refl s

theorem insts_ndEvents (s : State) (slot : Nat) : (ndEvents s slot).insts = s.insts := by
  have hone (t : State) (n : Nat) : (ndSettle t slot n).insts = t.insts := by
    unfold ndSettle
    split <;> rfl
  unfold ndEvents
  split
  · exact foldS_keeps (P := fun t => t.insts = s.insts) (fun _ _ ht => (hone ..).trans ht) _ rfl
  · rfl

/-! ### The end of a kill -/

theorem keepsPlaced_setRpart (s : State) (p : Nat) (r : RPart) : KeepsPlaced s (setRpart s p r) := .of_eq rfl rfl rfl rfl

theorem keepsGangs_updGroup (s : State) (g : Nat) (f : Group → Group) : KeepsGangs s (s.updGroup g f) := .of_eq rfl rfl rfl

theorem keepsGangs_endReplayed (s : State) (p g e : Nat) (gr : Group) (ch : Chunk) (b : List Byte) : KeepsGangs s (endReplayed s p g e gr ch b) := by
  unfold endReplayed
  dsimp only
  split
  · exact (keepsAgents_haltPart ..).toKeepsGangs
  · exact .of_eq rfl rfl rfl

theorem keepsGangs_endChunkAt (s : State) (g e code : Nat) (sig : BitVec 32) : KeepsGangs s (endChunkAt s g e code sig) := by
  unfold endChunkAt
  split
  · exact .refl s
  dsimp only
  split
  · exact .refl s
  split
  · exact keepsGangs_updGroup ..
  split
  · exact keepsGangs_endReplayed ..
  · split <;> exact .of_eq rfl rfl rfl

theorem keepsGangs_endChunk (s : State) (g e code : Nat) : KeepsGangs s (endChunk s g e code) := by
  unfold endChunk
  split
  · exact .refl s
  · exact keepsGangs_endChunkAt ..

theorem keepsGangs_deliverKill (s : State) (g : GId) (cause : Nat) : KeepsGangs s (deliverKill s g cause) := by
  unfold deliverKill
  extract_lets gs s1
  have hchunks : KeepsGangs s s1 := by
    refine foldS_keeps (P := KeepsGangs s) (fun t h ht => ?_) _ (.refl s)
    refine foldS_keeps (P := KeepsGangs s) (fun t e ht => ht.trans ?_) _ ht
    split
    · exact .refl t
    · exact keepsGangs_endChunk ..
  split
  · exact hchunks.trans (.of_eq rfl rfl rfl)
  · exact hchunks

theorem keepsPlaced_afterKill (s : State) (g : GId) (ids : List (Nat × Nat × Nat × Nat)) (cause : Nat) : KeepsPlaced s (afterKill s g ids cause) := by
  unfold afterKill
  split
  · exact .refl s
  · dsimp only
    split
    · exact (onlyCaches_errLog ..).placed.trans (.updTask ..)
    · exact (keepsAgents_failKilled ..).toKeepsPlaced.trans (.updTask ..)

theorem keepsPlaced_releaseMx (s : State) (l : Nat) : KeepsPlaced s (releaseMx s l) := .of_eq rfl rfl rfl rfl

/-- A gang that is removed takes its groups and its blocks along; its cluster is free if no other gang uses it. -/
theorem removeGang_effect (s : State) (g : GId) : (removeGang s g).groups = s.groups.filter (fun p => !decide (p.2.block.gang = g))
    ∧ (removeGang s g).gangs = s.gangs.del g ∧ (removeGang s g).disp = s.disp ∧ (removeGang s g).tasks = s.tasks := by
  unfold removeGang freeCluster
  dsimp only
  split <;> exact ⟨rfl, rfl, rfl, rfl⟩

/-- The state just before a killed gang is removed. -/
def killDelivered (s : State) (g : GId) (cause : Nat) : State :=
  let s1 := clearHolds (deliverKill s g cause) fun a => (gangAgents (deliverKill s g cause) g).contains a
  if (s1.mxD (lcluOf (deliverKill s g cause) g)).owner = some g then releaseMx s1 (lcluOf (deliverKill s g cause) g) else s1

theorem keepsGangs_killDelivered (s : State) (g : GId) (cause : Nat) : KeepsGangs s (killDelivered s g cause) := by
  have hclear := (keepsGangs_deliverKill s g cause).trans (keepsPlaced_clearHolds _ fun a => (gangAgents (deliverKill s g cause) g).contains a).toKeepsGangs
  unfold killDelivered
  dsimp only
  split
  · exact hclear.trans (keepsPlaced_releaseMx ..).toKeepsGangs
  · exact hclear

theorem finishKill_keeps (s : State) (g : GId) (cause : Nat) : KeepsPlaced (removeGang (killDelivered s g cause) g) (finishKill s g cause) :=
  (keepsPlaced_afterKill ..).trans (keepsPlaced_settleTask ..)

/-- A kill that is finished leaves nothing of its gang. -/
theorem finishKill_removes (s : State) (g : GId) (cause : Nat) :
    (finishKill s g cause).gang? g = none ∧ ∀ y ∈ (finishKill s g cause).groups, y.2.block.gang ≠ g := by
  have hkeep := finishKill_keeps s g cause
  obtain ⟨hgroups, hgangs, -, -⟩ := removeGang_effect (killDelivered s g cause) g
  refine ⟨by rw [State.gang?, hkeep.gangs, hgangs, AList.find?_del, if_pos rfl], fun y hy => ?_⟩
  rw [hkeep.groups, hgroups] at hy
  simpa using (List.mem_filter.mp hy).2

end Sys2Proof.Machine

/-! Kills (R225, R407) and the failure of a die (R34). -/

namespace Sys2Proof.AList
variable {κ α : Type} [DecidableEq κ]

/-- Some values change, by their key. -/
theorem find?_map_key (t : AList κ α) (c : κ → Bool) (f : α → α) (k : κ) :
    find? (t.map fun p => if c p.1 then (p.1, f p.2) else p) k = (t.find? k).map fun v => if c k then f v else v := by
  induction t with
  | nil => rfl
  | cons p t ih =>
    obtain ⟨a, v⟩ := p
    by_cases ha : a = k
    · subst ha
      cases hc : c a <;> simp [find?, hc]
    · cases hc : c a <;> simp [find?, hc, ha, ih]

theorem find?_isSome_of_mem {t : AList κ α} {k : κ} {v : α} (h : (k, v) ∈ t) : (t.find? k).isSome = true := by
  induction t with
  | nil => exact absurd h List.not_mem_nil
  | cons p t ih =>
    obtain ⟨a, w⟩ := p
    rw [find?]
    split
    · rfl
    next hne => exact ih ((List.mem_cons.mp h).resolve_left fun he => hne (Prod.mk.inj he).1.symm)

/-- All values change. -/
theorem find?_map_val {β : Type} (t : AList κ α) (f : κ × α → β) (k : κ) (h : (t.find? k).isSome = true) :
    (find? (t.map fun p => (p.1, f p)) k).isSome = true := by
  induction t with
  | nil => exact h
  | cons p t ih =>
    obtain ⟨a, v⟩ := p
    by_cases ha : a = k
    · simp [find?, ha]
    · simpa [find?, ha] using ih (by simpa [find?, ha] using h)

end Sys2Proof.AList

namespace Sys2Proof.Machine
open Sys2Proof

/-! ### The kill of a gang, in its parts -/

/-- A kill that is replayed is taken from the log; one that the log does not hold halts the partition. -/
def killReplayed (s : State) (g : GId) : State :=
  match replaying s g.slot with
  | some p =>
    let r := rpart s p
    match r.log.findIdx? fun b => fieldOf b 0 1 == 4 && fieldOf b 1 1 == 8 && fieldOf b 4 4 == firstOf s g with
    | some k => setRpart s p { r with log := r.log.eraseIdx k }
    | none => haltPart s p 2 (firstOf s g) 0 0 []
  | none => s

/-- A gang that may not be relaunched fails its task. -/
def killFailed (s : State) (g : GId) (t : Task) (cause : Nat) : State :=
  if mayRelaunch (killReplayed s g) t g.kid cause then killReplayed s g else failKilled (killReplayed s g) t g.kid cause

/-- A copy of the gang. -/
def copyOf (g : GId) (i : Inst) : Bool := i.slot == g.slot && i.kid == g.kid && i.desc.cls != 0

/-- The kill is logged, the gang's copies stop, and the images that hold the gang note it. -/
def killNoted (s : State) (g : GId) (t : Task) (cause : Nat) : State :=
  noteKill (stopInsts (errLog (killFailed s g t cause) 2 cause (firstOf s g) t.handle 0) (copyOf g)) g

/-- The groups `gs` and the requests of the agents `as` stop. -/
def killGroups (s : State) (g : GId) (x : Gang) (cause : Nat) (gs as : List Nat) : State :=
  let orphan := fun (r : FReq) => if gs.contains r.lgn then { r with lgn := killedKey g.slot, e := 16, tok := none } else r
  let s2 : State := { s with
    m := { s.m with
      reqs := s.m.reqs.filter fun r => !(as.contains r.agent && (r.kind == .load || r.kind == .resv || r.performed))
      resv := s.m.resv.filter fun r => !as.contains r.agent }
    fab := { s.fab with outstanding := s.fab.outstanding.map orphan }
    cur := match s.cur with
      | some (.grp h) => if gs.contains h then none else s.cur
      | some (.core l) => if l = x.lclu ∧ as.contains (agentOfCore l) then none else s.cur
      | none => none }
  { s2 with
    groups := s2.groups.map fun p => if gs.contains p.1 then (p.1, p.2.stop) else p
    gangs := s2.gangs.upd g fun y => { y with killed := some cause } }

/-- So does the gang's control core. -/
def killStopped (s : State) (g : GId) (x : Gang) (cause : Nat) (gs as : List Nat) : State :=
  let s3 := killGroups s g x cause gs as
  let m := s3.mxD x.lclu
  if m.owner = some g then s3.setMx x.lclu { m with run := false, clause := none } else s3

/-- The gang counts as retired at the barriers of its task. -/
def killCounted (s : State) (g : GId) (gs : List Nat) : State :=
  ndEvents ((forgetArrivals s g.slot gs).updTask g.slot fun t => { t with retiredKids := g.kid :: t.retiredKids.filter (· != g.kid) }) g.slot

/-- All that a kill does before it is finished. -/
def killMarked (s : State) (g : GId) (x : Gang) (t : Task) (cause : Nat) : State :=
  killCounted (killStopped (killNoted s g t cause) g x cause (groupsOfGang s g) (gangAgents s g)) g (groupsOfGang s g)

theorem killGang_of_live {s : State} {g : GId} {x : Gang} {t : Task} (hx : s.gang? g = some x) (ht : s.task? g.slot = some t) (hlive : x.killed = none)
    (cause : Nat) : killGang s g cause = settleKill (killMarked s g x t cause) g := by
  rw [killGang, hx, ht]
  dsimp only
  rw [if_neg (by rw [hlive]; decide)]
  rfl

theorem killGang_of_killed {s : State} {g : GId} (h : ∀ x, s.gang? g = some x → x.killed.isSome = true) (cause : Nat) : killGang s g cause = s := by
  unfold killGang
  split
  next x t hx _ => rw [if_pos (h x hx)]
  next => rfl

/-! ### What is left of the machine when a gang is marked as killed -/

theorem keepsAgents_killReplayed (s : State) (g : GId) : KeepsAgents s (killReplayed s g) := by
  unfold killReplayed
  split
  · dsimp only
    split
    · refine .setRpart s _ ?_ ?_ ?_
      all_goals rfl
    · exact keepsAgents_haltPart ..
  · exact .refl s

theorem insts_killReplayed (s : State) (g : GId) : (killReplayed s g).insts = s.insts := by
  unfold killReplayed
  split
  · dsimp only
    split
    · rfl
    · exact insts_haltPart ..
  · rfl

theorem keepsAgents_killFailed (s : State) (g : GId) (t : Task) (cause : Nat) : KeepsAgents s (killFailed s g t cause) := by
  unfold killFailed
  split
  · exact keepsAgents_killReplayed s g
  · exact (keepsAgents_killReplayed s g).trans (keepsAgents_failKilled ..)

theorem insts_killFailed (s : State) (g : GId) (t : Task) (cause : Nat) : (killFailed s g t cause).insts = s.insts := by
  unfold killFailed
  split <;> exact insts_killReplayed s g

theorem keepsAgents_killNoted (s : State) (g : GId) (t : Task) (cause : Nat) : KeepsAgents s (killNoted s g t cause) :=
  (((keepsAgents_killFailed s g t cause).trans (onlyCaches_errLog ..).agents).trans (keepsAgents_stopInsts ..)).trans (keepsAgents_noteKill ..)

theorem mem_insts_killNoted {s : State} {g : GId} {t : Task} {cause : Nat} {y : Inst} (h : ∀ i ∈ s.insts, copyOf g i = true → i.part = [])
    (hy : y ∈ (killNoted s g t cause).insts) : y ∈ s.insts ∧ copyOf g y = false := by
  have hinsts : (errLog (killFailed s g t cause) 2 cause (firstOf s g) t.handle 0).insts = s.insts :=
    (onlyCaches_errLog ..).insts.trans (insts_killFailed s g t cause)
  rw [killNoted, insts_noteKill] at hy
  rw [← hinsts] at h ⊢
  exact ending_of_mem_stopInsts h hy

section KillStopped
variable (s : State) (g : GId) (x : Gang) (cause : Nat) (gs as : List Nat)

theorem killStopped_effect : (killStopped s g x cause gs as).groups = s.groups.map (fun p => if gs.contains p.1 then (p.1, p.2.stop) else p)
    ∧ (killStopped s g x cause gs as).gangs = s.gangs.upd g (fun y => { y with killed := some cause })
    ∧ (killStopped s g x cause gs as).m.reqs = s.m.reqs.filter fun r => !(as.contains r.agent && (r.kind == .load || r.kind == .resv || r.performed)) := by
  unfold killStopped
  dsimp only
  split <;> exact ⟨rfl, rfl, rfl⟩

theorem killStopped_frame : (killStopped s g x cause gs as).tasks = s.tasks ∧ (killStopped s g x cause gs as).disp = s.disp
    ∧ (killStopped s g x cause gs as).damask = s.damask ∧ (killStopped s g x cause gs as).insts = s.insts := by
  unfold killStopped
  dsimp only
  split <;> exact ⟨rfl, rfl, rfl, rfl⟩

theorem owner_killStopped (l : Nat) : ((killStopped s g x cause gs as).mxD l).owner = (s.mxD l).owner := by
  have hmx : (killGroups s g x cause gs as).mxD = s.mxD := rfl
  unfold killStopped
  dsimp only
  split
  · rw [mxD_setMx, hmx]
    split
    next h => rw [h]
    next => rfl
  · rw [hmx]

theorem groupsOfGang_killStopped (h : GId) : groupsOfGang (killStopped s g x cause gs as) h = groupsOfGang s h := by
  rw [groupsOfGang, (killStopped_effect s g x cause gs as).1, List.filter_map, List.map_map, groupsOfGang]
  have hfst : ((fun p : Nat × Group => p.1) ∘ fun p => if gs.contains p.1 then (p.1, p.2.stop) else p) = fun p => p.1 := by
    funext p; dsimp only [Function.comp]; split <;> rfl
  have hgang : ((fun p : Nat × Group => decide (p.2.block.gang = h)) ∘ fun p => if gs.contains p.1 then (p.1, p.2.stop) else p)
      = fun p => decide (p.2.block.gang = h) := by
    funext p; dsimp only [Function.comp]; split <;> rfl
  rw [hfst, hgang]

end KillStopped

section KillMarked
variable {s : State} {g : GId} {x : Gang} {t : Task} (hx : s.gang? g = some x) (cause : Nat)
include hx

theorem gang?_killStopped : (killStopped (killNoted s g t cause) g x cause (groupsOfGang s g) (gangAgents s g)).gang? g = some { x with killed := some cause } := by
  rw [State.gang?, (killStopped_effect ..).2.1, AList.find?_upd, if_pos rfl, (keepsAgents_killNoted s g t cause).gangs]
  exact congrArg (Option.map _) hx

/-- The agents of the gang are the same, whether its groups are stopped or not. -/
theorem gangAgents_killStopped :
    gangAgents (killStopped (killNoted s g t cause) g x cause (groupsOfGang s g) (gangAgents s g)) g = gangAgents s g := by
  have hclu : lcluOf (killStopped (killNoted s g t cause) g x cause (groupsOfGang s g) (gangAgents s g)) g = lcluOf s g := by
    rw [lcluOf, gang?_killStopped hx, lcluOf, hx]
  have hnoted := keepsAgents_killNoted s g t cause
  refine gangAgents_congr hclu ?_ ?_
  · rw [groupsOfGang_killStopped, groupsOfGang, hnoted.groups]; rfl
  · rw [owner_killStopped, State.mxD, hnoted.mx]; rfl

end KillMarked

theorem keepsAgents_forgetArrivals (s : State) (slot : Nat) (gs : List Nat) : KeepsAgents s (forgetArrivals s slot gs) := .updTask _ _ fun _ => rfl

theorem keepsAgents_killCounted (s : State) (g : GId) (gs : List Nat) : KeepsAgents s (killCounted s g gs) := by
  refine (keepsAgents_forgetArrivals s g.slot gs).trans (KeepsAgents.trans (t := (forgetArrivals s g.slot gs).updTask g.slot _) ?_ (keepsAgents_ndEvents ..))
  exact .updTask _ _ fun _ => rfl

theorem insts_killCounted (s : State) (g : GId) (gs : List Nat) : (killCounted s g gs).insts = s.insts := insts_ndEvents ..

/-- What a kill leaves before it is finished: the gang is marked, its groups have stopped, its loads and reservations are gone, its copies leave. -/
structure Marked (s : State) (g : GId) (x : Gang) (cause : Nat) (u : State) : Prop where
  gang : u.gang? g = some { x with killed := some cause }
  gangs : u.gangs = s.gangs.upd g fun y => { y with killed := some cause }
  groups : u.groups = s.groups.map fun p => if (groupsOfGang s g).contains p.1 then (p.1, p.2.stop) else p
  agents : gangAgents u g = gangAgents s g
  reqs : u.m.reqs = s.m.reqs.filter fun r => !((gangAgents s g).contains r.agent && (r.kind == .load || r.kind == .resv || r.performed))
  stalls : slotStalls u g.slot = slotStalls s g.slot
  dead : u.disp.deadDies = s.disp.deadDies
  tasks : ∀ k, (s.task? k).isSome = true → (u.task? k).isSome = true
  insts : (∀ i ∈ s.insts, copyOf g i = true → i.part = []) → ∀ y ∈ u.insts, y ∈ s.insts ∧ copyOf g y = false

theorem marked_killMarked {s : State} {g : GId} {x : Gang} (hx : s.gang? g = some x) (t : Task) (cause : Nat) :
    Marked s g x cause (killMarked s g x t cause) := by
  have hnoted := keepsAgents_killNoted s g t cause
  obtain ⟨hgroups, hgangs, hreqs⟩ := killStopped_effect (killNoted s g t cause) g x cause (groupsOfGang s g) (gangAgents s g)
  obtain ⟨htasks, hdisp, hdamask, hinsts⟩ := killStopped_frame (killNoted s g t cause) g x cause (groupsOfGang s g) (gangAgents s g)
  have hgang := gang?_killStopped hx (t := t) cause
  have hagents := gangAgents_killStopped hx (t := t) cause
  have hcounted := keepsAgents_killCounted (killStopped (killNoted s g t cause) g x cause (groupsOfGang s g) (gangAgents s g)) g (groupsOfGang s g)
  have hcopies := insts_killCounted (killStopped (killNoted s g t cause) g x cause (groupsOfGang s g) (gangAgents s g)) g (groupsOfGang s g)
  unfold killMarked
  generalize killStopped (killNoted s g t cause) g x cause (groupsOfGang s g) (gangAgents s g) = v at *
  have hstalls : slotStalls v g.slot = slotStalls (killNoted s g t cause) g.slot := slotStalls_congr htasks hdamask g.slot
  exact
    { gang := by rw [State.gang?, hcounted.gangs]; exact hgang
      gangs := by rw [hcounted.gangs, hgangs, hnoted.gangs]
      groups := by rw [hcounted.groups, hgroups, hnoted.groups]
      agents := (hcounted.gangAgents g).trans hagents
      reqs := by rw [hcounted.reqs, hreqs, hnoted.reqs]
      stalls := (hcounted.slotStalls g.slot).trans (hstalls.trans (hnoted.slotStalls g.slot))
      dead := by rw [hcounted.dead, hdisp, hnoted.dead]
      tasks := fun k hk => hcounted.tasks k (by rw [State.task?, htasks]; exact hnoted.tasks k hk)
      insts := fun h y hy => mem_insts_killNoted h (by rwa [hcopies, hinsts] at hy) }

/-! ### A kill that waits, and one that is finished (R407) -/

theorem settleKill_of_busy {s : State} {g : GId} (h : (gangAgents s g).any (agentBusy s) = true) : settleKill s g = s := by
  unfold settleKill
  split
  · rfl
  · rw [h, Bool.or_true, Bool.true_or, if_pos rfl]

theorem settleKill_of_quiet {s : State} {g : GId} {x : Gang} {cause : Nat} (hx : s.gang? g = some x) (hkill : x.killed = some cause)
    (hstall : slotStalls s g.slot = false) (hquiet : (gangAgents s g).any (agentBusy s) = false)
    (hinst : (s.insts.any fun i => i.slot == g.slot && i.kid == g.kid && i.ending) = false) : settleKill s g = finishKill s g cause := by
  rw [settleKill, hx, Option.bind_some, hkill]
  dsimp only
  rw [hstall, hquiet, hinst, if_neg (by decide)]

section Marked
variable {s u : State} {g : GId} {x : Gang} {cause : Nat} (hu : Marked s g x cause u)
include hu

/-- With no store and no atomic outstanding, and no copy inside a chunk, the gang goes. -/
theorem Marked.finished (hreqs : ∀ r ∈ s.m.reqs, r.agent ∈ gangAgents s g → r.performed = true ∨ r.kind = .load ∨ r.kind = .resv)
    (hstall : slotStalls s g.slot = false) (hinst : ∀ i ∈ s.insts, i.slot = g.slot → i.kid = g.kid → i.ending = false ∧ i.part = []) :
    settleKill u g = finishKill u g cause := by
  refine settleKill_of_quiet hu.gang rfl (hu.stalls.trans hstall) ?_ ?_
  · rw [hu.agents, List.any_eq_false]
    intro a ha hbusy
    rw [agentBusy, hu.reqs, List.any_eq_true] at hbusy
    obtain ⟨r, hr, hown⟩ := hbusy
    obtain ⟨hr, hkept⟩ := List.mem_filter.mp hr
    rw [Bool.and_eq_true, beq_iff_eq, Bool.not_eq_true'] at hown
    obtain ⟨rfl, hopen⟩ := hown
    rcases hreqs r hr ha with h | h | h <;> simp_all
  · rw [List.any_eq_false]
    intro y hy hend
    rw [Bool.and_eq_true, Bool.and_eq_true, beq_iff_eq, beq_iff_eq] at hend
    obtain ⟨⟨hslot, hkid⟩, hending⟩ := hend
    obtain ⟨hmem, -⟩ := hu.insts (fun i hi hcopy => by
      simp only [copyOf, Bool.and_eq_true, beq_iff_eq] at hcopy
      exact (hinst i hi hcopy.1.1 hcopy.1.2).2) y hy
    exact absurd ((hinst y hmem hslot hkid).1.symm.trans hending) Bool.false_ne_true

/-- With a store or an atomic outstanding, the gang stays until it is performed. -/
theorem Marked.waits (h : ∃ r ∈ s.m.reqs, r.agent ∈ gangAgents s g ∧ r.performed = false ∧ r.kind ≠ .load ∧ r.kind ≠ .resv) :
    settleKill u g = u := by
  obtain ⟨r, hr, hagent, hopen, hload, hresv⟩ := h
  refine settleKill_of_busy ?_
  rw [hu.agents, List.any_eq_true]
  refine ⟨r.agent, hagent, ?_⟩
  rw [agentBusy, hu.reqs, List.any_eq_true]
  exact ⟨r, List.mem_filter.mpr ⟨hr, by simp [hopen, hload, hresv]⟩, by simp [hopen]⟩

theorem Marked.group? {h : Nat} (hh : h ∈ groupsOfGang s g) : ∃ gr, u.group? h = some gr ∧ gr.status = .retired ∧ gr.ctx = none ∧ gr.pend = [] := by
  obtain ⟨p, hp, rfl⟩ := List.mem_map.mp hh
  obtain ⟨gr, hgr⟩ := Option.isSome_iff_exists.mp (AList.find?_isSome_of_mem (List.mem_filter.mp hp).1)
  refine ⟨gr.stop, ?_, rfl, rfl, rfl⟩
  rw [State.group?, hu.groups, AList.find?_map_key, hgr, Option.map_some, if_pos (List.contains_iff_mem.mpr hh)]

end Marked

/-! ### The failure of a die (R34) -/

/-- A gang is as it was, or killed, or gone; the dies in service are the same, and no task goes. -/
structure Survives (s t : State) : Prop where
  gangs : ∀ g y, t.gang? g = some y → ∃ x, s.gang? g = some x ∧ (x.killed.isSome = true → y.killed.isSome = true)
  dead : t.disp.deadDies = s.disp.deadDies
  tasks : ∀ k, (s.task? k).isSome = true → (t.task? k).isSome = true

theorem KeepsGangs.survives {s t : State} (h : KeepsGangs s t) : Survives s t :=
  ⟨fun g y hy => ⟨y, by rwa [State.gang?, h.gangs] at hy, id⟩, h.dead, h.tasks⟩

theorem Survives.refl (s : State) : Survives s s := (KeepsGangs.refl s).survives

theorem Survives.trans {s t u : State} (h : Survives s t) (k : Survives t u) : Survives s u := by
  refine ⟨fun g z hz => ?_, k.dead.trans h.dead, fun n hn => k.tasks n (h.tasks n hn)⟩
  obtain ⟨y, hy, hyz⟩ := k.gangs g z hz
  obtain ⟨x, hx, hxy⟩ := h.gangs g y hy
  exact ⟨x, hx, hyz ∘ hxy⟩

theorem survives_removeGang (s : State) (g : GId) : Survives s (removeGang s g) := by
  obtain ⟨-, hgangs, hdisp, htasks⟩ := removeGang_effect s g
  refine ⟨fun h y hy => ?_, congrArg Disp.deadDies hdisp, fun k hk => by rwa [State.task?, htasks]⟩
  rw [State.gang?, hgangs, AList.find?_del] at hy
  split at hy
  · cases hy
  · exact ⟨y, hy, id⟩

theorem survives_settleKill (s : State) (g : GId) : Survives s (settleKill s g) := by
  unfold settleKill
  split
  · exact .refl s
  · split
    · exact .refl s
    · exact ((keepsGangs_killDelivered ..).survives.trans (survives_removeGang ..)).trans (finishKill_keeps ..).toKeepsGangs.survives

theorem Marked.survives {s u : State} {g : GId} {x : Gang} {cause : Nat} (hu : Marked s g x cause u) : Survives s u := by
  refine ⟨fun h y hy => ?_, hu.dead, hu.tasks⟩
  rw [State.gang?, hu.gangs, AList.find?_upd] at hy
  split at hy
  next he =>
    obtain ⟨z, hz, rfl⟩ := Option.map_eq_some_iff.mp hy
    exact ⟨z, by rw [he]; exact hz, fun _ => rfl⟩
  next => exact ⟨y, hy, id⟩

/-- A gang that is killed is gone, or marked as killed. -/
theorem killGang_kills {s : State} {g : GId} (ht : (s.task? g.slot).isSome = true) (cause : Nat) :
    Survives s (killGang s g cause) ∧ ∀ y, (killGang s g cause).gang? g = some y → y.killed.isSome = true := by
  obtain ⟨t, ht⟩ := Option.isSome_iff_exists.mp ht
  by_cases hdone : ∀ x, s.gang? g = some x → x.killed.isSome = true
  · rw [killGang_of_killed hdone]
    exact ⟨.refl s, hdone⟩
  · push Not at hdone
    obtain ⟨x, hx, hlive⟩ := hdone
    have hmark := marked_killMarked hx t cause
    rw [killGang_of_live hx ht (by simpa using hlive)]
    have hsettle := survives_settleKill (killMarked s g x t cause) g
    refine ⟨hmark.survives.trans hsettle, fun y hy => ?_⟩
    obtain ⟨z, hz, hzy⟩ := hsettle.gangs g y hy
    rw [hmark.gang] at hz
    cases hz
    exact hzy rfl

theorem survives_killGang (s : State) (g : GId) (cause : Nat) : Survives s (killGang s g cause) := by
  cases ht : s.task? g.slot with
  | some t => exact (killGang_kills (by rw [ht]; rfl) cause).1
  | none =>
    have hsame : killGang s g cause = s := by
      unfold killGang
      split
      next hsome => exact absurd (ht.symm.trans hsome) nofun
      next => rfl
    rw [hsame]
    exact .refl s

/-- The gangs of a list are killed one after the other. -/
theorem killGangs_kill (l : List GId) (cause : Nat) (s : State) : Survives s (foldS s l fun s g => killGang s g cause)
    ∧ ∀ g ∈ l, (s.task? g.slot).isSome = true → ∀ y, (foldS s l fun s g => killGang s g cause).gang? g = some y → y.killed.isSome = true := by
  unfold foldS
  induction l generalizing s with
  | nil => exact ⟨.refl s, nofun⟩
  | cons a l ih =>
    obtain ⟨hrest, hkilled⟩ := ih (killGang s a cause)
    have hfirst := survives_killGang s a cause
    refine ⟨hfirst.trans hrest, fun g hg ht y hy => ?_⟩
    rcases List.mem_cons.mp hg with rfl | hin
    · obtain ⟨z, hz, hzy⟩ := hrest.gangs g y hy
      exact hzy ((killGang_kills ht cause).2 z hz)
    · exact hkilled g hin (hfirst.tasks _ ht) y hy

theorem keepsGangs_settleOver (s : State) : KeepsGangs s (settleOver s) := (KeepsPlaced.foldS _ _ keepsPlaced_settleTask).toKeepsGangs

theorem keepsGangs_clearDie (s : State) (die : Nat) : KeepsGangs s (clearDie s die) := .of_eq rfl rfl rfl

theorem keepsGangs_resend (old s : State) (die : Nat) : KeepsGangs s (resend old s die) := .of_eq rfl rfl rfl

theorem keepsPlaced_settlePend (s : State) (line : Nat) : KeepsPlaced s (settlePend s line) := .of_eq rfl rfl rfl rfl

theorem keepsGangs_moveGates (s : State) : KeepsGangs s (moveGates s) := .of_eq rfl rfl rfl

/-- The gangs that run on a die. -/
def gangsOfDie (s : State) (die : Nat) : List GId :=
  (s.gangs.filter fun p => match physClu s p.2.lclu with | some c => dieOfClu c == die | none => false).map (·.1)

theorem mem_gangsOfDie {s : State} {die c : Nat} {g : GId} {x : Gang} (hx : s.gang? g = some x) (hc : physClu s x.lclu = some c)
    (hdie : dieOfClu c = die) : g ∈ gangsOfDie s die :=
  List.mem_map.mpr ⟨(g, x), List.mem_filter.mpr ⟨AList.mem_of_find? hx, by simp [hc, hdie]⟩, rfl⟩

/-- A die that fails kills its gangs, and is out of service from then on. -/
theorem failDie_kills (s : State) (die : Nat) : ∃ u, failDie s die = wakeAll u ∧ u.disp.deadDies = die :: s.disp.deadDies
    ∧ ∀ g ∈ gangsOfDie s die, (s.task? g.slot).isSome = true → ∀ y, u.gang? g = some y → y.killed.isSome = true := by
  unfold failDie
  extract_lets dead gone leader disp s1 s2 s3 lines s4 frz
  obtain ⟨hsurv, hkilled⟩ : Survives s1 s2
      ∧ ∀ g ∈ gangsOfDie s die, (s1.task? g.slot).isSome = true → ∀ y, s2.gang? g = some y → y.killed.isSome = true :=
    killGangs_kill (gangsOfDie s die) 0x80 s1
  have h3 : KeepsGangs s2 s3 := by
    refine ⟨rfl, rfl, fun k hk => ?_⟩
    exact AList.find?_map_val s2.tasks _ k hk
  have h4 : KeepsGangs s3 s4 := (((keepsGangs_clearDie s3 die).trans (KeepsPlaced.foldS _ lines keepsPlaced_settlePend).toKeepsGangs).trans
    (keepsGangs_resend ..)).trans (keepsGangs_settleOver _)
  have hkeep := h3.trans h4
  refine ⟨_, rfl, hkeep.dead.trans hsurv.dead, fun g hg ht y hy => hkilled g hg ht y ?_⟩
  rw [State.gang?, ← hkeep.gangs]
  exact hy

theorem dieFailure_of_up {s : State} {die : Nat} (hdie : die < 4) (hup : s.disp.deadDies.contains die = false) (hlive : s.plat.failed = false) :
    exec (.dieFailure die) s = .next (failDie s die) := by
  rw [exec_dieFailure, execDieFailure, decide_eq_true hdie, hup, hlive]
  rfl

theorem gangKill_of_cause {s : State} {g : GId} {x : Gang} {t : Task} {cause : Nat} (hx : s.gang? g = some x) (hlive : x.killed = none)
    (ht : s.task? g.slot = some t) (hcause : killCause cause = true) :
    exec (.gangKill g cause) s = .next (wakeAll (settleKill (killMarked s g x t cause) g)) := by
  rw [exec_gangKill, execGangKill, hx, hcause, killGang_of_live hx ht hlive]
  rfl

end Sys2Proof.Machine

namespace Sys2Proof.Proofs
open Sys2Proof Sys2Proof.Machine

/-- Settles O46, one lemma a clause: `swapOut_of_whole` and `swapOut_of_evicted` with `group?_leftCu` and `mem_saveGroup`, `swapIn_of_fits` with
`group?_swapBack`, `Marked.finished` and `Marked.waits` for a kill, `failDie_kills`, `failDevice_stops` and `step_of_failed`. -/
theorem swapsAndFailures : Obligations.SwapsAndFailures := by
  unfold Obligations.SwapsAndFailures
  refine ⟨fun s b bl gs hb hret hhere hsome hlive hready hclk hblk hwhy => ?_,
    fun s b bl gs hb hret hsome hswap hlive hmine hnd hroom hclu hclk => ?_,
    fun s g x cause hx hlive ht hcause => ?_,
    fun s die hdie hup hlive => ?_,
    fun s hlive => ?_,
    fun s i l hfail ha hw hreset hpower => step_of_failed hfail ha hw (afterFailure_eq_false hreset hpower),
    fun s stack hstack hlive hup => ⟨fun c hc hchan => ?_, ?_⟩,
    fun s hlink => ?_,
    fun s hlink hlive => ?_⟩
  · rcases hwhy with ⟨hwhy, hgs⟩ | ⟨hwhy, hgs, hroom⟩
    · refine ⟨_, swapOut_of_whole hb hret hhere hsome hlive hready hclk hblk hwhy hgs, fun g hg => ?_⟩
      obtain ⟨gr, hgr, -⟩ := hready g hg
      obtain ⟨gr', hgr', hkeep, haway, hctx⟩ := group?_leftCu bl.cu hgr hg
      refine ⟨gr, gr', hgr, ?_, haway, hkeep.regs, hctx, fun _ _ hor => ?_⟩
      · rw [State.group?, updBlock_groups, groups_saveSpad, groups_saveGroups]
        exact hgr'
      · rcases hwhy with h | ⟨g, e, code, h⟩ <;> rw [h] at hor <;> simp at hor
    · refine ⟨_, swapOut_of_evicted hb hret hhere hsome hlive hready hclk hblk hwhy hgs hroom, fun g hg => ?_⟩
      obtain ⟨gr, hgr, -⟩ := hready g hg
      obtain ⟨gr', hgr', hkeep, haway, hctx⟩ := group?_leftCu bl.cu hgr hg
      refine ⟨gr, gr', hgr, ?_, haway, hkeep.regs, hctx, fun hone hblock _ hwf k hk => ?_⟩
      · rw [State.group?, updBlock_groups, groups_saveGroups]
        exact hgr'
      · subst hone
        have himage := mem_saveGroup hgr' (wf_leftCu bl.cu [g] hwf) hk
        rw [hkeep.block, hblock, hkeep.gix, Group.share, hkeep.vregs] at himage
        exact himage
  · obtain ⟨f, hstep⟩ := swapIn_of_fits hb hret hsome hswap hlive hmine hnd hroom hclu hclk
    refine ⟨_, hstep, fun p hp => ?_⟩
    obtain ⟨gr, hgr⟩ := group?_of_swapRoom hroom hp
    obtain ⟨n, hback⟩ := group?_swappedIn (b := b) f hnd hp hgr
    exact ⟨gr, _, hgr, hback, rfl, List.length_map .., fun e he => ent_returnTo gr n p.2 he⟩
  · obtain ⟨t, ht⟩ := Option.isSome_iff_exists.mp ht
    have hmark := marked_killMarked hx t cause
    refine ⟨_, gangKill_of_cause hx hlive ht hcause, fun hreqs hstall hinst => ?_, fun hopen => ?_⟩
    · rw [hmark.finished hreqs hstall hinst]
      exact finishKill_removes ..
    · rw [hmark.waits hopen]
      exact ⟨⟨_, hmark.gang, rfl⟩, fun h hh => hmark.group? hh⟩
  · obtain ⟨u, hu, hdead, hkilled⟩ := failDie_kills s die
    exact ⟨u, by rw [dieFailure_of_up hdie hup hlive, hu], hdead, fun g x c hx hc hd ht => hkilled g (mem_gangsOfDie hx hc hd) ht⟩
  · obtain ⟨hfailed, hclocks, hcopies, hmem, hgroups, -⟩ := failDevice_stops s
    exact ⟨_, by rw [exec_deviceFailure, execDeviceFailure, hlive]; rfl, hfailed, hclocks, hcopies, hmem, hgroups⟩
  · exact ⟨_, stackFailure_of_channel hstack hc hlive hup hchan, (failedParts_memRecord ..).1, (onlyCaches_memRecord ..).failed.trans hlive⟩
  · obtain ⟨hstacks, hfailed, hmem⟩ := stackFailed_effect s stack
    refine ⟨_, stackFailure_of_stack hstack hlive hup, ?_⟩
    by_cases h : s.m.failedStacks = []
    · rw [if_pos h, decide_eq_false (not_not.mpr h)]
      exact ⟨hstacks, hfailed.trans hlive, hmem⟩
    · obtain ⟨hdown, -, -, hkept, -, hm⟩ := failDevice_stops (stackFailed s stack)
      rw [if_neg h, decide_eq_true h, hm]
      exact ⟨hstacks, hdown, hkept.trans hmem⟩
  · rw [exec_hostLinkFault, execHostLinkFault, hlink]; rfl
  · rw [exec_hostLinkRetrain, execHostLinkRetrain, hlink, hlive]; rfl

end Sys2Proof.Proofs

/-! ### The fields of a well-formed instruction (R50, R51, R53) -/

namespace Sys2Proof.Machine
open Sys2Proof

theorem fields_of_f3Ok {sh : Shape} {f : F3} (h : WF.f3Ok sh f = true) :
    f.ty ∈ sh.types ∧ f.md.toNat ∈ sh.mods ∧ f.x.toNat ∈ sh.xs ∧ WF.dstOk sh.dst f.d = true
      ∧ WF.useOk sh.a f.a = true ∧ WF.useOk sh.b f.b = true ∧ WF.useOk sh.c f.c = true := by
  simp only [WF.f3Ok, Bool.and_eq_true, List.contains_iff_mem] at h
  tauto

theorem eq_b32_or_b64_of_mem_bits {t : Ty} (h : t ∈ WF.bits) : t = .b32 ∨ t = .b64 := by simpa [WF.bits] using h

theorem field_lt_of_useOk_num {n : Nat} {x : Src} (h : WF.useOk (.num n) x = true) : x.field < n := by
  cases x with
  | v k => exact of_decide_eq_true h
  | s k | l k | k k => cases h

end Sys2Proof.Machine

/-! ### Integer slots: what each computes, in terms of the numbers that operands stand for (R130 to R144) -/

namespace Sys2Proof.Machine
open Sys2Proof Sys2Proof.Safety

/-! Arithmetic, on numbers (R130, R131) -/

theorem arithBits_eq_narrow (op : Int → Int → Int → Int) (t : Ty) (md : BitVec 3) (a b c : Nat) :
    arithBits op t md.toNat a b c = narrow t (md == 1) (op (extInt t a) (extInt t b) (extInt t c)) := by
  simp [arithBits, narrow, BitVec.toNat_eq]

theorem opMin_eq_min (a b c : Int) : opMin a b c = min a b := (min_def a b).symm

theorem opMax_eq_max (a b c : Int) : opMax a b c = max a b := (max_def a b).symm

theorem opAdif_eq_abs (a b c : Int) : opAdif a b c = |a - b| := Int.natCast_natAbs (a - b)

/-! Bits (R137) -/

theorem popcFrom_eq_length (a n : Nat) : popcFrom a n = ((List.range n).filter fun j => a.testBit j).length := by
  induction n with
  | zero => rfl
  | succ n ih => cases h : a.testBit n <;> simp [popcFrom, ih, List.range_succ, bitAt, b2n, h]

theorem brevFrom_eq_sum (w a n : Nat) :
    brevFrom w a n = ((List.range n).map fun j => if a.testBit (w - 1 - j) then 2 ^ j else 0).sum := by
  induction n with
  | zero => rfl
  | succ n ih => cases h : a.testBit (w - 1 - n) <;> simp [brevFrom, ih, List.range_succ, bitAt, h]

/-- BFE extends the sign of a field that is not empty (R138). -/
theorem bfeBits_eq_ite (t : Ty) (a ctl : Nat) :
    bfeBits t a ctl =
      let w := fieldWidth t.width ctl
      let x := a / 2 ^ (ctl % 256) % 2 ^ w
      if w > 0 ∧ t.signed = true ∧ x.testBit (w - 1) = true then wrapInt t.width ((x : Int) - (2 ^ w : Nat)) else x := by
  simp only [bfeBits, bitAt, Bool.and_eq_true, decide_eq_true_eq, and_assoc]

/-! Immediates (R140, R143) -/

theorem immBits_eq_fiImm (f : FI) : immBits f = fiImm f := by
  obtain ⟨sz, _, imm, _, _, _⟩ := f
  match sz with
  | 0 | 1 | 2 | 3 => rfl

theorem immWide_iff (f : FI) : immWide f = true ↔ f.sz ≠ 0 := bne_iff_ne

theorem immOp_eq (op : Nat → Nat → Nat) (f : FI) (a : Nat) : immOp op f a = op a (fiImm f) % 2 ^ fiWidth f := by
  simp only [immOp, immBits_eq_fiImm, fiWidth, immWide_iff, ite_not, ne_eq]

theorem uniImmA_eq_fiUni (f : FI) (c : Ctx) : uniImmA f c = fiUni f c := by
  simp only [uniImmA, fiUni, immWide_iff, ne_eq, ite_not]
  split
  · rfl
  · exact Nat.mod_eq_of_lt (c.uni f.a).isLt

section Slots
variable {i : Instr}

section F3
variable {f : F3}

/-- A slot on the bits of its operands computes `fn` where the operation on those bits does. -/
theorem laneOp_writes {op : Nat → Nat → Nat → Nat} {fn : Ctx → Nat → Nat} (hrs : i.isRs = false) (he : ∀ s, exec i s = laneOp s i f op)
    (hop : ∀ c k, op (c.srcT f.ty f.a k) (c.srcT f.ty f.b k) (c.srcT f.ty f.c k) = fn c k) :
    WritesLanes i f.p f.d f.nw f.ty.wide fun _ c k => fn c k :=
  vecSlot_writes hrs he fun gr c k => by simp only [noting_srcT, hop]

/-- An arithmetic slot: the exact result on the operands as numbers of TYPE, wrapped or clamped (R131). -/
theorem arith_writes {op : Int → Int → Int → Int} {fn : Ctx → Nat → Int} (hrs : i.isRs = false)
    (he : ∀ s, exec i s = laneOp s i f (arithBits op f.ty f.md.toNat))
    (hop : ∀ c k, op (laneInt f c f.a k) (laneInt f c f.b k) (laneInt f c f.c k) = fn c k) :
    WritesLanes i f.p f.d f.nw f.ty.wide fun _ c k => narrow f.ty (f.md == 1) (fn c k) :=
  laneOp_writes hrs he fun _ _ => by rw [arithBits_eq_narrow, ← hop]; rfl

/-- The same for an instruction that never clamps. -/
theorem wrapping_writes {op : Int → Int → Int → Int} {fn : Ctx → Nat → Int} (hrs : i.isRs = false)
    (he : ∀ s, exec i s = laneOp s i f (arithBits op f.ty 0))
    (hop : ∀ c k, op (laneInt f c f.a k) (laneInt f c f.b k) (laneInt f c f.c k) = fn c k) :
    WritesLanes i f.p f.d f.nw f.ty.wide fun _ c k => narrow f.ty false (fn c k) :=
  laneOp_writes hrs he fun _ _ => by rw [← hop]; rfl

/-- A slot whose B is a control operand (R130 rule 3). -/
theorem laneCtl_writes {op : Nat → Nat → Nat} {fn : Ctx → Nat → Nat} (hrs : i.isRs = false) (he : ∀ s, exec i s = laneCtl s i f op)
    (hop : ∀ c k, op (c.srcT f.ty f.a k) (c.src32 f.b k).toNat = fn c k) :
    WritesLanes i f.p f.d f.nw f.ty.wide fun _ c k => fn c k :=
  vecSlot_writes hrs he fun gr c k => by simp only [noting_srcT, noting_src32, hop]

/-- A scalar slot computes `fn` where the operation on its bits does, and extends it to 64 bits (R130 rule 4, R141). -/
theorem uniOp_writes {op : Nat → Nat → Nat} {fn : Ctx → Nat} (hrs : i.isRs = false) (he : ∀ s, exec i s = uniOp s i f op)
    (hop : ∀ c, op (c.uniT f.ty f.a) (c.uniT f.ty f.b) = fn c) : WritesScalar i f.d f.nw fun _ c => extended f.ty (fn c) :=
  scaSlot_writes hrs he fun gr c => by simp only [noting_uniT, hop, extended]

theorem uniArith_writes {op : Int → Int → Int → Int} {fn : Ctx → Int} (hrs : i.isRs = false)
    (he : ∀ s, exec i s = uniOp s i f fun a b => arithBits op f.ty f.md.toNat a b 0)
    (hop : ∀ c, op (uniInt f c f.a) (uniInt f c f.b) (extInt f.ty 0) = fn c) :
    WritesScalar i f.d f.nw fun _ c => extended f.ty (narrow f.ty (f.md == 1) (fn c)) :=
  uniOp_writes hrs he fun _ => by rw [arithBits_eq_narrow, ← hop]; rfl

theorem uniWrapping_writes {op : Int → Int → Int → Int} {fn : Ctx → Int} (hrs : i.isRs = false)
    (he : ∀ s, exec i s = uniOp s i f fun a b => arithBits op f.ty 0 a b 0)
    (hop : ∀ c, op (uniInt f c f.a) (uniInt f c f.b) (extInt f.ty 0) = fn c) :
    WritesScalar i f.d f.nw fun _ c => extended f.ty (narrow f.ty false (fn c)) :=
  uniOp_writes hrs he fun _ => by rw [← hop]; rfl

theorem uniCtl_writes {op : Nat → Nat → Nat} {fn : Ctx → Nat} (hrs : i.isRs = false) (he : ∀ s, exec i s = uniCtl s i f op)
    (hop : ∀ c, op (c.uniT f.ty f.a) ((c.uni f.b).toNat % 2 ^ 32) = fn c) : WritesScalar i f.d f.nw fun _ c => extended f.ty (fn c) :=
  scaSlot_writes hrs he fun gr c => by simp only [noting_uniT, noting_uni, hop, extended]

end F3

section FI
variable {f : FI}

/-- An immediate slot, at 32 bits or 64 (R140). -/
theorem laneImm_writes {op : Nat → Nat → Nat} {fn : Ctx → Nat → Nat} (hrs : i.isRs = false) (he : ∀ s, exec i s = laneImm s i f op)
    (hop : ∀ c k, op (fiLane f c k) (fiImm f) = fn c k) :
    WritesLanes i f.p f.d f.nw (f.sz != 0) fun _ c k => fn c k % 2 ^ fiWidth f :=
  vecSlot_writes hrs he fun gr c k => by
    simp only [immOp_eq, immWide_iff, ne_eq, ite_not, noting_src32, noting_src64, ← hop, fiLane]

theorem uniImm_writes {op : Nat → Nat → Nat} {fn : Ctx → Nat} (hrs : i.isRs = false) (he : ∀ s, exec i s = uniImm s i f op)
    (hop : ∀ c, op (fiUni f c) (fiImm f) = fn c) :
    WritesScalar i f.d f.nw fun _ c => BitVec.ofNat 64 (fn c % 2 ^ fiWidth f) :=
  scaSlot_writes hrs he fun gr c => by simp only [immOp_eq, uniImmA_eq_fiUni, ← hop, fiUni, noting_uni]

end FI

/-- WRLANE writes those of the executing lanes that B names: one, or none (R169). -/
theorem wrlane_writes (f : F3) :
    WritesLanesOf (.wrlane f) (fun c => c.exec f.p &&& maskOf fun k => k == (c.uni f.b).toNat % 2 ^ 32) f.d f.nw f.ty.wide
      fun _ c _ => c.uniT f.ty f.a :=
  lanes_written (fn := fun _ c _ => c.uniT f.ty f.a) (fun s => by simp only [countRs_of_not _ (rfl : (Instr.wrlane f).isRs = false)]; rfl)
    (fun _ _ _ => noting_uniT ..) fun _ _ => by simp only [noting_exec, noting_uni]

end Slots

end Sys2Proof.Machine

namespace Sys2Proof.Proofs
open Sys2Proof Sys2Proof.Machine Sys2Proof.Safety

/-- Settles O6: SEL is a per-lane slot that reads the predicate of C from the view, as it is stored. -/
theorem selectByPredicate : Obligations.SelectByPredicate := by
  unfold Obligations.SelectByPredicate
  refine fun f => ⟨?writes, fun hwf => ?legal, Laws.Opcode.sel f⟩
  case writes => exact vecSlot_writes rfl (exec_sel f) fun gr c k => by simp only [noting_view, noting_srcT]
  case legal =>
    obtain ⟨hty, hmd, -, -, -, -, hc⟩ := fields_of_f3Ok hwf
    exact ⟨eq_b32_or_b64_of_mem_bits hty, eq_of_toNat_mem_singleton hmd, field_lt_of_useOk_num hc⟩

/-- Settles O7: LANE is a per-lane slot that reads no operand, MOV one that passes on the bits of A. -/
theorem laneAndMove : Obligations.LaneAndMove := by
  unfold Obligations.LaneAndMove
  refine fun f => ⟨vecSlot_writes rfl (exec_lane f) fun _ _ _ => rfl, laneOp_writes rfl (exec_mov f) fun _ _ => rfl,
    fun hwf => ?lane, fun hwf => ?mov, Laws.Opcode.lane f, Laws.Opcode.mov f⟩
  case lane =>
    obtain ⟨-, -, -, -, ha, hb, hc⟩ := fields_of_f3Ok hwf
    exact ⟨eq_of_beq ha, eq_of_beq hb, eq_of_beq hc⟩
  case mov =>
    obtain ⟨hty, hmd, -, -, -, hb, hc⟩ := fields_of_f3Ok hwf
    exact ⟨eq_b32_or_b64_of_mem_bits hty, eq_of_toNat_mem_singleton hmd, eq_of_beq hb, eq_of_beq hc⟩

/-- Settles O8: one law for each shape of slot, and what the model's operations on bits are in numbers. -/
theorem laneIntegers : Obligations.LaneIntegers := by
  unfold Obligations.LaneIntegers
  refine ⟨fun f => ?arithmetic, fun f => ?logical, ⟨fun f => ?immediates, fun f => ⟨?lea, wrlane_writes f⟩⟩, fun f => ?bits⟩
  case arithmetic =>
    exact ⟨arith_writes rfl (exec_add f) fun _ _ => rfl, arith_writes rfl (exec_sub f) fun _ _ => rfl,
      arith_writes rfl (exec_mul f) fun _ _ => rfl,
      wrapping_writes rfl (exec_mulhi f) fun _ _ => rfl, arith_writes rfl (exec_mad f) fun _ _ => rfl,
      wrapping_writes rfl (exec_min f) fun _ _ => opMin_eq_min .., wrapping_writes rfl (exec_max f) fun _ _ => opMax_eq_max ..,
      wrapping_writes rfl (exec_adif f) fun _ _ => opAdif_eq_abs ..⟩
  case logical =>
    exact ⟨laneOp_writes rfl (exec_and f) fun _ _ => rfl, laneOp_writes rfl (exec_or f) fun _ _ => rfl,
      laneOp_writes rfl (exec_xor f) fun _ _ => rfl, laneOp_writes rfl (exec_not f) fun _ _ => rfl,
      laneCtl_writes rfl (exec_shl f) fun _ _ => rfl, laneCtl_writes rfl (exec_shr f) fun _ _ => rfl,
      laneCtl_writes rfl (exec_rot f) fun _ _ => rfl⟩
  case immediates =>
    exact ⟨laneImm_writes rfl (exec_addi f) fun _ _ => rfl, laneImm_writes rfl (exec_andi f) fun _ _ => rfl,
      laneImm_writes rfl (exec_ori f) fun _ _ => rfl, laneImm_writes rfl (exec_xori f) fun _ _ => rfl,
      laneImm_writes rfl (exec_movi f) fun _ _ => rfl, laneImm_writes rfl (exec_muli f) fun _ _ => rfl⟩
  case lea => exact vecSlot_writes rfl (exec_lea f) fun _ _ _ => by simp only [noting_src64, noting_src32, leaBits]
  case bits =>
    exact ⟨laneOp_writes rfl (exec_clz f) fun _ _ => rfl, laneOp_writes rfl (exec_popc f) fun _ _ => popcFrom_eq_length ..,
      laneOp_writes rfl (exec_brev f) fun _ _ => brevFrom_eq_sum .., laneCtl_writes rfl (exec_bfe f) fun _ _ => bfeBits_eq_ite ..,
      vecSlot_writes rfl (exec_bfi f) fun _ _ _ => by simp only [noting_srcT, noting_src32]; rfl⟩

/-- Settles O9: QTEST is a predicate slot. -/
theorem qtestAndsOperands : Obligations.QtestAndsOperands := by
  unfold Obligations.QtestAndsOperands
  refine fun f => ⟨?writes, fun hwf => ?legal, Laws.Opcode.qtest f⟩
  case writes =>
    exact predSlot_writes rfl (exec_qtest f) fun _ _ _ => by
      simpa only [noting_srcT] using Bool.eq_iff_iff.mpr (bne_iff_ne.trans decide_eq_true_iff.symm)
  case legal =>
    obtain ⟨hty, hmd, hx, hd, -, -, hc⟩ := fields_of_f3Ok hwf
    exact ⟨eq_b32_or_b64_of_mem_bits hty, eq_of_toNat_mem_singleton hmd, eq_of_beq hc, eq_of_toNat_mem_singleton hx, of_decide_eq_true hd⟩

/-- Settles O10: the operations of the per-lane instructions, on uniform operands. -/
theorem scalarResults : Obligations.ScalarResults := by
  unfold Obligations.ScalarResults
  refine ⟨fun f => ?operands, fun f => ?immediates⟩
  case operands =>
    exact ⟨uniArith_writes rfl (exec_sadd f) fun _ => rfl, uniArith_writes rfl (exec_ssub f) fun _ => rfl,
      uniArith_writes rfl (exec_smul f) fun _ => rfl,
      uniWrapping_writes rfl (exec_smulhi f) fun _ => rfl, uniWrapping_writes rfl (exec_smin f) fun _ => opMin_eq_min ..,
      uniWrapping_writes rfl (exec_smax f) fun _ => opMax_eq_max .., uniOp_writes rfl (exec_sand f) fun _ => rfl,
      uniOp_writes rfl (exec_sor f) fun _ => rfl, uniOp_writes rfl (exec_sxor f) fun _ => rfl,
      uniCtl_writes rfl (exec_sshl f) fun _ => rfl, uniCtl_writes rfl (exec_sshr f) fun _ => rfl,
      uniOp_writes rfl (exec_smov f) fun _ => rfl, uniOp_writes rfl (exec_sclz f) fun _ => rfl,
      uniOp_writes rfl (exec_spopc f) fun _ => popcFrom_eq_length ..,
      scaSlot_writes rfl (exec_slea f) fun _ _ => by simp only [noting_uni, leaBits]⟩
  case immediates =>
    exact ⟨uniImm_writes rfl (exec_saddi f) fun _ => rfl, uniImm_writes rfl (exec_sandi f) fun _ => rfl,
      uniImm_writes rfl (exec_sori f) fun _ => rfl,
      uniImm_writes rfl (exec_sxori f) fun _ => rfl, uniImm_writes rfl (exec_smovi f) fun _ => rfl⟩

end Sys2Proof.Proofs

/-! ### Compares, predicate logic and condition codes (R134, R136, R142, R167) -/

namespace Sys2Proof.Machine
open Sys2Proof Sys2Proof.Safety

theorem intRel_eq_ite (x : BitVec 4) (a b : Int) :
    intRel x.toNat a b =
      if x = 0 then decide (a = b) else if x = 1 then decide (a ≠ b) else if x = 2 then decide (a < b)
      else if x = 3 then decide (a ≤ b) else if x = 4 then decide (a > b) else decide (a ≥ b) := by
  simp only [intRel, BitVec.toNat_eq]
  split <;> simp_all

theorem qopBit_eq_ite (x : BitVec 4) (a b : Bool) :
    qopBit x.toNat a b =
      if x = 0 then a && b else if x = 1 then a || b else if x = 2 then a ^^ b
      else if x = 3 then a && !b else if x = 4 then !a else a := by
  simp only [qopBit, BitVec.toNat_eq]
  split <;> simp_all

theorem voteZ_eq_ite (x : BitVec 4) (hit take : Mask) :
    voteZ x.toNat hit take = if x = 0 then hit == take else if x = 1 then hit != 0 else hit == 0 || hit == take := by
  simp only [voteZ, BitVec.toNat_eq]
  split <;> simp_all

/-- The flags of a comparison, at every width (R142). -/
theorem cmpFlags_toNat {w : Nat} (a b : BitVec w) (cc : CC) :
    cmpFlags w a.toNat b.toNat cc =
      { cc with z := a == b, n := (a - b).msb, c := !a.ult b, v := BitVec.ssubOverflow a b } := by
  have hdiff : (a.toNat + 2 ^ w - b.toNat) % 2 ^ w = (a - b).toNat := by
    rw [BitVec.toNat_sub, Nat.add_comm, Nat.sub_add_comm b.isLt.le]
  have hmsb (x : BitVec w) : bitAt x.toNat (w - 1) = x.msb := by
    rw [bitAt, BitVec.testBit_toNat, BitVec.msb_eq_getLsbD_last]
  have hsigned (x : BitVec w) : (if x.msb = true then (x.toNat : Int) - 2 ^ w else x.toNat) = x.toInt := by
    rw [BitVec.toInt_eq_msb_cond]; norm_cast
  have hz : ((a - b).toNat == 0) = (a == b) := by
    rw [Bool.eq_iff_iff, beq_iff_eq, beq_iff_eq, ← sub_eq_zero (a := a), BitVec.toNat_eq]; rfl
  have hc : decide (a.toNat ≥ b.toNat) = !a.ult b := by
    simp [BitVec.ult_eq_decide, ← decide_not]
  have hv : (decide (a.toInt - b.toInt < -2 ^ (w - 1)) || decide (a.toInt - b.toInt ≥ 2 ^ (w - 1))) = BitVec.ssubOverflow a b :=
    Bool.or_comm ..
  simp only [cmpFlags, Nat.mod_eq_of_lt a.isLt, Nat.mod_eq_of_lt b.isLt, hdiff, hmsb, hsigned, hz, hc, hv]

end Sys2Proof.Machine

namespace Sys2Proof.Proofs
open Sys2Proof Sys2Proof.Machine Sys2Proof.Safety

/-- Settles O11: predicate slots and flag slots; the flags of a comparison hold at every width (`cmpFlags_toNat`). -/
theorem predicatesAndFlags : Obligations.PredicatesAndFlags := by
  unfold Obligations.PredicatesAndFlags
  refine ⟨fun f => ⟨?cmp, ?qop, ?fcmp⟩, ⟨fun f => ⟨?scmp, ?sfcmp, ?vote⟩, fun f => ?scmpi⟩,
    fun a b cc => cmpFlags_toNat a b cc, fun a b cc => cmpFlags_toNat a b cc⟩
  case cmp => exact predSlot_writes rfl (exec_cmp f) fun _ _ _ => by simp only [noting_srcT]; exact intRel_eq_ite ..
  case qop => exact predSlot_writes rfl (exec_qop f) fun _ _ _ => by simp only [noting_view, qopBit_eq_ite]
  case fcmp => exact predSlot_writes rfl (exec_fcmp f) fun _ _ _ => by simp only [noting_srcT]
  case scmp => exact ccSlot_writes rfl (exec_scmp f) fun _ _ => by simp only [noting_uniT, noting_cc]
  case sfcmp => exact ccSlot_writes rfl (exec_sfcmp f) fun _ _ => by simp only [noting_uniT, noting_cc]; rfl
  case vote => exact ccSlot_writes rfl (exec_vote f) fun _ _ => by simp only [takeQ, noting_exec, noting_view, noting_cc, voteZ_eq_ite]
  case scmpi =>
    exact ccSlot_writes rfl (exec_scmpi f) fun _ _ => by
      simp only [uniImmA_eq_fiUni, immBits_eq_fiImm, immWide_iff, ne_eq, ite_not, fiWidth, fiUni, noting_uni, noting_cc]

end Sys2Proof.Proofs

/-! ### Control registers (R127 to R129, R373) -/

namespace Sys2Proof.Machine
open Sys2Proof Sys2Proof.Safety

section ScalarWrite
variable (c : Ctx) (own : Mask) (x : Word)

/-- A scalar write touches the scalar registers, the stored mask and the note of which were written. -/
theorem putS_keeps (d : Nat) (nw : Bool) :
    ∃ view am amDirty sWritten, (c.putS own d nw x).1 = { c with view, am, amDirty, sWritten }
      ∧ (∀ n, view.getV n = c.view.getV n) ∧ ∀ n, view.getQ n = c.view.getQ n := by
  simp only [Ctx.putS]
  split
  · exact ⟨_, _, _, _, rfl, fun _ => rfl, fun _ => rfl⟩
  · split <;> exact ⟨_, _, _, _, rfl, fun _ => rfl, fun _ => rfl⟩

theorem putS_latch (d : Nat) (nw : Bool) : (c.putS own d nw x).2 = { kind := .s64, v := vzero, hi := vzero, s := x, q := 0 } := by
  simp only [Ctx.putS]
  split
  · rfl
  · split <;> rfl

/-- The scalar registers after a write of one of the three words of the stored mask (R114). -/
theorem getS_of_setMaskWord (w : BitVec 32) {d : Nat} (hlow : 60 ≤ d) (hd : d < 63) (n : Nat) :
    ({ c with am := setMaskWord c.am (d - 60) w, amDirty := true } : Ctx).getS n = if n = d then w.setWidth 64 else c.getS n := by
  by_cases h63 : n = 63
  · rw [if_neg (by omega)]; simp [Ctx.getS, h63]
  by_cases h60 : 60 ≤ n
  · by_cases hn : n = d
    · rw [if_pos hn]
      simp [Ctx.getS, h63, h60, ← hn, maskWord_setMaskWord_same _ _ _ (show n - 60 < 3 by omega)]
    · rw [if_neg hn]
      simp [Ctx.getS, h63, h60, maskWord_setMaskWord_ne _ _ _ _ (show n - 60 ≠ d - 60 by omega)]
  · rw [if_neg (by omega)]; simp [Ctx.getS, h63, h60]

/-- The scalar registers after a write: s63 discards it, s60 to s62 take its low word under OWN (R112, R114). -/
theorem putS_getS {d : Nat} (hd : d < 64) (n : Nat) :
    (c.putS own d false x).1.getS n =
      if n = d ∧ n ≠ 63 then (if 60 ≤ n ∧ n < 63 then (x.setWidth 32 &&& maskWord own (n - 60)).setWidth 64 else x) else c.getS n := by
  by_cases hlow : d < 60
  · rw [putS_fst_eq_withScalar c own hlow, withScalar_getS c hlow]
    by_cases hn : n = d
    · rw [if_pos hn, if_pos (by omega), if_neg (by omega)]
    · rw [if_neg hn, if_neg (by omega)]
  by_cases hmask : d < 63
  · have hput : (c.putS own d false x).1 =
        { c with am := setMaskWord c.am (d - 60) (x.setWidth 32 &&& maskWord own (d - 60)), amDirty := true } := by
      simp [Ctx.putS, hmask.ne, Nat.not_lt.mp hlow]
    rw [hput, getS_of_setMaskWord c _ (Nat.not_lt.mp hlow) hmask]
    by_cases hn : n = d
    · rw [if_pos hn, if_pos (by omega), if_pos (by omega), hn]
    · rw [if_neg hn, if_neg (by omega)]
  · obtain rfl : d = 63 := by omega
    rw [if_neg (by omega)]
    rfl

end ScalarWrite

/-! Outside values (R13, R375) -/

section Outside
variable (s : State) (g : Nat) (gr : Group) (c : Ctx) (kind live : Nat)

/-- Taking an outside value notes it for the commit, and nothing else. -/
theorem outside_snd : (outside s g gr c kind live).2 = { c with outs := (outside s g gr c kind live).2.outs } := by
  simp only [outside]
  split
  · split <;> rfl
  · rfl

theorem outside_live {s : State} {gr : Group} (h : replaying s gr.block.gang.slot = none) : (outside s g gr c kind live).1 = live := by
  simp only [outside, h]

end Outside

/-- Where the task is not replayed, the value is the live one. -/
theorem outside_word {s : State} {g : Nat} {gr : Group} {c : Ctx} {kind : Nat} (h : replaying s gr.block.gang.slot = none) (v : Word) :
    BitVec.ofNat 64 (outside s g gr c kind v.toNat).1 = v := by
  rw [outside_live _ _ _ _ h, BitVec.ofNat_toNat, BitVec.setWidth_eq]

theorem replaying_readTime (s : State) (slot : Nat) : replaying (readTime s).2 slot = replaying s slot := rfl

section
variable {i : Instr} {s : State} {g : Nat} {gr : Group} {c : Ctx}

theorem csrValue_noting (num : Nat) : csrValue s gr (c.noting gr i) num = csrValue s gr c num := by rw [noting_eq]; rfl

theorem recmodeWord_noting (item : Nat) : recmodeWord s gr (c.noting gr i) item = recmodeWord s gr c item := by
  simp only [recmodeWord, noting_entry]

theorem perfValue_noting (k : Nat) : perfValue (c.noting gr i) k = perfValue c k := by rw [noting_eq]; rfl

theorem latch_finish_some_of_slot {n : Nat} (hslot : c.slot = n) (i : Instr) (l : Latch) :
    (c.finish i (some l)).latch (n % 8) = some l :=
  hslot ▸ latch_finish_some c i l

/-- The view after a slot that has taken outside values, or none, and ends with a scalar write. -/
theorem scalarWritten_finish {d : Nat} (hrs : i.isRs = false) (hd : d < 64) (v : Word) (outs : List (Nat × Nat)) :
    let r := ({ c.noting gr i with outs } : Ctx).putS (gr.ent c.entry).own d false v
    ScalarWritten i d v gr c (r.1.finish i (some r.2)) ∧ (r.1.finish i (some r.2)).outs = outs := by
  intro r
  have hget := putS_getS { c.noting gr i with outs } (gr.ent c.entry).own v hd
  obtain ⟨view, am, amDirty, sWritten, hput, hv, hq⟩ := putS_keeps { c.noting gr i with outs } (gr.ent c.entry).own v d false
  refine ⟨⟨?slot, ?vectors, ?predicates, ?flags, ?stores, ?tsts, ?tops, ?csrw, ?wait, ?scalars, r.2, ?latch, ?kind, ?value⟩, ?outs⟩
  case slot => rw [hput]; apply slotKept_finish <;> simp [hrs]
  case vectors => intro n; rw [hput, finish_view, hv, noting_view]
  case predicates => intro n; rw [hput, finish_view, hq, noting_view]
  case flags => rw [hput]; simp [FlagsKept]
  case scalars => intro n; rw [finish_getS, hget, ← noting_getS c gr i]; rfl
  case latch => exact latch_finish_some_of_slot (by rw [hput]; simp) ..
  case kind | value => rw [putS_latch]
  all_goals rw [hput]; simp

/-- A slot that writes the scalar O names. -/
theorem osSlot_writes {f : FS} {d : BitVec 6} {fn : State → Nat → Group → Ctx → State × Ctx × Word} (hrs : i.isRs = false)
    (he : exec i s = osSlot s i f fn) (h : Ready s g gr c i) (ho : f.o = .s d)
    (houts : (fn s g gr (c.noting gr i)).2.1 = { c.noting gr i with outs := (fn s g gr (c.noting gr i)).2.1.outs }) :
    ∃ c', exec i s = .next ((fn s g gr (c.noting gr i)).1.setCtx g (some c'))
      ∧ ScalarWritten i d.toNat (fn s g gr (c.noting gr i)).2.2 gr c c' ∧ c'.outs = (fn s g gr (c.noting gr i)).2.1.outs := by
  generalize hfn : fn s g gr (c.noting gr i) = r at houts
  obtain ⟨s', c1, v⟩ := r
  obtain ⟨outs, rfl⟩ : ∃ outs, c1 = { c.noting gr i with outs } := ⟨_, houts⟩
  exact ⟨_, by rw [he, osSlot, slot_ready h, hfn, ho, noting_entry]; rfl, scalarWritten_finish hrs d.isLt v outs⟩

/-- The view after a slot that writes no register and holds control-register writes, or none. -/
theorem registersKept_finish (hrs : i.isRs = false) (csrw : List (Nat × Nat × Word)) :
    let c' := ({ c.noting gr i with csrw } : Ctx).finish i none
    SlotKept i c c' ∧ VectorsKept c c' ∧ ScalarsKept c c' ∧ PredicatesKept c c' ∧ FlagsKept c c' := by
  refine ⟨?slot, fun n => ?vectors, fun n => ?scalars, fun n => ?predicates, noting_cc .., noting_ccSlot ..⟩
  case slot => apply slotKept_finish <;> simp [hrs]
  case scalars => exact noting_getS ..
  all_goals rw [finish_view, noting_view]

theorem execCsrr_hintdrop {f : FS} (hnum : f.imm = 0x28) (s : State) :
    exec (.csrr f) s = osSlot s (.csrr f) f fun s g gr c =>
      let o := outside s g gr c 3 (csrValue s gr c f.imm.toNat).toNat
      (s, o.2, BitVec.ofNat 64 o.1) := by
  have heq : f.imm.toNat = 0x28 := by rw [hnum]; rfl
  simp only [exec_csrr, execCsrr, if_pos heq]

theorem execCsrr_of_ne {f : FS} (hnum : f.imm ≠ 0x28) (s : State) :
    exec (.csrr f) s = osSlot s (.csrr f) f fun s _ gr c => (s, c, csrValue s gr c f.imm.toNat) := by
  have hne : ¬f.imm.toNat = 0x28 := fun h => hnum (BitVec.eq_of_toNat_eq h)
  simp only [exec_csrr, execCsrr, if_neg hne]

end

end Sys2Proof.Machine

namespace Sys2Proof.Proofs
open Sys2Proof Sys2Proof.Machine Sys2Proof.Safety

/-- Settles O19: four slots that write the scalar O names, CSRW and NOP, which write no register, and the commit of a CSRW. -/
theorem controlRegisters : Obligations.ControlRegisters := by
  unfold Obligations.ControlRegisters
  refine ⟨fun f s g gr c =>
      ⟨fun d ho => ⟨fun h => ?csrr, fun h => ?perf, fun h => ?time, fun h => ?recmode⟩, fun h => ?csrw, fun h => ?nop⟩,
    fun e slot k v => ⟨rfl, rfl, rfl, rfl, rfl, rfl, rfl, rfl, rfl⟩⟩
  case csrr =>
    by_cases hnum : f.imm = 0x28
    · obtain ⟨c', hrun, hwritten, -⟩ := osSlot_writes rfl (execCsrr_hintdrop hnum s) h ho (outside_snd ..)
      refine ⟨c', _, hrun, hwritten, fun hlive => ?_, fun hne => absurd hnum hne⟩
      exact (outside_word (hlive.resolve_left (not_not.mpr hnum)) _).trans (csrValue_noting _)
    · obtain ⟨c', hrun, hwritten, houts⟩ := osSlot_writes rfl (execCsrr_of_ne hnum s) h ho rfl
      exact ⟨c', _, hrun, hwritten, fun _ => csrValue_noting _, fun _ => houts.trans (noting_outs ..)⟩
  case perf =>
    obtain ⟨c', hrun, hwritten, -⟩ := osSlot_writes rfl (exec_perf f s) h ho (outside_snd ..)
    exact ⟨c', _, hrun, hwritten, fun hlive => (outside_word hlive _).trans (perfValue_noting _)⟩
  case time =>
    obtain ⟨c', hrun, hwritten, -⟩ := osSlot_writes rfl (exec_time f s) h ho (outside_snd ..)
    exact ⟨c', _, hrun, hwritten, fun hlive => outside_word ((replaying_readTime ..).trans hlive) _⟩
  case recmode =>
    obtain ⟨c', hrun, hwritten, houts⟩ := osSlot_writes rfl (exec_recmode f s) h ho rfl
    rw [recmodeWord_noting] at hwritten
    exact ⟨c', hrun, houts.trans (noting_outs ..), hwritten⟩
  case csrw =>
    obtain ⟨hslot, hvectors, hscalars, hpredicates, hflags⟩ := registersKept_finish (gr := gr) (c := c) (i := .csrw f) rfl
      ((c.noting gr (.csrw f)).csrw ++ [((c.noting gr (.csrw f)).slot, f.imm.toNat, (c.noting gr (.csrw f)).uni f.o)])
    refine ⟨_, by rw [exec_csrw, execCsrw, slot_ready h]; rfl, ?_, hslot, hvectors, hscalars, hpredicates, hflags, noting_stores ..,
      noting_tsts .., noting_tops ..⟩
    simp only [finish_csrw, noting_csrw, noting_slot, noting_uni]
  case nop =>
    obtain ⟨hslot, hvectors, hscalars, hpredicates, hflags⟩ := registersKept_finish (gr := gr) (c := c) (i := .nop f) rfl
      (c.noting gr (.nop f)).csrw
    refine ⟨_, by rw [exec_nop, execNop, slot_ready h]; rfl, hslot, ?_, hvectors, hscalars, hpredicates, hflags⟩
    simp [HeldKept]

end Sys2Proof.Proofs

/-! ### Floating-point slots, conversions and counts of lanes (R145 to R159, R168) -/

namespace Sys2Proof.Machine
open Sys2Proof Sys2Proof.Safety

section Slots
variable {i : Instr} {f : F3}

/-- A floating slot computes `fn` where its operation does, at each element of the operands, under the FTZ of the group. -/
theorem fpLane_writes {op : Bool → Nat → Nat → Nat → Nat} {fn : Group → Ctx → Nat → Nat} (hrs : i.isRs = false)
    (he : ∀ s, exec i s = fpLane s i f op)
    (hop : ∀ gr c k, eachElem f.ty (op gr.ctl.ftz) (c.srcT f.ty f.a k) (c.srcT f.ty f.b k) (c.srcT f.ty f.c k) = fn gr c k) :
    WritesLanes i f.p f.d f.nw f.ty.wide fn :=
  vecSlot_writes hrs he fun _ _ _ => by simp only [noting_srcT, hop]

/-- A scalar floating slot computes `fn` where the operation on its operands does; zeros stand above the result (R145, R153). -/
theorem fpUni_writes {op : Bool → Nat → Nat → Nat → Nat} {fn : Group → Ctx → Nat} (hrs : i.isRs = false)
    (he : ∀ s, exec i s = fpUni s i f op)
    (hop : ∀ gr c, op gr.ctl.ftz (c.uniT f.ty f.a) (c.uniT f.ty f.b) (c.uniT f.ty f.c) = fn gr c) :
    WritesScalar i f.d f.nw fun gr c => BitVec.ofNat 64 (fn gr c) :=
  scaSlot_writes hrs he fun _ _ => by simp only [noting_uniT, hop]

end Slots

section Noting
variable (gr : Group) (c : Ctx) (i : Instr)

@[simp] theorem drawOf_noting (pos e : Nat) : drawOf gr (c.noting gr i) pos e = drawOf gr c pos e := by
  simp only [drawOf, noting_rs]

@[simp] theorem unpackSrc_noting (f : F3) (k : Nat) : unpackSrc (c.noting gr i) f k = unpackSrc c f k := by
  cases ha : f.a with
  | k n => simp only [unpackSrc, ha]
  | v n | s n | l n => simp only [unpackSrc, ha, noting_src32]

end Noting

theorem headD_lanesOf (m : Mask) (d : Nat) : (lanesOf m).headD d = ((List.range 96).find? fun k => m.getLsbD k).getD d := by
  rw [lanesOf, List.headD_eq_head?_getD, List.head?_filter]

end Sys2Proof.Machine

namespace Sys2Proof.Proofs
open Sys2Proof Sys2Proof.Machine Sys2Proof.Safety

/-- Settles O12: floating slots are `fpLane` or `fpUni`; a conversion reads its operands in the source type and draws from the group's state. -/
theorem floatingPoint : Obligations.FloatingPoint := by
  unfold Obligations.FloatingPoint
  refine ⟨fun f => ?arithmetic, fun f => ⟨?cvt, ?scvt, ?pack2, ?unpack, ?scalars⟩⟩
  case arithmetic =>
    exact ⟨fpLane_writes rfl (exec_fadd f) fun _ _ _ => rfl, fpLane_writes rfl (exec_fsub f) fun _ _ _ => rfl,
      fpLane_writes rfl (exec_fmul f) fun _ _ _ => rfl, fpLane_writes rfl (exec_fma f) fun _ _ _ => rfl,
      fpLane_writes rfl (exec_fmin f) fun _ _ _ => rfl, fpLane_writes rfl (exec_fmax f) fun _ _ _ => rfl,
      fpLane_writes rfl (exec_fsgn f) fun _ _ _ => rfl,
      vecSlot_writes rfl (exec_fclass f) fun _ _ _ => by simp only [noting_srcT],
      fpLane_writes rfl (exec_frnd f) fun _ _ _ => rfl,
      vecSlot_writes rfl (exec_scale f) fun _ _ _ => by simp only [noting_srcT, noting_src32, dirOf],
      vecSlot_writes rfl (exec_fdot2 f) fun _ _ _ => by simp only [noting_srcT, dirOf]⟩
  case cvt => exact rsVec_writes (exec_cvt f) fun _ _ _ => by simp only [drawOf_noting, noting_srcT, cvtSrc]
  case scvt => exact scalar_written (exec_scvt f) fun _ _ => by simp only [drawOf_noting, noting_uniT, cvtSrc, extended]
  case pack2 => exact rsVec_writes (exec_pack2 f) fun _ _ _ => by simp only [drawOf_noting, noting_srcT, noting_src32]
  case unpack => exact vecSlot_writes rfl (exec_unpack f) fun _ _ _ => by simp only [unpackSrc_noting, noting_src32]
  case scalars =>
    exact ⟨fpUni_writes rfl (exec_sfadd f) fun _ _ => rfl, fpUni_writes rfl (exec_sfmul f) fun _ _ => rfl,
      fpUni_writes rfl (exec_sfma f) fun _ _ => rfl⟩

/-- Settles O15: POPL and FIRST are scalar slots on the lanes that `takeQ` takes; BALLOT is `ballotWritesLanes`. -/
theorem populationAndFirst : Obligations.PopulationAndFirst := by
  unfold Obligations.PopulationAndFirst
  refine fun f => ⟨?popl, ?first, fun hwf => ?poplLegal, fun hwf => ?firstLegal, Laws.Opcode.popl f, Laws.Opcode.first f,
    fun s g gr c h hd => ?ballot⟩
  case popl => exact scaSlot_writes rfl (exec_popl f) fun _ _ => by simp only [takeQ, noting_exec, noting_view, popLanes, lanesOf]
  case first => exact scaSlot_writes rfl (exec_first f) fun _ _ => by simp only [takeQ, noting_exec, noting_view, headD_lanesOf]
  case poplLegal | firstLegal =>
    obtain ⟨-, -, -, hd, ha, hb, hc⟩ := fields_of_f3Ok hwf
    exact ⟨field_lt_of_useOk_num ha, eq_of_beq hb, eq_of_beq hc, of_decide_eq_true hd⟩
  case ballot =>
    obtain ⟨c', hrun, -, -, hvectors, hpredicates, hflags, hwritten, -, -⟩ := ballotWritesLanes f s g gr c h hd
    exact ⟨c', hrun, hvectors, hpredicates, hflags, hwritten⟩

end Sys2Proof.Proofs

/-! ### Control transfers (R171 to R176) -/

namespace Sys2Proof.Machine
open Sys2Proof Sys2Proof.Safety

section Jump
variable {i : Instr} {s : State} {g : Nat} {gr : Group} {c : Ctx} {p : POp}

/-- A transfer commits with the record that its slot ends with. -/
theorem commitsJump_of_tailSlot {k : State → Nat → Group → Ctx → POp → (State → Ctx → Tail → State) → State} (hl : LastSlot c)
    (h : Ready s g gr c i) (he : exec i s = tailSlot s i k)
    (hk : ∀ fin, k s g gr (c.noting gr i) (opRecord i gr c) fin = fin s (c.noting gr i) (.jump p)) : CommitsJump i s g gr c p :=
  commitsJump_of hl (issuing_group h.1).1 (by rw [he, tailSlot_ready h, hk]; rfl)

theorem commitsJump_of_jumpSlot {k : Group → Ctx → POp → POp} (hl : LastSlot c) (h : Ready s g gr c i) (he : exec i s = jumpSlot s i k)
    (hk : k gr (c.noting gr i) (opRecord i gr c) = p) : CommitsJump i s g gr c p :=
  commitsJump_of_tailSlot hl h he fun _ => by rw [hk]

theorem fbTarget_noting (f : FB) : fbTarget (c.noting gr i) f = fbTarget c f := by simp only [fbTarget, noting_addr]

theorem freeAt_noting : freeAt gr (c.noting gr i) = freeAt gr c := by simp only [freeAt, noting_marks]

theorem depthAt_noting : depthAt gr (c.noting gr i) = depthAt gr c := by simp only [depthAt, noting_entry, noting_marks]

theorem rejoinAt_noting : rejoinAt gr (c.noting gr i) = rejoinAt gr c := by simp only [rejoinAt, noting_entry, noting_marks]

theorem calliAccs_noting (a : Src) : calliAccs (c.noting gr i) a = calliAccs c a := by
  simp only [calliAccs, noting_mask, noting_latch, noting_src64]

/-- A branch records its target and whether it is taken. -/
theorem branchSlot_commits {f : FB} {taken : Ctx → Bool} {n : Nat} (hl : LastSlot c) (h : Ready s g gr c i)
    (he : exec i s = branchSlot s i f taken) (hn : b2n (taken (c.noting gr i)) = n) :
    CommitsJump i s g gr c { opRecord i gr c with a := fbTarget c f, aux := n } :=
  commitsJump_of_jumpSlot hl h he (by rw [hn, fbTarget_noting])

/-- BRANY and BRNONE look for a lane of the mask in force that has the predicate set (R172). -/
theorem anyQ_noting (q : BitVec 4) : anyQ (c.noting gr i) q = !decide (c.mask &&& c.view.getQ q.toNat = 0) := by
  simp only [anyQ, noting_mask, noting_view, bne, beq_eq_decide]

/-- A transfer to an aligned address in a register. -/
theorem toSlot_commits {a : Ctx → Word} {v : Word} (hl : LastSlot c) (h : Ready s g gr c i) (he : exec i s = toSlot s i a)
    (ha : a (c.noting gr i) = v) (hv : v.toNat % 8 = 0) : CommitsJump i s g gr c { opRecord i gr c with a := v } :=
  commitsJump_of_tailSlot hl h he fun _ => by simp only [ha, hv, ne_eq, not_true_eq_false, if_false]

theorem calli_commits {f : F3} (hl : LastSlot c) (h : Ready s g gr c (.calli f)) (ha : ∀ a ∈ calliAccs c f.a, a.va % 8 = 0)
    (hf : (callTargets (calliAccs c f.a)).length ≤ (freeAt gr c).length + 1) :
    CommitsJump (.calli f) s g gr c { opRecord (.calli f) gr c with accs := calliAccs c f.a } := by
  have hbad : (calliAccs c f.a).filter (fun a => decide (a.va % 8 ≠ 0)) = [] :=
    List.filter_eq_nil_iff.mpr fun a hm => by simp [ha a hm]
  exact commitsJump_of_tailSlot hl h (exec_calli f s) fun fin => by
    simp only [calliAccs_noting, hbad, freeAt_noting, ne_eq, not_true_eq_false, if_false, gt_iff_lt, Nat.not_lt.mpr hf]

/-- FORKM commits inside a MARK, if it does not split the lanes or has an entry for one side (R175). -/
theorem forkm_commits {f : FB} (hl : LastSlot c) (h : Ready s g gr c (.forkm f)) (hd : depthAt gr c ≠ 0)
    (hq : c.am &&& c.view.getQ f.cond.toNat = 0 ∨ c.am &&& ~~~c.view.getQ f.cond.toNat = 0 ∨ freeAt gr c ≠ []) :
    CommitsJump (.forkm f) s g gr c { opRecord (.forkm f) gr c with a := fbTarget c f, mask := c.view.getQ f.cond.toNat } :=
  commitsJump_of_tailSlot hl h (exec_forkm f s) fun fin => by
    simp only [depthAt_noting, noting_view, noting_am, freeAt_noting, fbTarget_noting]
    rw [if_neg hd, if_neg (by tauto)]

/-- JOIN commits at its rejoin address (R175). -/
theorem join_commits {f : F3} (hl : LastSlot c) (h : Ready s g gr c (.join f)) (hd : depthAt gr c ≠ 0) (hr : rejoinAt gr c = c.addr) :
    CommitsJump (.join f) s g gr c (opRecord (.join f) gr c) :=
  commitsJump_of_tailSlot hl h (exec_join f s) fun fin => by
    simp only [depthAt_noting, rejoinAt_noting, noting_addr]
    rw [if_neg (by simp [hd, hr])]

end Jump

/-! ### Where a transfer leaves its fragment (R172, R173, R175) -/

theorem ent_updEnt_of_ne {gr : Group} {e k : Nat} (f : Entry → Entry) (hk : k ≠ e) : (gr.updEnt e f).ent k = gr.ent k := by
  simp [Group.ent, Group.updEnt, List.getD_eq_getElem?_getD, hk.symm]

/-- The fragment `e` stands at the header `pc`, which is still to be fetched, with the lanes it had; registers and other entries are as they were. -/
def StandsAt (t : State) (g e : Nat) (gr : Group) (pc : Nat) : Prop :=
  ∃ gr', t.group? g = some gr' ∧ (gr'.ent e).pc = pc ∧ (gr'.ent e).st = .fetching ∧ (gr'.ent e).own = (gr.ent e).own
    ∧ (gr'.ent e).mask = (gr.ent e).mask ∧ gr'.regs = gr.regs ∧ ∀ k, k ≠ e → gr'.ent k = gr.ent k

/-- A fragment whose entry was marked as one that starts afresh goes on at a header. -/
theorem standsAt_goTo {s : State} {g e : Nat} {gr : Group} (hg : s.group? g = some gr) (he : e < gr.ents.length) (pc : Nat) :
    StandsAt (goTo (putEnt s g e fun x => { x with fresh := true }) g e pc) g e gr pc := by
  have hlen : e < (gr.updEnt e fun x => { x with fresh := true }).ents.length := by simpa [Group.updEnt] using he
  refine ⟨_, group?_putEnt (group?_putEnt hg e _) e _, ?_, ?_, ?_, ?_, rfl, fun k hk => ?_⟩
  case refine_5 => rw [ent_updEnt_of_ne _ hk, ent_updEnt_of_ne _ hk]
  all_goals rw [ent_updEnt_self _ hlen, ent_updEnt_self _ he]

section
variable {s : State} {g e : Nat} {gr : Group} {p : POp} (hg : s.group? g = some gr) (he : e < gr.ents.length)
include hg he

theorem doJump_branch {f : FB} (hi : p.instr = .br f ∨ p.instr = .brany f ∨ p.instr = .brnone f) :
    StandsAt (doJump s g e p) g e gr (if p.aux = 1 then p.a.toNat else p.nextHdr) := by
  rcases hi with hi | hi | hi <;> · simp only [doJump, hi]; exact standsAt_goTo hg he _

theorem doJump_register {f : F3} (hi : p.instr = .jmpi f ∨ p.instr = .ret f) : StandsAt (doJump s g e p) g e gr p.a.toNat := by
  rcases hi with hi | hi <;> · simp only [doJump, hi]; exact standsAt_goTo hg he _

/-- FORKM with all lanes on one side goes to that side. -/
theorem doJump_forkm_oneSided {f : FB} (hi : p.instr = .forkm f)
    (hside : (gr.ent e).mask &&& p.mask = 0 ∨ (gr.ent e).mask &&& ~~~p.mask = 0) :
    StandsAt (doJump s g e p) g e gr (if (gr.ent e).mask &&& p.mask = 0 then p.nextHdr else p.a.toNat) := by
  have hmask : ((gr.updEnt e fun x => { x with fresh := true }).ent e).mask = (gr.ent e).mask := by rw [ent_updEnt_self _ he]
  simp only [doJump, hi, group?_putEnt hg, hmask]
  split
  · exact standsAt_goTo hg he _
  next ht =>
    rw [if_pos (hside.resolve_left ht)]
    exact standsAt_goTo hg he _

end

/-! ### MARK (R175) -/

section Mark
variable {s : State} {g : Nat} {gr : Group} {c : Ctx} {f : FB}

theorem mark_held (h : Ready s g gr c (.mark f)) {n : Nat} {t : List Nat} (hf : freeAt gr c = n :: t) (hd : depthAt gr c < 15) :
    exec (.mark f) s = .next (s.setCtx g (some
      ({ c.noting gr (.mark f) with marks := c.marks ++ [((fbTarget c f).toNat, n, c.am)] }.finish (.mark f) none))) := by
  rw [exec_mark, execMark, slot_ready h]
  simp only [freeAt_noting, hf, depthAt_noting, ge_iff_le, Nat.not_le.mpr hd, if_false, noting_marks, fbTarget_noting, noting_am, endSlot]

theorem mark_splitov (h : Ready s g gr c (.mark f)) (hbad : freeAt gr c = [] ∨ depthAt gr c ≥ 15) :
    exec (.mark f) s = .next (raise s g (c.noting gr (.mark f)) .splitov c.mask 0 0) := by
  rw [exec_mark, execMark, slot_ready h]
  simp only [freeAt_noting, depthAt_noting, noting_mask]
  split
  next n t hf => rw [if_pos (hbad.resolve_left (by simp [hf]))]
  · rfl

end Mark

end Sys2Proof.Machine

namespace Sys2Proof.Proofs
open Sys2Proof Sys2Proof.Machine Sys2Proof.Safety

/-- Settles O22: each transfer's slot hands its record to the commit; the jump then moves the fragment's own entry. -/
theorem transfersCommitAtTheirTargets : Obligations.TransfersCommitAtTheirTargets := by
  unfold Obligations.TransfersCommitAtTheirTargets
  refine ⟨fun s g gr c hl => ⟨fun f => ⟨?br, ?brany, ?brnone, ?call, ?forkm⟩, fun f => ⟨?jmpi, ?ret, ?exit, ?join, ?calli⟩⟩,
    fun s g gr e p hg he => ⟨?branch, ?register, ?none, ?all⟩, fun f s g gr c h => ⟨?held, ?splitov⟩⟩
  case br => exact fun h => branchSlot_commits hl h (exec_br f s) (by simp only [noting_cc, noting_am, b2n])
  case brany => exact fun h => branchSlot_commits hl h (exec_brany f s) (by simp [anyQ_noting, b2n])
  case brnone => exact fun h => branchSlot_commits hl h (exec_brnone f s) (by simp [anyQ_noting, b2n])
  case call => exact fun h => commitsJump_of_jumpSlot hl h (exec_call f s) (by rw [fbTarget_noting]; rfl)
  case forkm => exact forkm_commits hl
  case jmpi => exact fun h hv => toSlot_commits hl h (exec_jmpi f s) (noting_uni ..) hv
  case ret => exact fun h hv => toSlot_commits hl h (exec_ret f s) (noting_getS ..) hv
  case exit => exact fun h => commitsJump_of_jumpSlot hl h (exec_exit f s) rfl
  case join => exact join_commits hl
  case calli => exact calli_commits hl
  case branch => exact fun f => doJump_branch hg he
  case register => exact fun f => doJump_register hg he
  case none =>
    intro f hi ht
    have hstands := doJump_forkm_oneSided hg he hi (.inl ht)
    rw [if_pos ht] at hstands
    exact hstands
  case all =>
    intro f hi ht hn
    have hstands := doJump_forkm_oneSided hg he hi (.inr hn)
    rw [if_neg ht] at hstands
    exact hstands
  case held =>
    intro n t hf hd
    refine ⟨_, mark_held h hf hd, rfl, ?slot, ?heldKept, ?vectors, ?scalars, ?predicates, ?flags⟩
    case heldKept => refine ⟨?_, ?_, ?_, ?_, ?_, ?_⟩ <;> simp
    case flags => constructor <;> simp
    case scalars => intro k; simp [Ctx.getS]
    all_goals simp [VectorsKept, PredicatesKept]
  case splitov => exact mark_splitov h

end Sys2Proof.Proofs

/-! ### Slots of loads and stores (R40, R177 to R179) -/

namespace Sys2Proof.Safety
open Sys2Proof Sys2Proof.Machine

theorem MemoryKept.trans {t u : State} (h : MemoryKept s t) (h' : MemoryKept t u) : MemoryKept s u := fun a => by
  obtain ⟨hmem, hhost, hhbm, hparity⟩ := h a
  obtain ⟨hmem', hhost', hhbm', hparity'⟩ := h' a
  exact ⟨hmem'.trans hmem, hhost'.trans hhost, hhbm'.trans hhbm, hparity'.trans hparity⟩

end Sys2Proof.Safety

namespace Sys2Proof.Machine
open Sys2Proof Sys2Proof.Safety

/-- The address of an access, as a sum of integers (R177). -/
theorem fmAddr_eq_emod (c : Ctx) (f : FM) (size k : Nat) :
    (fmAddr c f size k : Int) = (((c.src64 f.a k).toNat : Int) + (c.src32 f.b k).toInt * size + f.ofs.toInt) % 2 ^ 64 := by
  have hsum : c.src64 f.a k + (c.src32 f.b k).signExtend 64 * BitVec.ofNat 64 size + f.ofs.signExtend 64
      = BitVec.ofInt 64 (((c.src64 f.a k).toNat : Int) + (c.src32 f.b k).toInt * size + f.ofs.toInt) := by
    simp only [BitVec.ofInt_add, BitVec.ofInt_mul, BitVec.ofInt_natCast, BitVec.ofNat_toNat, BitVec.setWidth_eq, BitVec.signExtend]
  rw [fmAddr, hsum, BitVec.toNat_ofInt]
  exact Int.toNat_of_nonneg (Int.emod_nonneg _ (by decide))

section Slots
variable {i : Instr} {s s0 : State} {g : Nat} {gr : Group} {c : Ctx} {f : FM} {size : Nat} {uni : Bool} {l : List Acc}

/-- The view after a slot that writes no register: what it holds for the commit, and what it awaits, may have changed. -/
theorem holding_finish (hrs : i.isRs = false) (stores : List Held) (tsts : List HeldT) (tops : List TileOp) (wait : List Nat) :
    let c' := ({ c.noting gr i with stores, tsts, tops, wait } : Ctx).finish i none
    SlotKept i c c' ∧ VectorsKept c c' ∧ ScalarsKept c c' ∧ PredicatesKept c c' ∧ FlagsKept c c' := by
  refine ⟨?slot, fun n => ?vectors, fun n => ?scalars, fun n => ?predicates, noting_cc .., noting_ccSlot ..⟩
  case slot => apply slotKept_finish <;> simp [hrs]
  case scalars => exact noting_getS ..
  all_goals rw [finish_view, noting_view]

theorem fmAccs_noting (data : Nat → Word) : fmAccs (c.noting gr i) f size uni data = fmAccs c f size uni data := by
  simp only [fmAccs, fmAddr_noting, noting_exec]

theorem storeData_noting : storeData (c.noting gr i) f size uni = storeData c f size uni := by
  funext k; simp only [storeData, noting_getS, noting_src64, noting_view]

/-- A load that meets no page away from memory, outside replay, has no residency outcome to note. -/
theorem residency_nil (hr : replaying s gr.block.gang.slot = none) : residency s g gr c uni [] = (0, c) := by
  have hlive : (maskOf fun _ => false) = 0 := by decide
  simp only [residency, hr, Option.isSome_none, if_true, List.any_nil, hlive, ite_self, Bool.not_false, beq_self_eq_true, Bool.and_self]

theorem linesOf_map_withForward (c : Ctx) (l : List Acc) : linesOf (l.map (withForward c)) = linesOf l := by
  have hpa : ∀ a, (withForward c a).pa = a.pa := fun _ => rfl
  simp only [linesOf, List.map_map, Function.comp_def, hpa]

/-- The result that a load leaves waiting for its requests. -/
def loadPend (i : Instr) (f : FM) (uni : Bool) (c : Ctx) (wait : List Nat) : Pend :=
  { tok := i.tok, frag := c.entry, instr := i, mask := if uni then c.mask else c.exec f.p, wait }

/-- The state in which a load has asked the home of each line of its accesses. -/
def loadAsked (s : State) (i : Instr) (f : FM) (g : Nat) (gr : Group) (c : Ctx) (l : List Acc) : List Nat × State :=
  addReqs s { id := 0, kind := .load, agent := g, orig := .grp g c.entry, cu := gr.cu, seq := seqOf gr c.slot, ord := f.ord.toNat,
              scope := f.scope.toNat, iaddr := c.iaddr, tok := i.tok } (l.map (withForward c))

/-- The view after a load's slot: it awaits the load's requests too. -/
def loadView (i : Instr) (gr : Group) (c : Ctx) (wait : List Nat) : Ctx :=
  ({ c.noting gr i with wait := c.wait ++ wait } : Ctx).finish i none

/-- The view after a store's slot: it holds the store, and awaits its reservation. -/
def storeView (i : Instr) (f : FM) (gr : Group) (c : Ctx) (l : List Acc) (wait : List Nat) : Ctx :=
  ({ c.noting gr i with
    stores := c.stores ++ [{ slot := c.slot, tok := i.tok, ord := f.ord.toNat, scope := f.scope.toNat, accs := l }]
    wait := c.wait ++ wait } : Ctx).finish i none

/-- A slot with a token leaves a result under it; one without leaves none. -/
def awaitToken (s : State) (g : Nat) (i : Instr) (p : Pend) : State :=
  match i.tok with
  | none => s
  | some t => s.updGroup g fun x => { x with pend := x.pend ++ [{ p with tok := some t }] }

theorem awaitToken_group {p : Pend} (hg : s.group? g = some gr) :
    ∃ pend, (awaitToken s g i p).group? g = some { gr with pend := pend } ∧ MemoryKept s (awaitToken s g i p) := by
  unfold awaitToken
  split
  · exact ⟨gr.pend, hg, fun _ => ⟨rfl, rfl, rfl, rfl⟩⟩
  · exact ⟨_, by rw [group?_updGroup, if_pos rfl, hg]; rfl, fun _ => ⟨rfl, rfl, rfl, rfl⟩⟩

/-- The counters of a group after a load: the lines that its L1 lacked are counted. -/
def missesCounted (s0 : State) (gr : Group) (c : Ctx) (l : List Acc) (x : Group) : List (Nat × Nat) :=
  AList.put x.perf 6 (AList.get x.perf 6 0 + countMisses s0 gr (l.map (withForward c)))

theorem loadSlot_asks (h : Ready s g gr c i) (hr : replaying s0 gr.block.gang.slot = none)
    (hc : checkAccs s gr.cu (groupPasid s gr) true { r := true } (fmAccs c f size uni fun _ => 0) = (s0, .ok l [])) :
    loadSlot s i f size uni =
      let a := loadAsked s0 i f g gr (c.noting gr i) l
      .next ((a.2.updGroup g fun x =>
        { x with pend := x.pend ++ [loadPend i f uni c a.1], perf := missesCounted s0 gr (c.noting gr i) l x }).setCtx g
        (some (loadView i gr c a.1))) := by
  have hall : ∀ x : Acc, (!if uni = true then ((0 : Mask) != 0) else (0 : Mask).getLsbD x.lane) = true := by intro x; cases uni <;> simp
  rw [loadSlot, slot_ready h]
  simp only [fmAccs_noting, withChecked_of_ok hc, residency_nil hr, List.filter_nil, hall, List.filter_true, noting_mask, noting_exec, noting_entry,
    noting_wait, endSlot, loadAsked, loadView, loadPend, missesCounted]

/-- A load whose accesses are all good and resident: its requests are the memory engine's, its result waits for them, and the view waits too. -/
theorem load_queues (hrs : i.isRs = false) (he : exec i s = loadSlot s i f size uni) (h : Ready s g gr c i)
    (hr : replaying s0 gr.block.gang.slot = none)
    (hc : checkAccs s gr.cu (groupPasid s gr) true { r := true } (fmAccs c f size uni fun _ => 0) = (s0, .ok l [])) :
    ∃ t c' gr', exec i s = .next t ∧ t.group? g = some gr' ∧ gr'.ctx = some c' ∧ MemoryKept s t
      ∧ (∃ p, gr'.pend = gr.pend ++ [p] ∧ p.tok = i.tok ∧ p.instr = i ∧ p.frag = c.entry ∧ p.nres = 0
          ∧ p.mask = (if uni then c.mask else c.exec f.p) ∧ p.wait.length = (linesOf l).length ∧ c'.wait = c.wait ++ p.wait)
      ∧ gr'.regs = gr.regs ∧ gr'.ents = gr.ents ∧ c'.stores = c.stores
      ∧ SlotKept i c c' ∧ VectorsKept c c' ∧ ScalarsKept c c' ∧ PredicatesKept c c' ∧ FlagsKept c c' := by
  set a := loadAsked s0 i f g gr (c.noting gr i) l with ha
  have honly : OnlyEngine s0 a.2 := onlyEngine_addReqs ..
  have hlen : a.1.length = (linesOf l).length := by
    rw [ha, loadAsked, addReqs_length, linesOf_map_withForward]
  have hchecks : OnlyEngine s s0 := by simpa only [hc] using onlyEngine_checkAccs s gr.cu (groupPasid s gr) true { r := true } (fmAccs c f size uni fun _ => 0)
  refine ⟨_, loadView i gr c a.1, { gr with
    pend := gr.pend ++ [loadPend i f uni c a.1]
    perf := missesCounted s0 gr (c.noting gr i) l gr
    ctx := some (loadView i gr c a.1) }, he.trans (loadSlot_asks h hr hc), ?group, rfl, ?memory, ?queued, rfl, rfl, noting_stores .., ?kept⟩
  case group => simp only [group?_setCtx, group?_updGroup, honly.group?, checked_group h hc, if_true, Option.map_some, ← ha]
  case memory => exact (hchecks.trans honly).memoryKept
  case queued => exact ⟨_, rfl, rfl, rfl, rfl, rfl, rfl, hlen, rfl⟩
  case kept => exact holding_finish hrs ..

/-- A store whose accesses are all good and resident is held in its clause, with the data its registers have (R179). -/
theorem store_held (hrs : i.isRs = false) (he : exec i s = storeSlot s i f size uni) (h : Ready s g gr c i)
    (hc : checkAccs s gr.cu (groupPasid s gr) true { w := true } (fmAccs c f size uni (storeData c f size uni)) = (s0, .ok l [])) :
    ∃ t c' gr', exec i s = .next t ∧ t.group? g = some gr' ∧ gr'.ctx = some c' ∧ MemoryKept s t
      ∧ c'.stores = c.stores ++ [{ slot := c.slot, tok := i.tok, ord := f.ord.toNat, scope := f.scope.toNat, accs := l }]
      ∧ gr'.regs = gr.regs ∧ gr'.ents = gr.ents
      ∧ SlotKept i c c' ∧ VectorsKept c c' ∧ ScalarsKept c c' ∧ PredicatesKept c c' ∧ FlagsKept c c' := by
  set w := reserve s0 g gr (c.noting gr i) l with hw
  have honly : OnlyEngine s0 w.2 := onlyEngine_reserve ..
  have hchecks : OnlyEngine s s0 := by
    simpa only [hc] using onlyEngine_checkAccs s gr.cu (groupPasid s gr) true { w := true } (fmAccs c f size uni (storeData c f size uni))
  have hg : w.2.group? g = some gr := (honly.group? g).trans (checked_group h hc)
  obtain ⟨pend, hpend, hmem⟩ := awaitToken_group (i := i) (p := { tok := none, frag := c.entry, instr := i, mask := c.mask }) hg
  refine ⟨(awaitToken w.2 g i { tok := none, frag := c.entry, instr := i, mask := c.mask }).setCtx g (some (storeView i f gr c l w.1)), storeView i f gr c l w.1,
    { gr with pend := pend, ctx := some (storeView i f gr c l w.1) }, ?runs, ?group, rfl, ?memory, rfl, rfl, rfl, holding_finish hrs ..⟩
  case runs =>
    rw [he, storeSlot, slot_ready h]
    simp only [storeData_noting, fmAccs_noting, withAccs_of_ok hc, noting_stores, noting_slot, noting_wait, noting_entry, noting_mask, endSlot, ← hw]
    cases htok : i.tok <;> simp only [awaitToken, storeView, htok, noting_mask, noting_entry, noting_slot]
  case group => simp only [group?_setCtx, hpend, if_true, Option.map_some]
  case memory => exact (hchecks.trans honly).memoryKept.trans hmem

end Slots

end Sys2Proof.Machine

namespace Sys2Proof.Proofs
open Sys2Proof Sys2Proof.Machine Sys2Proof.Safety

/-- Settles O16: the address is the sum of integers; one law for the slot of a load and one for that of a store, applied to each instruction. -/
theorem memorySlots : Obligations.MemorySlots := by
  unfold Obligations.MemorySlots
  refine ⟨⟨fun c f size k _ => fmAddr_eq_emod c f size k, fun f => ?loads⟩, fun f => ?stores⟩
  case loads =>
    simp only [List.forall_mem_cons]
    exact ⟨fun s g gr c s0 l h _ hr hc => load_queues rfl (exec_ldN8 f s) h hr hc,
      fun s g gr c s0 l h _ hr hc => load_queues rfl (exec_ldI8 f s) h hr hc,
      fun s g gr c s0 l h _ hr hc => load_queues rfl (exec_ldN16 f s) h hr hc,
      fun s g gr c s0 l h _ hr hc => load_queues rfl (exec_ldI16 f s) h hr hc,
      fun s g gr c s0 l h _ hr hc => load_queues rfl (exec_ldB32 f s) h hr hc,
      fun s g gr c s0 l h _ hr hc => load_queues rfl (exec_ldB64 f s) h hr hc,
      fun s g gr c s0 l h _ hr hc => load_queues rfl (exec_sldB32 f s) h hr hc,
      fun s g gr c s0 l h _ hr hc => load_queues rfl (exec_sldB64 f s) h hr hc, List.forall_mem_nil _⟩
  case stores =>
    simp only [List.forall_mem_cons]
    exact ⟨fun s g gr c s0 l h hc => store_held rfl (exec_stN8 f s) h hc, fun s g gr c s0 l h hc => store_held rfl (exec_stN16 f s) h hc,
      fun s g gr c s0 l h hc => store_held rfl (exec_stB32 f s) h hc, fun s g gr c s0 l h hc => store_held rfl (exec_stB64 f s) h hc,
      fun s g gr c s0 l h hc => store_held rfl (exec_sstB32 f s) h hc, fun s g gr c s0 l h hc => store_held rfl (exec_sstB64 f s) h hc,
      List.forall_mem_nil _⟩

end Sys2Proof.Proofs

/-! ### Slots of tile instructions (R182, R183, R191) -/

namespace Sys2Proof.Machine
open Sys2Proof Sys2Proof.Safety

theorem pairwise_lanesOf (m : Mask) : (lanesOf m).Pairwise (· < ·) := List.pairwise_lt_range.filter _

/-- In a list with ascending keys, an element with a least key is the first. -/
theorem headD_eq_of_least {α : Type} {l : List α} {key : α → Nat} (hl : l.Pairwise fun a b => key a < key b) {x : α} (hx : x ∈ l)
    (hleast : ∀ y ∈ l, key x ≤ key y) (d : α) : l.headD d = x := by
  cases l with
  | nil => cases hx
  | cons a l =>
    rcases List.mem_cons.mp hx with rfl | hmem
    · rfl
    · exact absurd (List.rel_of_pairwise_cons hl hmem) (Nat.not_lt.mpr (hleast a List.mem_cons_self))

section Tiles
variable {i : Instr} {s : State} {g : Nat} {gr : Group} {c : Ctx}

theorem tldHeld_noting (h esz idx : Nat) : tldHeld (c.noting gr i) h esz idx = tldHeld c h esz idx := by simp only [tldHeld, noting_tsts]

theorem tldEl_noting (t : State) (b : BlockId) (h esz idx : Nat) : tldEl t b (c.noting gr i) h esz idx = tldEl t b c h esz idx := by
  simp only [tldEl, tldHeld_noting]

/-- TALLOC or TFREE that its block allows is held; the others raise their fault (R182). -/
theorem tileOp_held {op : Ctx → TileOp} (hrs : i.isRs = false) (he : exec i s = tileOpSlot s i op) (hop : op (c.noting gr i) = op c)
    (h : Ready s g gr c i) :
    (∀ u, tileOp (tileOps s gr.block c.tops) gr.block (op c) = .ok u → ∃ c', exec i s = .next (s.setCtx g (some c'))
      ∧ c'.tops = c.tops ++ [{ op c with slot := c.slot }] ∧ c'.stores = c.stores ∧ c'.tsts = c.tsts
      ∧ SlotKept i c c' ∧ VectorsKept c c' ∧ ScalarsKept c c' ∧ PredicatesKept c c' ∧ FlagsKept c c')
    ∧ (∀ cause, tileOp (tileOps s gr.block c.tops) gr.block (op c) = .error cause →
      exec i s = .next (raise s g (c.noting gr i) cause c.mask 0 0)) := by
  rw [he, tileOpSlot, slot_ready h]
  simp only [noting_tops, hop]
  refine ⟨fun u hu => ?allowed, fun cause hc => by rw [hc, noting_mask]⟩
  rw [hu]
  exact ⟨_, rfl, by simp only [finish_tops, noting_slot], noting_stores .., noting_tsts .., holding_finish hrs ..⟩

/-- TLD whose elements lie in the tile, none of them away: each lane's value is at hand (R183). -/
theorem tld_queues {f : F3} {esz n : Nat} (hrs : i.isRs = false) (he : exec i s = tldSlot s i f esz n) (h : Ready s g gr c i) :
    let t := tileOps s gr.block c.tops
    let els := fun k => tldIdx (tileDims t gr.block f.a.field) n ((c.uni f.b).toNat % 2 ^ 32) k
    (∀ k ∈ lanesOf (c.exec f.p), ∀ e ∈ els k,
      (elemAt t gr.block f.a.field e esz).isSome = true ∧ chunkAway t gr.block f.a.field e esz = false) →
    ∃ c' p, exec i s = .next ((s.updGroup g fun y => { y with pend := y.pend ++ [p] }).setCtx g (some c'))
      ∧ p.tok = i.tok ∧ p.frag = c.entry ∧ p.instr = i ∧ p.mask = c.exec f.p ∧ p.tiles = []
      ∧ p.vals = (lanesOf (c.exec f.p)).map (fun k => (k, BitVec.ofNat 64
          (((List.range (els k).length).map fun j =>
            tldEl t gr.block c f.a.field esz ((els k).getD j 0) * 2 ^ (8 * esz * j)).sum)))
      ∧ SlotKept i c c' ∧ HeldKept c c' ∧ VectorsKept c c' ∧ ScalarsKept c c' ∧ PredicatesKept c c' ∧ FlagsKept c c' := by
  intro t els hin
  have hbad : (((lanesOf (c.exec f.p)).map fun k => (k, els k)).filter fun x =>
      x.2.any fun e => (elemAt t gr.block f.a.field e esz).isNone) = [] := by
    simp only [List.filter_eq_nil_iff, List.mem_map, List.any_eq_true, not_exists, not_and]
    rintro _ ⟨k, hk, rfl⟩ e he
    simp [Option.isSome_iff_ne_none.mp (hin k hk e he).1]
  have haway : ∀ x ∈ (lanesOf (c.exec f.p)).map fun k => (k, els k),
      (x.2.any fun e => chunkAway t gr.block f.a.field e esz && (tldHeld c f.a.field esz e).isNone) = false := by
    simp only [List.mem_map, List.any_eq_false]
    rintro _ ⟨k, hk, rfl⟩ e he
    simp [(hin k hk e he).2]
  have hnone := List.filter_eq_nil_iff.mpr fun x hx => Bool.eq_false_iff.mp (haway x hx)
  have hall := List.filter_eq_self.mpr fun x hx => (Bool.not_eq_true' _).mpr (haway x hx)
  rw [he, tldSlot, slot_ready h]
  simp only [noting_tops, noting_exec, noting_uni, noting_entry, tldHeld_noting, tldEl_noting]
  rw [if_neg (not_not_intro hbad)]
  refine ⟨_, _, rfl, rfl, rfl, rfl, rfl, hnone, ?vals, ?slot, ?held, ?regs⟩
  case vals => rw [hall, List.map_map]; rfl
  case slot => apply slotKept_finish <;> simp [hrs]
  case held => exact ⟨noting_stores .., noting_tsts .., noting_tops .., noting_csrw .., noting_wait .., noting_outs ..⟩
  case regs => exact (registersKept_finish hrs _).2

/-- The elements that a TST writes: lane, index, value. -/
def tstEls (f : F3) (c : Ctx) : List (Nat × Nat × Word) :=
  (lanesOf (c.exec f.p)).map fun k => (k, (c.uni f.b).toNat % 2 ^ 32 + k, BitVec.ofNat 64 (c.srcT f.ty f.c k))

theorem tstEls_noting (f : F3) : tstEls f (c.noting gr i) = tstEls f c := by simp only [tstEls, noting_exec, noting_uni, noting_srcT]

theorem pairwise_tstEls (f : F3) : (tstEls f c).Pairwise fun a b => a.1 < b.1 :=
  List.pairwise_map.mpr (pairwise_lanesOf _)

/-- What a TST leaves for the commit. -/
def tstHeld (f : F3) (c : Ctx) : HeldT :=
  { slot := c.slot, tok := (Instr.tst f).tok, tile := f.a.field, esz := f.ty.width / 8, els := tstEls f c }

def tstView (f : F3) (gr : Group) (c : Ctx) : Ctx :=
  ({ c.noting gr (.tst f) with tsts := c.tsts ++ [tstHeld f c] } : Ctx).finish (.tst f) none

theorem execTst_eq (f : F3) (s : State) : execTst f s = slot s (.tst f) fun g gr c =>
    let t := tileOps s gr.block c.tops
    let esz := f.ty.width / 8
    let bad := (tstEls f c).filter fun x => (elemAt t gr.block f.a.field x.2.1 esz).isNone
    let busy := (tstEls f c).filter fun x => chunkOwned t gr.block f.a.field x.2.1 esz
    let lanes := fun (l : List (Nat × Nat × Word)) => maskOf fun k => l.any fun x => x.1 == k
    let first := fun (l : List (Nat × Nat × Word)) => (l.headD (0, 0, 0)).2.1 * esz
    if bad ≠ [] then raise s g c .tilebound (lanes bad) (first bad) 0
    else if busy ≠ [] then raise s g c .tilebusy (lanes busy) (first busy) 0
    else endSlot (awaitToken s g (.tst f) { tok := none, frag := c.entry, instr := .tst f, mask := c.mask }) g
      { c with tsts := c.tsts ++ [tstHeld f c] } (.tst f) none := rfl

/-- TST whose elements lie in the tile, none of them owned by a copy, is held (R183). -/
theorem tst_held {f : F3} (h : Ready s g gr c (.tst f)) :
    let t := tileOps s gr.block c.tops
    (∀ x ∈ tstEls f c, (elemAt t gr.block f.a.field x.2.1 (f.ty.width / 8)).isSome = true
      ∧ chunkOwned t gr.block f.a.field x.2.1 (f.ty.width / 8) = false) →
    ∃ t c' gr', exec (.tst f) s = .next t ∧ t.group? g = some gr' ∧ gr'.ctx = some c' ∧ MemoryKept s t ∧ gr'.regs = gr.regs
      ∧ c'.tsts = c.tsts ++ [{ slot := c.slot, tok := (Instr.tst f).tok, tile := f.a.field, esz := f.ty.width / 8, els := tstEls f c }]
      ∧ SlotKept (.tst f) c c' ∧ VectorsKept c c' ∧ ScalarsKept c c' ∧ PredicatesKept c c' ∧ FlagsKept c c' ∧ c'.stores = c.stores := by
  intro t hin
  have hbad : ((tstEls f c).filter fun x => (elemAt t gr.block f.a.field x.2.1 (f.ty.width / 8)).isNone) = [] :=
    List.filter_eq_nil_iff.mpr fun x hx => by simp [Option.isSome_iff_ne_none.mp (hin x hx).1]
  have hbusy : ((tstEls f c).filter fun x => chunkOwned t gr.block f.a.field x.2.1 (f.ty.width / 8)) = [] :=
    List.filter_eq_nil_iff.mpr fun x hx => Bool.eq_false_iff.mp (hin x hx).2
  obtain ⟨pend, hpend, hmem⟩ := awaitToken_group (i := .tst f) (p := { tok := none, frag := c.entry, instr := .tst f, mask := c.mask })
    (issuing_group h.1).1
  obtain ⟨hslot, hv, hs, hq, hcc⟩ := holding_finish (gr := gr) (c := c) (i := .tst f) rfl (c.noting gr (.tst f)).stores
    (c.tsts ++ [tstHeld f c]) (c.noting gr (.tst f)).tops (c.noting gr (.tst f)).wait
  refine ⟨(awaitToken s g (.tst f) { tok := none, frag := c.entry, instr := .tst f, mask := c.mask }).setCtx g (some (tstView f gr c)),
    tstView f gr c, { gr with pend := pend, ctx := some (tstView f gr c) }, ?runs, ?group, rfl, hmem, rfl, rfl, hslot, hv, hs, hq, hcc,
    noting_stores ..⟩
  case runs =>
    rw [exec_tst, execTst_eq, slot_ready h]
    simp only [noting_tops, noting_entry, noting_mask, noting_tsts, noting_slot, tstEls_noting, tstHeld, tstView, endSlot]
    rw [if_neg (not_not_intro hbad), if_neg (not_not_intro hbusy)]
  case group => simp only [group?_setCtx, hpend, if_true, Option.map_some]

/-- TST with an element outside its tile: TILEBOUND, at the byte offset of the lowest such lane's element (R183, R191). -/
theorem tst_tilebound {f : F3} (h : Ready s g gr c (.tst f)) {x : Nat × Nat × Word} (hx : x ∈ tstEls f c) :
    let t := tileOps s gr.block c.tops
    (elemAt t gr.block f.a.field x.2.1 (f.ty.width / 8)).isNone = true →
    (∀ y ∈ tstEls f c, (elemAt t gr.block f.a.field y.2.1 (f.ty.width / 8)).isNone = true → x.1 ≤ y.1) →
    ∃ lanes, lanes.getLsbD x.1 = true
      ∧ exec (.tst f) s = .next (raise s g (c.noting gr (.tst f)) .tilebound lanes (x.2.1 * (f.ty.width / 8)) 0) := by
  intro t hout hleast
  have hmem := List.mem_filter (p := fun y => (elemAt t gr.block f.a.field y.2.1 (f.ty.width / 8)).isNone) |>.mpr ⟨hx, hout⟩
  have hhead := headD_eq_of_least ((pairwise_tstEls f).filter _) hmem
    (fun y hy => hleast y (List.mem_filter.mp hy).1 (List.mem_filter.mp hy).2) (0, 0, 0)
  have hlane : x.1 < 96 := by
    obtain ⟨k, hk, rfl⟩ := List.mem_map.mp hx
    exact List.mem_range.mp (List.mem_filter.mp hk).1
  refine ⟨maskOf fun k => ((tstEls f c).filter fun x => (elemAt t gr.block f.a.field x.2.1 (f.ty.width / 8)).isNone).any fun x => x.1 == k, ?lane, ?raises⟩
  case lane =>
    rw [getLsbD_maskOf, decide_eq_true hlane, Bool.true_and]
    exact List.any_eq_true.mpr ⟨x, hmem, beq_self_eq_true x.1⟩
  case raises =>
    rw [exec_tst, execTst_eq, slot_ready h]
    simp only [noting_tops, tstEls_noting]
    rw [if_pos (List.ne_nil_of_mem hmem), hhead]

end Tiles

end Sys2Proof.Machine

namespace Sys2Proof.Proofs
open Sys2Proof Sys2Proof.Machine Sys2Proof.Safety

/-- Settles O18: one law for the slots of TALLOC and TFREE, one for those of TLD, and TST's two outcomes. -/
theorem tileInstructions : Obligations.TileInstructions := by
  unfold Obligations.TileInstructions
  refine ⟨fun f => ?ops, fun f => ?loads, fun f s g gr c h => ⟨tst_held h, fun x hx => tst_tilebound h hx⟩⟩
  case ops =>
    simp only [List.forall_mem_cons]
    exact ⟨fun s g gr c h => tileOp_held rfl (exec_talloc f s) (by simp only [noting_uni]) h,
      fun s g gr c h => tileOp_held rfl (exec_tfree f s) rfl h, List.forall_mem_nil _⟩
  case loads =>
    simp only [List.forall_mem_cons]
    exact ⟨fun s g gr c h => tld_queues rfl (exec_tld f s) h, fun s g gr c h => tld_queues rfl (exec_tldXp8 f s) h,
      fun s g gr c h => tld_queues rfl (exec_tldXp16 f s) h, List.forall_mem_nil _⟩

end Sys2Proof.Proofs

/-! ### Recording and delivering a fault (R42, R60, R189 to R192) -/

namespace Sys2Proof.Machine
open Sys2Proof Sys2Proof.Safety

/-! What a record leaves unchanged -/

/-- Nothing differs but what a trace record or a matrix record is written to: ring memory and its lines, sessions, contexts. -/
structure OnlyNoted (s t : State) : Prop where
  eq : t = { s with mem := t.mem, m := t.m, mx := t.mx, dbg := t.dbg }
  caps : t.dbg.caps = s.dbg.caps

namespace OnlyNoted
variable {s t u : State}

theorem refl (s : State) : OnlyNoted s s := ⟨rfl, rfl⟩

theorem trans (h : OnlyNoted s t) (k : OnlyNoted t u) : OnlyNoted s u :=
  ⟨by rw [k.eq, h.eq], k.caps.trans h.caps⟩

theorem foldS {α : Type} (s : State) (l : List α) {f : State → α → State} (h : ∀ x a, OnlyNoted x (f x a)) : OnlyNoted s (foldS s l f) :=
  foldS_keeps (fun x a hx => hx.trans (h x a)) l (refl s)

theorem group? (h : OnlyNoted s t) (g : Nat) : t.group? g = s.group? g := by rw [h.eq]; rfl

end OnlyNoted

theorem onlyNoted_setSess (s : State) (i : Nat) (x : Sess) : OnlyNoted s (setSess s i x) := ⟨rfl, rfl⟩

theorem onlyNoted_traceStore (s : State) (i : Nat) (bytes : List Byte) : OnlyNoted s (traceStore s i bytes) := ⟨rfl, rfl⟩

theorem onlyNoted_tracePut (s : State) (i : Nat) (bytes : List Byte) : OnlyNoted s (tracePut s i bytes) := by
  unfold tracePut
  dsimp only
  split
  · exact onlyNoted_setSess ..
  split
  · exact onlyNoted_traceStore ..
  · exact ((onlyNoted_setSess ..).trans (onlyNoted_traceStore ..)).trans (onlyNoted_traceStore ..)

theorem onlyNoted_trace (s : State) (slot kind code split agent pc : Nat) (mask : Mask) (extra : Nat) :
    OnlyNoted s (trace s slot kind code split agent pc mask extra) := by
  unfold trace
  split
  · exact .refl s
  · refine .foldS _ _ fun x i => ?_
    dsimp only
    split
    · exact onlyNoted_tracePut ..
    · exact .refl x

theorem onlyNoted_noteMatrix (s : State) (l : Nat) (info : FaultInfo) : OnlyNoted s (noteMatrix s l info) := by
  unfold noteMatrix
  dsimp only
  split
  · exact .refl s
  · exact ⟨rfl, rfl⟩

/-! The record -/

/-- A group with a fault's FLT, FLTMASK and record. -/
def Group.faulted (gr : Group) (e : Nat) (info : FaultInfo) (late : Bool) : Group :=
  let f : Flt := { v := true, late, iaddr := info.iaddr, cause := info.cause.code, m := info.lanes }
  { gr with ctl := { gr.ctl with flt := f, tFlt := e }, frec := faultRecord f info }

/-- A shared register of a task of no partition is noted nowhere. -/
theorem noteShared_of_no_partition {s : State} {g : Nat} {gr : Group} (hg : s.group? g = some gr) (hp : partOfTask s gr.block.gang.slot = none)
    (e : Nat) (regs : List Nat) : noteShared s g e regs = s := by
  simp only [noteShared, hg, recording_of_no_partition hp]

section Record
variable {s : State} {g : Nat} {gr : Group} (hg : s.group? g = some gr) (hp : partOfTask s gr.block.gang.slot = none)
include hg hp

theorem onlyNoted_recordFault (e : Nat) (info : FaultInfo) (late : Bool) :
    OnlyNoted (s.updGroup g fun x => x.faulted e info late) (recordFault s g e info late) := by
  have hupd : (s.updGroup g fun x => x.faulted e info late).group? g = some (gr.faulted e info late) := by
    rw [group?_updGroup, if_pos rfl, hg]; rfl
  have hshared := noteShared_of_no_partition hupd hp e [64 + 0x20, 64 + 0x21, 64 + 0x22, 64 + 0x23]
  simp only [Group.faulted] at hshared
  simp only [recordFault, hg, hshared]
  refine OnlyNoted.trans ?_ (onlyNoted_trace ..)
  split
  · exact onlyNoted_noteMatrix ..
  · exact .refl _

theorem group?_recordFault (e : Nat) (info : FaultInfo) (late : Bool) :
    (recordFault s g e info late).group? g = some (gr.faulted e info late) := by
  rw [(onlyNoted_recordFault hg hp e info late).group?, group?_updGroup, if_pos rfl, hg]
  rfl

theorem partOfTask_recordFault (e : Nat) (info : FaultInfo) (late : Bool) : partOfTask (recordFault s g e info late) gr.block.gang.slot = none := by
  have h := onlyNoted_recordFault hg hp e info late
  rw [h.eq]
  exact hp

theorem debugged_recordFault (e : Nat) (info : FaultInfo) (late : Bool) : debugged (recordFault s g e info late) g = debugged s g := by
  have h := onlyNoted_recordFault hg hp e info late
  have hcap (i : Nat) : capD (recordFault s g e info late) i = capD s i := by rw [capD, h.caps]; rfl
  have htask : pasidOf (recordFault s g e info late) gr.block.gang.slot = pasidOf s gr.block.gang.slot := by rw [h.eq]; rfl
  rw [debugged, debugged, group?_recordFault hg hp, hg]
  simp only [hasRight, hcap, Group.faulted, htask]

end Record

/-! Delivery -/

/-- A group with one fragment halted by a fault's code. -/
def Group.halted (gr : Group) (e code : Nat) : Group :=
  gr.updEnt e fun x => { x with st := .halted, waitk := 0, haltOn := some 256, haltCode := code, haltReq := false, clause := none }

/-- The causes that halt the fragment where its task has a debug capability (R192). -/
def haltCauses : List Cause := [.illop, .latch, .align, .tilebound, .tilebusy, .matrix, .fabric, .typeop, .race, .trap]

theorem deliver_halts {s : State} {g : Nat} {gr : Group} {info : FaultInfo} (hg : s.group? g = some gr)
    (hp : partOfTask s gr.block.gang.slot = none) (hd : debugged s g = true) (hc : info.cause ∈ haltCauses)
    (hfab : info.cause = .fabric → info.sub ≠ 0x80) (e : Nat) (late : Bool) :
    deliver s g e info late = haltFrag (recordFault s g e info late) g e 256 info.cause.code := by
  have hdel := delivery_of_unrecorded (group?_recordFault hg hp e info late) (partOfTask_recordFault hg hp e info late) e 1 info.cause.code
  have hdbg : debugged (recordFault s g e info late) g = true := (debugged_recordFault hg hp e info late).trans hd
  unfold deliver
  simp only [hdel, hdbg, if_true]
  simp only [haltCauses, List.mem_cons, List.not_mem_nil, or_false] at hc
  rcases hc with h | h | h | h | h | h | h | h | h | h <;> simp only [h]
  case _ => rw [if_neg (hfab h)]

/-! Taking a fault (R42, R190) -/

/-- The entry of a fragment whose clause is abandoned: back at its header. -/
def Entry.abandoned (c : Ctx) (x : Entry) : Entry :=
  { x with st := .fetching, clause := none, chunk := { x.chunk with split := false, count := x.chunk.count - (if x.chunk.split then c.ops.length else 0) } }

theorem ent_abandoned (gr : Group) (c : Ctx) (k : Nat) : (gr.abandoned c).ent k = (gr.updEnt c.entry (Entry.abandoned c)).ent k := rfl

section Take
variable {s : State} {g : Nat} {gr : Group} {c : Ctx} {f : Nat × FaultInfo}

/-- The one fault of a clause that awaits nothing is delivered, and its clause abandoned. -/
theorem takeFaults_of_single (hg : s.group? g = some gr) (hc : gr.ctx = some c) (hf : c.faults = [f]) (hne : f.2.cause ≠ .holdcap)
    (hp : partOfTask s gr.block.gang.slot = none) : takeFaults s g = deliver (abandon s g) g c.entry f.2 false := by
  have hstalls : groupStalls s g = false := by simp only [groupStalls, hg, slotStalls_of_no_partition hp]
  simp only [takeFaults, hstalls, hg, hc, Option.bind_some, hf, firstFault, hne, decide_false, Bool.false_and, Bool.false_eq_true, if_false]

/-- The group after a fault of its clause that halts the fragment. -/
def Group.haltedIn (gr : Group) (c : Ctx) (info : FaultInfo) : Group :=
  ((gr.abandoned c).faulted c.entry info false).halted c.entry info.cause.code

theorem takeFaults_halts (hg : s.group? g = some gr) (hc : gr.ctx = some c) (hf : c.faults = [f]) (hcause : f.2.cause ∈ haltCauses)
    (hfab : f.2.cause = .fabric → f.2.sub ≠ 0x80) (hd : debugged s g = true) (hp : partOfTask s gr.block.gang.slot = none) :
    (takeFaults s g).group? g = some (gr.haltedIn c f.2) := by
  have hne : f.2.cause ≠ .holdcap := fun h => by rw [h] at hcause; exact absurd hcause (by decide)
  obtain ⟨m, cur, hab⟩ := abandon_of_ctx hg hc
  have hg' : (abandon s g).group? g = some (gr.abandoned c) := by
    rw [hab]
    exact (group?_updGroup (s := s) g g fun gr => gr.abandoned c).trans (by rw [if_pos rfl, hg, Option.map_some])
  have hp' : partOfTask (abandon s g) (gr.abandoned c).block.gang.slot = none := by rw [hab]; exact hp
  have hd' : debugged (abandon s g) g = true := by
    rw [debugged, hg']
    rw [debugged, hg] at hd
    rw [hab]
    exact hd
  rw [takeFaults_of_single hg hc hf hne hp, deliver_halts hg' hp' hd' hcause hfab, haltFrag, group?_updGroup, if_pos rfl,
    group?_recordFault hg' hp']
  rfl

/-- Where the fragment of the fault stands, and its siblings. -/
theorem ent_haltedIn {info : FaultInfo} (he : c.entry < gr.ents.length) :
    let x := (gr.haltedIn c info).ent c.entry
    x.st = .halted ∧ x.pc = (gr.ent c.entry).pc ∧ x.mask = (gr.ent c.entry).mask ∧ x.cc = (gr.ent c.entry).cc ∧ x.own = (gr.ent c.entry).own
      ∧ ∀ k, k ≠ c.entry → (gr.haltedIn c info).ent k = gr.ent k := by
  have hlen : c.entry < ((gr.abandoned c).faulted c.entry info false).ents.length := by
    simpa [Group.faulted, Group.abandoned] using he
  have hself : ((gr.abandoned c).faulted c.entry info false).ent c.entry = (gr.ent c.entry).abandoned c :=
    (ent_abandoned gr c c.entry).trans (ent_updEnt_self _ he)
  have hother (k : Nat) (hk : k ≠ c.entry) : (gr.haltedIn c info).ent k = gr.ent k := by
    rw [Group.haltedIn, Group.halted, ent_updEnt_of_ne _ hk]
    exact (ent_abandoned gr c k).trans (ent_updEnt_of_ne _ hk)
  simp only [Group.haltedIn, Group.halted, ent_updEnt_self _ hlen, hself]
  exact ⟨trivial, rfl, rfl, rfl, rfl, hother⟩

end Take

/-! FLT's layout (R189) -/

theorem getLsbD_eq_div (w : Word) (i : Nat) : w.getLsbD i = decide (w.toNat / 2 ^ i % 2 = 1) := Nat.testBit_eq_decide_div_mod_eq

theorem toNat_word_flt {f : Flt} (hc : f.cause < 256) : f.word.toNat = b2n f.v * 2 ^ 63 + b2n f.late * 2 ^ 62 + f.iaddr / 8 % 2 ^ 54 * 2 ^ 8 + f.cause := by
  have hv : b2n f.v ≤ 1 := by cases f.v <;> decide
  have hl : b2n f.late ≤ 1 := by cases f.late <;> decide
  rw [Flt.word, BitVec.toNat_ofNat]
  omega

section Flt
variable {f : Flt} (hc : f.cause < 256)
include hc

theorem getLsbD_word_v : f.word.getLsbD 63 = f.v := by
  have hv : b2n f.v ≤ 1 := by cases f.v <;> decide
  have hl : b2n f.late ≤ 1 := by cases f.late <;> decide
  have hbit : f.word.toNat / 2 ^ 63 % 2 = b2n f.v := by rw [toNat_word_flt hc]; omega
  rw [getLsbD_eq_div, hbit]
  cases f.v <;> rfl

theorem getLsbD_word_late : f.word.getLsbD 62 = f.late := by
  have hl : b2n f.late ≤ 1 := by cases f.late <;> decide
  have hbit : f.word.toNat / 2 ^ 62 % 2 = b2n f.late := by rw [toNat_word_flt hc]; omega
  rw [getLsbD_eq_div, hbit]
  cases f.late <;> rfl

theorem iaddr_word : (f.word.extractLsb' 8 54).toNat = f.iaddr / 8 % 2 ^ 54 := by
  rw [BitVec.extractLsb'_toNat, Nat.shiftRight_eq_div_pow, toNat_word_flt hc]
  omega

theorem cause_word : (f.word.extractLsb' 0 8).toNat = f.cause := by
  rw [BitVec.extractLsb'_toNat, Nat.shiftRight_eq_div_pow, toNat_word_flt hc]
  omega

end Flt

/-! The fault recorded for a clause (R190) -/

/-- The causes in the order of R190. -/
def rankedCauses : List Cause :=
  [.illop, .latch, .budget, .align, .unmapped, .prot, .typemis, .fabric, .splitov, .tilebound, .tilebusy, .matrix, .typeop, .holdcap, .race,
   .uncorr, .barrier, .pgpark, .sigmis, .brk, .trap]

theorem getD_rankedCauses_rank (a : Cause) : rankedCauses.getD (a.rank - 1) .illop = a := by cases a <;> rfl

theorem eq_of_rank_eq {a b : Cause} (h : a.rank = b.rank) : a = b := by
  rw [← getD_rankedCauses_rank a, h, getD_rankedCauses_rank]

/-- A fault that R190 records of a list: of the lowest slot, of the cause ranked first there, with the lanes of all such. -/
structure IsFirst (l : List (Nat × FaultInfo)) (x : Nat × FaultInfo) : Prop where
  slot : ∀ y ∈ l, x.1 ≤ y.1
  found : ∃ y ∈ l, y.1 = x.1 ∧ y.2.cause = x.2.cause
  rank : ∀ y ∈ l, y.1 = x.1 → x.2.cause.rank ≤ y.2.cause.rank
  lanes : ∀ y ∈ l, y.1 = x.1 → y.2.cause = x.2.cause → y.2.lanes &&& ~~~x.2.lanes = 0

namespace IsFirst
variable {a y : Nat × FaultInfo} {t : List (Nat × FaultInfo)}

theorem singleton (a : Nat × FaultInfo) : IsFirst [a] a := by
  constructor <;> simp

/-- A fault that comes before the rest's first. -/
theorem cons_of_before (h : IsFirst t y) (hb : a.1 < y.1 ∨ a.1 = y.1 ∧ a.2.cause.rank < y.2.cause.rank) : IsFirst (a :: t) a := by
  have hle : a.1 ≤ y.1 := hb.elim Nat.le_of_lt fun h => Nat.le_of_eq h.1
  have hrank (z) (hz : z ∈ t) (hs : z.1 = a.1) : a.2.cause.rank < z.2.cause.rank := by
    have hyz := h.slot z hz
    obtain hlt | ⟨heq, hlt⟩ := hb
    · omega
    · exact Nat.lt_of_lt_of_le hlt (h.rank z hz (hs.trans heq))
  refine ⟨?_, ⟨a, List.mem_cons_self, rfl, rfl⟩, ?_, ?_⟩ <;> simp only [List.forall_mem_cons]
  · exact ⟨Nat.le_refl _, fun z hz => hle.trans (h.slot z hz)⟩
  · exact ⟨fun _ => Nat.le_refl _, fun z hz hs => Nat.le_of_lt (hrank z hz hs)⟩
  · exact ⟨fun _ _ => by simp, fun z hz hs hc => absurd (hrank z hz hs) (by rw [hc]; exact Nat.lt_irrefl _)⟩

/-- A fault that comes after the rest's first. -/
theorem cons_of_after (h : IsFirst t y) (hb : y.1 < a.1 ∨ y.1 = a.1 ∧ y.2.cause.rank < a.2.cause.rank) : IsFirst (a :: t) y := by
  have hle : y.1 ≤ a.1 := hb.elim Nat.le_of_lt fun h => Nat.le_of_eq h.1
  have hrank (hs : a.1 = y.1) : y.2.cause.rank < a.2.cause.rank := (hb.resolve_left (by omega)).2
  obtain ⟨z, hz, hfound⟩ := h.found
  refine ⟨?_, ⟨z, List.mem_cons_of_mem _ hz, hfound⟩, ?_, ?_⟩ <;> simp only [List.forall_mem_cons]
  · exact ⟨hle, h.slot⟩
  · exact ⟨fun hs => Nat.le_of_lt (hrank hs), h.rank⟩
  · exact ⟨fun hs hc => absurd (hrank hs) (by rw [hc]; exact Nat.lt_irrefl _), h.lanes⟩

/-- A fault of the slot and cause of the rest's first adds its lanes. -/
theorem cons_of_same {info : FaultInfo} (h : IsFirst t y) (hs : a.1 = y.1) (hc : info.cause = y.2.cause)
    (hl : info.lanes = a.2.lanes ||| y.2.lanes) (hac : a.2.cause = y.2.cause) : IsFirst (a :: t) (a.1, info) := by
  refine ⟨?_, ⟨a, List.mem_cons_self, rfl, hac.trans hc.symm⟩, ?_, ?_⟩ <;> simp only [List.forall_mem_cons, hs, hc, hl]
  · exact ⟨Nat.le_refl _, h.slot⟩
  · exact ⟨fun _ => by rw [hac], h.rank⟩
  · refine ⟨fun _ _ => ?_, fun z hz hzs hzc => ?_⟩
    · rw [BitVec.not_or, ← BitVec.and_assoc, BitVec.and_not_self]; exact BitVec.zero_and
    · rw [BitVec.not_or, BitVec.and_comm (~~~_), ← BitVec.and_assoc, h.lanes z hz hzs hzc]; exact BitVec.zero_and

end IsFirst

theorem firstFault_eq_none {l : List (Nat × FaultInfo)} (h : firstFault l = none) : l = [] := by
  cases l with
  | nil => rfl
  | cons a t =>
    rw [firstFault] at h
    split at h
    · cases h
    · split_ifs at h

theorem isFirst_of_firstFault {l : List (Nat × FaultInfo)} {x : Nat × FaultInfo} (h : firstFault l = some x) : IsFirst l x := by
  induction l generalizing x with
  | nil => cases h
  | cons a t ih =>
    rw [firstFault] at h
    split at h
    next ht =>
      obtain rfl := Option.some.inj h
      rw [firstFault_eq_none ht]
      exact .singleton a
    next y hy =>
      have hfirst := ih hy
      split_ifs at h with hlt hgt hcause hmin hrank <;> obtain rfl := Option.some.inj h
      · exact hfirst.cons_of_before (.inl hlt)
      · exact hfirst.cons_of_after (.inl hgt)
      · exact hfirst.cons_of_same (by omega) hcause rfl hcause
      · exact hfirst.cons_of_same (by omega) rfl rfl hcause
      · exact hfirst.cons_of_before (.inr ⟨by omega, by have := mt eq_of_rank_eq hcause; omega⟩)
      · exact hfirst.cons_of_after (.inr ⟨by omega, by omega⟩)

end Sys2Proof.Machine

namespace Sys2Proof.Proofs
open Sys2Proof Sys2Proof.Machine Sys2Proof.Safety

/-- Settles O32: FLT is a sum of fields; the one fault of a clause halts its fragment; the first of several, by induction on them. -/
theorem faultsAreRecorded : Obligations.FaultsAreRecorded := by
  unfold Obligations.FaultsAreRecorded
  refine ⟨⟨fun f hf => ?word, ?taken⟩, fun l x h => ?first⟩
  case word =>
    exact ⟨getLsbD_word_v hf, getLsbD_word_late hf, iaddr_word hf, cause_word hf⟩
  case taken =>
    intro s g gr c cause lanes daddr sub hg hctx hwait hfaults he hcause hfab hd hp info
    set c1 : Ctx := { c with faults := c.faults ++ [(c.slot, { info with slot := c.slot })], slot := c.words.length + 1 } with hc1
    have hg1 : (s.setCtx g (some c1)).group? g = some { gr with ctx := some c1 } := by
      rw [group?_setCtx, if_pos rfl, hg]; rfl
    have hd1 : debugged (s.setCtx g (some c1)) g = true := by
      rw [debugged, hg1]
      rwa [debugged, hg] at hd
    have hraise : raise s g c cause lanes daddr sub = takeFaults (s.setCtx g (some c1)) g := by
      rw [raise, raiseInfo, if_pos hwait]; rfl
    have hhalt := takeFaults_halts (f := (c.slot, { info with slot := c.slot })) hg1 rfl (by rw [hc1, hfaults]; rfl)
      (show cause ∈ haltCauses from List.mem_append_left [Cause.trap] hcause) hfab hd1 hp
    obtain ⟨hst, hpc, hmask, hcc, hown, hsib⟩ := ent_haltedIn (gr := { gr with ctx := some c1 }) (c := c1) (info := { info with slot := c.slot }) he
    exact ⟨Group.haltedIn { gr with ctx := some c1 } c1 { info with slot := c.slot }, hraise ▸ hhalt, rfl, rfl, rfl, rfl, rfl, rfl, hst,
      hpc, hmask, hcc, hown, hsib⟩
  case first =>
    obtain ⟨hslot, hfound, hrank, hlanes⟩ := isFirst_of_firstFault h
    exact ⟨hslot, hfound, hrank, hlanes⟩

end Sys2Proof.Proofs

/-! ### System operations at their commit (R109 to R111, R186, R188, R356, R373) -/

namespace Sys2Proof.Machine
open Sys2Proof Sys2Proof.Safety

/-- What a note of shared registers changes is the recorder's. -/
theorem noteShared_only (s : State) (g e : Nat) (regs : List Nat) : ∃ d, noteShared s g e regs = { s with damask := d } := by
  unfold noteShared
  split
  · exact ⟨_, rfl⟩
  · split <;> exact ⟨_, rfl⟩

theorem group?_noteShared (s : State) (g e : Nat) (regs : List Nat) (h : Nat) : (noteShared s g e regs).group? h = s.group? h := by
  obtain ⟨d, hd⟩ := noteShared_only s g e regs
  rw [hd]
  rfl

theorem group?_errLog (s : State) (kind cause agent task addr g : Nat) : (errLog s kind cause agent task addr).group? g = s.group? g := by
  rw [State.group?, (onlyCaches_errLog ..).groups]
  rfl

/-- What begins with a release, of a group none of whose accesses is owed. -/
theorem withRelease_of_quiet {s : State} {g waitk : Nat} {p : POp} {k : State → POp → Ran} (hphase : p.phase = 0) (hbusy : agentBusy s g = false)
    (htiles : tilesOwed s g = false) : withRelease s g waitk 4 p k = k (release s g 4) { p with phase := 1 } := by
  simp only [withRelease, hphase, hbusy, htiles, if_true]
  rfl

theorem runFwaitc_of_failed {s : State} {g e : Nat} {gr : Group} {p : POp} {f : FS} (h : collState s gr.block.gang.slot f.imm.toNat > 2) :
    ∃ i, runFwaitc s g e gr p f = .late (setColl (addFence s g e gr p 1 5) gr.block.gang.slot f.imm.toNat 0) i ∧ i.cause = .fabric := by
  unfold runFwaitc
  dsimp only
  split
  case h_4 | h_5 => exact ⟨_, rfl, rfl⟩
  all_goals omega

section System
variable {s : State} {g e : Nat} {gr : Group} {p : POp} (hg : s.group? g = some gr)
include hg

/-! BRK and abort TRAP (R188, R192) -/

/-- A fault that halts its fragment, with a debug capability, or a BRK. -/
theorem group?_deliver_halts {info : FaultInfo} (hp : partOfTask s gr.block.gang.slot = none)
    (hc : info.cause = .brk ∨ debugged s g = true ∧ info.cause = .trap) (late : Bool) :
    (deliver s g e info late).group? g = some ((gr.faulted e info late).halted e info.cause.code) := by
  have hrec := group?_recordFault hg hp e info late
  have hhalt : (haltFrag (recordFault s g e info late) g e 256 info.cause.code).group? g
      = some ((gr.faulted e info late).halted e info.cause.code) := by
    rw [haltFrag, group?_updGroup, if_pos rfl, hrec]; rfl
  rcases hc with hbrk | ⟨hd, htrap⟩
  · have hdel := delivery_of_unrecorded hrec (partOfTask_recordFault hg hp e info late) e 3 info.cause.code
    simp only [deliver, hdel]
    simp only [hbrk] at hhalt ⊢
    simp only [hhalt]
    exact hhalt
  · rwa [deliver_halts hg hp hd (by rw [htrap]; decide) (fun h => by rw [htrap] at h; cases h)]

/-- A BRK or an abort TRAP of a task with a debug capability halts its fragment at the next header. -/
theorem commitFault_halts {cause : Cause} (hc : cause = .brk ∨ cause = .trap) (hd : debugged s g = true) (he : e < gr.ents.length)
    (hp : partOfTask s gr.block.gang.slot = none) :
    ∃ t gr', commitFault s g e p cause = .taken t ∧ t.group? g = some gr' ∧ (gr'.ent e).st = .halted ∧ gr'.ctl.flt.v = true
      ∧ gr'.ctl.flt.late = false ∧ gr'.ctl.flt.cause = cause.code ∧ gr'.ctl.flt.iaddr = p.iaddr ∧ gr'.regs = gr.regs
      ∧ (gr'.ent e).pc = (gr.ent e).pc := by
  let stands : Entry → Entry := fun x => { x with st := .fetching, clause := none, waitk := 0, park := .none }
  have hg' : (s.updGroup g fun gr => gr.updEnt e stands).group? g = some (gr.updEnt e stands) := group?_putEnt hg e stands
  have hd' : debugged (s.updGroup g fun gr => gr.updEnt e stands) g = true := by
    rw [debugged, hg']
    rwa [debugged, hg] at hd
  have hlen : e < (gr.updEnt e stands).ents.length := by simpa [Group.updEnt] using he
  have hent (info : FaultInfo) : (((gr.updEnt e stands).faulted e info false).halted e info.cause.code).ent e
      = { stands (gr.ent e) with st := .halted, waitk := 0, haltOn := some 256, haltCode := info.cause.code, haltReq := false, clause := none } := by
    rw [← ent_updEnt_self stands he]
    exact ent_updEnt_self (gr := (gr.updEnt e stands).faulted e info false) _ hlen
  refine ⟨_, _, rfl, group?_deliver_halts hg' hp (hc.imp id fun h => ⟨hd', h⟩) false, ?_, rfl, rfl, rfl, rfl, rfl, ?_⟩ <;> rw [hent]

/-! SPAWN and TDEP of a key that has been seen (R109 to R111) -/

theorem countSpawn_effect :
    ∃ gr', (countSpawn s g e).group? g = some gr' ∧ gr'.ctl.spncnt = gr.ctl.spncnt + 1 ∧ gr'.regs = gr.regs
      ∧ (countSpawn s g e).tasks = s.tasks ∧ (countSpawn s g e).disp = s.disp := by
  let counted : Group → Group := fun x => { x with ctl := { x.ctl with spncnt := x.ctl.spncnt + 1, tSpncnt := e } }
  have hupd : (s.updGroup g counted).group? g = some (counted gr) := by rw [group?_updGroup, if_pos rfl, hg]; rfl
  obtain ⟨d, hd⟩ := noteShared_only (s.updGroup g counted) g e [64 + 0x1A]
  rw [countSpawn, hd]
  exact ⟨counted gr, hupd, rfl, rfl, rfl, rfl⟩

/-! SIGCHK (R186) -/

/-- A group at a first mismatch: SIGMIS is recorded, and what is in flight is to write nothing. -/
def Group.mismatched (gr : Group) (e iaddr : Nat) : Group :=
  let x := gr.faulted e { cause := .sigmis, iaddr, lanes := (gr.ent e).mask } false
  { x with ctl := { x.ctl with seen := true, tRegent := e }, pend := x.pend.map fun p => { p with dead := true } }

theorem group?_sigmis (hp : partOfTask s gr.block.gang.slot = none) (hseen : gr.ctl.seen = false) (iaddr : Nat) :
    (sigmis s g e iaddr).group? g = some (gr.mismatched e iaddr) := by
  set info : FaultInfo := { cause := .sigmis, iaddr, lanes := (gr.ent e).mask } with hinfo
  have hrec := group?_recordFault hg hp e info false
  have hdel := delivery_of_unrecorded hrec (partOfTask_recordFault hg hp e info false) e 5 0x0E
  simp only [sigmis, hg, ← hinfo, hdel, hseen, Bool.false_eq_true, if_false]
  rw [group?_updGroup, if_pos rfl, group?_noteShared, group?_errLog, hrec]
  rfl

/-- Names of freed entries move: of the group only the results that await something. -/
theorem group?_moveOrigs (k m : Nat) : ∃ pend, (moveOrigs s g k m).group? g = some { gr with pend := pend } :=
  ⟨_, (group?_updGroup _ g g _).trans (by rw [if_pos rfl]; exact congrArg (Option.map _) hg)⟩

omit hg in
theorem group?_moveAll (l : List Nat) {s : State} {gr : Group} (hg : s.group? g = some gr) :
    ∃ pend, (l.foldl (fun s k => moveOrigs s g k 0) s).group? g = some { gr with pend := pend } := by
  induction l generalizing s gr with
  | nil => exact ⟨gr.pend, hg⟩
  | cons k l ih =>
    obtain ⟨pend, hmove⟩ := group?_moveOrigs hg k 0
    exact ih (gr := { gr with pend := pend }) hmove

/-- The entries of a group that starts again: one fragment, with every lane that has not exited. -/
def Group.restartEnts (gr : Group) (e : Nat) : List Entry :=
  (List.range 16).map fun k =>
    if k = 0 then { valid := true, own := allLanes &&& ~~~gr.exited, mask := allLanes &&& ~~~gr.exited, pc := gr.ctl.region,
                    late := (List.range 16).flatMap fun k => (gr.ent k).late, chunk := (gr.ent e).chunk } else {}

theorem group?_restart : ∃ pend, (restart s g e).group? g =
    some { gr with pend := pend, ctl := { gr.ctl with sig := sigReset }, ents := gr.restartEnts e } := by
  obtain ⟨pend, hmove⟩ := group?_moveAll (List.range 16) hg
  exact ⟨pend, by rw [restart, group?_updGroup, if_pos rfl, hmove]; rfl⟩

/-- Where no late report is pending, none is taken. -/
theorem settleLate_of_none (hlate : (gr.ent e).late = []) : settleLate s g e = s := by
  simp only [settleLate, hg, hlate, lateFirst, ite_self]

omit hg in
theorem ent_restartEnts_of_ne (gr : Group) (e : Nat) {k : Nat} (hk : k ≠ 0) : (gr.restartEnts e).getD k {} = {} := by
  by_cases hlt : k < 16 <;> simp [Group.restartEnts, List.getD_eq_getElem?_getD, hlt, hk]

theorem runOp_sigchk {f : FI} (hi : p.instr = .sigchk f) : runOp s g e p = runSigchk s g e gr p f := by simp only [runOp, hg, hi]

/-- SIGCHK that finds what it names, or a sibling, starts the signature again. -/
theorem runSigchk_resets {f : FI} (hphase : p.phase = 0) (hok : gr.frags.length ≠ 1 ∨ gr.ctl.sig = f.imm) :
    ∃ t gr', runSigchk s g e gr p f = .done t ∧ t.group? g = some gr' ∧ gr'.ctl.sig = sigReset ∧ gr'.regs = gr.regs ∧ gr'.ents = gr.ents := by
  have hno : (decide (gr.frags.length = 1) && gr.ctl.sig != f.imm) = false := by rcases hok with h | h <;> simp [h]
  refine ⟨s.updGroup g fun x => { x with ctl := { x.ctl with sig := sigReset, tSig := e } },
    { gr with ctl := { gr.ctl with sig := sigReset, tSig := e } }, ?runs, ?group, rfl, rfl, rfl⟩
  case runs => simp only [runSigchk, hphase, hno, Nat.zero_ne_one, if_false, Bool.false_eq_true]
  case group => rw [group?_updGroup, if_pos rfl, hg]; rfl

section Mismatch
variable {f : FI} (hphase : p.phase = 0) (hone : gr.frags.length = 1) (hsig : gr.ctl.sig ≠ f.imm) (hseen : gr.ctl.seen = false)
  (hp : partOfTask s gr.block.gang.slot = none)
include hphase hone hsig hseen hp

/-- A first mismatch: the region starts again as soon as nothing is in flight. -/
theorem runSigchk_of_mismatch : runSigchk s g e gr p f =
    if gr.pend = [] then .taken (settleLate (restart (sigmis s g e p.iaddr) g e) g 0)
    else .park (sigmis s g e p.iaddr) 0 (.op { p with phase := 1 }) := by
  have hmis : (decide (gr.frags.length = 1) && gr.ctl.sig != f.imm) = true := by simp [hone, hsig]
  have hany : ((sigmis s g e p.iaddr).group? g).any (fun x => x.pend == []) = decide (gr.pend = []) := by
    rw [group?_sigmis hg hp hseen, Option.any_some]
    cases hpend : gr.pend <;> simp [Group.mismatched, Group.faulted, hpend]
  simp only [runSigchk, hphase, hmis, hseen, hany, Nat.zero_ne_one, if_false, if_true, Bool.false_eq_true, decide_eq_true_eq]

/-- With nothing in flight and no late report to take, the restart is all. -/
theorem runSigchk_restarts (hpend : gr.pend = []) (hlate : ∀ k, (gr.ent k).late = []) :
    runSigchk s g e gr p f = .taken (restart (sigmis s g e p.iaddr) g e) := by
  obtain ⟨pend, hre⟩ := group?_restart (e := e) (group?_sigmis (e := e) hg hp hseen p.iaddr)
  have hnone : (((gr.mismatched e p.iaddr).restartEnts e).getD 0 {}).late = [] :=
    List.flatMap_eq_nil_iff.mpr fun k _ => hlate k
  rw [runSigchk_of_mismatch hg hphase hone hsig hseen hp, if_pos hpend, settleLate_of_none hre hnone]

end Mismatch

end System

end Sys2Proof.Machine

namespace Sys2Proof.Proofs
open Sys2Proof Sys2Proof.Machine Sys2Proof.Safety

/-- Settles O36: each operation's run from its group's state; a fault's record and a restart by what they leave of the group. -/
theorem systemOperations : Obligations.SystemOperations := by
  unfold Obligations.SystemOperations
  intro s g gr e p hg
  refine ⟨fun f hi => ⟨?resets, ?waits, ?restarts⟩, fun f hi hphase => ?trap, fun f hi hd => ?nodebug, fun f => ?halts, fun f hi hp => ?recmark,
    fun f hi => ?fwaitc, fun f h hi hphase hbusy htiles hseen => ?counts⟩
  case resets =>
    intro hphase hok
    obtain ⟨t, gr', hrun, hkept⟩ := runSigchk_resets (e := e) (f := f) hg hphase hok
    exact ⟨t, gr', (runOp_sigchk hg hi).trans hrun, hkept⟩
  case waits =>
    intro hphase hone hsig hseen hp hpend
    exact ⟨_, (runOp_sigchk hg hi).trans ((runSigchk_of_mismatch hg hphase hone hsig hseen hp).trans (if_neg hpend))⟩
  case restarts =>
    intro hphase hone hsig hseen hp hpend hlate
    obtain ⟨pend, hre⟩ := group?_restart (e := e) (group?_sigmis (e := e) hg hp hseen p.iaddr)
    exact ⟨_, _, (runOp_sigchk hg hi).trans (runSigchk_restarts hg hphase hone hsig hseen hp hpend hlate), hre, rfl, rfl, rfl, rfl, rfl,
      fun k hk => congrArg Entry.valid (ent_restartEnts_of_ne _ e hk)⟩
  case trap =>
    refine ⟨delivery s g e 2 0, { p with phase := 1, accs := (List.range 5).map fun k => mkAcc 96 k 8 (gr.regs.getS k) 0 }, ?_, rfl, fun _ => ?_⟩
    · simp only [runOp, hg, hi, runTrap, hphase, if_true]
    · rw [List.map_map]; rfl
  case nodebug => simp only [runOp, hg, hi, runBrk, hd, Bool.false_eq_true, if_false]
  case halts =>
    simp only [List.forall_mem_cons]
    refine ⟨fun hi hd he hp => ?_, fun hi hd he hp => ?_, List.forall_mem_nil _⟩
    · simp only [runOp, hg, hi, runBrk, hd, if_true]
      exact commitFault_halts hg (.inl rfl) hd he hp
    · simp only [runOp, hg, hi, runTrapAbort]
      exact commitFault_halts hg (.inr rfl) hd he hp
  case recmark =>
    have hrep : replaying s gr.block.gang.slot = none := by rw [replaying, hp, Option.bind_none]
    simp only [runOp, hg, hi, runRecmark, recording_of_no_partition hp, hrep]
  case fwaitc =>
    intro n slot fin
    simp only [runOp, hg, hi]
    refine ⟨fun h => ?_, fun h => ⟨p, ?_⟩, fun h => ?_, runFwaitc_of_failed⟩ <;>
      simp only [runFwaitc, show collState s gr.block.gang.slot f.imm.toNat = _ from h]
    rfl
  case counts =>
    obtain ⟨gr', hg', hcnt, hregs, htasks, hdisp⟩ := countSpawn_effect (s := release s g 4) (g := g) (e := e) hg
    have hseen' : keySeen (release s g 4) gr = true := hseen
    refine ⟨_, gr', ?_, hg', hcnt, hregs, htasks, hdisp⟩
    rcases hi with hi | hi <;> simp only [runOp, hg, hi, runSpawn, runTdep, withRelease_of_quiet hphase hbusy htiles, hseen', if_true]

end Sys2Proof.Proofs

/-! ### A load that observes another fragment's chunk (R363, R364) -/

namespace Sys2Proof.Machine
open Sys2Proof

/-- A load of one word of the first clause of group 0, made in chunk 1. -/
def observingLoad : Req :=
  { id := 5, kind := .load, agent := 0, orig := .grp 0 0, cu := 0, seq := 0, chunk := 1, accs := [{ lane := 3, va := 0, pa := 0x8000, size := 4 }] }

/-- Group 0 of a recorded task; its fragment 0 has two instructions in chunk 1 already. The word that it loads lies on an SC page, and a
fragment of another group accessed it last, in chunk 2. -/
def observingState : State :=
  { (placePlain State.reset).updGroup 0 fun gr => gr.updEnt 0 fun x => { x with chunk := { id := 1, count := 2 } } with
    m := { frames := [(8, { ty := 1 })], reqs := [observingLoad] }
    damask := { parts := [(0, { mode := 1, qm := 1 })], access := [(0x2000, ⟨⟨1, 0⟩, 2⟩)], chunkNext := 3 } }

/-- The chunk that a request is of after a step. -/
def chunkAfter (o : Out) (r : Nat) : Option Nat := match o with | .next t => (findReq t r).map (·.chunk) | _ => none

theorem chunkAfter_next (t : State) (r : Nat) : chunkAfter (.next t) r = (findReq t r).map (·.chunk) := rfl

theorem findReq_observingState : findReq observingState 5 = some observingLoad := by decide +kernel

theorem observingLoad_turn : reqTurn observingState observingLoad = true ∧ sentTurn observingState observingLoad = true
    ∧ bindsMay observingState observingLoad = true
    ∧ promoteMay observingState observingLoad.agent observingLoad.split observingLoad.acq (rcWords observingState observingLoad) = true := by
  decide +kernel

/-- The home serves it: its L1 has no copy, the host none, and the page is bound. -/
theorem observingLoad_home :
    (observingLoad.accs != [] && observingLoad.accs.all fun a => isDev a.pa && l1Hit observingState observingLoad.cu a.pa a.size) = false
      ∧ readTurn observingState observingLoad.id observingLoad.devWords = .go ∧ bindsOf observingState observingLoad = [] := by
  decide +kernel

theorem observingLoad_no_cycle : ∀ w ∈ observingLoad.devWords, observesCycle observingState 0 observingLoad.split w = false := by decide +kernel

/-- The page's type lets a load read, and no agent holds the word. -/
theorem observingLoad_admitted : homeType observingState 0x8000 = 1 ∧ ∀ a ∈ observingLoad.accs, ∀ w ∈ a.readWords,
    judgeRead (bringAll observingState observingLoad.devWords) observingLoad.agent (4 * w) 4 = .ok := by
  decide +kernel

/-- What the load observes makes its clause a chunk by itself, and its own request moves to that chunk. -/
theorem chunkAfter_exec_observingLoad : chunkAfter (exec (.loadRequest 5) observingState) 5 = some 3 := by decide +kernel

end Sys2Proof.Machine

namespace Sys2Proof.Proofs
open Sys2Proof Sys2Proof.Machine

/-- Refutes O39: a load of a recorded task that observes another fragment's chunk (`observingState`). The home performs it, and then enters its word
in the access entries, which splits the fragment's chunk at the clause: the requests of the clause, this one among them, move from chunk 1 to
chunk 3 (`moveClause`). The obligation's request after the step differs from the one before in its values only, so it is still of chunk 1. -/
theorem not_loadsAndStoresArePerformed : ¬ Obligations.LoadsAndStoresArePerformed := by
  unfold Obligations.LoadsAndStoresArePerformed
  rintro ⟨-, hloads⟩
  obtain ⟨hturn, hsent, hbinds, hpromote⟩ := observingLoad_turn
  obtain ⟨hmiss, hgo, hbound⟩ := observingLoad_home
  obtain ⟨htype, hadmit⟩ := observingLoad_admitted
  obtain ⟨-, hserved⟩ := hloads observingState 5 observingLoad findReq_observingState rfl hturn hsent hbinds hpromote
  obtain ⟨t, hstep, -, -, hsingle⟩ := hserved hmiss hgo fun g e horig w hw _ => by
    obtain ⟨rfl, -⟩ := Orig.grp.inj horig
    exact observingLoad_no_cycle w hw
  obtain ⟨hok, -⟩ := hsingle _ rfl (by decide) (by rw [htype]; decide) hbound
  have hchunk := chunkAfter_exec_observingLoad
  rw [hstep, chunkAfter_next, hok (hadmit _ List.mem_cons_self)] at hchunk
  exact absurd hchunk (by decide)

end Sys2Proof.Proofs

/-! ### A host's answer while a partition waits for a free frame (R313, R360) -/

namespace Sys2Proof.Machine
open Sys2Proof

/-- The host holds line 0 exclusive and is asked to give it up; a ring whose partition has no number of R359 is full. -/
def fullRingState : State :=
  { State.reset with
    m := { bi := [0], dir := [(0, { host := true, hostx := true })] }
    damask := { parts := [(8, { mode := 1, tail := 4096 })] } }

/-- The host's data of the line. -/
def hostLine : List Byte := List.replicate 128 0

theorem eventStalls_fullRingState : eventStalls fullRingState = true := by decide

/-- None of the partitions 0 to 7 records, and none is replayed. -/
theorem fullRingState_unrecorded : recordingParts fullRingState = [] ∧ nextHostw fullRingState = none := by decide

theorem fullRingState_asked : fullRingState.m.bi.contains 0 = true ∧ fullRingState.m.biAgain.contains 0 = false
    ∧ copiesAnswer fullRingState ((List.range 32).map fun k => 0 * 32 + k) = true ∧ (dirAt fullRingState 0).hostx = true := by decide

/-- An answer with data is an event from outside: it is not admitted before the ring has a free frame. -/
theorem exec_biResponse_fullRingState : exec (.biResponse 0 hostLine) fullRingState = notEnabled "BI_RESPONSE" := by
  have hempty : (hostLine == []) = false := rfl
  rw [exec_biResponse, execBiResponse]
  exact if_pos (by simp only [hempty, eventStalls_fullRingState]; simp)

end Sys2Proof.Machine

namespace Sys2Proof.Proofs
open Sys2Proof Sys2Proof.Machine

/-- Refutes O47: the host's answer to a back-invalidation, with its data, in a state where a partition's ring is full (`fullRingState`). The
obligation asks that none of the partitions 0 to 7 records (`recordingParts`); the model lets the answer wait while any partition that the
recorder's table holds waits for a free frame (`eventStalls`), one of another number too. -/
theorem not_homesAndCaches : ¬ Obligations.HomesAndCaches := by
  unfold Obligations.HomesAndCaches
  rintro ⟨-, -, -, -, -, -, -, -, -, hanswer, -⟩
  obtain ⟨hrec, hrep⟩ := fullRingState_unrecorded
  obtain ⟨hbi, hagain, hcopies, hexcl⟩ := fullRingState_asked
  obtain ⟨u, hstep, -⟩ := hanswer fullRingState 0 hostLine hbi hagain hrec hrep hcopies (.inr ⟨List.length_replicate, hexcl⟩) (by decide) rfl
  rw [exec_biResponse_fullRingState] at hstep
  cases hstep

end Sys2Proof.Proofs

/-! ### A barrier's cell (R194, R195) -/

namespace Sys2Proof.Machine
open Sys2Proof

/-- The cell that a gang has for a name. -/
def cellOf (s : State) (g : GId) (n : Nat) : Option NbCell := (s.gang? g).bind fun y => y.cell? n

theorem cellOf_congr {s t : State} (h : t.gangs = s.gangs) (g : GId) (n : Nat) : cellOf t g n = cellOf s g n := by
  rw [cellOf, State.gang?, h]; rfl

theorem cellOf_of_gang {s : State} {g : GId} {x : Gang} {n : Nat} {c : NbCell} (hx : s.gang? g = some x) (hc : x.cell? n = some c) :
    cellOf s g n = some c := by
  rw [cellOf, hx]; exact hc

/-- A change of every cell of a gang that keeps their names. -/
theorem cellOf_mapCells {s : State} {g : GId} {n : Nat} {f : NbCell → NbCell} (hf : ∀ c, (f c).name = c.name) :
    cellOf (s.updGang g fun x => { x with cells := x.cells.map f }) g n = (cellOf s g n).map f := by
  have hname : ((fun c : NbCell => c.name == n) ∘ f) = fun c => c.name == n := funext fun c => by simp [hf]
  unfold cellOf Gang.cell?
  rw [gang?_updGang, if_pos rfl]
  cases s.gang? g with
  | none => rfl
  | some x =>
    dsimp only [Option.map_some, Option.bind_some]
    rw [List.find?_map, hname]

theorem name_of_cellOf {s : State} {g : GId} {n : Nat} {c : NbCell} (hc : cellOf s g n = some c) : c.name = n := by
  obtain ⟨x, -, hx⟩ := Option.bind_eq_some_iff.mp hc
  simpa using List.find?_some hx

theorem cellOf_updCell {s : State} {g : GId} {n : Nat} {c : NbCell} {f : NbCell → NbCell} (hc : cellOf s g n = some c)
    (hf : ∀ c, (f c).name = c.name) : cellOf (updCell s g n f) g n = some (f c) := by
  unfold updCell
  rw [cellOf_mapCells fun c => by split <;> simp [hf], hc, Option.map_some, if_pos (name_of_cellOf hc)]

/-- Whether a generation is complete depends on the groups. -/
theorem nbDone_congr {s t : State} (h : t.groups = s.groups) (c : NbCell) : nbDone t c = nbDone s c := by
  simp only [nbDone, blockArrived, liveGroups, h]

/-- An event of a member block completes the open generation once every member has arrived. -/
theorem cellOf_nbSettle {s : State} {g : GId} {n bid : Nat} {c : NbCell} (hc : cellOf s g n = some c) (hm : c.mask.getLsbD bid = true) :
    cellOf (nbSettle s g n bid) g n = some (if nbDone s c then c.next else c) := by
  have hcell : ((s.gang? g).bind fun x => x.cell? n) = some c := hc
  simp only [nbSettle, hcell, hm, Bool.true_and]
  split
  · exact cellOf_updCell hc fun _ => rfl
  · exact hc

/-- A bound name is not bound again. -/
theorem bindNb_of_bound {s : State} {g : GId} {n : Nat} {c : NbCell} (hc : cellOf s g n = some c) : bindNb s g n = some s := by
  obtain ⟨x, hx, hcell⟩ := Option.bind_eq_some_iff.mp hc
  simp only [bindNb, hx, hcell]

theorem openGen_of_bound {s : State} {g imm : Nat} {gr : Group} {c : NbCell} (hg : s.group? g = some gr) (hnb : bitAt imm 6 = false)
    (hc : cellOf s gr.block.gang (imm % 64) = some c) : openGen s g imm = some (c.gen, s) := by
  have hcell : ((s.gang? gr.block.gang).bind fun x => x.cell? (imm % 64)) = some c := hc
  simp only [openGen, hg, barNd, hnb, barNum, bindNb_of_bound hc, hcell, Bool.false_eq_true, if_false, Option.bind_some, Option.map_some]

/-! ### Arrivals and waits (R196 to R200) -/

/-- A group's block is in its gang and a member of a cell's open generation. -/
def isMember (s : State) (gr : Group) (c : NbCell) : Bool := (s.block? gr.block).any (·.inGang) && c.mask.getLsbD gr.block.bid

/-- A group arrives at a cell's open generation. -/
def NbCell.arrive (c : NbCell) (g : Nat) : NbCell := { c with arr := g :: c.arr }

theorem arriveAt_of_bound {s : State} {g imm : Nat} {gr : Group} {c : NbCell} (hg : s.group? g = some gr) (hnb : bitAt imm 6 = false)
    (hc : cellOf s gr.block.gang (imm % 64) = some c) : arriveAt s g imm =
      if isMember s gr c then
        if c.arr.contains g then .wait
        else .arrived c.gen (nbSettle (updCell s gr.block.gang (imm % 64) (NbCell.arrive · g)) gr.block.gang (imm % 64) gr.block.bid)
      else .refuse s := by
  have hcell : ((s.gang? gr.block.gang).bind fun x => x.cell? (imm % 64)) = some c := hc
  cases hb : s.block? gr.block with
  | none => simp [arriveAt, hg, barNd, hnb, barNum, bindNb_of_bound hc, hcell, isMember, hb]
  | some b =>
    have hout : (!b.inGang || !c.mask.getLsbD gr.block.bid) = !isMember s gr c := by simp [isMember, hb, Bool.not_and]
    by_cases hm : isMember s gr c = true <;>
      simp [arriveAt, hg, barNd, hnb, barNum, bindNb_of_bound hc, hcell, hb, hout, hm, NbCell.arrive]

/-- The cell after an arrival of a member. -/
theorem cellOf_arrived {s : State} {g n : Nat} {gr : Group} {c : NbCell} (hc : cellOf s gr.block.gang n = some c)
    (hm : isMember s gr c = true) :
    cellOf (nbSettle (updCell s gr.block.gang n (NbCell.arrive · g)) gr.block.gang n gr.block.bid) gr.block.gang n
      = some (if nbDone s (c.arrive g) then (c.arrive g).next else c.arrive g) := by
  have harr : cellOf (updCell s gr.block.gang n (NbCell.arrive · g)) gr.block.gang n = some (c.arrive g) := cellOf_updCell hc fun _ => rfl
  rw [cellOf_nbSettle harr (Bool.and_eq_true_iff.mp hm).2, nbDone_congr (s := s) (t := updCell s gr.block.gang n (NbCell.arrive · g)) rfl]

/-- A release below fabric scope goes ahead when the group owes nothing. -/
theorem withRelease_below_fabric {s : State} {g waitk scope : Nat} {p : POp} {k : State → POp → Ran} (hscope : scope < 5) (hphase : p.phase = 0)
    (hbusy : agentBusy s g = false) (htiles : tilesOwed s g = false) :
    withRelease s g waitk scope p k = k (release s g scope) { p with phase := 1 } := by
  simp [withRelease, hphase, hbusy, htiles, hscope]

section Barv
variable {s : State} {g e : Nat} {gr : Group} {p : POp} {f : FS} {c : NbCell} (hg : s.group? g = some gr) (hnb : bitAt f.imm.toNat 6 = false)
  (hc : cellOf s gr.block.gang (f.imm.toNat % 64) = some c) (hphase : p.phase = 0) (hbusy : agentBusy s g = false)
  (htiles : tilesOwed s g = false)
include hg hnb hc hphase hbusy htiles

/-- BARV of a bound name is the arrival, after a release. -/
theorem runBarv_of_arriveAt {a : Arrival} (ha : arriveAt (release s g 2) g f.imm.toNat = a) :
    (a = .wait → runBarv s g e p f = .park (release s g 2) 1 (.op { p with phase := 1 }))
    ∧ (∀ t, a = .refuse t → runBarv s g e p f = .late t (lateInfo { p with phase := 1 } .barrier 0 0))
    ∧ ∀ gen t, a = .arrived gen t → runBarv s g e p f = .done (writeS t g e (osReg f.o) (BitVec.ofNat 64 gen)) := by
  have hscope : barScope f.imm.toNat = 2 := by simp [barScope, barNd, hnb]
  refine ⟨fun h => ?_, fun t h => ?_, fun gen t h => ?_⟩ <;>
    simp only [runBarv, runArrive, openGen_of_bound hg hnb hc, hscope,
      withRelease_below_fabric (scope := 2) (by decide) hphase hbusy htiles, ha, h]

theorem runBarv_of_stranger (hm : isMember s gr c = false) :
    runBarv s g e p f = .late (release s g 2) (lateInfo { p with phase := 1 } .barrier 0 0) := by
  have ha := arriveAt_of_bound (s := release s g 2) hg hnb hc
  rw [if_neg (ne_true_of_eq_false (show isMember (release s g 2) gr c = false from hm))] at ha
  exact (runBarv_of_arriveAt hg hnb hc hphase hbusy htiles ha).2.1 _ rfl

theorem runBarv_of_arrived (hm : isMember s gr c = true) (harr : g ∈ c.arr) :
    runBarv s g e p f = .park (release s g 2) 1 (.op { p with phase := 1 }) := by
  have ha := arriveAt_of_bound (s := release s g 2) hg hnb hc
  rw [if_pos (show isMember (release s g 2) gr c = true from hm), if_pos (by simpa using harr)] at ha
  exact (runBarv_of_arriveAt hg hnb hc hphase hbusy htiles ha).1 rfl

theorem runBarv_of_member (hm : isMember s gr c = true) (harr : g ∉ c.arr) :
    runBarv s g e p f = .done (writeS (nbSettle (updCell (release s g 2) gr.block.gang (f.imm.toNat % 64) (NbCell.arrive · g)) gr.block.gang
      (f.imm.toNat % 64) gr.block.bid) g e (osReg f.o) (BitVec.ofNat 64 c.gen)) := by
  have ha := arriveAt_of_bound (s := release s g 2) hg hnb hc
  rw [if_pos (show isMember (release s g 2) gr c = true from hm), if_neg (by simpa using harr)] at ha
  exact (runBarv_of_arriveAt hg hnb hc hphase hbusy htiles ha).2.2 _ _ rfl

end Barv

/-! ### The register that takes a generation (R114, R203) -/

theorem gangs_writeS (s : State) (g e n : Nat) (v : Word) : (writeS s g e n v).gangs = s.gangs := by
  unfold writeS
  split
  · rfl
  split
  · rfl
  · obtain ⟨d, hd⟩ := noteShared_only (s.updGroup g fun gr => gr.setScalar e n v) g e [n]
    exact (congrArg State.gangs hd).trans rfl

theorem group?_writeS {s : State} {g : Nat} {gr : Group} (hg : s.group? g = some gr) {n : Nat} (hn : n < 60) (e : Nat) (v : Word) :
    (writeS s g e n v).group? g = some (gr.setScalar e n v) := by
  rw [writeS, if_neg (by omega), if_neg (by omega), group?_noteShared, group?_updGroup, if_pos rfl, hg]
  rfl

theorem getS_setScalar (gr : Group) (e n : Nat) (v : Word) : (gr.setScalar e n v).regs.getS n = v := by
  simp [Group.setScalar, Group.landRegs]

/-! ### Membership (R200, R201) -/

/-- A halt of a partition is a matter of the recorder and of the freeze. -/
theorem haltPart_only (s : State) (p kind agent split stamp : Nat) (digests : List Byte) :
    ∃ d z, haltPart s p kind agent split stamp digests = { s with damask := d, frz := z } := by
  unfold haltPart
  dsimp only
  split
  · exact ⟨_, _, rfl⟩
  · refine foldS_keeps (P := fun t => ∃ d z, t = { s with damask := d, frz := z }) (fun t c ht => ?_) _ ⟨_, _, rfl⟩
    obtain ⟨d, z, rfl⟩ := ht
    unfold deviceFreeze
    dsimp only
    split <;> exact ⟨_, _, rfl⟩

/-- So is a synchronisation record, which halts a replay that it does not fit. -/
theorem syncRec_only (s : State) (slot : Nat) (src : Src4) (kind agent split obj addr : Nat) :
    ∃ d z, syncRec s slot src kind agent split obj addr = { s with damask := d, frz := z } := by
  unfold syncRec
  dsimp only
  split
  · exact ⟨_, _, rfl⟩
  · split
    · exact ⟨_, _, rfl⟩
    · exact haltPart_only ..
  · exact ⟨_, _, rfl⟩

theorem gangs_syncRec (s : State) (slot : Nat) (src : Src4) (kind agent split obj addr : Nat) :
    (syncRec s slot src kind agent split obj addr).gangs = s.gangs := by
  obtain ⟨d, z, h⟩ := syncRec_only s slot src kind agent split obj addr
  rw [h]

theorem blocks_syncRec (s : State) (slot : Nat) (src : Src4) (kind agent split obj addr : Nat) :
    (syncRec s slot src kind agent split obj addr).blocks = s.blocks := by
  obtain ⟨d, z, h⟩ := syncRec_only s slot src kind agent split obj addr
  rw [h]

/-- The members that BGRP names: bits of blocks that its gang has. -/
def memberMask (s : State) (gr : Group) (m : Nat) : BitVec 8 := BitVec.ofNat 8 (m % 256 % 2 ^ blocksOf s gr.block.gang)

theorem setMembers_of_bound {s : State} {g e imm m : Nat} {gr : Group} {c : NbCell} (hg : s.group? g = some gr) (hnb : bitAt imm 6 = false)
    (hc : cellOf s gr.block.gang (imm % 64) = some c)
    (hmay : syncMay s gr.block.gang.slot (clusterSrc s gr.block.gang) 5 g e = true) :
    setMembers s g e imm m = some (if memberMask s gr m = 0 then .error s
      else .ok (syncRec (updCell s gr.block.gang (imm % 64) fun c => { c with pmask := memberMask s gr m, pv := true }) gr.block.gang.slot
        (clusterSrc s gr.block.gang) 5 g e (imm % 128) 0)) := by
  simp only [setMembers, hg, barNd, hnb, barNum, bindNb_of_bound hc, hmay, Bool.false_eq_true, if_false, Bool.not_true, Bool.and_false,
    Option.map_some]
  rfl

/-- GLEAVE goes on unless its block has chunks to revoke and the recorder does not let it. -/
theorem runGleave_of_may {s : State} {g e : Nat} {gr : Group} {p : POp}
    (h : holdsChunks s gr.block = false ∨ syncMay s gr.block.gang.slot (clusterSrc s gr.block.gang) 6 g e = true) :
    runGleave s g e gr p = .done (leaveGang s gr.block g e) := by
  rcases h with h | h <;> simp [runGleave, h]

theorem block?_barrierEvent (s : State) (b b' : BlockId) : (barrierEvent s b).block? b' = s.block? b' := by
  rw [onlyBarriers_barrierEvent s b]; rfl

/-- A block that leaves is out of its gang. -/
theorem block?_leaveGang {s : State} {b : BlockId} {x : Block} (hb : s.block? b = some x) (g e : Nat) :
    (leaveGang s b g e).block? b = some { x with inGang := false } := by
  unfold leaveGang
  rw [hb]
  dsimp only
  split
  next hout =>
    have hin : x.inGang = false := by simpa using hout
    rw [hb, ← hin]
  next =>
    have hleft (t : State) (ht : t.blocks = s.blocks) : (leaveArray (t.updBlock b fun x => { x with inGang := false }) b false).block? b
        = some { x with inGang := false } := by
      rw [State.block?, (leaveArray_kept ..).1]
      refine (block?_updBlock ..).trans ?_
      rw [if_pos rfl, State.block?, ht]
      exact congrArg _ hb
    rw [block?_barrierEvent]
    split
    · rw [State.block?, blocks_syncRec]
      exact hleft _ rfl
    · exact hleft _ rfl

/-- An array's return is a matter of its matrix context. -/
theorem joinArray_kept (s : State) (b : BlockId) : (joinArray s b).blocks = s.blocks ∧ (joinArray s b).gangs = s.gangs := by
  unfold joinArray
  split
  · dsimp only
    split <;> exact ⟨rfl, rfl⟩
  · exact ⟨rfl, rfl⟩

/-- A cell has a block for a member again, from its next generation on. -/
def NbCell.rejoin (c : NbCell) (bid : Nat) : NbCell := { c with pmask := (if c.pv then c.pmask else c.mask) ||| (1#8 <<< bid), pv := true }

theorem joinGang_of_out {s : State} {b : BlockId} {x : Block} (hb : s.block? b = some x) (hout : x.inGang = false) :
    joinGang s b = joinArray ((s.updGang b.gang fun g => { g with cells := g.cells.map (NbCell.rejoin · b.bid) }).updBlock b
      fun x => { x with inGang := true }) b := by
  simp only [joinGang, hb, hout, Bool.false_eq_true, if_false]
  rfl

theorem block?_joinGang {s : State} {b : BlockId} {x : Block} (hb : s.block? b = some x) (hout : x.inGang = false) :
    (joinGang s b).block? b = some { x with inGang := true } := by
  rw [joinGang_of_out hb hout, State.block?, (joinArray_kept ..).1]
  refine (block?_updBlock ..).trans ?_
  rw [if_pos rfl]
  exact congrArg (Option.map _) hb

theorem cellOf_joinGang {s : State} {b : BlockId} {x : Block} {n : Nat} {c : NbCell} (hb : s.block? b = some x) (hout : x.inGang = false)
    (hc : cellOf s b.gang n = some c) : cellOf (joinGang s b) b.gang n = some (c.rejoin b.bid) := by
  rw [joinGang_of_out hb hout, cellOf_congr (joinArray_kept ..).2]
  refine (cellOf_congr (s := s.updGang b.gang fun g => { g with cells := g.cells.map (NbCell.rejoin · b.bid) }) rfl ..).trans ?_
  rw [cellOf_mapCells (f := (NbCell.rejoin · b.bid)) fun _ => rfl, hc]
  rfl

end Sys2Proof.Machine

namespace Sys2Proof.Proofs
open Sys2Proof Sys2Proof.Machine

/-- Settles O33. The name is bound, so an arrival is `arriveAt_of_bound` after its release; the cell then is `cellOf_arrived`. -/
theorem barrierGenerations : Obligations.BarrierGenerations := by
  unfold Obligations.BarrierGenerations
  intro s g gr e p f x c hg hx hnb hx' hphase hbusy htiles n cell there here
  have hc : cellOf s gr.block.gang (f.imm.toNat % 64) = some c := cellOf_of_gang hx hx'
  refine ⟨fun hi => ?barv, fun hi => ?bwait, fun hi hmay => ?bgrp, fun h hi hb hmay => ?gleave, fun h hi hout => ?gjoin⟩
  case barv =>
    have hrun : runOp s g e p = runBarv s g e p f := by simp only [runOp, hg, hi]
    refine ⟨fun hm => ?refused, fun hm harr => ?arrives, fun hm harr => ?waits⟩
    case refused => exact ⟨_, _, hrun.trans (runBarv_of_stranger hg hnb hc hphase hbusy htiles hm), rfl⟩
    case arrives =>
      refine ⟨_, hrun.trans (runBarv_of_member hg hnb hc hphase hbusy htiles hm harr), ?_, fun d ho hd => ?_⟩
      · exact (cellOf_congr (gangs_writeS ..) ..).trans (cellOf_arrived (s := release s g 2) hc hm)
      · have hgroup : (nbSettle (updCell (release s g 2) gr.block.gang (f.imm.toNat % 64) (NbCell.arrive · g)) gr.block.gang
            (f.imm.toNat % 64) gr.block.bid).group? g = some gr := by
          rw [State.group?, (onlyBarriers_nbSettle ..).groups]
          exact hg
        rw [ho]
        exact ⟨_, group?_writeS hgroup hd e _, getS_setScalar ..⟩
    case waits => exact ⟨_, _, hrun.trans (runBarv_of_arrived hg hnb hc hphase hbusy htiles hm harr)⟩
  case bwait =>
    have hrun : runOp s g e p = runBwait s g p f := by simp only [runOp, hg, hi]
    simp only [hrun, runBwait, waitGen, openGen_of_bound hg hnb hc, genWaits, decide_eq_true_eq]
    refine ⟨fun hwait => ?_, fun hpast => ?_⟩
    · rw [if_pos hwait]
      exact ⟨_, _, rfl⟩
    · rw [if_neg (by omega)]
      exact ⟨_, rfl, hc⟩
  case bgrp =>
    intro k
    have hrun : runOp s g e p = runBgrp s g e p f := by simp only [runOp, hg, hi]
    rw [hrun, runBgrp, setMembers_of_bound hg hnb hc hmay]
    refine ⟨fun hk => ?_, fun hk => ?_⟩
    · rw [if_pos (show memberMask s gr p.a.toNat = 0 from hk)]
      exact ⟨_, _, rfl, rfl⟩
    · rw [if_neg (show memberMask s gr p.a.toNat ≠ 0 from hk)]
      exact ⟨_, rfl, (cellOf_congr (gangs_syncRec ..) ..).trans (cellOf_updCell hc fun _ => rfl)⟩
  case gleave =>
    obtain ⟨y, hy⟩ := Option.isSome_iff_exists.mp hb
    have hrun : runOp s g e p = runGleave s g e gr p := by simp only [runOp, hg, hi]
    refine ⟨_, hrun.trans (runGleave_of_may hmay), ?_⟩
    rw [block?_leaveGang hy]
    rfl
  case gjoin =>
    obtain ⟨y, hy, hin⟩ := (Option.any_eq_true _ _).mp hout
    have hin' : y.inGang = false := by simpa using hin
    refine ⟨joinGang s gr.block, by simp only [runOp, hg, hi, runGjoin], ?_, cellOf_joinGang hy hin' hc⟩
    rw [block?_joinGang hy hin']
    rfl

end Sys2Proof.Proofs

/-! ### Completions from outside a group (R206, R242, R245, R309, R386) -/

namespace Sys2Proof.Machine
open Sys2Proof

/-! A WAITA on host memory -/

theorem valid_of_hostWait {gr : Group} {e : Nat} {p : POp} (h : hostWait gr e = some p) : (gr.ent e).valid = true := by
  unfold hostWait at h
  dsimp only at h
  split at h
  · split at h
    · split at h
      next hc =>
        simp only [Bool.and_eq_true] at hc
        obtain ⟨⟨hvalid, -⟩, -⟩ := hc
        exact hvalid
      next => cases h
    · cases h
  · cases h

/-- The word is looked at once more, and the operation goes on from there. -/
theorem hostMemoryWaita_wakes {s : State} {g e : Nat} {gr : Group} {p : POp} (hg : s.group? g = some gr) (hw : hostWait gr e = some p)
    (hstat : gr.status ≠ .swapped) (hlink : s.plat.linkUp = true) :
    exec (.hostMemoryWaitaEvaluation g e) s = .next (wakeAll (wakeFrag s g e gr p)) := by
  rw [exec_hostMemoryWaitaEvaluation, execHostMemoryWaitaEvaluation, hg]
  dsimp only
  rw [hw]
  dsimp only
  rw [hlink, decide_eq_true hstat]
  rfl

theorem wakeFrag_of_running {s : State} {g e : Nat} {gr : Group} {p : POp} (hv : (gr.ent e).valid = true) (hrun : groupRuns s gr = true) :
    wakeFrag s g e gr p = settleRan g e p (runOp s g e p) := by
  simp only [wakeFrag, hv, hrun, Bool.not_true, Bool.false_eq_true, if_false, if_true]

theorem wakeFrag_of_stopped {s : State} {g e : Nat} {gr : Group} {p : POp} (hv : (gr.ent e).valid = true) (hrun : groupRuns s gr = false)
    (hctx : ctxRuns s (lcluOf s gr.block.gang) = false) : wakeFrag s g e gr p = parkWake s g e gr p := by
  simp only [wakeFrag, hv, hrun, hctx, Bool.not_true, Bool.false_eq_true, if_false]

theorem resident_of_groupRuns {s : State} {gr : Group} (h : groupRuns s gr = true) : gr.status = .resident :=
  of_decide_eq_true (Bool.and_eq_true_iff.mp h).1

/-! What ends a chunk -/

/-- Nothing differs but the recorder, the freeze, and the groups' entries. -/
structure OnlyChunks (s t : State) : Prop where
  eq : t = { s with groups := t.groups, damask := t.damask, frz := t.frz }
  ents : ∀ g gr, s.group? g = some gr → ∃ es, t.group? g = some { gr with ents := es }

namespace OnlyChunks
variable {s t u : State}

theorem recorder (s : State) (d : Rec) (z : Frz) : OnlyChunks s { s with damask := d, frz := z } := ⟨rfl, fun _ gr hg => ⟨gr.ents, hg⟩⟩

theorem refl (s : State) : OnlyChunks s s := recorder s s.damask s.frz

theorem trans (h : OnlyChunks s t) (k : OnlyChunks t u) : OnlyChunks s u := by
  refine ⟨by rw [k.eq, h.eq], fun g gr hg => ?_⟩
  obtain ⟨es, ht⟩ := h.ents g gr hg
  obtain ⟨es', hu⟩ := k.ents g _ ht
  exact ⟨es', hu⟩

/-- A fragment's entry changes. -/
theorem updEnt (s : State) (g e : Nat) (f : Group → Entry → Entry) : OnlyChunks s (s.updGroup g fun gr => gr.updEnt e (f gr)) := by
  refine ⟨rfl, fun h gr hg => ?_⟩
  rw [group?_updGroup]
  split
  next hh =>
    rw [← hh, hg]
    exact ⟨_, rfl⟩
  next => exact ⟨gr.ents, hg⟩

theorem mem (h : OnlyChunks s t) : t.mem = s.mem := by rw [h.eq]
theorem hostMem (h : OnlyChunks s t) : t.hostMem = s.hostMem := by rw [h.eq]
theorem m (h : OnlyChunks s t) : t.m = s.m := by rw [h.eq]

end OnlyChunks

theorem onlyChunks_endReplayed (s : State) (p g e : Nat) (gr : Group) (ch : Chunk) (b : List Byte) :
    OnlyChunks s (endReplayed s p g e gr ch b) := by
  unfold endReplayed
  dsimp only
  split
  · obtain ⟨d, z, h⟩ := haltPart_only s p 1 g e (fieldOf b 0x10 8) []
    rw [h]
    exact .recorder ..
  · exact (OnlyChunks.recorder s _ s.frz).trans (.updEnt ..)

theorem onlyChunks_endChunkAt (s : State) (g e code : Nat) (sig : BitVec 32) : OnlyChunks s (endChunkAt s g e code sig) := by
  unfold endChunkAt
  split
  · exact .refl s
  dsimp only
  split
  · exact .refl s
  split
  · exact .updEnt ..
  split
  · exact onlyChunks_endReplayed ..
  · split <;> exact (OnlyChunks.recorder s _ s.frz).trans (.updEnt ..)

theorem onlyChunks_settleChunk (s : State) (g e : Nat) : OnlyChunks s (settleChunk s g e) := by
  unfold settleChunk endChunk
  dsimp only
  split
  · exact .refl s
  split
  · exact .refl s
  split
  · exact .updEnt ..
  split
  · exact .refl s
  · exact onlyChunks_endChunkAt ..

/-! An AtomicOp at the host -/

/-- Byte `k` of a little-endian number. -/
theorem getD_leBytes {n k : Nat} (x : Nat) (hk : k < n) : (leBytes n x).getD k 0 = BitVec.ofNat 8 (x / 2 ^ (8 * k)) := by
  induction n generalizing x k with
  | zero => omega
  | succ n ih =>
    cases k with
    | zero => simp [leBytes]
    | succ k =>
      rw [leBytes, List.getD_cons_succ, ih (x / 256) (by omega), Nat.div_div_eq_div_mul, Nat.mul_succ, Nat.add_comm, Nat.pow_add]

theorem digestWrite_only (s : State) (agent chunk seq lane va size : Nat) (bs : List Byte) :
    ∃ d, digestWrite s agent chunk seq lane va size bs = { s with damask := d } := by
  unfold digestWrite
  split
  · exact ⟨_, rfl⟩
  · dsimp only
    split <;> exact ⟨_, rfl⟩

theorem emitData_only (s : State) (p : Nat) (src : Src4) (bs : List Byte) : ∃ d, emitData s p src bs = { s with damask := d } :=
  foldS_keeps (P := fun t => ∃ d, t = { s with damask := d }) (fun t r ht => by obtain ⟨d, rfl⟩ := ht; exact ⟨_, rfl⟩) _ ⟨_, rfl⟩

theorem valueRec_only (s : State) (g e kind v aux : Nat) (data : List Byte) : ∃ d, valueRec s g e kind v aux data = { s with damask := d } := by
  unfold valueRec
  split
  · exact ⟨_, rfl⟩
  split
  · exact ⟨_, rfl⟩
  · obtain ⟨d, h⟩ := emitData_only (emit s _ _ _ _) _ _ data
    exact ⟨d, h⟩

/-- What the host's operation leaves: its bytes in host memory, and what the recorder notes of it. -/
theorem hostWrite_only {s : State} {pa : Nat} (hdev : isDev pa = false) (hhost : isHostPa pa = true) (v : Nat) (bs : List Byte)
    (g e kind chunk seq lane va size : Nat) :
    ∃ d, digestWrite (physWrite (valueRec s g e kind v 0 []) pa bs) g chunk seq lane va size bs
      = { s with hostMem := s.hostMem.putN (pa - 2 ^ 56) bs, damask := d } := by
  obtain ⟨d, hd⟩ := valueRec_only s g e kind v 0 []
  have hwrite : physWrite { s with damask := d } pa bs = { s with hostMem := s.hostMem.putN (pa - 2 ^ 56) bs, damask := d } := by
    rw [physWrite, if_neg (by simp [hdev]), if_pos hhost]
  obtain ⟨d', hd'⟩ := digestWrite_only { s with hostMem := s.hostMem.putN (pa - 2 ^ 56) bs, damask := d } g chunk seq lane va size bs
  exact ⟨d', by rw [hd, hwrite, hd']⟩

/-- What a token becomes when a request that it may wait for has been answered. -/
def Pend.received (r : Nat) (vals : List (Nat × Word)) (p : Pend) : Pend :=
  if p.wait.contains r then { p with vals := p.vals ++ vals, wait := p.wait.filter (· != r) } else p

theorem parkForGroup_of_running {s : State} {g vc : Nat} {ev : ParkEv} {gr : Group} (hg : s.group? g = some gr)
    (hrun : ctxRuns s (lcluOf s gr.block.gang) = true) : parkForGroup s g vc ev = none := by
  simp only [parkForGroup, hg, parkAt_eq_none_iff]
  simp only [ctxRuns, Bool.and_eq_true, Bool.not_eq_true'] at hrun
  obtain ⟨hclock, himg⟩ := hrun
  split
  next c hc => simpa [hc, clockRuns] using hclock
  next => exact himg

/-- A request that is answered reaches the tokens that wait for it. -/
theorem map_received (l : List Pend) (r : Nat) (vals : List (Nat × Word)) :
    ((l.map fun p => if p.wait.contains r then { p with vals := p.vals ++ vals } else p).map
      fun p => { p with wait := p.wait.filter (· != r) }) = l.map (Pend.received r vals) := by
  rw [List.map_map]
  refine List.map_congr_left fun p _ => ?_
  by_cases h : p.wait.contains r = true
  · simp only [Function.comp, Pend.received, if_pos h]
  · have hkeep : p.wait.filter (· != r) = p.wait := List.filter_eq_self.mpr fun x hx => by
      have hne : x ≠ r := fun hxr => h (by simpa [← hxr] using hx)
      simpa using hne
    simp only [Function.comp, Pend.received, if_neg h, hkeep]

theorem answered_effect {s : State} {q : Req} {g e : Nat} {gr : Group} (hq : q.orig = .grp g e) (hg : s.group? g = some gr) :
    findReq (answered s q) q.id = none ∧ (answered s q).mem = s.mem ∧ (answered s q).hostMem = s.hostMem
      ∧ ∃ gr', (answered s q).group? g = some gr' ∧ gr'.regs = gr.regs ∧ gr'.pend = gr.pend.map (Pend.received q.id q.vals) := by
  have hans : answered s q = settleChunk (unwait (dropReq (giveOld s q) q.id) g q.id) g q.split := by simp only [answered, hq]
  have hgive : giveOld s q = s.updGroup g fun gr =>
      { gr with
        pend := gr.pend.map fun p => if p.wait.contains q.id then { p with vals := p.vals ++ q.vals } else p } := by
    simp only [giveOld, hq]
  have hgroup : (unwait (dropReq (giveOld s q) q.id) g q.id).group? g = some { gr with pend := gr.pend.map (Pend.received q.id q.vals) } := by
    have hdrop (t : State) : (dropReq t q.id).group? g = t.group? g := rfl
    rw [unwait, group?_updGroup, if_pos rfl, hdrop, hgive, group?_updGroup, if_pos rfl, hg, ← map_received]
    rfl
  have hchunk := onlyChunks_settleChunk (unwait (dropReq (giveOld s q) q.id) g q.id) g q.split
  obtain ⟨es, hes⟩ := hchunk.ents g _ hgroup
  rw [hans]
  refine ⟨?_, ?_, ?_, _, hes, rfl, rfl⟩
  · rw [findReq, hchunk.m, List.find?_eq_none]
    intro x hx
    simpa using (List.mem_filter.mp hx).2
  · rw [hchunk.mem, hgive]; rfl
  · rw [hchunk.hostMem, hgive]; rfl

/-- A request of a context that runs is answered once it is performed. -/
theorem finishReq_of_running {s : State} {q : Req} {g e : Nat} {gr : Group} (hq : q.orig = .grp g e) (hg : s.group? g = some gr)
    (hrun : ctxRuns s (lcluOf s gr.block.gang) = true) :
    finishReq s q [] = answered (setReq (noteDone s q q.vals) { q with performed := true, refused := [] }) q := by
  have hpark : parkForReq (setReq (noteDone s q q.vals) { q with performed := true, refused := [] }) q.orig (reqVc q.kind) (.done q.id) = none := by
    simp only [parkForReq, hq]
    exact parkForGroup_of_running (s := setReq _ _) hg hrun
  simp only [finishReq, hpark]
  rfl

section Pcie
variable {s : State} {r : Nat} {q : Req} {a : Acc} {l : List Acc} {g e : Nat} {data : Word} {gr : Group}

/-- The host performs the next AtomicOp of a clause that nothing holds back. -/
theorem pcieCompletion_performs (hr : findReq s r = some q) (haccs : q.accs = a :: l) (hq : q.orig = .grp g e) (hkind : q.kind = .hostAtomic)
    (hturn : reqTurn s q = true) (hlink : s.plat.linkUp = true) (hnext : pcieNext s q = true) (hstall : slotStalls s (slotOfAgent s g) = false)
    (hlog : logValue s g q.split 8 = none) :
    let old := data.toNat % 2 ^ (8 * a.size)
    let bs := leBytes a.size (atomStep q.x q.ty old a.b.toNat a.c.toNat)
    exec (.pcieCompletion r data) s = .next (afterPerform (finishReq
      (digestWrite (physWrite (valueRec s g q.split 8 old 0 []) a.pa bs) g q.chunk q.seq a.lane a.va a.size bs)
      { q with vals := [(a.lane, BitVec.ofNat 64 old)] } [])) := by
  intro old bs
  rw [exec_pcieCompletion, execPcieCompletion, hr]
  dsimp only
  rw [haccs, hq]
  dsimp only
  rw [if_neg (by simp [hkind, hturn, hlink, hnext, hstall]), hlog]

/-- What the host's operation leaves of memory, of its request and of its group. -/
theorem pcieCompletion_effect (hr : findReq s r = some q) (haccs : q.accs = a :: l) (hq : q.orig = .grp g e) (hkind : q.kind = .hostAtomic)
    (hturn : reqTurn s q = true) (hlink : s.plat.linkUp = true) (hnext : pcieNext s q = true) (hstall : slotStalls s (slotOfAgent s g) = false)
    (hlog : logValue s g q.split 8 = none) (hdev : isDev a.pa = false) (hhost : isHostPa a.pa = true) (hg : s.group? g = some gr)
    (hrun : ctxRuns s (lcluOf s gr.block.gang) = true) :
    let old := data.toNat % 2 ^ (8 * a.size)
    ∃ u gr', exec (.pcieCompletion r data) s = .next (afterPerform u) ∧ u.mem = s.mem ∧ findReq u r = none
      ∧ u.hostMem = s.hostMem.putN (a.pa - 2 ^ 56) (leBytes a.size (atomStep q.x q.ty old a.b.toNat a.c.toNat))
      ∧ u.group? g = some gr' ∧ gr'.regs = gr.regs ∧ gr'.pend = gr.pend.map (Pend.received r [(a.lane, BitVec.ofNat 64 old)]) := by
  intro old
  have hid : q.id = r := by simpa using List.find?_some hr
  obtain ⟨d, hd⟩ := hostWrite_only (s := s) hdev hhost old (leBytes a.size (atomStep q.x q.ty old a.b.toNat a.c.toNat)) g q.split 8 q.chunk q.seq
    a.lane a.va a.size
  have hexec := pcieCompletion_performs (data := data) hr haccs hq hkind hturn hlink hnext hstall hlog
  dsimp only at hexec
  rw [hd, finishReq_of_running (q := { q with vals := [(a.lane, BitVec.ofNat 64 old)] }) hq (s := { s with hostMem := _, damask := d }) hg hrun]
    at hexec
  obtain ⟨hgone, hmem, hhostMem, gr', hgr', hregs, hpend⟩ := answered_effect (q := { q with vals := [(a.lane, BitVec.ofNat 64 old)] }) hq
    (s := setReq (noteDone { s with hostMem := _, damask := d } _ _) _) hg
  exact ⟨_, gr', hexec, hmem, hid ▸ hgone, hhostMem, hgr', hregs, hid ▸ hpend⟩

end Pcie

/-! The ends of an MMA and of an MLDB -/

/-- The first job of a kind is behind those of the other. -/
theorem takeJob_append {mma : Bool} {pre post : List MxJob} {j : MxJob} (hj : j.mma = mma) (hpre : ∀ x ∈ pre, x.mma ≠ mma) :
    takeJob mma (pre ++ j :: post) = some (j, pre ++ post) := by
  induction pre with
  | nil => simp [takeJob, hj]
  | cons x pre ih =>
    obtain ⟨hx, hrest⟩ := List.forall_mem_cons.mp hpre
    simp [takeJob, hx, ih hrest]

theorem mmaCompletion_ends {s : State} {l : Nat} {pre post : List MxJob} {j : MxJob} (hjobs : (s.mxD l).jobs = pre ++ j :: post)
    (hrun : coreRuns s l = true) (hj : j.mma = true) (hpre : ∀ x ∈ pre, x.mma = false) :
    exec (.mmaCompletion l) s = .next (wakeAll (s.setMx l { s.mxD l with jobs := pre ++ post })) := by
  rw [exec_mmaCompletion, execMmaCompletion]
  dsimp only
  rw [hjobs, takeJob_append hj fun x hx => by simp [hpre x hx]]
  dsimp only
  rw [hrun]
  rfl

section Mldb
variable {s : State} {l : Nat} {pre post : List MxJob} {j : MxJob} (hjobs : (s.mxD l).jobs = pre ++ j :: post) (hj : j.mma = false)
  (hpre : ∀ x ∈ pre, x.mma = true)
include hjobs hj hpre

/-- The MLDB that ends is the first whose data has not come to its stopped cluster yet. -/
theorem find?_mldb (hnew : ∀ p ∈ parkedAt s l, p.ev ≠ .mldb l j.bs) :
    ((s.mxD l).jobs.find? fun j => !j.mma && !(parkedAt s l).any fun p => decide (p.ev = .mldb l j.bs)) = some j := by
  have hfirst : (!j.mma && !(parkedAt s l).any fun p => decide (p.ev = .mldb l j.bs)) = true := by simpa [hj] using hnew
  rw [hjobs, List.find?_append, List.find?_eq_none.mpr fun x hx => by simp [hpre x hx], Option.none_or]
  exact List.find?_cons_of_pos hfirst

theorem mldbDone_of_first : mldbDone s l j.bs
    = s.setMx l { s.mxD l with jobs := pre ++ post, b := (s.mxD l).b.put j.bs { (s.mxD l).bD j.bs with loaded := true } } := by
  have hrest : (pre ++ j :: post).eraseP (fun x => !x.mma && x.bs == j.bs) = pre ++ post := by
    rw [List.eraseP_append_right _ fun x hx => by simp [hpre x hx], List.eraseP_cons_of_pos (by simp [hj])]
  rw [mldbDone, hjobs, hrest]

/-- The MLDB of a context that runs ends, and its slot is loaded. -/
theorem mldbCompletion_of_running (hnew : ∀ p ∈ parkedAt s l, p.ev ≠ .mldb l j.bs) (hrun : coreRuns s l = true) :
    exec (.mldbCompletion l) s = .next (wakeAll
      (s.setMx l { s.mxD l with jobs := pre ++ post, b := (s.mxD l).b.put j.bs { (s.mxD l).bD j.bs with loaded := true } })) := by
  rw [exec_mldbCompletion, execMldbCompletion]
  simp only [find?_mldb hjobs hj hpre hnew, hrun, if_true, mldbDone_of_first hjobs hj hpre]

/-- The data of an MLDB from memory is parked for a context whose clock is stopped. -/
theorem mldbCompletion_of_stopped (hnew : ∀ p ∈ parkedAt s l, p.ev ≠ .mldb l j.bs) (hrun : coreRuns s l = false) (hmem : j.mem = true)
    {t : State} (hpark : parkAt s l 0 (.mldb l j.bs) = some t) : exec (.mldbCompletion l) s = .next t := by
  rw [exec_mldbCompletion, execMldbCompletion]
  simp only [find?_mldb hjobs hj hpre hnew, hrun, hmem, hpark, Bool.false_eq_true, if_false, if_true]

end Mldb

end Sys2Proof.Machine

namespace Sys2Proof.Proofs
open Sys2Proof Sys2Proof.Machine

/-- Settles O58: an evaluation is `hostMemoryWaita_wakes`, an AtomicOp `pcieCompletion_effect`; an MMA is the first of its kind among the jobs
(`mmaCompletion_ends`), and so is an MLDB whose data is not parked already. -/
theorem outsideCompletions : Obligations.OutsideCompletions := by
  unfold Obligations.OutsideCompletions
  refine ⟨fun s g e gr p hg hw hrun hlink => ?evaluates, fun s g e gr p hg hw hstat hrun hctx hlink => ?parksWait,
    fun s r q a l g e data gr hr haccs hq hkind hturn hlink hnext hstall hlog hdev hhost hwf hg hrun => ?atomic,
    fun s l pre j post hjobs => ⟨mmaCompletion_ends hjobs, fun hj hpre hnew =>
      ⟨mldbCompletion_of_running hjobs hj hpre hnew, fun t hrun hmem => mldbCompletion_of_stopped hjobs hj hpre hnew hrun hmem⟩⟩⟩
  case evaluates =>
    rw [hostMemoryWaita_wakes hg hw (by rw [resident_of_groupRuns hrun]; decide) hlink, wakeFrag_of_running (valid_of_hostWait hw) hrun]
  case parksWait => rw [hostMemoryWaita_wakes hg hw hstat hlink, wakeFrag_of_stopped (valid_of_hostWait hw) hrun hctx]
  case atomic =>
    intro old
    obtain ⟨u, gr', hexec, hmem, hgone, hbytes, hgroup, hregs, hpend⟩ :=
      pcieCompletion_effect (data := data) hr haccs hq hkind hturn hlink hnext hstall hlog hdev hhost hg hrun
    refine ⟨u, gr', hexec, hmem, hgone, fun k hk => ?_, fun k hk => ?_, hgroup, hregs, hpend⟩
    · rw [hbytes, Memory.get_putN_of_inside _ _ _ hwf (by rwa [leBytes_length]), getD_leBytes _ hk]
    · rw [hbytes, Memory.get_putN_of_outside _ _ _ hwf (by rwa [leBytes_length])]

end Sys2Proof.Proofs

/-! Copies: the bytes of a chunk in its tile or in memory, flags, and what the translation unit claims ahead. -/

namespace Sys2Proof.Machine
open Sys2Proof Sys2Proof.Safety

/-! ### Bytes put at places of memory (R219) -/

/-- Memory after bytes are put at their physical places, one after another. -/
def Memory.putPlaces (m : Memory) (ps : List (Nat × Nat × Byte)) : Memory := ps.foldl (fun m p => m.put p.2.1 p.2.2) m

/-- A memory holds bytes at their places; every other byte is as before. -/
structure Memory.Takes (ps : List (Nat × Nat × Byte)) (m m' : Memory) : Prop where
  wf : m'.wf = true
  bytes : ∀ p ∈ ps, m'.get p.2.1 = p.2.2
  others : ∀ k, (∀ p ∈ ps, p.2.1 ≠ k) → m'.get k = m.get k

namespace Memory.Takes
variable {ps qs rs : List (Nat × Nat × Byte)} {m m' m'' : Memory}

theorem nil (h : m.wf = true) : Takes [] m m := ⟨h, fun _ hp => absurd hp List.not_mem_nil, fun _ _ => rfl⟩

theorem putPlaces (hwf : m.wf = true) (hnd : (ps.map fun p => p.2.1).Nodup) : Takes ps m (m.putPlaces ps) := by
  induction ps generalizing m with
  | nil => exact nil hwf
  | cons p ps ih =>
    obtain ⟨hnew, hnd⟩ := List.nodup_cons.mp hnd
    obtain ⟨wf, bytes, others⟩ := ih (Memory.wf_put p.2.1 p.2.2 hwf) hnd
    refine ⟨wf, List.forall_mem_cons.mpr ⟨?_, bytes⟩, fun k hk => ?_⟩
    · exact (others p.2.1 fun q hq he => hnew (List.mem_map.mpr ⟨q, hq, he⟩)).trans (by rw [Memory.get_put _ _ _ hwf, if_pos rfl])
    · obtain ⟨hpk, hk⟩ := List.forall_mem_cons.mp hk
      exact (others k hk).trans (by rw [Memory.get_put _ _ _ hwf, if_neg (Ne.symm hpk)])

/-- Writes to places that differ from those before leave both in memory. -/
theorem append (h : Takes ps m m') (k : Takes qs m' m'') (hsep : ∀ p ∈ ps, ∀ q ∈ qs, q.2.1 = p.2.1 → p ∈ qs)
    (hrs : ∀ p, p ∈ rs ↔ p ∈ ps ∨ p ∈ qs) : Takes rs m m'' := by
  refine ⟨k.wf, fun p hp => ?_, fun a ha => ?_⟩
  · by_cases hq : p ∈ qs
    · exact k.bytes p hq
    · have hps := ((hrs p).mp hp).resolve_right hq
      exact (k.others p.2.1 fun q hqs he => hq (hsep p hps q hqs he)).trans (h.bytes p hps)
  · exact (k.others a fun q hq => ha q ((hrs q).mpr (.inr hq))).trans (h.others a fun p hp => ha p ((hrs p).mpr (.inl hp)))

end Memory.Takes

/-! ### What reads, watchpoints and claims leave -/

theorem OnlyCaches.blocks {s t : State} (h : OnlyCaches s t) : t.blocks = s.blocks := by rw [h.eq]

theorem onlyCaches_atHome (s : State) (line : Nat) : OnlyCaches s (atHome s line) := by
  unfold atHome
  split
  · exact (onlyCaches_bringIn s line).trans ⟨rfl, rfl, rfl⟩
  · exact .refl s

theorem onlyCaches_bringAll (s : State) (ws : List Nat) : OnlyCaches s (bringAll s ws) := .foldS _ _ onlyCaches_atHome

theorem onlyCaches_dropClaim (s : State) (a w : Nat) : OnlyCaches s (dropClaim s a w) := by
  unfold dropClaim
  dsimp only
  split <;> exact ⟨rfl, rfl, rfl⟩

/-- Watchpoints see what a copy reads or writes: only the debug unit may take note. -/
theorem copyWatch_only (s : State) (x : Inst) (what : Nat) (ws : List Nat) : ∃ d, copyWatch s x what ws = { s with dbg := d } := by
  refine foldS_keeps (P := fun t => ∃ d, t = { s with dbg := d }) (fun t l ht => ?_) _ ⟨_, rfl⟩
  obtain ⟨d, rfl⟩ := ht
  exact watch_only { s with dbg := d } ..

theorem onlyCaches_copyWatch (s : State) (x : Inst) (what : Nat) (ws : List Nat) : OnlyCaches s (copyWatch s x what ws) := by
  obtain ⟨d, h⟩ := copyWatch_only s x what ws
  rw [h]
  exact ⟨rfl, rfl, rfl⟩

theorem onlyCaches_chunkRead (s : State) (x : Inst) (rd : List Nat) : OnlyCaches s (chunkRead s x rd).1 :=
  ((onlyCaches_bringAll s rd).trans (.foldS _ _ fun _ _ => onlyCaches_dropClaim ..)).trans (onlyCaches_copyWatch ..)

/-- A copy keeps its place in the stream: the chunk it moves next, and its start. -/
def Inst.SamePlace (x y : Inst) : Prop := y.nextChunk = x.nextChunk ∧ y.startNo = x.startNo

theorem samePlace_noteIdx (s : State) (x : Inst) : x.SamePlace (noteIdx s x) := by
  unfold noteIdx
  split
  · exact ⟨rfl, rfl⟩
  · refine List.foldlRecOn (motive := x.SamePlace) _ _ ⟨rfl, rfl⟩ fun y hy i _ => ?_
    split
    · split
      · exact hy
      · split <;> exact hy
    · exact hy

theorem samePlace_chunkRead (s : State) (x : Inst) (rd : List Nat) : x.SamePlace (chunkRead s (noteIdx s x) rd).2 := samePlace_noteIdx s x

/-! ### A byte written at its home (R267, R268) -/

theorem wordsOf_one (pa : Nat) : wordsOf pa 1 = [pa / 4] := by
  have h : (pa + 1 + 3) / 4 - pa / 4 = 1 := by omega
  rw [wordsOf, h]
  rfl

theorem dropWords_only (s : State) (cu line : Nat) (words : BitVec 32) : ∃ l, dropWords s cu line words = { s with m := { s.m with l1 := l } } := by
  unfold dropWords
  split
  · exact ⟨_, rfl⟩
  · dsimp only
    split <;> exact ⟨_, rfl⟩

/-- The write of a byte of device memory: that byte, the tag of its word, the checkpoint's marks and the caches. -/
theorem homeWrite_byte {s : State} {pa : Nat} (h : isDev pa = true) (agent cu : Nat) (b : Byte) (kind ord scope : Nat) :
    ∃ marks l1 l3 poison asked, homeWrite s agent cu pa [b] kind ord scope = { s with
      mem := s.mem.put pa b
      ck := { s.ck with marks := marks }
      m := { s.m with tags := s.m.tags.put (pa / 4) (tagAfter (homeType s pa) agent kind ord scope (tagAt s (pa / 4)))
                      l1 := l1, l3 := l3, poison := poison, asked := asked } } := by
  unfold homeWrite
  rw [if_pos h]
  dsimp only
  rw [show wordsOf pa [b].length = [pa / 4] from wordsOf_one pa]
  exact (dropWords_only _ cu (pa / 128) _).elim fun l1 hdrop => ⟨_, l1, _, _, _, hdrop⟩

/-- Bytes that a copy writes at their homes, one after another. -/
def storeBytes (s : State) (agent ord scope : Nat) (ps : List (Nat × Nat × Byte)) : State :=
  foldS s ps fun s p => homeWrite s agent 896 p.2.1 [p.2.2] 0 ord scope

theorem copyStore_eq (s : State) (agent ord : Nat) (ps : List (Nat × Nat × Byte)) : copyStore s agent ord ps =
    unpoison (storeBytes (bringAll s (wordsOfPs ps)) agent ord (if ord = 2 then 4 else 0) ps) (ps.map fun p => (p.2.1, 1)) := rfl

theorem mem_storeBytes {ps : List (Nat × Nat × Byte)} (h : ∀ p ∈ ps, isDev p.2.1 = true) (s : State) (agent ord scope : Nat) :
    (storeBytes s agent ord scope ps).mem = s.mem.putPlaces ps := by
  unfold storeBytes foldS
  induction ps generalizing s with
  | nil => rfl
  | cons p ps ih =>
    obtain ⟨hp, h⟩ := List.forall_mem_cons.mp h
    obtain ⟨_, _, _, _, _, hw⟩ := homeWrite_byte (s := s) hp agent 896 p.2.2 0 ord scope
    rw [List.foldl_cons, ih h, hw]
    rfl

theorem takes_copyStore {s : State} {ps : List (Nat × Nat × Byte)} (hdev : ∀ p ∈ ps, isDev p.2.1 = true) (hwf : s.mem.wf = true)
    (hnd : (ps.map fun p => p.2.1).Nodup) (agent ord : Nat) : Memory.Takes ps s.mem (copyStore s agent ord ps).mem := by
  have hmem : (copyStore s agent ord ps).mem = s.mem.putPlaces ps := by
    rw [copyStore_eq, ← (onlyCaches_bringAll s (wordsOfPs ps)).mem]
    exact mem_storeBytes hdev ..
  rw [hmem]
  exact .putPlaces hwf hnd

/-! ### The lines of a chunk whose turn has come (R216, R270) -/

theorem takes_writeLines {s : State} {ps : List (Nat × Nat × Byte)} (hdev : ∀ p ∈ ps, isDev p.2.1 = true) (hwf : s.mem.wf = true)
    (hnd : (ps.map fun p => p.2.1).Nodup) (agent : Nat) :
    Memory.Takes (ps.filter fun p => (writeLines s agent ps).2.contains (p.2.1 / 128)) s.mem (writeLines s agent ps).1.mem := by
  unfold writeLines
  refine List.foldlRecOn (motive := fun (r : State × List Nat) => Memory.Takes (ps.filter fun p => r.2.contains (p.2.1 / 128)) s.mem r.1.mem) _ _ ?_ ?_
  · simpa using Memory.Takes.nil hwf
  · intro r hr l _
    split
    · have hline : Memory.Takes (onLine ps l) r.1.mem (copyStore r.1 agent 0 (onLine ps l)).mem :=
        takes_copyStore (fun p hp => hdev p (List.mem_filter.mp hp).1) hr.wf (hnd.sublist (List.filter_sublist.map _)) ..
      refine hr.append hline (fun p hp q hq he => ?_) fun p => ?_
      · obtain ⟨hp, -⟩ := List.mem_filter.mp hp
        obtain ⟨-, hq⟩ := List.mem_filter.mp hq
        exact List.mem_filter.mpr ⟨hp, he ▸ hq⟩
      · simp [onLine, List.mem_filter, and_or_left]
    · exact hr

/-! ### A flag's store-release frees its words (R220, R268) -/

theorem homeType_congr {s t : State} (h : t.m.frames = s.m.frames) (pa : Nat) : homeType t pa = homeType s pa := by
  simp only [homeType, frameAt, h]

theorem frames_foldS {α : Type} {f : State → α → State} (h : ∀ x a, (f x a).m.frames = x.m.frames) (s : State) (l : List α) :
    (foldS s l f).m.frames = s.m.frames :=
  foldS_keeps (P := fun t => t.m.frames = s.m.frames) (fun x a hx => (h x a).trans hx) l rfl

theorem frames_memRecord (s : State) (pa kind stack chan : Nat) : (memRecord s pa kind stack chan).m.frames = s.m.frames := by
  unfold memRecord
  rw [(onlyLogged_elPut ..).m]

theorem frames_hbmFetch (s : State) (line : Nat) (c : HbmCond) : (hbmFetch s line c).m.frames = s.m.frames := by
  unfold hbmFetch
  extract_lets record second bad
  have hrecord (t : State) (kind : Nat) : (record t kind).m.frames = t.m.frames := frames_memRecord ..
  split
  · split
    · exact hrecord ..
    · split <;> exact hrecord ..
  · split
    · exact hrecord ..
    · rfl

theorem frames_enterL3 (s : State) (line : Nat) : (enterL3 s line).m.frames = s.m.frames := by
  unfold enterL3
  exact frames_foldS (fun x k => show (setTag x (line * 32 + k) _).m.frames = x.m.frames from rfl) ..

theorem frames_atHome (s : State) (line : Nat) : (atHome s line).m.frames = s.m.frames := by
  have hin : (bringIn s line).m.frames = s.m.frames := by
    unfold bringIn
    split
    · rfl
    · exact (frames_enterL3 ..).trans (frames_hbmFetch ..)
  unfold atHome
  split
  · exact hin
  · rfl

theorem frames_bringAll (s : State) (ws : List Nat) : (bringAll s ws).m.frames = s.m.frames := frames_foldS frames_atHome ..

theorem releaseWords_only (s : State) (agent : Nat) (ws : List Nat) : ∃ t, releaseWords s agent ws = { s with m := { s.m with tags := t } } := by
  refine foldS_keeps (P := fun u => ∃ t, u = { s with m := { s.m with tags := t } }) (fun u w hu => ?_) _ ⟨_, rfl⟩
  obtain ⟨t, rfl⟩ := hu
  dsimp only
  split <;> exact ⟨_, rfl⟩

theorem hold_tagAfter_release {agent : Nat} (h : agentKind agent ≠ 5) (t : WordTag) : (tagAfter 0 agent 0 2 4 t).hold = false := by
  simp [tagAfter, h]

/-- No word is held that a store-release at device scope writes, nor one that was free before. -/
theorem hold_storeBytes {agent : Nat} (hag : agentKind agent ≠ 5) {ps : List (Nat × Nat × Byte)} (hdev : ∀ p ∈ ps, isDev p.2.1 = true) {s : State}
    (hrc : ∀ p ∈ ps, homeType s p.2.1 = 0) {w : Nat} (hw : (tagAt s w).hold = false ∨ ∃ p ∈ ps, p.2.1 / 4 = w) :
    (tagAt (storeBytes s agent 2 4 ps) w).hold = false := by
  unfold storeBytes foldS
  induction ps generalizing s with
  | nil => simpa using hw
  | cons p ps ih =>
    obtain ⟨hp, hdev⟩ := List.forall_mem_cons.mp hdev
    obtain ⟨hty, hrc⟩ := List.forall_mem_cons.mp hrc
    obtain ⟨_, _, _, _, _, hput⟩ := homeWrite_byte (s := s) hp agent 896 p.2.2 0 2 4
    rw [List.foldl_cons]
    refine ih hdev (fun q hq => ?_) ?_
    · rw [hput]
      exact (homeType_congr rfl _).trans (hrc q hq)
    · have htag : tagAt (homeWrite s agent 896 p.2.1 [p.2.2] 0 2 4) w =
          if w = p.2.1 / 4 then tagAfter 0 agent 0 2 4 (tagAt s (p.2.1 / 4)) else tagAt s w := by
        rw [hput, hty]
        exact AList.get_put ..
      rw [htag]
      by_cases hpw : w = p.2.1 / 4
      · exact .inl (by rw [if_pos hpw, hold_tagAfter_release hag])
      · rw [if_neg hpw]
        refine hw.imp_right fun ⟨q, hq, hqw⟩ => ⟨q, (List.mem_cons.mp hq).resolve_left fun he => hpw ?_, hqw⟩
        rw [← hqw, he]

theorem hold_copyStore {s : State} {agent : Nat} {ps : List (Nat × Nat × Byte)} (hag : agentKind agent ≠ 5)
    (hdev : ∀ p ∈ ps, isDev p.2.1 = true) (hrc : ∀ p ∈ ps, homeType s p.2.1 = 0) {p : Nat × Nat × Byte} (hp : p ∈ ps) :
    (tagAt (copyStore s agent 2 ps) (p.2.1 / 4)).hold = false :=
  hold_storeBytes hag hdev (fun q hq => (homeType_congr (frames_bringAll ..) _).trans (hrc q hq)) (.inr ⟨p, hp, rfl⟩)

/-! ### Bytes and elements of a tile (R182, R219) -/

theorem find?_putBytes_of_lt (m : AList Nat Byte) {a k : Nat} (bs : List Byte) (h : k < a) : (putBytes m a bs).find? k = m.find? k := by
  induction bs generalizing m a with
  | nil => rfl
  | cons b bs ih => rw [putBytes, ih _ (by omega), AList.find?_put_ne _ _ (by omega)]

theorem find?_putBytes (m : AList Nat Byte) (a : Nat) {bs : List Byte} {k : Nat} (h : k < bs.length) :
    (putBytes m a bs).find? (a + k) = some (bs.getD k 0) := by
  induction bs generalizing m a k with
  | nil => exact absurd h (Nat.not_lt_zero k)
  | cons b bs ih =>
    cases k with
    | zero => rw [putBytes, find?_putBytes_of_lt _ _ (by omega)]; exact AList.find?_put_self ..
    | succ k =>
      rw [putBytes, show a + (k + 1) = a + 1 + k by omega, ih _ _ (Nat.lt_of_succ_lt_succ h)]
      rfl

theorem OnlyCaches.withMem {s t : State} {m : Memory} (h : OnlyCaches (s.withMem m) t) (n : Memory) : OnlyCaches (s.withMem n) (t.withMem n) :=
  ⟨by rw [State.withMem, h.eq]; rfl, h.reqs, h.failed⟩

/-- What is written of a tile whose scratchpad is away goes to memory, and to nothing else that a tile is made of. -/
theorem saveTile_only (s : State) (b : BlockId) (h off : Nat) (bs : List Byte) : ∃ m, OnlyCaches (s.withMem m) (saveTile s b h off bs) := by
  have hself : ∃ m, OnlyCaches (s.withMem m) s := ⟨s.mem, .refl s⟩
  unfold saveTile
  split
  · exact hself
  · dsimp only
    split
    · exact ⟨_, onlyCaches_engineWrite ..⟩
    split
    next im _ =>
      unfold saveSection
      exact ⟨_, ((onlyCaches_engineWrite ..).withMem _).trans (onlyCaches_engineWrite ..)⟩
    · exact hself

theorem saveTile_of_present {s : State} {b : BlockId} {bl : Block} (hb : s.block? b = some bl) (hin : bl.swapped = false)
    (hfrz : ∀ im ∈ s.frz.images, im.stored = false) (h off : Nat) (bs : List Byte) : saveTile s b h off bs = s := by
  have hnone : (s.frz.images.find? fun im => im.gangs.contains b.gang && im.stored) = none :=
    List.find?_eq_none.mpr fun im him => by simp [hfrz im him]
  simp only [saveTile, hb, hin, hnone, Bool.false_eq_true, if_false]

theorem mem_tileWrite (s : State) (b : BlockId) (h : Nat) (sp : Spot) (bs : List Byte) : (tileWrite s b h sp bs).mem = s.mem := by
  unfold tileWrite
  split <;> rfl

/-- The bytes of a chunk are in its tile, and the stream no longer owns the chunk. -/
theorem block?_landChunk {s : State} {x : Inst} {b : Block} {t : Tile} (hb : s.block? x.block = some b) (ht : b.tiles.find? x.desc.tile = some t)
    (bs : List Byte) : ∃ b', (landChunk s x bs).block? x.block = some b' ∧ b'.tiles.find? x.desc.tile =
      some { t with bytes := putBytes t.bytes (x.nextChunk * 2048) bs, owned := t.owned.filter (· != x.nextChunk) } := by
  obtain ⟨m, hsave⟩ := saveTile_only s x.block x.desc.tile (x.nextChunk * 2048) bs
  have hb' : (saveTile s x.block x.desc.tile (x.nextChunk * 2048) bs).block? x.block = some b := by rw [State.block?, hsave.blocks]; exact hb
  rw [landChunk, block?_updBlock, if_pos rfl, tileWrite, if_neg Bool.false_ne_true, block?_updBlock, if_pos rfl, hb']
  refine ⟨_, rfl, ?_⟩
  dsimp only
  rw [AList.find?_upd, if_pos rfl, AList.find?_upd, if_pos rfl, ht]
  rfl

theorem mem_landChunk {s : State} {x : Inst} {b : Block} (hb : s.block? x.block = some b) (hin : b.swapped = false)
    (hfrz : ∀ im ∈ s.frz.images, im.stored = false) (bs : List Byte) : (landChunk s x bs).mem = s.mem := by
  rw [landChunk, updBlock_mem, mem_tileWrite, saveTile_of_present hb hin hfrz]

theorem elemAt_congr {s t : State} (hb : t.blocks = s.blocks) (hg : t.gangs = s.gangs) (b : BlockId) (h idx esz : Nat) :
    elemAt t b h idx esz = elemAt s b h idx esz := by
  simp only [elemAt, State.block?, State.gang?, hb, hg]

/-- A gang's tile with other bytes. -/
theorem tile?_withBytes (g : Gang) (h : Nat) (f : AList Nat Byte → AList Nat Byte) :
    ({ g with tiles := g.tiles.map fun t => if t.handle = h then { t with bytes := f t.bytes } else t } : Gang).tile? h
      = (g.tile? h).map fun t => { t with bytes := f t.bytes } := by
  unfold Gang.tile?
  induction g.tiles with
  | nil => rfl
  | cons t l ih => by_cases ht : t.handle = h <;> simp_all

/-- Where an element lies does not depend on the bytes of its tile. -/
theorem elemAt_tileWrite (s : State) (b : BlockId) (h idx esz : Nat) (sp : Spot) (bs : List Byte) :
    elemAt (tileWrite s b h sp bs) b h idx esz = elemAt s b h idx esz := by
  unfold tileWrite
  split
  · have hb : (s.updGang b.gang fun g => { g with tiles := g.tiles.map fun t =>
        if t.handle = h then { t with bytes := putBytes t.bytes sp.off bs } else t }).block? b = s.block? b := rfl
    unfold elemAt
    rw [hb, gang?_updGang, if_pos rfl]
    cases s.block? b with
    | none => rfl
    | some bl =>
      cases s.gang? b.gang with
      | none => rfl
      | some g =>
        dsimp only [Option.map_some, Option.bind_some]
        rw [tile?_withBytes g h fun m => putBytes m sp.off bs]
        cases g.tile? h <;> rfl
  · have hg : ∀ f, (s.updBlock b f).gang? b.gang = s.gang? b.gang := fun _ => rfl
    unfold elemAt
    rw [hg, block?_updBlock, if_pos rfl]
    cases s.block? b with
    | none => rfl
    | some bl =>
      dsimp only [Option.map_some]
      rw [AList.find?_upd, if_pos rfl]
      cases bl.tiles.find? h <;> rfl

/-- The bytes of the tile that an element lies in, its gang's or its block's. -/
def tileBytesAt (s : State) (b : BlockId) (h : Nat) (gang : Bool) : Option (AList Nat Byte) :=
  if gang then ((s.gang? b.gang).bind fun g => g.tile? h).map (·.bytes) else ((s.block? b).bind fun bl => bl.tiles.find? h).map (·.bytes)

theorem spotByte_eq_of_tileBytesAt {s : State} {b : BlockId} {h : Nat} {sp : Spot} {m : AList Nat Byte} (hm : tileBytesAt s b h sp.gang = some m) (k : Nat) :
    spotByte s b h sp k = m.get (sp.off + k) (Config.tileByte sp.alloc (sp.off + k)) := by
  unfold tileBytesAt at hm
  unfold spotByte
  split at hm
  next hg =>
    obtain ⟨t, ht, rfl⟩ := Option.map_eq_some_iff.mp hm
    simp only [hg, if_true, ht]
  next hg =>
    obtain ⟨t, ht, rfl⟩ := Option.map_eq_some_iff.mp hm
    simp only [hg, Bool.false_eq_true, if_false, ht]

/-- An element's place is one of a tile. -/
theorem tileBytesAt_of_elemAt {s : State} {b : BlockId} {h idx esz : Nat} {sp : Spot} (hat : elemAt s b h idx esz = some sp) :
    ∃ m, tileBytesAt s b h sp.gang = some m := by
  unfold elemAt at hat
  split at hat
  · cases hat
  next bl hb =>
    obtain ⟨t, ht, hat⟩ := Option.bind_eq_some_iff.mp hat
    split at hat
    · cases hat
    · split at hat
      · obtain ⟨g, hg, hat⟩ := Option.bind_eq_some_iff.mp hat
        dsimp only at hat
        split at hat
        · obtain rfl := Option.some.inj hat
          exact ⟨g.bytes, by rw [tileBytesAt, if_pos rfl, hg]; rfl⟩
        · cases hat
      · obtain rfl := Option.some.inj hat
        exact ⟨t.bytes, by rw [tileBytesAt, if_neg Bool.false_ne_true, hb, Option.bind_some, ht]; rfl⟩

theorem tileBytesAt_tileWrite (s : State) (b : BlockId) (h : Nat) (sp : Spot) (bs : List Byte) :
    tileBytesAt (tileWrite s b h sp bs) b h sp.gang = (tileBytesAt s b h sp.gang).map fun m => putBytes m sp.off bs := by
  unfold tileBytesAt tileWrite
  split
  · rw [gang?_updGang, if_pos rfl]
    cases s.gang? b.gang with
    | none => rfl
    | some g =>
      dsimp only [Option.map_some, Option.bind_some]
      rw [tile?_withBytes g h fun m => putBytes m sp.off bs]
      cases g.tile? h <;> rfl
  · rw [block?_updBlock, if_pos rfl]
    cases s.block? b with
    | none => rfl
    | some bl =>
      dsimp only [Option.map_some, Option.bind_some]
      rw [AList.find?_upd, if_pos rfl]
      cases bl.tiles.find? h <;> rfl

theorem spotByte_tileWrite {s : State} {b : BlockId} {h idx esz : Nat} {sp : Spot} (hat : elemAt s b h idx esz = some sp) {bs : List Byte} {k : Nat}
    (hk : k < bs.length) : spotByte (tileWrite s b h sp bs) b h sp k = bs.getD k 0 := by
  obtain ⟨m, hm⟩ := tileBytesAt_of_elemAt hat
  have hput : tileBytesAt (tileWrite s b h sp bs) b h sp.gang = some (putBytes m sp.off bs) := by rw [tileBytesAt_tileWrite, hm]; rfl
  rw [spotByte_eq_of_tileBytesAt hput, AList.get, find?_putBytes m sp.off hk, Option.getD_some]

theorem leNat_leBytes (n x : Nat) : leNat (leBytes n x) = x % 256 ^ n := by
  induction n generalizing x with
  | zero => simp [leBytes, leNat, Nat.mod_one]
  | succ n ih => rw [leBytes, leNat, ih, BitVec.toNat_ofNat, Nat.pow_succ' (m := 256)]; exact Nat.mod_mul.symm

/-- An element reads as the value written into it. -/
theorem elemRead_elemWrite {s : State} {b : BlockId} {h idx esz : Nat} (hat : (elemAt s b h idx esz).isSome = true) (v : Nat) :
    elemRead (elemWrite s b h idx esz v) b h idx esz = v % 256 ^ esz := by
  obtain ⟨sp, hsp⟩ := Option.isSome_iff_exists.mp hat
  have hbytes : ((List.range esz).map fun k => spotByte (tileWrite s b h sp (leBytes esz v)) b h sp k) = leBytes esz v := by
    refine List.ext_getElem (by simp [leBytes_length]) fun k hk hk' => ?_
    rw [List.getElem_map, List.getElem_range, spotByte_tileWrite hsp hk', List.getD_eq_getElem _ _ hk']
  have hwrite : elemWrite s b h idx esz v = tileWrite s b h sp (leBytes esz v) := by simp only [elemWrite, hsp]
  have hplace : elemAt (tileWrite s b h sp (leBytes esz v)) b h idx esz = some sp := (elemAt_tileWrite ..).trans hsp
  rw [hwrite]
  simp only [elemRead, hplace, hbytes]
  exact leNat_leBytes esz v

theorem mem_elemWrite (s : State) (b : BlockId) (h idx esz v : Nat) : (elemWrite s b h idx esz v).mem = s.mem := by
  unfold elemWrite
  split
  · exact mem_tileWrite ..
  · rfl

/-! ### The chunk that arbitration serves (R219, R222) -/

/-- What serving a copy's chunk comes to, by what its move would do. -/
def serveMove (s : State) (x : Inst) (a : CopyArb) : Move → Out
  | .wait => notEnabled "COPY_CHUNK"
  | .fault code h d w => .next (findFault s x w code h d)
  | .ask p w => .next (askPage s x p w)
  | .inval ws ls => .next (askFor s ws ls)
  | .back ls => .next (foldS s ls sendBi)
  | .tile bs rd => .next (chunkDone (landChunk (chunkRead s (noteIdx s x) rd).1 x bs) (chunkRead s (noteIdx s x) rd).2 a)
  | .mem bs rd ps =>
    let r := chunkRead s (noteIdx s x) rd
    let w := writeLines r.1 (x.agent s) ps
    let ws := wordsOfPs (ps.filter fun p => w.2.contains (p.2.1 / 128))
    let z := { r.2 with wrote := (ws ++ x.wrote).dedup, buf := some bs, part := x.part ++ w.2 }
    let s1 := copyWatch w.1 x 2 ws
    .next (if w.2.length = (linesOfPs ps).length then chunkDone s1 z a else wakeAll (setInst (setArb s1 x.clu a) z))

theorem findInst_congr {s t : State} (h : t.insts = s.insts) (i : Nat) : findInst t i = findInst s i := by rw [findInst, h]; rfl

theorem findInst_setInst {s : State} {i : Nat} {x y : Inst} (hx : findInst s i = some x) (hy : y.startNo = i) :
    findInst (setInst s y) i = some y := by
  have hstart : x.startNo = y.startNo := (startNo_of_findInst hx).trans hy.symm
  have hcond : ((fun z : Inst => z.startNo == i) ∘ fun z => if z.startNo = y.startNo then y else z) = fun z => z.startNo == i := by
    funext z
    by_cases hz : z.startNo = y.startNo <;> simp [hz]
  rw [findInst, setInst, List.find?_map, hcond, show s.insts.find? (fun z => z.startNo == i) = some x from hx, Option.map_some, if_pos hstart]

section Chunk
variable {s : State} {i : Nat} {x : Inst} {a : CopyArb} (hx : findInst s i = some x)
include hx

theorem copyChunk_eq_serveMove (hnext : copyNext s x.clu 9 (arbOf s x.clu) = some (x, a)) (hlog : loggedCopyFault s x = none) :
    exec (.copyChunk i) s = serveMove s x a (nextMove s x) := by
  rw [exec_copyChunk, execCopyChunk, hx]
  dsimp only
  rw [hnext]
  dsimp only
  rw [if_neg (not_not.mpr (startNo_of_findInst hx)), hlog]
  dsimp only
  cases nextMove s x with
  | mem bs rd ps => dsimp only [serveMove]; split <;> rfl
  | _ => rfl

theorem serveMove_tile (a : CopyArb) (bs : List Byte) (rd : List Nat) {b : Block} {t : Tile} (hb : s.block? x.block = some b)
    (ht : b.tiles.find? x.desc.tile = some t) :
    ∃ u y b' t', serveMove s x a (.tile bs rd) = .next (chunkDone u y a) ∧ y.nextChunk = x.nextChunk ∧ y.startNo = i
      ∧ (b.swapped = false → (∀ im ∈ s.frz.images, im.stored = false) → u.mem = s.mem) ∧ u.block? x.block = some b'
      ∧ b'.tiles.find? x.desc.tile = some t' ∧ t'.owned = t.owned.filter (· ≠ x.nextChunk)
      ∧ ∀ k, k < bs.length → t'.bytes.find? (x.nextChunk * 2048 + k) = some (bs.getD k 0) := by
  have hread := onlyCaches_chunkRead s (noteIdx s x) rd
  obtain ⟨hchunk, hstart⟩ := samePlace_chunkRead s x rd
  have hb1 : (chunkRead s (noteIdx s x) rd).1.block? x.block = some b := by rw [State.block?, hread.blocks]; exact hb
  obtain ⟨b', hland, htile⟩ := block?_landChunk hb1 ht bs
  refine ⟨_, _, b', _, rfl, hchunk, hstart.trans (startNo_of_findInst hx), fun hin hfrz => ?_, hland, htile, ?_, fun k hk => find?_putBytes _ _ hk⟩
  · rw [mem_landChunk hb1 hin (by rwa [hread.frz]), hread.mem]
  · exact List.filter_congr fun k _ => Bool.eq_iff_iff.mpr (by simp)

theorem serveMove_mem (a : CopyArb) (bs : List Byte) (rd : List Nat) {ps : List (Nat × Nat × Byte)} (hnd : (ps.map fun p => p.2.1).Nodup)
    (hdev : ∀ p ∈ ps, isDev p.2.1 = true) (hwf : s.mem.wf = true) :
    let ls := (writeLines (chunkRead s (noteIdx s x) rd).1 (x.agent s) ps).2
    let done := ps.filter fun p => ls.contains (p.2.1 / 128)
    ∃ u y, serveMove s x a (.mem bs rd ps) =
        .next (if ls.length = (linesOfPs ps).length then chunkDone u y a else wakeAll (setInst (setArb u x.clu a) y))
      ∧ y.nextChunk = x.nextChunk ∧ y.startNo = i ∧ y.buf = some bs ∧ y.part = x.part ++ ls ∧ (∀ p ∈ done, u.mem.get p.2.1 = p.2.2)
      ∧ ∀ k, (∀ p ∈ done, p.2.1 ≠ k) → u.mem.get k = s.mem.get k := by
  intro ls done
  have hread := onlyCaches_chunkRead s (noteIdx s x) rd
  obtain ⟨hchunk, hstart⟩ := samePlace_chunkRead s x rd
  have hlines := takes_writeLines (s := (chunkRead s (noteIdx s x) rd).1) hdev (by rwa [hread.mem]) hnd (x.agent s)
  rw [hread.mem] at hlines
  refine ⟨_, _, rfl, hchunk, hstart.trans (startNo_of_findInst hx), rfl, rfl, ?_, ?_⟩
  · rw [(onlyCaches_copyWatch ..).mem]; exact hlines.bytes
  · rw [(onlyCaches_copyWatch ..).mem]; exact hlines.others

theorem serveMove_ask (a : CopyArb) (hrf : s.m.rf = false) (p : Nat) (w : Bool) :
    ∃ t y, serveMove s x a (.ask p w) = .next t ∧ findInst t i = some y ∧ y.waitPage = some (p, w) ∧ y.nextChunk = x.nextChunk ∧ t.mem = s.mem := by
  have hask := onlyEngine_requestPage s (x.pasid s) p w false
  have hstart := startNo_of_findInst hx
  refine ⟨setInst (requestPage s (x.pasid s) p w false) { x with waitPage := some (p, w) }, { x with waitPage := some (p, w) }, ?_, ?_, rfl, rfl, hask.mem⟩
  · rw [serveMove, askPage, hrf, if_neg Bool.false_ne_true]
  · exact findInst_setInst ((findInst_congr (by rw [hask]) i).trans hx) hstart

end Chunk

/-! ### Flags (R220) -/

theorem copyFlagWrite_eq {s : State} {i : Nat} {x : Inst} (hx : findInst s i = some x) (hmoved : x.moved = true) (hgo : x.stopped = false)
    (hpage : x.waitPage = none) (hflag : x.flagDone = false) (hrun : x.runs s = true) (hlog : loggedCopyFault s x = none) :
    exec (.copyFlagWrite i) s =
      if x.desc.fkind = 2 then .next (flagTile s x) else if x.desc.fkind = 1 then flagMem s x else .next (completeInst s x) := by
  rw [exec_copyFlagWrite, execCopyFlagWrite, hx]
  dsimp only
  rw [if_neg (by rw [hmoved, hgo, hflag, hrun]; decide), hlog]
  dsimp only
  rw [if_neg (by rw [hpage]; decide)]

section Flag
variable {s : State} {x : Inst} {bs : List Byte} {rd : List Nat} {ps : List (Nat × Nat × Byte)}

theorem flagMem_of_mem (hal : x.flagVa s % 8 = 0) (hmove : flagMove s x = .mem bs rd ps) (hrc : ∀ p ∈ ps, homeType s p.2.1 = 0) :
    flagMem s x = .next (completeInst (copyWatch (copyStore (releaseWords s (x.agent s) x.wrote) (x.agent s) 2 ps) x 2 (wordsOfPs ps))
      { x with flagDone := true }) := by
  have hany : (ps.any fun p => homeType s p.2.1 != 0) = false := List.any_eq_false.mpr fun p hp => by simp [hrc p hp]
  unfold flagMem
  dsimp only
  rw [if_neg (not_not.mpr hal), hmove]
  dsimp only
  rw [hany, if_neg Bool.false_ne_true]

/-- A flag in memory: its bytes are there, none of its words is held, and nothing else changes. -/
theorem flagMem_writes (hal : x.flagVa s % 8 = 0) (hmove : flagMove s x = .mem bs rd ps)
    (hps : ∀ p ∈ ps, homeType s p.2.1 = 0 ∧ isDev p.2.1 = true) (hnd : (ps.map fun p => p.2.1).Nodup) (hwf : s.mem.wf = true)
    (hag : agentKind (x.agent s) ≠ 5) :
    ∃ u y, flagMem s x = .next (completeInst u y) ∧ y.flagDone = true ∧ (∀ p ∈ ps, u.mem.get p.2.1 = p.2.2)
      ∧ (∀ p ∈ ps, (tagAt u (p.2.1 / 4)).hold = false) ∧ ∀ k, (∀ p ∈ ps, p.2.1 ≠ k) → u.mem.get k = s.mem.get k := by
  obtain ⟨tags, hrel⟩ := releaseWords_only s (x.agent s) x.wrote
  have hrc : ∀ p ∈ ps, homeType (releaseWords s (x.agent s) x.wrote) p.2.1 = 0 := fun p hp => by
    rw [hrel]; exact (homeType_congr rfl _).trans (hps p hp).1
  have hmem : (releaseWords s (x.agent s) x.wrote).mem = s.mem := by rw [hrel]
  have hdev : ∀ p ∈ ps, isDev p.2.1 = true := fun p hp => (hps p hp).2
  have htakes := takes_copyStore hdev (hmem ▸ hwf) hnd (x.agent s) 2
  rw [hmem] at htakes
  refine ⟨_, _, flagMem_of_mem hal hmove fun p hp => (hps p hp).1, rfl, ?_⟩
  obtain ⟨d, hwatch⟩ := copyWatch_only (copyStore (releaseWords s (x.agent s) x.wrote) (x.agent s) 2 ps) x 2 (wordsOfPs ps)
  rw [hwatch]
  exact ⟨htakes.bytes, fun p hp => hold_copyStore hag hdev hrc hp, htakes.others⟩

end Flag

section FlagTile
variable {s : State} {x : Inst} {b : Block} {t : Tile} (hb : s.block? x.block = some b) (ht : b.tiles.find? (x.desc.flag % 32) = some t)
  (hsz : t.esz = 4 ∨ t.esz = 8) (hat : (elemAt s x.block (x.desc.flag % 32) (x.desc.flag / 2 ^ 32) t.esz).isSome = true)
  (hown : t.owned.contains (x.desc.flag / 2 ^ 32 * t.esz / 2048) = false)
include hb ht hsz hat hown

theorem flagTile_of_elem (v : Nat) (hv : v = x.desc.fval.toNat % 2 ^ (8 * t.esz)) : flagTile s x =
    completeInst (elemWrite (saveTile s x.block (x.desc.flag % 32) (x.desc.flag / 2 ^ 32 * t.esz) (leBytes t.esz v)) x.block (x.desc.flag % 32)
      (x.desc.flag / 2 ^ 32) t.esz v) { x with flagDone := true } := by
  have hfind : ((s.block? x.block).bind fun b => b.tiles.find? (x.desc.flag % 32)) = some t := by rw [hb, Option.bind_some, ht]
  unfold flagTile
  dsimp only
  rw [hfind, hv]
  dsimp only
  rw [hat, hown]
  simp only [hsz, and_self, decide_true, Bool.not_true, Bool.false_eq_true, if_false]

/-- A flag in a tile becomes its element; memory is as before, unless the tile is away. -/
theorem flagTile_writes :
    ∃ u y, flagTile s x = completeInst u y ∧ y.flagDone = true ∧ (b.swapped = false → (∀ im ∈ s.frz.images, im.stored = false) → u.mem = s.mem)
      ∧ elemRead u x.block (x.desc.flag % 32) (x.desc.flag / 2 ^ 32) t.esz = x.desc.fval.toNat % 2 ^ (8 * t.esz) := by
  refine ⟨_, _, flagTile_of_elem hb ht hsz hat hown _ rfl, rfl, fun hin hfrz => ?_, ?_⟩
  · rw [mem_elemWrite, saveTile_of_present hb hin hfrz]
  · obtain ⟨m, hsave⟩ := saveTile_only s x.block (x.desc.flag % 32) (x.desc.flag / 2 ^ 32 * t.esz)
      (leBytes t.esz (x.desc.fval.toNat % 2 ^ (8 * t.esz)))
    have hplace := elemAt_congr hsave.blocks hsave.gangs x.block (x.desc.flag % 32) (x.desc.flag / 2 ^ 32) t.esz
    rw [elemRead_elemWrite (hplace ▸ hat), show 256 ^ t.esz = 2 ^ (8 * t.esz) by rw [Nat.pow_mul], Nat.mod_mod]

end FlagTile

/-! ### The translation ahead and its claim (R217, R221) -/

theorem agent_congr {s t : State} (h : t.tasks = s.tasks) (x : Inst) : x.agent t = x.agent s := by simp only [Inst.agent, State.task?, h]

theorem claims_dropEverywhere (s : State) (ws : List Nat) : (dropEverywhere s ws).m.claims = s.m.claims := by
  refine foldS_keeps (P := fun t => t.m.claims = s.m.claims) (fun t p ht => ?_) _ rfl
  obtain ⟨l, h⟩ := dropWords_only t p.1 p.2 (wmaskOf (ws.filter fun w => w / 32 == p.2))
  rw [h]
  exact ht

/-- Words enter the claim of a copy's agent; what was claimed stays. -/
theorem mem_claims_addClaims (s : State) (x : Inst) (ws : List Nat) (c : Nat × Nat) :
    c ∈ (foldS s ws fun s w => addClaim s (x.agent s) w).m.claims ↔ c ∈ s.m.claims ∨ c.1 = x.agent s ∧ c.2 ∈ ws := by
  unfold foldS
  induction ws generalizing s with
  | nil => simp
  | cons w ws ih =>
    have hagent : x.agent (addClaim s (x.agent s) w) = x.agent s := agent_congr rfl x
    have hadd : (addClaim s (x.agent s) w).m.claims = (x.agent s, w) :: s.m.claims := rfl
    rw [List.foldl_cons, ih, hagent, hadd]
    obtain ⟨b, v⟩ := c
    simp only [List.mem_cons, Prod.mk.injEq]
    tauto

theorem claimPage_claims (s : State) (x : Inst) (e : TlbEnt) {wd : Nat} (h : wd ∈ pageWords x e) :
    wd ∈ (claimPage s x e).2.claimed ∧ (wd ∉ x.claimed → (x.agent s, wd) ∈ (claimPage s x e).1.m.claims) := by
  have hnew (hout : wd ∉ x.claimed) : wd ∈ (pageWords x e).filter fun w => !x.claimed.contains w := List.mem_filter.mpr ⟨h, by simp [hout]⟩
  refine ⟨?_, fun hout => ?_⟩
  · by_cases hin : wd ∈ x.claimed
    · exact List.mem_append_right _ hin
    · exact List.mem_append_left _ (hnew hin)
  · rw [claimPage, claims_dropEverywhere]
    exact (mem_claims_addClaims ..).mpr (.inr ⟨rfl, hnew hout⟩)

section Walk
variable {s s1 : State} {i page : Nat} {x : Inst} (hx : findInst s i = some x)
include hx

/-- The words of a translated page that the copy has still to read are its claim. -/
theorem walkAhead_of_leaf {v : TlbEnt} (hleaf : leafAhead s x.clu (x.pasid s) (page * 4096) = (s1, some v))
    (hmay : claimMay s1 (x.noteWalk (v.va / 4096) (v.size / 4096)) v = true) :
    ∃ t y, walkAhead s x page = .next t ∧ findInst t i = some y ∧ v.va / 4096 ∈ y.walked ∧ t.mem = s.mem
      ∧ ∀ wd ∈ pageWords x v, wd ∈ y.claimed ∧ (wd ∉ x.claimed → (x.agent s, wd) ∈ t.m.claims) := by
  have hahead : OnlyEngine s s1 := by simpa only [hleaf] using onlyEngine_leafAhead s x.clu (x.pasid s) (page * 4096)
  have hstart := startNo_of_findInst hx
  have honly := hahead.trans (onlyEngine_claimPage s1 (x.noteWalk (v.va / 4096) (v.size / 4096)) v)
  refine ⟨_, (claimPage s1 (x.noteWalk (v.va / 4096) (v.size / 4096)) v).2, ?_, findInst_setInst ((findInst_congr (by rw [honly]) i).trans hx) hstart,
    List.mem_cons_self, honly.mem, fun wd hwd => ?_⟩
  · unfold walkAhead
    rw [hleaf]
    dsimp only
    rw [hmay]
    rfl
  · have hagent : (x.noteWalk (v.va / 4096) (v.size / 4096)).agent s1 = x.agent s := agent_congr hahead.tasks x
    rw [← hagent]
    exact claimPage_claims s1 (x.noteWalk (v.va / 4096) (v.size / 4096)) v hwd

/-- A walk that ends at no leaf is noted, and nothing enters the claim. -/
theorem walkAhead_of_no_leaf (hleaf : leafAhead s x.clu (x.pasid s) (page * 4096) = (s1, none)) :
    ∃ t y, walkAhead s x page = .next t ∧ findInst t i = some y ∧ page ∈ y.walked ∧ t.mem = s.mem ∧ y.claimed = x.claimed := by
  have hahead : OnlyEngine s s1 := by simpa only [hleaf] using onlyEngine_leafAhead s x.clu (x.pasid s) (page * 4096)
  have hstart := startNo_of_findInst hx
  refine ⟨_, x.noteWalk page 1, ?_, findInst_setInst ((findInst_congr (by rw [hahead]) i).trans hx) hstart,
    List.mem_cons_self, hahead.mem, rfl⟩
  unfold walkAhead
  rw [hleaf]

end Walk

end Sys2Proof.Machine

namespace Sys2Proof.Proofs
open Sys2Proof Sys2Proof.Machine

/-- Settles O49, one lemma a clause. A chunk: `copyChunk_eq_serveMove`, then `serveMove_tile`, `serveMove_mem` and `serveMove_ask`. A flag:
`copyFlagWrite_eq`, then `flagMem_writes` and `flagTile_writes`. The translation unit: `walkAhead_of_leaf` and `walkAhead_of_no_leaf`. -/
theorem copiesMove : Obligations.CopiesMove := by
  unfold Obligations.CopiesMove
  refine ⟨fun s i x a hx hnext hlog => ?chunk, fun s i x hx hmoved hgo hpage hflag hrun hlog => ?flag,
    fun s i x page w s1 hx hgo hmoved hrun hahead hnew hwant => ?walk⟩
  case chunk =>
    rw [copyChunk_eq_serveMove hx hnext hlog]
    refine ⟨fun bs rd hmove b t hb ht => ?_, fun bs rd ps hmove hnd hdev hwf => ?_, fun p w hmove hrf => ?_, fun ws ls hmove => ?_,
      fun ls hmove => ?_, fun code h d w hmove => ?_⟩ <;> rw [hmove]
    · exact serveMove_tile hx a bs rd hb ht
    · exact serveMove_mem hx a bs rd hnd hdev hwf
    · exact serveMove_ask hx a hrf p w
    · rfl
    · rfl
    · rfl
  case flag =>
    rw [copyFlagWrite_eq hx hmoved hgo hpage hflag hrun hlog]
    refine ⟨fun hkind hal bs rd ps hmove hps hnd hwf hag => ?_, fun hkind => ?_, fun hmem htile => ?_⟩
    · rw [if_neg (by rw [hkind]; decide), if_pos hkind]
      exact flagMem_writes hal hmove hps hnd hwf hag
    · rw [if_pos hkind]
      exact ⟨rfl, fun b t hb ht hsz hat hown => flagTile_writes hb ht hsz hat hown⟩
    · rw [if_neg htile, if_neg hmem]
  case walk =>
    rw [ttuTranslate_of_wanted hx hgo hmoved hrun hahead hnew hwant]
    exact ⟨fun v hleaf hmay => walkAhead_of_leaf hx hleaf hmay, fun hleaf => walkAhead_of_no_leaf hx hleaf⟩

end Sys2Proof.Proofs

/-! The control core: its registers, its slots and accesses, the end of its clauses, its stop and its transfers. -/

namespace Sys2Proof.Machine
open Sys2Proof Sys2Proof.Safety

/-! ### Registers of a context (R230, R237) -/

@[simp] theorem getC_setC (m : Mx) (d n : Nat) (v : Word) : (m.setC d v).getC n = if n = d ∧ n ≠ 31 then v else m.getC n := by
  unfold Mx.setC Mx.getC
  by_cases hd : d = 31 <;> by_cases hn : n = 31 <;> simp_all [AList.get_put]

theorem setC_only (m : Mx) (d : Nat) (v : Word) : m.setC d v = { m with c := (m.setC d v).c } := by
  unfold Mx.setC
  split <;> rfl

theorem writesCore_setC (m : Mx) (d : Nat) (v : Word) : WritesCore m (m.setC d v) d v := ⟨fun n => getC_setC m d n v, setC_only m d v⟩

@[simp] theorem rdvD_setRdv (m : Mx) (r r' : Nat) (x : Rdv) : (m.setRdv r x).rdvD r' = if r' = r then x else m.rdvD r' := AList.get_put ..

/-- A round that takes every arrival leaves none. -/
theorem complete_all (x : Rdv) (v : Word) : (x.complete x.arrivals.length v).arrivals = []
    ∧ (x.complete x.arrivals.length v).results = x.results ++ x.arrivals.map fun a => (a.1, a.2, v) := by
  simp [Rdv.complete]

/-! ### A slot of a core -/

section Slot
variable {s : State} {l : Nat} {m : Mx} {c : CoreClause} (h : CoreReady s l m c)
include h

theorem coreReady_fields : s.mxD l = m ∧ m.clause = some c ∧ c.slot < c.words.length := by
  obtain ⟨hi, -⟩ := h
  unfold coreIssuing? at hi
  dsimp only at hi
  split at hi
  · split at hi
    · split at hi
      next hrun =>
        cases hi
        simp only [Bool.and_eq_true, decide_eq_true_eq] at hrun
        exact ⟨rfl, ‹_›, hrun.2⟩
      next => cases hi
    · cases hi
  · cases hi

theorem coreReady_clause : m.clause = some c := (coreReady_fields h).2.1

theorem coreSlot_ready (f : Nat → Mx → CoreClause → State) : coreSlot s f = .next (f l m c) := by
  simp only [coreSlot, h.1, h.2, if_true]

/-! ### Scalar instructions (R233, R234) -/

theorem core_writes {i : Instr} {f : CA} {k : Mx → Word} {v : Word}
    (he : exec i s = coreSlot s fun l m c => coreNext s l (m.setC f.d.toNat (k m)) c) (hv : k m = v) :
    ∃ m', exec i s = .next (coreAfter s l c m') ∧ WritesCore m m' f.d.toNat v :=
  ⟨_, by rw [he, coreSlot_ready h, hv]; rfl, writesCore_setC ..⟩

end Slot

/-- A shift by the width or more leaves the sign. -/
theorem sshiftRight_of_ge {w n : Nat} (a : BitVec w) (hn : w ≤ n) : a.sshiftRight n = if a.msb then BitVec.allOnes w else 0 := by
  ext i hi
  rw [BitVec.getElem_sshiftRight, dif_neg (by omega)]
  cases a.msb <;> simp

theorem shiftLeft_guarded (a v : Word) : (if v.toNat ≥ 64 then 0 else a <<< v.toNat) = a <<< v.toNat := by
  split
  next h => exact (BitVec.shiftLeft_eq_zero h).symm
  next => rfl

theorem ushiftRight_guarded (a v : Word) : (if v.toNat ≥ 64 then 0 else a >>> v.toNat) = a >>> v.toNat := by
  split
  next h => exact (BitVec.ushiftRight_eq_zero h).symm
  next => rfl

theorem sshiftRight_guarded (a v : Word) :
    (if v.toNat ≥ 64 then (if a.msb then BitVec.allOnes 64 else 0) else a.sshiftRight v.toNat) = a.sshiftRight v.toNat := by
  split
  next h => rw [sshiftRight_of_ge a h]
  next => rfl

theorem shiftRight_guarded (x : BitVec 4) (a v : Word) :
    (if x = 1 then (if v.toNat ≥ 64 then (if a.msb then BitVec.allOnes 64 else 0) else a.sshiftRight v.toNat)
      else if v.toNat ≥ 64 then 0 else a >>> v.toNat) = if x = 1 then a.sshiftRight v.toNat else a >>> v.toNat := by
  rw [sshiftRight_guarded, ushiftRight_guarded]

/-- An immediate above the low half of a register. -/
theorem append_setWidth_eq (imm : BitVec 32) (w : Word) :
    (imm ++ w.setWidth 32 : BitVec 64) = imm.setWidth 64 <<< 32 ||| (w &&& 0xFFFFFFFF) := by
  have hlow : (0xFFFFFFFF : Word) = (BitVec.allOnes 32).setWidth 64 := by decide
  ext i hi
  simp only [hlow, BitVec.getElem_append, BitVec.getElem_or, BitVec.getElem_and, BitVec.getElem_shiftLeft, BitVec.getElem_setWidth,
    BitVec.getLsbD_allOnes]
  by_cases h : i < 32
  · simp [h, hi]
  · simp [h, BitVec.getLsbD_eq_getElem (show i - 32 < 32 by omega)]

/-! ### The commit of a core's clause (R232) -/

theorem onlyEngine_coreStores (s : State) (l : Nat) (m : Mx) (c : CoreClause) : OnlyEngine s (coreStores s l m c) :=
  onlyEngine_foldS _ _ _ fun _ _ => rfl

/-- Where each step puts one request of its access behind those there are. -/
theorem reqs_foldS {f : State → Acc → State} (hf : ∀ s a, ∃ q, (f s a).m.reqs = s.m.reqs ++ [q] ∧ q.accs = [a]) (l : List Acc) (s : State) :
    ∃ qs, (foldS s l f).m.reqs = s.m.reqs ++ qs ∧ qs.map (·.accs) = l.map fun a => [a] := by
  unfold foldS
  induction l generalizing s with
  | nil => exact ⟨[], by simp⟩
  | cons a l ih =>
    obtain ⟨q, hq, ha⟩ := hf s a
    obtain ⟨qs, hreqs, haccs⟩ := ih (f s a)
    exact ⟨q :: qs, by rw [List.foldl_cons, hreqs, hq, List.append_assoc, List.singleton_append], by rw [List.map_cons, haccs, ha, List.map_cons]⟩

/-- The held stores of a clause become requests, in slot order. -/
theorem reqs_coreStores (s : State) (l : Nat) (m : Mx) (c : CoreClause) :
    ∃ qs, (coreStores s l m c).m.reqs = s.m.reqs ++ qs ∧ qs.map (·.accs) = c.stores.map fun a => [a] :=
  reqs_foldS (fun _ _ => ⟨_, rfl, rfl⟩) ..

section Commit
variable {s : State} {l : Nat} {m : Mx} {c : CoreClause}

/-- A commit changes the context, whose core has left the clause and issues no more, and the memory engine's records. -/
theorem coreCommit_eq (hm : s.mxD l = m) (hc : m.clause = some c) (pc : Nat) : ∃ t, OnlyEngine s t
    ∧ coreCommit s l pc = { t.setMx l { m with clause := none, pc, seq := m.seq + 1 } with cur := none }
    ∧ ∃ qs, t.m.reqs = s.m.reqs ++ qs ∧ qs.map (·.accs) = c.stores.map fun a => [a] := by
  refine ⟨_, onlyEngine_coreStores s l m c, ?_, reqs_coreStores ..⟩
  simp only [coreCommit, hm, hc]

theorem mxD_coreCommit (hm : s.mxD l = m) (hc : m.clause = some c) (pc : Nat) :
    (coreCommit s l pc).mxD l = { m with clause := none, pc, seq := m.seq + 1 } := by
  obtain ⟨t, -, he, -⟩ := coreCommit_eq hm hc pc
  rw [he]
  exact (mxD_setMx ..).trans (if_pos rfl)

theorem memoryKept_coreCommit (s : State) (l pc : Nat) : MemoryKept s (coreCommit s l pc) := by
  unfold coreCommit
  dsimp only
  split
  · exact fun _ => ⟨rfl, rfl, rfl, rfl⟩
  · exact (onlyEngine_coreStores ..).memoryKept

theorem coreSettle_of_done (hm : s.mxD l = m) (hc : m.clause = some c) (hs : c.slot = c.words.length) (hw : c.wait = []) :
    coreSettle s l = coreCommit s l c.next := by
  simp only [coreSettle, hm, hc, hs, hw, and_self, if_true]

theorem coreSettle_of_open (hm : s.mxD l = m) (hc : m.clause = some c) (ho : c.slot ≠ c.words.length ∨ c.wait ≠ []) :
    coreSettle s l = s := by
  simp only [coreSettle, hm, hc]
  exact if_neg fun h => ho.elim (· h.1) (· h.2)

/-- The clause of a core ends at a transfer's target. -/
theorem coreJump_effect (s : State) (l : Nat) (hc : m.clause = some c) (pc : Nat) :
    (coreJump s l m pc).mxD l = { m with clause := none, waitPage := none, pc, seq := m.seq + 1 } ∧ (coreJump s l m pc).cur = none
      ∧ MemoryKept s (coreJump s l m pc) := by
  have hm : (s.setMx l { m with waitPage := none }).mxD l = { m with waitPage := none } := (mxD_setMx ..).trans (if_pos rfl)
  refine ⟨mxD_coreCommit hm hc pc, ?_, memoryKept_coreCommit (s.setMx l { m with waitPage := none }) l pc⟩
  obtain ⟨t, -, he, -⟩ := coreCommit_eq hm hc pc
  rw [coreJump, he]

end Commit

/-! ### The stop of a core (R59, R255, R256) -/

theorem matrixRecord_length (iaddr cause slot holder daddr bids : Nat) : (matrixRecord iaddr cause slot holder daddr bids).length = 32 := by
  simp only [matrixRecord, List.length_append, leBytes_length]

/-- The fragment that takes a core's report late, in its group. -/
theorem reportLate_of_entry {s : State} {g e : Nat} {gr : Group} (hg : s.group? g = some gr) (he : e < 16) (hlen : e < gr.ents.length) (x : Late) :
    ∃ u gr', reportLate s g e x = settleLate u g e ∧ u.group? g = some gr' ∧ gr'.ent e = { gr.ent e with late := (gr.ent e).late ++ [x] }
      ∧ gr'.regs = gr.regs ∧ u.mem = s.mem :=
  ⟨addLate s g e x, _, if_neg (Nat.not_le.mpr he), group?_putEnt hg e _, ent_updEnt_self _ hlen, rfl, rfl⟩

/-- The entry of a fragment that its RDV lets go. -/
def Entry.leftRdv (x : Entry) : Entry := { x with st := .fetching, waitk := 0, park := .none }

section Report
variable {s : State} {l : Nat} {gr : Group} (info : FaultInfo) (hg : s.group? (s.mxD l).forker.1 = some gr)
include hg

theorem reportCore_at_rdv {e : Nat} {p : POp} {t : List (Nat × POp)} (hpark : rdvParked gr = (e, p) :: t) (he : e < 16) (hlen : e < gr.ents.length) :
    ∃ u gr' x, reportCore s l info = settleLate u (s.mxD l).forker.1 e ∧ u.group? (s.mxD l).forker.1 = some gr'
      ∧ (gr'.ent e).late = (gr.ent e).late ++ [x] ∧ x.info = info ∧ (gr'.ent e).st = .fetching ∧ gr'.regs = gr.regs ∧ u.mem = s.mem := by
  obtain ⟨u, gr', heq, hu, hent, hregs, hmem⟩ :=
    reportLate_of_entry (group?_putEnt hg e Entry.leftRdv) he (by simpa [Group.updEnt] using hlen)
      { seq := p.seq / 16, slot := p.slot, info }
  rw [ent_updEnt_self _ hlen] at hent
  refine ⟨u, gr', { seq := p.seq / 16, slot := p.slot, info }, ?_, hu, by rw [hent]; rfl, rfl, by rw [hent]; rfl, hregs, hmem⟩
  rw [← heq]
  simp only [reportCore, hg, hpark]
  rfl

theorem reportCore_at_header (hpark : rdvParked gr = []) (hmc : ∀ p ∈ gr.pend, p.mc = false) (hv : (gr.ent (s.mxD l).forker.2).valid = true)
    (he : (s.mxD l).forker.2 < 16) (hlen : (s.mxD l).forker.2 < gr.ents.length) :
    ∃ u gr' x, reportCore s l info = settleLate u (s.mxD l).forker.1 (s.mxD l).forker.2 ∧ u.group? (s.mxD l).forker.1 = some gr'
      ∧ (gr'.ent (s.mxD l).forker.2).late = (gr.ent (s.mxD l).forker.2).late ++ [x] ∧ x.info = info ∧ gr'.regs = gr.regs ∧ u.mem = s.mem := by
  have hnone : gr.pend.findIdx? (·.mc) = none := List.findIdx?_eq_none_iff.mpr hmc
  obtain ⟨u, gr', heq, hu, hent, hregs, hmem⟩ :=
    reportLate_of_entry hg he hlen { seq := (s.mxD l).forkSeq / 16, slot := (s.mxD l).forkSeq % 16, info }
  refine ⟨u, gr', { seq := (s.mxD l).forkSeq / 16, slot := (s.mxD l).forkSeq % 16, info }, ?_, hu, by rw [hent], rfl, hregs, hmem⟩
  simp only [reportCore, hg, hpark, hnone, hv, he, decide_true, Bool.and_self, if_true]
  exact heq

end Report

/-! ### The slot after (R232) -/

/-- The clause goes on while a slot is left, or something is outstanding. -/
theorem coreAfter_of_open {c : CoreClause} (s : State) (l : Nat) (m : Mx) (ho : c.slot + 1 ≠ c.words.length ∨ c.wait ≠ []) :
    coreAfter s l c m = s.setMx l { m with clause := some { c with slot := c.slot + 1 }, waitPage := none } :=
  coreSettle_of_open (mxD_setMx ..) (by rw [if_pos rfl]) ho

/-! ### Accesses of a core (R229, R235, R329) -/

section Access
variable {s s0 : State} {l va size pa : Nat} {m : Mx} {need : Need} {ct : BitVec 2} {k : State → Acc → BitVec 2 → State}

/-- The access of a core whose address has been translated. -/
def coreAcc (s : State) (va size pa : Nat) (ct : BitVec 2) : Acc :=
  { mkAcc 96 va size 0 0 with pa, ct, tgen := (frameAt s (pa / 4096)).tgen }

theorem coreAccess_unaligned (h : va % size ≠ 0) : coreAccess s l m va size need k = coreFault s l 0x03 0 va := if_pos h

theorem coreAccess_of_fault {cause : Cause} (h : va % size = 0) (ht : translateIn s true (coreClu s l) (corePasid s m) va need = (s0, .fault cause)) :
    coreAccess s l m va size need k = coreFault (faultAsk s0 (corePasid s m) cause.code va need.w false) l cause.code 0 va := by
  simp only [coreAccess, h, ht, ne_eq, not_true_eq_false, if_false]

theorem coreAccess_of_ok (h : va % size = 0) (ht : translateIn s true (coreClu s l) (corePasid s m) va need = (s0, .ok pa ct)) :
    coreAccess s l m va size need k = k s0 (coreAcc s0 va size pa ct) ct := by
  simp only [coreAccess, h, ht, ne_eq, not_true_eq_false, if_false]
  rfl

theorem onlyEngine_of_translated {r : XR} (ht : translateIn s true (coreClu s l) (corePasid s m) va need = (s0, r)) : OnlyEngine s s0 := by
  simpa only [ht] using onlyEngine_translateIn s true (coreClu s l) (corePasid s m) va need

end Access

/-! ### Transfers and CRDV (R236, R237) -/

@[simp] theorem clause_setC (m : Mx) (d : Nat) (v : Word) : (m.setC d v).clause = m.clause := by rw [setC_only]

section Transfers
variable {s : State} {l : Nat} {m : Mx} {c : CoreClause}

/-- What a transfer leaves: the core stands at the target with the registers it had there. -/
theorem coreJump_goes {i : Instr} {pc : Nat} (hc : m.clause = some c) (he : exec i s = .next (coreJump s l m pc)) :
    ∃ t, exec i s = .next t ∧ (t.mxD l).pc = pc ∧ (t.mxD l).clause = none ∧ (∀ n, (t.mxD l).getC n = m.getC n) ∧ (t.mxD l).cc = m.cc
      ∧ (t.mxD l).run = m.run ∧ t.cur = none ∧ MemoryKept s t := by
  obtain ⟨hmx, hcur, hmem⟩ := coreJump_effect s l hc pc
  exact ⟨_, he, by rw [hmx], by rw [hmx], fun n => by rw [hmx]; rfl, by rw [hmx]; rfl, by rw [hmx], hcur, hmem⟩

/-- The context once its core has exited with a value: the exit rendezvous `r` takes every arrival (R237). -/
def Mx.exited (m : Mx) (r : Nat) (v : Word) : Mx :=
  { m.setRdv r ((m.rdvD r).complete (m.rdvD r).arrivals.length v) with run := false, exitVal := some v }

theorem rdvD_exited (m : Mx) (r : Nat) (v : Word) : (m.exited r v).rdvD r = (m.rdvD r).complete (m.rdvD r).arrivals.length v :=
  (rdvD_setRdv ..).trans (if_pos rfl)

variable (h : CoreReady s l m c)
include h

theorem cexit_eq (f : CA) :
    let t := coreJump s l m c.next
    let u := t.setMx l ((t.mxD l).exited m.xr (m.getC f.a.toNat))
    exec (.cexit f) s = .next (match m.owner with | some g => retireGang (wakeAll u) g | none => wakeAll u) :=
  (exec_cexit f s).trans (coreSlot_ready h _)

theorem crdv_waits {f : CA} (hw : (m.rdvD f.x.toNat).arrivals.length < f.imm.toNat ∨ agentBusy s (agentOfCore l) = true) :
    exec (.crdv f) s = .next s := by
  rw [exec_crdv, execCrdv, coreSlot_ready h]
  exact congrArg _ (if_pos (by simpa using hw))

theorem crdv_completes {f : CA} (hk : f.imm.toNat ≤ (m.rdvD f.x.toNat).arrivals.length) (hb : agentBusy s (agentOfCore l) = false) :
    exec (.crdv f) s = .next (wakeAll (coreAfter (release s (agentOfCore l) 3) l c
      (m.setRdv f.x.toNat ((m.rdvD f.x.toNat).complete f.imm.toNat (m.getC f.a.toNat))))) := by
  rw [exec_crdv, execCrdv, coreSlot_ready h]
  exact congrArg _ (if_neg (by simpa [hb] using hk))

end Transfers

end Sys2Proof.Machine

namespace Sys2Proof.Proofs
open Sys2Proof Sys2Proof.Machine Sys2Proof.Safety

/-- Settles O25: each instruction writes what it computes (`core_writes`); a guarded shift is the shift itself, and CCMP's flags are those of a
comparison (`cmpFlags_toNat`). -/
theorem coreArithmetic : Obligations.CoreArithmetic := by
  unfold Obligations.CoreArithmetic
  intro f s l m c h a v
  refine ⟨?_, ?_⟩
  · simp only [List.forall_mem_cons, List.not_mem_nil, false_imp_iff, implies_true, and_true]
    exact ⟨core_writes h (exec_cadd f s) rfl, core_writes h (exec_csub f s) rfl, core_writes h (exec_cmul f s) rfl,
      core_writes h (exec_cand f s) rfl, core_writes h (exec_cor f s) rfl, core_writes h (exec_cxor f s) rfl,
      core_writes h (exec_cshl f s) (shiftLeft_guarded ..), core_writes h (exec_cshr f s) (shiftRight_guarded ..),
      core_writes h (exec_cmovi f s) rfl, core_writes h (exec_cmoviHi f s) (append_setWidth_eq ..)⟩
  · rw [exec_ccmp, execCcmp, coreSlot_ready h]
    dsimp only
    rw [cmpFlags_toNat]
    rfl

/-- Settles O26: a commit is `coreCommit_eq`; a stop sets the context and makes the report, which `reportCore_at_rdv` and `reportCore_at_header`
follow to its fragment. -/
theorem coreClauseEnds : Obligations.CoreClauseEnds := by
  unfold Obligations.CoreClauseEnds
  refine ⟨fun s l m c hm hc => ⟨fun hs hw => ?commits, fun ho => coreSettle_of_open hm hc ho⟩,
    fun s l m c code holder daddr hm hc hstop => ?stops,
    fun s l info gr hg => ⟨fun e p t hpark he hlen => reportCore_at_rdv info hg hpark he hlen, ?header⟩⟩
  case commits =>
    obtain ⟨t, honly, heq, qs, hreqs, haccs⟩ := coreCommit_eq hm hc c.next
    rw [coreSettle_of_done hm hc hs hw, mxD_coreCommit hm hc]
    refine ⟨rfl, rfl, fun n => rfl, rfl, rfl, ?_, ?_, ?_⟩ <;> rw [heq]
    · exact honly.mem
    · exact honly.groups
    · show t.m.reqs.map _ = _
      rw [hreqs, List.map_append, haccs]
  case stops =>
    refine ⟨{ m with
      stopped := true, run := false, clause := none
      frec := matrixRecord (c.addr + 8 * (c.slot + 1)) code c.slot holder daddr (partBids s m) },
      ?_, rfl, rfl, rfl, fun n => rfl, rfl, matrixRecord_length ..⟩
    simp [stopCore, stopCoreAt, hm, hc, hstop]
  case header =>
    rintro e rfl hpark hmc hv he hlen
    exact reportCore_at_header info hg hpark hmc hv he hlen

/-- Settles O27: the checks of an access end in one of three ways (`coreAccess_unaligned`, `coreAccess_of_fault`, `coreAccess_of_ok`), and the clause
is still open after the slot (`coreAfter_of_open`). -/
theorem coreMemory : Obligations.CoreMemory := by
  unfold Obligations.CoreMemory
  intro f s l m c h va size tr
  have hcld : exec (.cld f) s = .next _ := (exec_cld f s).trans (coreSlot_ready h _)
  have hcst : exec (.cst f) s = .next _ := (exec_cst f s).trans (coreSlot_ready h _)
  refine ⟨?unaligned, ?faults, fun s0 pa ct hal ht => ?load, fun s0 pa ct hal ht hslot => ?store⟩
  case unaligned =>
    simp only [List.forall_mem_cons, List.not_mem_nil, false_imp_iff, implies_true, and_true]
    exact ⟨fun hal => hcld.trans (congrArg _ (coreAccess_unaligned hal)), fun hal => hcst.trans (congrArg _ (coreAccess_unaligned hal))⟩
  case faults =>
    simp only [List.forall_mem_cons, List.not_mem_nil, false_imp_iff, implies_true, and_true]
    exact ⟨fun s0 cause hal ht => hcld.trans (congrArg _ (coreAccess_of_fault hal ht)),
      fun s0 cause hal ht => hcst.trans (congrArg _ (coreAccess_of_fault hal ht))⟩
  case load =>
    have honly := onlyEngine_of_translated ht
    have hafter := fun s q => coreAfter_of_open s l m (c := { c with wait := [q] }) (.inr (List.cons_ne_nil _ _))
    refine ⟨_, _, _, hcld.trans (congrArg _ ((coreAccess_of_ok hal ht).trans (hafter ..))), rfl, rfl, rfl, rfl, rfl, rfl, rfl, rfl, rfl, ?_, fun n => ?_, honly.memoryKept, honly.groups⟩ <;> rw [mxD_setMx, if_pos rfl]
    rfl
  case store =>
    have honly := onlyEngine_of_translated ht
    refine ⟨_, { c with slot := c.slot + 1, stores := c.stores ++ [{ coreAcc s0 va size pa ct with b := m.getC f.b.toNat }] }, _,
      hcst.trans (congrArg _ ((coreAccess_of_ok hal ht).trans (coreAfter_of_open _ l m (.inl hslot.ne)))), ?_, rfl, rfl, rfl, rfl, rfl, rfl, fun n => ?_, honly.memoryKept, honly.groups⟩ <;> rw [mxD_setMx, if_pos rfl]
    rfl

/-- Settles O28: every transfer is a `coreJump`, CEXIT among them, whose context then exits; CRDV completes its round or waits. -/
theorem coreTransfers : Obligations.CoreTransfers := by
  unfold Obligations.CoreTransfers
  refine ⟨fun s l m c h => ⟨fun f => ⟨?cbr, ?cloop⟩, fun f => ⟨fun hal => ?cjmp, fun hal => ?cjmpFaults, ?cexit⟩⟩,
    fun f s l m c h => ⟨crdv_waits h, fun hk hb => ⟨_, crdv_completes h hk hb, ?round, ?arrivals, ?results, fun r' hne => ?others, rfl⟩⟩⟩
  case cbr => exact coreJump_goes (coreReady_clause h) (by rw [exec_cbr, execCbr, coreSlot_ready h]; rfl)
  case cloop => exact coreJump_goes ((clause_setC ..).trans (coreReady_clause h)) (by rw [exec_cloop, execCloop, coreSlot_ready h]; rfl)
  case cjmp =>
    exact coreJump_goes (coreReady_clause h) (by rw [exec_cjmp, execCjmp, coreSlot_ready h]; exact congrArg _ (if_neg (not_not.mpr hal)))
  case cjmpFaults =>
    rw [exec_cjmp, execCjmp, coreSlot_ready h]
    exact congrArg _ (if_pos hal)
  case cexit =>
    have hmx := (coreJump_effect s l (coreReady_clause h) c.next).1
    refine ⟨_, cexit_eq h f, ?_⟩
    rw [mxD_setMx, if_pos rfl, hmx]
    have hx := rdvD_exited { m with clause := none, waitPage := none, pc := c.next, seq := m.seq + 1 } m.xr (m.getC f.a.toNat)
    obtain ⟨harr, hres⟩ := complete_all (m.rdvD m.xr) (m.getC f.a.toNat)
    exact ⟨rfl, rfl, (congrArg Rdv.arrivals hx).trans harr, (congrArg Rdv.results hx).trans hres⟩
  case others => rw [rdvD_setRdv, if_neg hne]
  case round | arrivals | results => rw [rdvD_setRdv, if_pos rfl, Rdv.complete]

end Sys2Proof.Proofs

/-! The matrix unit on the core's side: arrays and their registers, the multiply-accumulate, operands, stamps. -/

namespace Sys2Proof.AList
variable {κ α : Type} [DecidableEq κ]

/-- A table made of the values of a function, without those that a condition leaves out. -/
theorem find?_map_filter (l : List κ) (g : κ → α) (c : κ × α → Bool) (k : κ) :
    find? ((l.map fun i => (i, g i)).filter c) k = if k ∈ l ∧ c (k, g k) = true then some (g k) else none := by
  induction l with
  | nil => simp [find?]
  | cons a l ih =>
    by_cases ha : a = k
    · subst ha
      cases hc : c (a, g a) <;> simp_all [find?]
    · cases hc : c (a, g a) <;> simp_all [find?, Ne.symm ha]

theorem put_put (t : AList κ α) (k : κ) (v w : α) : (t.put k v).put k w = t.put k w := by
  induction t with
  | nil => simp [put]
  | cons p t ih =>
    obtain ⟨a, x⟩ := p
    by_cases ha : a = k <;> simp [put, ha, ih]

end Sys2Proof.AList

namespace Sys2Proof.Machine
open Sys2Proof Sys2Proof.Safety

/-! ### Arrays and their registers (R238, R239) -/

@[simp] theorem arrD_setArr (m : Mx) (c k : Nat) (a : Array8) : (m.setArr c a).arrD k = if k = c then a else m.arrD k := AList.get_put ..
@[simp] theorem maD_setMa (a : Array8) (n k : Nat) (r : MaReg) : (a.setMa n r).maD k = if k = n then r else a.maD k := AList.get_put ..
@[simp] theorem mcD_setMc (a : Array8) (n k : Nat) (r : McReg) : (a.setMc n r).mcD k = if k = n then r else a.mcD k := AList.get_put ..

theorem setMa_setMa (a : Array8) (n : Nat) (r r' : MaReg) : (a.setMa n r).setMa n r' = a.setMa n r' :=
  congrArg (fun ma => { a with ma }) (AList.put_put ..)
theorem setMc_setMc (a : Array8) (n : Nat) (r r' : McReg) : (a.setMc n r).setMc n r' = a.setMc n r' :=
  congrArg (fun mc => { a with mc }) (AList.put_put ..)

theorem bD_put (m : Mx) (n k : Nat) (x : BSlot) : ({ m with b := m.b.put n x } : Mx).bD k = if k = n then x else m.bD k := AList.get_put ..

/-- Each of some arrays is changed in turn, by its number. -/
def Mx.foldArr (m : Mx) (f : Nat → Array8 → Array8) (l : List Nat) : Mx := l.foldl (fun m k => m.setArr k (f k (m.arrD k))) m

theorem eachArr_eq_foldArr (m : Mx) (f : Array8 → Array8) : m.eachArr f = m.foldArr (fun _ => f) m.parts := rfl

theorem foldArr_only (m : Mx) (f : Nat → Array8 → Array8) (l : List Nat) : m.foldArr f l = { m with arr := (m.foldArr f l).arr } := by
  unfold Mx.foldArr
  induction l generalizing m with
  | nil => rfl
  | cons a l ih => rw [List.foldl_cons, ih]; rfl

/-- An array is changed as often as it is named. -/
theorem arrD_foldArr (m : Mx) (f : Nat → Array8 → Array8) (l : List Nat) (k : Nat) : (m.foldArr f l).arrD k = (f k)^[l.count k] (m.arrD k) := by
  unfold Mx.foldArr
  induction l generalizing m with
  | nil => rfl
  | cons a l ih =>
    rw [List.foldl_cons, ih, arrD_setArr]
    by_cases ha : k = a
    · subst ha; rw [if_pos rfl, List.count_cons_self, Function.iterate_succ_apply]
    · rw [if_neg ha, List.count_cons_of_ne (Ne.symm ha)]

theorem arrD_foldArr_of_not_mem (m : Mx) (f : Nat → Array8 → Array8) {l : List Nat} {k : Nat} (h : k ∉ l) : (m.foldArr f l).arrD k = m.arrD k := by
  rw [arrD_foldArr, List.count_eq_zero_of_not_mem h, Function.iterate_zero_apply]

/-- One change of an array is enough when a second one alters nothing, or when no array is named twice. -/
theorem arrD_foldArr_of_mem (m : Mx) {f : Nat → Array8 → Array8} {l : List Nat} {k : Nat} (h : k ∈ l)
    (hf : l.Nodup ∨ ∀ a, f k (f k a) = f k a) : (m.foldArr f l).arrD k = f k (m.arrD k) := by
  rw [arrD_foldArr]
  rcases hf with hnd | hidem
  · rw [List.count_eq_one_of_mem hnd h, Function.iterate_one]
  · obtain ⟨n, hn⟩ := Nat.exists_eq_succ_of_ne_zero (List.count_pos_iff.mpr h).ne'
    rw [hn]
    clear hn
    induction n with
    | zero => rfl
    | succ n ih => rw [Function.iterate_succ_apply', ih, hidem]

/-! ### A slot of a matrix instruction, on the settled context (R227) -/

theorem mxCoreSlot_ready {s : State} {l : Nat} {m : Mx} {c : CoreClause} (h : CoreReady s l m c) (f : Nat → Mx → CoreClause → State) :
    mxCoreSlot s f = .next (f l m.settled c) := coreSlot_ready h _

theorem allArr_iff {m : Mx} {p : Array8 → Bool} : m.allArr p = true ↔ ∀ k ∈ m.parts, p (m.arrD k) = true := List.all_eq_true
theorem anyArr_iff {m : Mx} {p : Array8 → Bool} : m.anyArr p = true ↔ ∃ k ∈ m.parts, p (m.arrD k) = true := List.any_eq_true
theorem anyArr_eq_false {m : Mx} {p : Array8 → Bool} : m.anyArr p = false ↔ ∀ k ∈ m.parts, p (m.arrD k) = false := by
  simp [Mx.anyArr]

/-! ### MZERO, MPUB and MWAIT (R241, R246, R248) -/

/-- The arrays of `m'` are those of `m` but for accumulator `n` where an array takes part; nothing else of the context differs. -/
def OnlyAccumulator (n : Nat) (m m' : Mx) : Prop :=
  (∀ k ∈ m.parts, (∀ j, j ≠ n → (m'.arrD k).mcD j = (m.arrD k).mcD j) ∧ (m'.arrD k).ma = (m.arrD k).ma ∧ (m'.arrD k).latch = (m.arrD k).latch)
    ∧ (∀ k, k ∉ m.parts → m'.arrD k = m.arrD k) ∧ m' = { m with arr := m'.arr }

/-- The accumulator `n` of each participating array, after a change of it that a second one would not alter. -/
def Mx.eachMc (m : Mx) (n : Nat) (f : McReg → McReg) : Mx := m.foldArr (fun _ a => a.setMc n (f (a.mcD n))) m.parts

theorem arrD_eachMc (m : Mx) (n : Nat) {f : McReg → McReg} (hf : ∀ r, f (f r) = f r) {k : Nat} (hk : k ∈ m.parts) :
    (m.eachMc n f).arrD k = (m.arrD k).setMc n (f ((m.arrD k).mcD n)) :=
  arrD_foldArr_of_mem m hk (.inr fun a => by rw [setMc_setMc, mcD_setMc, if_pos rfl, hf])

theorem mcD_eachMc (m : Mx) (n : Nat) {f : McReg → McReg} (hf : ∀ r, f (f r) = f r) {k : Nat} (hk : k ∈ m.parts) :
    ((m.eachMc n f).arrD k).mcD n = f ((m.arrD k).mcD n) := by
  rw [arrD_eachMc m n hf hk, mcD_setMc, if_pos rfl]

theorem onlyAccumulator_eachMc (m : Mx) (n : Nat) {f : McReg → McReg} (hf : ∀ r, f (f r) = f r) : OnlyAccumulator n m (m.eachMc n f) := by
  refine ⟨fun k hk => ?_, fun k hk => arrD_foldArr_of_not_mem m _ hk, foldArr_only m _ m.parts⟩
  rw [arrD_eachMc m n hf hk]
  exact ⟨fun j hj => by rw [mcD_setMc, if_neg hj], rfl, rfl⟩

section Publish
variable {s : State} {l : Nat} {m : Mx} {c : CoreClause} (h : CoreReady s l m c) (f : CM)
include h

/-- An accumulator that is OPEN everywhere becomes +0, in the format of the type. -/
theorem mzero_runs (hjobs : ∀ j ∈ m.settled.jobs, j.mma = true → j.mc ≠ f.mc.toNat)
    (hopen : ∀ k ∈ m.settled.parts, ((m.settled.arrD k).mcD f.mc.toNat).published = false) :
    exec (.mzero f) s = .next (coreAfter s l c (m.settled.eachMc f.mc.toNat fun _ => { wide := f.ty == some .f64 })) := by
  rw [exec_mzero, execMzero, mxCoreSlot_ready h]
  refine congrArg _ (if_neg ?_)
  have hnone : (m.settled.anyArr fun a => (a.mcD f.mc.toNat).published) = false := anyArr_eq_false.mpr hopen
  simpa [hnone] using hjobs

theorem mzero_waits (hpub : ∃ k ∈ m.settled.parts, ((m.settled.arrD k).mcD f.mc.toNat).published = true) : exec (.mzero f) s = .next s := by
  rw [exec_mzero, execMzero, mxCoreSlot_ready h]
  refine congrArg _ (if_pos ?_)
  rw [anyArr_iff.mpr hpub, Bool.true_or]

theorem mpub_eq (hjobs : ∀ j ∈ m.settled.jobs, j.mma = true → j.mc ≠ f.mc.toNat) : exec (.mpub f) s = .next
    (if m.settled.anyArr fun a => (a.mcD f.mc.toNat).published then coreFault s l 0x47 0 0
      else wakeAll (coreAfter s l c (m.settled.eachMc f.mc.toNat McReg.publish))) := by
  rw [exec_mpub, execMpub, mxCoreSlot_ready h]
  exact congrArg _ (if_neg (by simpa using hjobs))

theorem mwaitPub_runs (hopen : ∀ j, f.mask.getLsbD j = true → ∀ k ∈ m.settled.parts, ((m.settled.arrD k).mcD j).published = false) :
    exec (.mwaitPub f) s = .next (coreAfter s l c m.settled) := by
  rw [exec_mwaitPub, execMwaitPub, mxCoreSlot_ready h]
  refine congrArg _ (if_pos (List.all_eq_true.mpr fun j hj => allArr_iff.mpr fun k hk => ?_))
  rw [hopen j (List.mem_filter.mp hj).2 k hk, Bool.not_false]

theorem mwaitA_runs (hfull : ∀ j, f.mask.getLsbD j = true → ∀ k ∈ m.settled.parts, ((m.settled.arrD k).maD j).full = true) :
    exec (.mwaitA f) s = .next (coreAfter s l c m.settled) := by
  rw [exec_mwaitA, execMwaitA, mxCoreSlot_ready h]
  exact congrArg _ (if_pos (List.all_eq_true.mpr fun j hj => allArr_iff.mpr (hfull j (List.mem_filter.mp hj).2)))

end Publish

/-! ### MMA (R242) -/

/-- The accumulator of one array after an MMA from the A register `src`. -/
def mmaAcc (t : Ty) (src : MaReg) (b : BSlot) (acc : McReg) : McReg :=
  { acc with els := ((List.range (64 * mmaN t)).map fun i =>
      (i, BitVec.ofNat 64 (mmaEl t src b (mcEl acc i) (i / mmaN t) (i % mmaN t)))).filter fun p => p.2 != 0 }

theorem mcEl_mmaAcc (t : Ty) (src : MaReg) (b : BSlot) (acc : McReg) {i : Nat} (hi : i < 64 * mmaN t) :
    mcEl (mmaAcc t src b acc) i = mmaEl t src b (mcEl acc i) (i / mmaN t) (i % mmaN t) % 2 ^ 64 := by
  rw [mcEl, AList.get, mmaAcc, AList.find?_map_filter]
  split
  next => exact BitVec.toNat_ofNat ..
  next h =>
    have hzero : BitVec.ofNat 64 (mmaEl t src b (mcEl acc i) (i / mmaN t) (i % mmaN t)) = 0 := by simpa [hi] using h
    exact (congrArg BitVec.toNat hzero).symm.trans (BitVec.toNat_ofNat ..)

section Array
variable (t : Ty) (r : Bool) (mc ma : Nat) (b : BSlot) (a : Array8)

theorem mcD_mmaArray (j : Nat) : (mmaArray t r mc ma b a).mcD j = if j = mc then mmaAcc t (a.maD ma) b (a.mcD mc) else a.mcD j := by
  have hacc := mcD_setMc a mc j (mmaAcc t (a.maD ma) b (a.mcD mc))
  unfold mmaArray
  dsimp only
  split
  · exact hacc
  · split <;> exact hacc

theorem mmaArray_keeps : (mmaArray t true mc ma b a).latch = some ma ∧ (mmaArray t true mc ma b a).ma = a.ma := ⟨rfl, rfl⟩

theorem mmaArray_empties : (mmaArray t false mc ma b a).latch = none ∧ ((mmaArray t false mc ma b a).maD ma).full = false
    ∧ ∀ j, j ≠ ma → a.latch ≠ some j → (mmaArray t false mc ma b a).maD j = a.maD j := by
  unfold mmaArray
  dsimp only
  rw [if_neg Bool.false_ne_true]
  refine ⟨?_, ?_, fun j hj hl => ?_⟩
  · split <;> rfl
  · rw [maD_setMa, if_pos rfl]
  · rw [maD_setMa, if_neg hj]
    split
    next k hk => exact (maD_setMa ..).trans (if_neg fun (hjk : j = k) => hl (hjk ▸ hk))
    next => rfl

end Array

/-- Another A register than `ma` is latched. -/
def Array8.latchedOther (a : Array8) (ma : Nat) : Bool := match a.latch with | some k => k != ma | none => false

theorem latchedOther_iff {a : Array8} {ma : Nat} : a.latchedOther ma = true ↔ ∃ j, a.latch = some j ∧ j ≠ ma := by
  unfold Array8.latchedOther
  cases a.latch <;> simp

theorem latchedOther_eq_false {a : Array8} {ma : Nat} : a.latchedOther ma = false ↔ a.latch = none ∨ a.latch = some ma := by
  unfold Array8.latchedOther
  cases a.latch <;> simp

/-- The context after an MMA: the arrays, one job more, and the stamp. -/
def Mx.multiplied (m : Mx) (f : CM) (t : Ty) (wait : Nat) : Mx :=
  let m1 := m.eachArr (mmaArray t f.r f.mc.toNat f.ma.toNat (m.bD f.bs.toNat))
  { m1 with
    jobs := m1.jobs ++ [⟨true, f.mc.toNat, f.ma.toNat, f.bs.toNat, false⟩]
    stamp := { m1.stamp with nmma := m1.stamp.nmma + 1, compc := m1.stamp.compc + mmaCycles t, waitc := m1.stamp.waitc + wait } }

theorem arrD_multiplied (m : Mx) (f : CM) (t : Ty) (wait : Nat) (hnd : m.parts.Nodup) {k : Nat} (hk : k ∈ m.parts) :
    (m.multiplied f t wait).arrD k = mmaArray t f.r f.mc.toNat f.ma.toNat (m.bD f.bs.toNat) (m.arrD k) := arrD_foldArr_of_mem m hk (.inl hnd)

theorem arrD_multiplied_of_not_mem (m : Mx) (f : CM) (t : Ty) (wait : Nat) {k : Nat} (hk : k ∉ m.parts) :
    (m.multiplied f t wait).arrD k = m.arrD k := arrD_foldArr_of_not_mem m _ hk

/-- Nothing but the arrays, the jobs and the stamp differs. -/
theorem multiplied_only (m : Mx) (f : CM) (t : Ty) (wait : Nat) : m.multiplied f t wait = { m with
    arr := (m.multiplied f t wait).arr, stamp := (m.multiplied f t wait).stamp
    jobs := m.jobs ++ [⟨true, f.mc.toNat, f.ma.toNat, f.bs.toNat, false⟩] } := by
  unfold Mx.multiplied
  rw [eachArr_eq_foldArr, foldArr_only]

section Mma
variable {s : State} {l : Nat} {m : Mx} {c : CoreClause} {f : CM} {t : Ty} (h : CoreReady s l m c) (ht : f.ty = some t)
  (hjobs : ∀ j ∈ m.settled.jobs, j.mma = false) (hb : (m.settled.bD f.bs.toNat).loaded = true)
  (hready : ∀ k ∈ m.settled.parts, (((m.settled.arrD k).maD f.ma.toNat).full = true ∨ (m.settled.arrD k).latch = some f.ma.toNat)
    ∧ ((m.settled.arrD k).mcD f.mc.toNat).published = false)
include h ht hjobs hb hready

/-- A REUSE comes before a FORMAT; without either the sums are taken. -/
theorem mma_eq : exec (.mma f) s = .next (
    if f.r && m.settled.anyArr (·.latchedOther f.ma.toNat) then coreFault s l 0x42 0 0
    else if m.settled.anyArr fun a => (a.mcD f.mc.toNat).wide != (t == .f64) then coreFault s l 0x44 0 0
    else wakeAll (coreAfter (freshFree s).2 l c (m.settled.multiplied f t (Config.stampCycles (freshFree s).1).toNat))) := by
  have hidle : (m.settled.jobs.any (·.mma)) = false := by simpa using hjobs
  have hall : (m.settled.allArr fun a => arrayReady a f.mc.toNat f.ma.toNat) = true := by
    refine allArr_iff.mpr fun k hk => ?_
    obtain ⟨hsrc, hopen⟩ := hready k hk
    simpa [arrayReady, hopen] using hsrc
  rw [exec_mma, execMma, mxCoreSlot_ready h]
  dsimp only
  rw [ht, Option.getD_some, if_neg (by simp [hidle, hall, hb])]
  rfl

end Mma

/-! ### Operands (R244, R245) -/

theorem slotBusy_eq_false {m : Mx} {n : Nat} (hjobs : ∀ j ∈ m.jobs, j.bs ≠ n) : slotBusy m n = false := by
  simpa [slotBusy] using hjobs

section Operands
variable {s : State} {l : Nat} {m : Mx} {c : CoreClause} {f : CM} {b : BlockId} {x : List Byte} (h : CoreReady s l m c)
include h

/-- The scales of each array's A register come from its own block. -/
theorem mscaleA_runs {bytes : Nat → List Byte} (hjobs : ∀ j ∈ m.settled.jobs, j.mma = true → j.ma ≠ f.ma.toNat)
    (hread : ∀ k ∈ m.settled.parts, ∃ b, arrayBlock s m.settled k = some b
      ∧ tileRead s b f.th.toNat (m.settled.getC f.cb.toNat).toNat 256 = .ok (bytes k)) :
    exec (.mscaleA f) s = .next (coreAfter s l c (m.settled.foldArr
      (fun k a => a.setMa f.ma.toNat { a.maD f.ma.toNat with scales := byteMap (bytes k) }) m.settled.parts)) := by
  rw [exec_mscaleA, execMscaleA, mxCoreSlot_ready h]
  dsimp only
  rw [if_neg (by simpa using hjobs), List.map_congr_left (g := fun k => (k, CRead.ok (bytes k))) ?reads, if_neg (by simp), if_neg (by simp),
    List.foldl_map]
  case reads =>
    intro k hk
    obtain ⟨b, hb, hx⟩ := hread k hk
    rw [hb]
    exact congrArg (k, ·) hx
  rfl

theorem mscaleB_runs (hjobs : ∀ j ∈ m.settled.jobs, j.mma = true → j.bs ≠ f.bs.toNat) (hb : homeBlock m.settled = some b)
    (hx : tileRead s b f.th.toNat (m.settled.getC f.cb.toNat).toNat 512 = .ok x) : exec (.mscaleB f) s = .next (coreAfter s l c
      { m.settled with b := m.settled.b.put f.bs.toNat { m.settled.bD f.bs.toNat with scales := byteMap x } }) := by
  rw [exec_mscaleB, execMscaleB, mxCoreSlot_ready h]
  dsimp only
  rw [if_neg (by simpa using hjobs), hb]
  dsimp only
  rw [hx]
  rfl

theorem mldb_runs {t : Ty} (ht : f.ty = some t) (hjobs : ∀ j ∈ m.settled.jobs, j.bs ≠ f.bs.toNat) (hb : homeBlock m.settled = some b)
    (hx : tileRead s b f.th.toNat (m.settled.getC f.cb.toNat).toNat (imageBytes t) = .ok x) :
    exec (.mldb f) s = .next (loadSlotB s l m.settled c f.bs.toNat x false) := by
  rw [exec_mldb, execMldb, mxCoreSlot_ready h]
  dsimp only
  rw [slotBusy_eq_false hjobs, if_neg Bool.false_ne_true, hb]
  dsimp only
  rw [ht, Option.getD_some, hx]

/-- MLDB through a shape record that serves the type: the record and the rows are read, and watchpoints see both. -/
theorem mldbM_runs {t : Ty} {s1 s2 : State} {rec : List Byte} (ht : f.ty = some t) (hjobs : ∀ j ∈ m.settled.jobs, j.bs ≠ f.bs.toNat)
    (hquiet : agentBusy s (agentOfCore l) = false) (hal : (m.settled.getC f.ca.toNat).toNat % 64 = 0)
    (hrec : coreRead l (coreClu s l) (corePasid s m.settled) 64 s (m.settled.getC f.ca.toNat).toNat = (s1, .ok rec))
    (hfits : shapeFits t (parseShape rec) = true)
    (hrows : coreRows l (coreClu s l) (corePasid s m.settled) (mmaN t * t.width / 8) ((parseShape rec).ext.getD 0 0 * t.width / 8)
      ((parseShape rec).stride.getD 0 0) ((parseShape rec).ext.getD 1 0)
      (coreWatch s1 l (coreClu s l) (corePasid s m.settled) ((List.range 64).map ((m.settled.getC f.ca.toNat).toNat + ·)))
      (((parseShape rec).base + (m.settled.getC f.cb.toNat).toNat) % 2 ^ 64) = (s2, .ok x)) :
    ∃ vas, exec (.mldbM f) s = .next
      (loadSlotB (coreWatch s2 l (coreClu s l) (corePasid s m.settled) vas) l m.settled c f.bs.toNat x true) := by
  rw [exec_mldbM, execMldbM, mxCoreSlot_ready h]
  dsimp only
  rw [slotBusy_eq_false hjobs, hquiet, Bool.or_false, if_neg Bool.false_ne_true, if_neg (not_not.mpr hal), hrec]
  dsimp only
  rw [ht, Option.getD_some, hfits, Bool.not_true, if_neg Bool.false_ne_true, hrows]
  exact ⟨_, rfl⟩

end Operands

/-- What the load of a slot leaves: the slot's bytes, not yet loaded, and one job more. -/
theorem loadSlotB_effect (s : State) (l : Nat) (m : Mx) (c : CoreClause) (n : Nat) (x : List Byte) (mem : Bool) :
    ∃ m', loadSlotB s l m c n x mem = coreAfter s l c m' ∧ m'.bD n = { m.bD n with loaded := false, bytes := byteMap x }
      ∧ (∀ j, j ≠ n → m'.bD j = m.bD j) ∧ m'.jobs = m.jobs ++ [⟨false, 0, 0, n, mem⟩] ∧ m'.arr = m.arr ∧ m'.c = m.c :=
  ⟨_, rfl, (bD_put ..).trans (if_pos rfl), fun _ hj => (bD_put ..).trans (if_neg hj), rfl, rfl, rfl⟩

/-! ### MSTAMP and MDONE (R247) -/

theorem mem_reqs_coreSettle {s : State} {q : Req} (hq : q ∈ s.m.reqs) (l : Nat) : q ∈ (coreSettle s l).m.reqs := by
  unfold coreSettle
  split
  next c hc =>
    split
    · obtain ⟨t, -, he, qs, hqs, -⟩ := coreCommit_eq rfl hc c.next
      rw [he]
      show q ∈ t.m.reqs
      rw [hqs]
      exact List.mem_append_left _ hq
    · exact hq
  next => exact hq

theorem stamp_coreSettle (s : State) (l : Nat) : ((coreSettle s l).mxD l).stamp = (s.mxD l).stamp := by
  unfold coreSettle
  split
  next c hc =>
    split
    · rw [mxD_coreCommit rfl hc]
    · rfl
  next => rfl

theorem mem_reqs_coreAfter {s : State} {q : Req} (hq : q ∈ s.m.reqs) (l : Nat) (c : CoreClause) (m : Mx) : q ∈ (coreAfter s l c m).m.reqs :=
  mem_reqs_coreSettle (s := s.setMx l { m with clause := some { c with slot := c.slot + 1 }, waitPage := none }) hq l

theorem stamp_coreAfter (s : State) (l : Nat) (c : CoreClause) (m : Mx) : ((coreAfter s l c m).mxD l).stamp = m.stamp := by
  rw [coreAfter, stamp_coreSettle, mxD_setMx, if_pos rfl]

section Stamp
variable {s : State} {l : Nat} {m : Mx} {c : CoreClause} {f : CM} (h : CoreReady s l m c)
include h

theorem mstamp_runs : ∃ s' m', exec (.mstamp f) s = .next (coreAfter s' l c m') ∧ m' = { m.settled with stamp := m'.stamp }
    ∧ (f.x = 0 → m'.stamp = { m.settled.stamp with tin0 := m'.stamp.tin0 }) ∧ (f.x = 1 → m'.stamp = { m.settled.stamp with tin1 := m'.stamp.tin1 })
    ∧ (f.x = 2 → m'.stamp = { m.settled.stamp with tout0 := m'.stamp.tout0 }) := by
  refine ⟨_, _, (exec_mstamp f s).trans (mxCoreSlot_ready h _), rfl, ?_, ?_, ?_⟩ <;> intro hx <;> rw [hx] <;> rfl

/-- The record goes out as a store-release at device scope. -/
theorem mdone_runs {s1 : State} {pa : Nat} (hjobs : ∀ j ∈ m.settled.jobs, j.mma = false)
    (hgo : ∀ o, m.settled.owner = some o → slotStalls s o.slot = false) (hal : (m.settled.getC f.ca.toNat).toNat % 64 = 0)
    (ht : translateIn s true (coreClu s l) (corePasid s m.settled) (m.settled.getC f.ca.toNat).toNat { w := true } = (s1, .ok pa 0)) :
    ∃ s' q, exec (.mdone f) s = .next (coreAfter s' l c { m.settled with stamp := {} }) ∧ q ∈ s'.m.reqs ∧ q.kind = .store ∧ q.ord = 2 ∧ q.scope = 4
      ∧ q.agent = agentOfCore l ∧ (q.accs.map fun a => (a.pa, a.size)) = (List.range 8).map fun k => (pa + 8 * k, 8) := by
  have hstall : (m.settled.owner.any fun g => slotStalls s g.slot) = false := by
    cases ho : m.settled.owner with
    | none => rfl
    | some o => exact hgo o ho
  rw [exec_mdone, execMdone, mxCoreSlot_ready h]
  dsimp only
  rw [if_neg (by simpa [hstall] using hjobs), coreAccess_of_ok hal ht, if_neg (not_not.mpr rfl)]
  exact ⟨_, _, rfl, List.mem_append_right _ (List.mem_singleton_self _), rfl, rfl, rfl, rfl, List.map_map⟩

end Stamp

end Sys2Proof.Machine

namespace Sys2Proof.Proofs
open Sys2Proof Sys2Proof.Machine Sys2Proof.Safety

/-- Settles O29: MZERO and MPUB change one accumulator of each array that takes part (`onlyAccumulator_eachMc`), by a change that a second one would
not alter, so that an array named twice makes no difference. -/
theorem accumulatorsOpenAndPublish : Obligations.AccumulatorsOpenAndPublish := by
  unfold Obligations.AccumulatorsOpenAndPublish
  intro f s l m0 c h m n keeps
  have hpublish (r : McReg) : r.publish.publish = r.publish := rfl
  refine ⟨fun hjobs => ⟨fun hopen => ⟨⟨_, mzero_runs h f hjobs hopen, onlyAccumulator_eachMc m n fun _ => rfl, fun k hk => ?zeroed⟩,
    ⟨_, ?publishes, onlyAccumulator_eachMc m n hpublish, fun k hk => ?published⟩⟩, fun hpub => ⟨mzero_waits h f hpub, ?faults⟩⟩,
    mwaitPub_runs h f, mwaitA_runs h f⟩
  case zeroed =>
    have hzero := mcD_eachMc m n (f := fun _ => { wide := f.ty == some .f64 }) (fun _ => rfl) hk
    exact ⟨congrArg McReg.published hzero, congrArg McReg.wide hzero, fun e => congrArg (mcEl · e) hzero⟩
  case publishes =>
    have hnone : (m.anyArr fun a => (a.mcD n).published) = false := anyArr_eq_false.mpr hopen
    rw [mpub_eq h f hjobs, if_neg (by rw [hnone]; exact Bool.false_ne_true)]
  case published =>
    rw [mcD_eachMc m n hpublish hk]
    exact ⟨rfl, rfl, fun e => rfl⟩
  case faults => rw [mpub_eq h f hjobs, if_pos (anyArr_iff.mpr hpub)]

/-- Settles O30: `mma_eq` orders REUSE, FORMAT and the sums; an array's accumulator is `mcEl_mmaAcc`, its A register and latch `mmaArray_keeps` and
`mmaArray_empties`. -/
theorem multiplyAccumulate : Obligations.MultiplyAccumulate := by
  unfold Obligations.MultiplyAccumulate
  intro f t s l m0 c ht h m mc ma bs hnd hjobs hb hready
  rw [mma_eq h ht hjobs hb hready]
  refine ⟨fun hlatch => ?_, fun hr hother => ?reuse⟩
  case reuse =>
    have hany : m.anyArr (·.latchedOther ma) = true := anyArr_iff.mpr (hother.imp fun k ⟨hk, hl⟩ => ⟨hk, latchedOther_iff.mpr hl⟩)
    rw [if_pos (by rw [hr, hany]; rfl)]
  have hnone : (f.r && m.anyArr (·.latchedOther ma)) = false := by
    rcases hlatch with hr | hl
    · rw [hr, Bool.false_and]
    · rw [anyArr_eq_false.mpr fun k hk => latchedOther_eq_false.mpr (hl k hk), Bool.and_false]
  rw [hnone, if_neg Bool.false_ne_true]
  refine ⟨fun hwide => ⟨m.multiplied f t (Config.stampCycles (freshFree s).1).toNat, ?runs, fun k hk => ?sums,
    fun k => arrD_multiplied_of_not_mem m f t _, ?_⟩, fun ⟨k, hk, hne⟩ => ?format⟩
  case format =>
    have hany : (m.anyArr fun a => (a.mcD mc).wide != (t == .f64)) = true := anyArr_iff.mpr ⟨k, hk, by simpa using hne⟩
    rw [if_pos hany]
  case runs =>
    have hfmt : (m.anyArr fun a => (a.mcD mc).wide != (t == .f64)) = false := anyArr_eq_false.mpr fun k hk => by simpa using hwide k hk
    rw [hfmt, if_neg Bool.false_ne_true]
  case sums =>
    rw [arrD_multiplied m f t _ hnd hk]
    have hacc := mcD_mmaArray t f.r mc ma (m.bD bs) (m.arrD k)
    rw [hacc, if_pos rfl]
    refine ⟨fun i hi => mcEl_mmaAcc t _ _ _ hi, (hready k hk).2, rfl, fun j hj => by rw [hacc, if_neg hj], fun hr => ?_, fun hr => ?_⟩ <;> rw [hr]
    · exact mmaArray_keeps ..
    · exact mmaArray_empties ..
  rw [multiplied_only]
  exact ⟨rfl, rfl, rfl⟩

/-- Settles O31, one lemma an instruction; a slot that loads is `loadSlotB_effect`, and the record of MDONE outlives a commit of the clause in the
same slot (`mem_reqs_coreAfter`). -/
theorem matrixOperandsLoad : Obligations.MatrixOperandsLoad := by
  unfold Obligations.MatrixOperandsLoad
  intro f s l m0 c h m bs ma base loads
  refine ⟨fun bytes hjobs hread => ⟨_, mscaleA_runs h hjobs hread, fun k hk => ?scalesA, fun k hk => arrD_foldArr_of_not_mem m _ hk,
      foldArr_only m _ m.parts⟩,
    fun b x hjobs hb hx => ⟨_, mscaleB_runs h hjobs hb hx, (bD_put ..).trans (if_pos rfl), fun j hj => (bD_put ..).trans (if_neg hj), rfl⟩,
    fun b x t ht hjobs hb hx => ?mldb, ?mldbM, mstamp_runs h, ?mdone⟩
  case scalesA =>
    rw [arrD_foldArr_of_mem m hk (.inr fun a => by rw [setMa_setMa, maD_setMa, if_pos rfl])]
    exact ⟨by rw [maD_setMa, if_pos rfl], fun j hj => by rw [maD_setMa, if_neg hj], rfl⟩
  case mldb =>
    have himage : imageBytes t = if t = .f64 then 4096 else 8192 := rfl
    obtain ⟨m', he, hm'⟩ := loadSlotB_effect s l m c bs x false
    exact ⟨s, m', by rw [mldb_runs h ht hjobs hb (himage ▸ hx), he], hm'⟩
  case mldbM =>
    intro t s1 rec s2 x ht hjobs hquiet ca sh hal hrec hfits hrows
    obtain ⟨vas, hexec⟩ := mldbM_runs h ht hjobs hquiet hal hrec hfits hrows
    obtain ⟨m', he, hm'⟩ := loadSlotB_effect (coreWatch s2 l (coreClu s l) (corePasid s m) vas) l m c bs x true
    exact ⟨_, m', by rw [hexec, he], hm'⟩
  case mdone =>
    intro s1 pa va hjobs hgo hal ht
    obtain ⟨s', q, hexec, hq, hkind, hord, hscope, hagent, haccs⟩ := mdone_runs h hjobs hgo hal ht
    exact ⟨_, q, hexec, mem_reqs_coreAfter hq .., hkind, hord, hscope, hagent, haccs, stamp_coreAfter ..⟩

end Sys2Proof.Proofs

/-! The matrix unit on the groups' side: FORK and MFEED. -/

namespace Sys2Proof.AList
variable {κ α : Type} [DecidableEq κ]

/-- Entries put one after another, where those of a key agree. -/
theorem get_foldl_put (l : List (κ × α)) (t : AList κ α) {k : κ} {v : α} (d : α) (hv : ∀ p ∈ l, p.1 = k → p.2 = v) :
    (l.foldl (fun t p => AList.put t p.1 p.2) t).get k d = if k ∈ l.map (·.1) then v else t.get k d := by
  induction l generalizing t with
  | nil => rfl
  | cons p l ih =>
    obtain ⟨hp, hv⟩ := List.forall_mem_cons.mp hv
    rw [List.foldl_cons, ih _ hv, get_put]
    by_cases hk : k = p.1
    · simp [hk, ← hp hk.symm]
    · simp only [List.map_cons, List.mem_cons, hk, false_or, if_false]

/-- A table of the values of a function below a bound. -/
theorem get_map_range (n k : Nat) (g : Nat → α) (d : α) : get ((List.range n).map fun i => (i, g i)) k d = if k < n then g k else d := by
  have hfind := find?_map_filter (List.range n) g (fun _ => true) k
  rw [List.filter_true] at hfind
  rw [get, hfind]
  by_cases hk : k < n <;> simp [hk]

end Sys2Proof.AList

namespace Sys2Proof.Machine
open Sys2Proof Sys2Proof.Safety

/-! ### FORK (R228, R249) -/

theorem mxD_matrixSync (s : State) (g e : Nat) (gr : Group) (kind obj l : Nat) : (matrixSync s g e gr kind obj).mxD l = s.mxD l := by
  obtain ⟨d, z, h⟩ := syncRec_only s gr.block.gang.slot (clusterSrc s gr.block.gang) kind g e obj 0
  rw [matrixSync, h]
  rfl

/-- The arguments of a FORK: s0 to s7. -/
def forkArgs (gr : Group) : List Acc := (List.range 8).map fun k => mkAcc 96 k 8 (gr.regs.getS k) 0

/-- The context whose core a FORK starts. -/
def Mx.forked (m : Mx) (g e : Nat) (gr : Group) (p : POp) (f : FS) : Mx := { m with
  home := gr.block.bid, forker := (g, e), forkSeq := p.seq, c := (forkArgs gr).map fun a => (a.va, a.b)
  fz := false, fn := false, fc := false, fv := false
  pc := p.a.toNat, run := true, stopped := false, xr := f.imm.toNat, exitVal := none, clause := none
  rdv := [], frec := [], waitPage := none }

theorem getC_forked (m : Mx) (g e : Nat) (gr : Group) (p : POp) (f : FS) (k : Nat) :
    (m.forked g e gr p f).getC k = if k < 8 then gr.regs.getS k else 0 := by
  have hc : (m.forked g e gr p f).c = (List.range 8).map fun k => (k, gr.regs.getS k) := List.map_map
  rw [Mx.getC, hc, AList.get_map_range]
  split
  · rw [if_neg (by omega)]
  · rfl

theorem mxD_releaseMx (s : State) (l : Nat) : (releaseMx s l).mxD l = {} := (mxD_setMx ..).trans (if_pos rfl)

/-- Another gang's context. -/
def Mx.foreign (m : Mx) (gr : Group) : Bool := m.owner.isSome && m.owner != some gr.block.gang

/-- A FORK whose release is done, once an idle context of another gang has been released for it. -/
def forkOn (s : State) (l g e : Nat) (gr : Group) (p : POp) (f : FS) : Ran :=
  if (s.mxD l).foreign gr || !matrixMay s g e gr 4 then .park s 3 (.op { p with accs := forkArgs gr, phase := 1 })
  else
    let m := if (s.mxD l).owner.isNone then freshMx gr.block.gang (gangArrays s gr.block.gang) else s.mxD l
    if m.run then .late (s.setMx l m) (lateInfo p .matrix 0 0x41) else .done (matrixSync (s.setMx l (m.forked g e gr p f)) g e gr 4 f.imm.toNat)

/-- What a FORK that starts leaves of a context: the core runs from O with s0 to s7 in c0 to c7, and what the arrays and slots hold stays. -/
def ForkStarts (o : Ran) (l : Nat) (gr : Group) (p : POp) (f : FS) (old : Mx) : Prop :=
  ∃ t, o = .done t ∧ (t.mxD l).run = true ∧ (t.mxD l).stopped = false
    ∧ (t.mxD l).owner = some gr.block.gang ∧ (t.mxD l).pc = p.a.toNat ∧ (t.mxD l).home = gr.block.bid ∧ (t.mxD l).xr = f.imm.toNat
    ∧ (∀ k, k < 8 → (t.mxD l).getC k = gr.regs.getS k) ∧ (∀ k, 8 ≤ k → (t.mxD l).getC k = 0) ∧ (t.mxD l).cc = {}
    ∧ (t.mxD l).rdv = [] ∧ (t.mxD l).exitVal = none ∧ (t.mxD l).frec = [] ∧ (t.mxD l).arr = old.arr ∧ (t.mxD l).b = old.b

section ForkOn
variable {s : State} {l g e : Nat} {gr : Group} {p : POp} {f : FS}

theorem starts_forked {m : Mx} (howner : m.owner = some gr.block.gang) :
    ForkStarts (.done (matrixSync (s.setMx l (m.forked g e gr p f)) g e gr 4 f.imm.toNat)) l gr p f m := by
  have hmx : (matrixSync (s.setMx l (m.forked g e gr p f)) g e gr 4 f.imm.toNat).mxD l = m.forked g e gr p f := by
    rw [mxD_matrixSync, mxD_setMx, if_pos rfl]
  refine ⟨_, rfl, ?_⟩
  rw [hmx]
  refine ⟨rfl, rfl, howner, rfl, rfl, rfl, fun k hk => ?_, fun k hk => ?_, rfl, rfl, rfl, rfl, rfl, rfl⟩ <;> rw [getC_forked]
  · rw [if_pos hk]
  · rw [if_neg (by omega)]

theorem foreign_of_own {m : Mx} (howner : m.owner = some gr.block.gang) : m.foreign gr = false := by simp [Mx.foreign, howner]
theorem foreign_of_free {m : Mx} (howner : m.owner = none) : m.foreign gr = false := by simp [Mx.foreign, howner]
theorem foreign_of_other {m : Mx} {o : GId} (howner : m.owner = some o) (hne : o ≠ gr.block.gang) : m.foreign gr = true := by
  simp [Mx.foreign, howner, hne]

/-- The gang's own context starts once its core has ended. -/
theorem forkOn_of_ended (hmay : matrixMay s g e gr 4 = true) (howner : (s.mxD l).owner = some gr.block.gang) (hrun : (s.mxD l).run = false) :
    forkOn s l g e gr p f = .done (matrixSync (s.setMx l ((s.mxD l).forked g e gr p f)) g e gr 4 f.imm.toNat) := by
  simp only [forkOn, foreign_of_own howner, hmay, howner, hrun, Bool.not_true, Bool.or_self, Bool.false_eq_true, if_false, Option.isNone_some]

/-- A core that runs is BUSY. -/
theorem forkOn_of_running (hmay : matrixMay s g e gr 4 = true) (howner : (s.mxD l).owner = some gr.block.gang) (hrun : (s.mxD l).run = true) :
    forkOn s l g e gr p f = .late (s.setMx l (s.mxD l)) (lateInfo p .matrix 0 0x41) := by
  simp only [forkOn, foreign_of_own howner, hmay, howner, hrun, Bool.not_true, Bool.or_self, Bool.false_eq_true, if_false, if_true,
    Option.isNone_some]

/-- A free context is bound to the gang, and starts. -/
theorem forkOn_of_free (hmay : matrixMay s g e gr 4 = true) (howner : (s.mxD l).owner = none) : forkOn s l g e gr p f
    = .done (matrixSync (s.setMx l ((freshMx gr.block.gang (gangArrays s gr.block.gang)).forked g e gr p f)) g e gr 4 f.imm.toNat) := by
  simp only [forkOn, foreign_of_free howner, hmay, howner, Bool.not_true, Bool.or_self, Bool.false_eq_true, if_false, Option.isNone_none, if_true]
  rfl

theorem forkOn_of_foreign (hf : (s.mxD l).foreign gr = true) :
    forkOn s l g e gr p f = .park s 3 (.op { p with accs := forkArgs gr, phase := 1 }) := by
  simp only [forkOn, hf, Bool.true_or, if_true]

theorem runOp_fork (hg : s.group? g = some gr) (hi : p.instr = .fork f) (hphase : p.phase = 0) (haccs : p.accs = []) (hbusy : agentBusy s g = false)
    (htiles : tilesOwed s g = false) : runOp s g e p =
      forkOn (if (s.mxD (mxOf s gr)).foreign gr && (s.mxD (mxOf s gr)).idle && !agentBusy s (agentOfCore (mxOf s gr)) then
        releaseMx (release s g 3) (mxOf s gr) else release s g 3) (mxOf s gr) g e gr p f := by
  have hop : runOp s g e p = runFork s g e gr p f := by simp only [runOp, hg, hi]
  rw [hop, runFork]
  dsimp only
  rw [if_pos haccs]
  exact (withRelease_below_fabric (scope := 3) (p := { p with accs := forkArgs gr }) (by decide) hphase hbusy htiles).trans rfl

end ForkOn

/-! ### MFEED (R251) -/

section Mfeed
variable {s : State} {g e : Nat} {gr : Group} {p : POp} {f : F3}

/-- What an MFEED makes of the register it feeds. -/
def MaReg.fed (r : MaReg) (gr : Group) (p : POp) (f : F3) : MaReg :=
  feedWords r (f.x.getLsbD 0) (f.x.getLsbD 1) p.b.toNat (f.c.field - 384) p.mask fun j => gr.regs.getV (f.a.field + j)

theorem runOp_mfeed (hg : s.group? g = some gr) (hi : p.instr = .mfeed f) (hw : (s.mxD (mxOf s gr)).watched = none) (hok : mxFault s gr = none)
    (hempty : maEmpty s gr f.d.toNat = true) (hmay : matrixMay s g e gr 1 = true) : runOp s g e p =
      .done (matrixSync (updArr s (mxOf s gr) (arrayOf gr) fun a => a.setMa f.d.toNat ((a.maD f.d.toNat).fed gr p f))
        g e gr 1 f.d.toNat) := by
  have hmeet : meetCore s g e gr = s := by simp only [meetCore, hw]
  simp only [runOp, hg, hi, hmeet, runMfeed, hok, hempty, hmay, Bool.not_true, Bool.or_self, Bool.false_eq_true, if_false,
    MaReg.fed]

/-- The words that MFEED writes, each with its number: lane `i` of register `j` is word 16 × row0 + 96 × j + i. -/
def fedWords (row0 n : Nat) (mask : Mask) (v : Nat → VReg) : List (Nat × BitVec 32) :=
  (List.range n).flatMap fun j => (lanesOf mask).filterMap fun i =>
    if 16 * row0 + 96 * j + i < 1024 then some (16 * row0 + 96 * j + i, lane (v j) i) else none

theorem mem_lanesOf {m : Mask} {i : Nat} : i ∈ lanesOf m ↔ i < 96 ∧ m.getLsbD i = true := by simp [lanesOf]

theorem mem_fedWords {row0 n : Nat} {mask : Mask} {v : Nat → VReg} {w : Nat} {x : BitVec 32} (hw : w < 1024) :
    (w, x) ∈ fedWords row0 n mask v ↔ (16 * row0 ≤ w ∧ (w - 16 * row0) / 96 < n ∧ mask.getLsbD ((w - 16 * row0) % 96) = true)
      ∧ x = lane (v ((w - 16 * row0) / 96)) ((w - 16 * row0) % 96) := by
  simp only [fedWords, List.mem_flatMap, List.mem_range, List.mem_filterMap, mem_lanesOf, Option.ite_none_right_eq_some, Option.some.injEq,
    Prod.mk.injEq]
  constructor
  · rintro ⟨j, hj, i, ⟨hi, hbit⟩, -, rfl, rfl⟩
    have hdiv : (16 * row0 + 96 * j + i - 16 * row0) / 96 = j := by omega
    have hmod : (16 * row0 + 96 * j + i - 16 * row0) % 96 = i := by omega
    rw [hdiv, hmod]
    exact ⟨⟨by omega, hj, hbit⟩, rfl⟩
  · rintro ⟨⟨hrow, hj, hbit⟩, rfl⟩
    exact ⟨_, hj, _, ⟨Nat.mod_lt _ (by decide), hbit⟩, by omega, by omega, rfl⟩

theorem words_feedWords (r : MaReg) (zero fin : Bool) {row0 n : Nat} {mask : Mask} {v : Nat → VReg} {w : Nat} (hw : w < 1024) :
    (feedWords r zero fin row0 n mask v).words.get w 0 =
      if 16 * row0 ≤ w ∧ (w - 16 * row0) / 96 < n ∧ mask.getLsbD ((w - 16 * row0) % 96) = true then
        lane (v ((w - 16 * row0) / 96)) ((w - 16 * row0) % 96)
      else if zero then 0 else r.words.get w 0 := by
  have hput := AList.get_foldl_put (fedWords row0 n mask v) (if zero then [] else r.words) (k := w)
    (v := lane (v ((w - 16 * row0) / 96)) ((w - 16 * row0) % 96)) 0 fun ⟨_, x⟩ hp he => by
      subst he
      exact ((mem_fedWords hw).mp hp).2
  have hkey : w ∈ (fedWords row0 n mask v).map (·.1)
      ↔ 16 * row0 ≤ w ∧ (w - 16 * row0) / 96 < n ∧ mask.getLsbD ((w - 16 * row0) % 96) = true := by
    simp [mem_fedWords hw]
  rw [if_congr hkey rfl rfl] at hput
  refine hput.trans ?_
  cases zero <;> rfl

end Mfeed

end Sys2Proof.Machine

namespace Sys2Proof.Proofs
open Sys2Proof Sys2Proof.Machine Sys2Proof.Safety

/-- Settles O34: once its release is done (`runOp_fork`), FORK meets a context that is its gang's, free, or foreign (`forkOn_of_ended`,
`forkOn_of_running`, `forkOn_of_free`, `forkOn_of_foreign`); the words that MFEED writes are distinct (`mem_fedWords`). -/
theorem forkAndFeed : Obligations.ForkAndFeed := by
  unfold Obligations.ForkAndFeed
  refine ⟨fun s g gr e p f hg hi hphase haccs hbusy htiles hmay => ?fork, fun s g gr e p f hg hi hw hok hempty hmay => ?feed⟩
  case fork =>
    intro l m0 starts
    have hop := runOp_fork hg hi hphase haccs hbusy htiles (e := e)
    have hstarts : starts = ForkStarts (runOp s g e p) l gr p f := rfl
    rw [hstarts, hop]
    refine ⟨fun howner hrun => ?own, fun howner => ?free, fun howner hrun => ?running, fun o howner hne =>
      ⟨fun hheld => ?held, fun hidle hquiet hmay' => ?idle⟩⟩
    case own =>
      rw [foreign_of_own howner, Bool.false_and, Bool.false_and, if_neg Bool.false_ne_true, forkOn_of_ended hmay howner hrun]
      exact starts_forked howner
    case free =>
      rw [foreign_of_free howner, Bool.false_and, Bool.false_and, if_neg Bool.false_ne_true, forkOn_of_free hmay howner]
      exact starts_forked rfl
    case running =>
      rw [foreign_of_own howner, Bool.false_and, Bool.false_and, if_neg Bool.false_ne_true, forkOn_of_running hmay howner hrun]
      exact ⟨_, _, rfl, rfl, rfl⟩
    case held =>
      have hkept : ((s.mxD l).foreign gr && (s.mxD l).idle && !agentBusy s (agentOfCore l)) = false := by
        rcases hheld with h | h
        · rw [h, Bool.and_false, Bool.false_and]
        · rw [h, Bool.not_true, Bool.and_false]
      rw [hkept, if_neg Bool.false_ne_true]
      exact ⟨_, _, forkOn_of_foreign (foreign_of_other howner hne)⟩
    case idle =>
      have hgone : ((s.mxD l).foreign gr && (s.mxD l).idle && !agentBusy s (agentOfCore l)) = true := by
        rw [foreign_of_other howner hne, hidle, hquiet]; rfl
      rw [hgone, if_pos rfl, forkOn_of_free hmay' (by rw [mxD_releaseMx])]
      exact starts_forked rfl
  case feed =>
    intro l a old row
    rw [runOp_mfeed hg hi hw hok hempty hmay]
    refine ⟨_, a.setMa f.d.toNat (old.fed gr p f), rfl, ?fedArray, ?_⟩
    case fedArray => rw [mxD_matrixSync, updArr, mxD_setMx, if_pos rfl, arrD_setArr, if_pos rfl]
    rw [maD_setMa, if_pos rfl]
    exact ⟨rfl, fun w hlt => words_feedWords old _ _ hlt, fun k hk => by rw [maD_setMa, if_neg hk], rfl, rfl⟩

end Sys2Proof.Proofs
